-- ==== Sys2Proof/Word.lean ====
section
/-! DEFINITION. The word types of the module and their plainest arithmetic. Multi-byte values are little-endian (R82, R88). -/

namespace Sys2Proof

abbrev Byte := BitVec 8
abbrev W16 := BitVec 16
abbrev W32 := BitVec 32
abbrev W64 := BitVec 64

/-- The field [hi:lo] of a number, bit 0 least significant (R11). -/
def bitsOf (v hi lo : Nat) : Nat := (v / 2 ^ lo) % 2 ^ (hi + 1 - lo)

/-- A number with its field [hi:lo] replaced by `x` (taken modulo the field). -/
def setBits (v hi lo x : Nat) : Nat :=
  let w := 2 ^ (hi + 1 - lo)
  v % 2 ^ lo + (x % w) * 2 ^ lo + v / 2 ^ (hi + 1) * 2 ^ (hi + 1)

/-- Bit `i` of a number. -/
def bitAt (v i : Nat) : Bool := v / 2 ^ i % 2 == 1

/-- A Boolean as a number, 1 or 0. -/
def b2n (b : Bool) : Nat := if b then 1 else 0

/-- `n` little-endian bytes of a number. -/
def leBytes : Nat → Nat → List Byte
  | 0, _ => []
  | n + 1, v => BitVec.ofNat 8 v :: leBytes n (v / 256)

/-- The number that little-endian bytes hold. -/
def leNat : List Byte → Nat
  | [] => 0
  | b :: bs => b.toNat + 256 * leNat bs

/-- `n` big-endian bytes of a number. -/
def beBytes (n v : Nat) : List Byte := (leBytes n v).reverse

/-- Bytes `at .. at+n-1` of a byte list, read little-endian; a byte past the end reads as 0. -/
def leField (bs : List Byte) (pos n : Nat) : Nat := leNat ((bs.drop pos).take n)

/-- Ceiling division. -/
def cdiv (a b : Nat) : Nat := (a + b - 1) / b

/-- `a` is later than `b` in serial arithmetic modulo 2^k (R61). -/
def serialLater (k a b : Nat) : Bool :=
  let d := (a + 2 ^ k - b % 2 ^ k) % 2 ^ k
  decide (1 ≤ d) && decide (d ≤ 2 ^ (k - 1) - 1)

/-- Serial difference a − b modulo 2^k. -/
def serialDiff (k a b : Nat) : Nat := (a + 2 ^ k - b % 2 ^ k) % 2 ^ k

end Sys2Proof
end

