-- ==== Sys2Proof/Config.lean ====
section
/-! DEFINITION. What an implementation fixes, and the free values: constants with no body, so that no proof can see a value
that the spec leaves open. Where one stands for a published function (SHA-512, ECDSA, AES-GCM, HKDF) the spec names the
function and gives no values of it, so a statement holds for every function of that type. -/

namespace Sys2Proof.Config

/-! ### Free values -/

/-- The n-th free 64-bit value: a value the spec leaves open (log 3). -/
opaque freeW64 : Nat → W64

/-- The n-th free 32-bit value (log 3). -/
opaque freeW32 : Nat → W32

/-- A free choice between two allowed behaviours (log 3). -/
opaque freeBool : Nat → Bool

/-- Free bytes: the first argument is the draw, the second how many (log 3). -/
opaque freeBytes : Nat → Nat → List Byte

/-- The 16-bit stochastic draw number `n` of the generator with the given state (R140: the sequence is not published). -/
opaque draw : W64 → Nat → W16

/-- Draw number `n` of a taster's generator with the given seed (R234: the sequence is not published). -/
opaque tasterDraw : W64 → Nat → W32

/-! ### Functions whose values the spec does not give -/

/-- The vector unit's exp, log, tanh and reciprocal square root of an FP32 value (R108, R139: no accuracy is stated; log 21). -/
opaque vuExp : W32 → W32
opaque vuLog : W32 → W32
opaque vuTanh : W32 → W32
opaque vuRsqrt : W32 → W32

/-- Which of the two FP32 neighbours of the exact value the hive's 1/√A, 2^A and log₂ A take (R410: a fixed function within one unit in the
last place; log 22). -/
opaque hiveRsqrtUp : W32 → Bool
opaque hiveExp2Up : W32 → Bool
opaque hiveLog2Up : W32 → Bool

/-! ### Cryptographic functions (R482 to R485, R552, R556 to R560, R564, R570, R572) -/

opaque sha512 : List Byte → List Byte
opaque ecdsaVerify : List Byte → List Byte → List Byte → Bool     -- public key, message, signature
opaque identitySign : Nat → List Byte → List Byte                 -- generation, message
opaque identityPub : Nat → List Byte                              -- the public key of a generation
opaque identityChain : Nat → List Byte                            -- the certificate chain of a generation
opaque chainVerifies : List Byte → Bool                           -- R557
opaque chainKey : List Byte → List Byte                           -- the identity key a chain carries
opaque ephPub : Nat → List Byte                                   -- an ephemeral public key, by draw
opaque ecdhX : Nat → List Byte → List Byte                        -- own ephemeral draw, peer public key
opaque hkdfExtract : List Byte → List Byte → List Byte            -- salt, input keying material
opaque hkdfExpand : List Byte → List Byte → Nat → List Byte       -- prk, info, length
opaque hmacSha512 : List Byte → List Byte → List Byte             -- key, message
opaque gcmStream : List Byte → List Byte → Nat → Byte             -- key, nonce, place: the AES-256-GCM key stream
opaque gcmTagOf : List Byte → List Byte → List Byte → List Byte → List Byte   -- key, nonce, additional, sealed body: the GCM tag

/-! ### What the factory fixed (R555, R553, R574) -/

opaque serial : W64
opaque hpMac : BitVec 48
opaque flMac : BitVec 48
opaque factorySlotA : List Byte
opaque factorySlotB : List Byte
opaque fusedSigner : Nat → List Byte                              -- fused digest of firmware-signing key 0 to 3
opaque bootCount : W32                                            -- cold starts since manufacture, before this one

/-- The order code: true for EL64-4T, false for EL64-2T (R1, R2). -/
opaque is4T : Bool


/-! ### Numbers of the Laniel (R5, R7, R79) -/

def nCores : Nat := 96
def nEngines : Nat := 384
def nPorts : Nat := 16
def nHives : Nat := 16
def nGroups : Nat := 4096
def coreStoreBytes : Nat := 0x1800000
def moduleStoreBytes : Nat := 0x20000000
def fastTierBytes : Nat := 0x10000000

/-- MAIN_GIB of R79: 4,096 on an EL64-4T and 2,048 on an EL64-2T (R2). -/
def mainGib : Nat := if is4T then 4096 else 2048

/-- Bytes of main memory. -/
def mainBytes : Nat := mainGib * 2 ^ 30

end Sys2Proof.Config
end

