-- ==== Sys2Proof/Machine/Numerics.lean ====
section
/-! DEFINITION. The eight number formats, exact values, rounding and the conversion of R131 (chapter 4), the band accumulator
format of R192, and FP32 arithmetic. Values are exact dyadic numbers; nothing is rounded except where a rule rounds. -/

namespace Sys2Proof.Machine

/-- A number as the formats hold it: NaN, an infinity, or (−1)^neg · m · 2^e. -/
inductive Num where
  | nan
  | inf (neg : Bool)
  | fin (neg : Bool) (m : Nat) (e : Int)
  deriving DecidableEq, Repr, Inhabited

def Num.zero : Num := .fin false 0 0

def Num.isFinite : Num → Bool
  | .fin _ _ _ => true
  | _ => false

def Num.isNaN : Num → Bool
  | .nan => true
  | _ => false

def Num.isZero : Num → Bool
  | .fin _ 0 _ => true
  | _ => false

def Num.isNeg : Num → Bool
  | .nan => false
  | .inf n => n
  | .fin n _ _ => n

/-! ### Formats (R120, R121) -/

/-- Element width in bits. -/
def fmtBits : Nat → Nat
  | 0 => 32
  | 1 => 16
  | 2 => 16
  | 3 => 8
  | 4 => 8
  | 5 => 6
  | 6 => 4
  | _ => 8

/-- Exponent bits, fraction bits and bias of a floating-point format. -/
def fmtShape : Nat → Nat × Nat × Int
  | 0 => (8, 23, 127)
  | 1 => (8, 7, 127)
  | 2 => (5, 10, 15)
  | 3 => (4, 3, 7)
  | 4 => (5, 2, 15)
  | 5 => (3, 2, 3)
  | 6 => (2, 1, 1)
  | _ => (0, 0, 0)

/-- The format class of R101: 1, 2 or 4 products per cell. -/
def fmtMult : Nat → Nat
  | 0 => 1
  | 1 => 1
  | 2 => 1
  | 6 => 4
  | _ => 2

/-- The largest finite magnitude of a format as m · 2^e (R121; INT8: 127). -/
def fmtMax : Nat → Nat × Int
  | 0 => (2 ^ 24 - 1, 104)
  | 1 => (2 ^ 8 - 1, 120)
  | 2 => (2 ^ 11 - 1, 5)
  | 3 => (7, 6)
  | 4 => (7, 13)
  | 5 => (7, 2)
  | 6 => (3, 1)
  | _ => (127, 0)

/-- The value of an element's bits (R121). -/
def decodeElem (fmt bits : Nat) : Num :=
  if fmt = 7 then
    if bits % 256 < 128 then .fin false (bits % 256) 0 else .fin true (256 - bits % 256) 0
  else
    let (ew, fw, bias) := fmtShape fmt
    let frac := bits % 2 ^ fw
    let ex := bits / 2 ^ fw % 2 ^ ew
    let neg := bitAt bits (ew + fw)
    if ex = 2 ^ ew - 1 && (fmt ≤ 2 || fmt = 4) then
      if frac = 0 then .inf neg else .nan
    else if fmt = 3 && ex = 15 && frac = 7 then .nan
    else if ex = 0 then .fin neg frac (1 - bias - fw)
    else .fin neg (2 ^ fw + frac) (ex - bias - fw)

/-- A number times 2^k. -/
def Num.scale (k : Int) : Num → Num
  | .fin n m e => .fin n m (e + k)
  | x => x

/-- The value of an element under a tensor scale and a block scale (R126). -/
def elemValue (fmt s b bits : Nat) : Num :=
  if s = 255 || b = 255 then .nan
  else (decodeElem fmt bits).scale ((s : Int) - 127 + ((b : Int) - 127))

/-! ### Exact arithmetic (R124) -/

/-- Two magnitudes at one exponent. -/
def alignMag (m1 : Nat) (e1 : Int) (m2 : Nat) (e2 : Int) : Nat × Nat × Int :=
  if e1 ≤ e2 then (m1, m2 * 2 ^ (e2 - e1).toNat, e1) else (m1 * 2 ^ (e1 - e2).toNat, m2, e2)

/-- m1 · 2^e1 ≤ m2 · 2^e2. -/
def magLe (m1 : Nat) (e1 : Int) (m2 : Nat) (e2 : Int) : Bool :=
  let (a, b, _) := alignMag m1 e1 m2 e2
  decide (a ≤ b)

/-- Exact sum, with the zero signs of round to nearest (R191). -/
def Num.add : Num → Num → Num
  | .nan, _ => .nan
  | _, .nan => .nan
  | .inf a, .inf b => if a = b then .inf a else .nan
  | .inf a, _ => .inf a
  | _, .inf b => .inf b
  | .fin n1 m1 e1, .fin n2 m2 e2 =>
    let (a, b, e) := alignMag m1 e1 m2 e2
    if n1 = n2 then .fin n1 (a + b) e
    else if a = b then .fin false 0 0
    else if b < a then .fin n1 (a - b) e
    else .fin n2 (b - a) e

/-- Exact product. -/
def Num.mul : Num → Num → Num
  | .nan, _ => .nan
  | _, .nan => .nan
  | .inf a, .inf b => .inf (a != b)
  | .inf a, .fin b m _ => if m = 0 then .nan else .inf (a != b)
  | .fin a m _, .inf b => if m = 0 then .nan else .inf (a != b)
  | .fin a m1 e1, .fin b m2 e2 => .fin (a != b) (m1 * m2) (e1 + e2)

def Num.neg : Num → Num
  | .nan => .nan
  | .inf n => .inf (!n)
  | .fin n m e => .fin (!n) m e

def Num.abs : Num → Num
  | .nan => .nan
  | .inf _ => .inf false
  | .fin _ m e => .fin false m e

def Num.sub (a b : Num) : Num := a.add b.neg

/-- a < b for numbers that are not NaN, with −0 equal to +0 (R122). -/
def Num.lt (a b : Num) : Bool :=
  match a, b with
  | .nan, _ => false
  | _, .nan => false
  | .inf x, .inf y => x && !y
  | .inf x, _ => x
  | _, .inf y => !y
  | .fin n1 m1 e1, .fin n2 m2 e2 =>
    let (p, q, _) := alignMag m1 e1 m2 e2
    match n1, n2 with
    | false, false => decide (p < q)
    | true, true => decide (q < p)
    | true, false => decide (0 < p || 0 < q)
    | false, true => false

/-- Sum of a list, in order, from +0 when empty. -/
def sumNum : List Num → Num
  | [] => .zero
  | x :: xs => xs.foldl Num.add x

/-! ### Rounding (R137, R138) -/

/-- The exponent of the leading bit of m · 2^e, m ≠ 0. -/
def leadExp (m : Nat) (e : Int) : Int := (Nat.log2 m : Int) + e

/-- Round a magnitude to a multiple of 2^q: mode 0 nearest even, 1 stochastic with draw `r`, 2 toward zero. -/
def roundMag (mode r m : Nat) (e q : Int) : Nat × Int :=
  if q ≤ e then (m, e)
  else
    let w := 2 ^ (q - e).toNat
    let hi := m / w
    let rem := m % w
    let up : Bool :=
      if mode = 0 then decide (w < 2 * rem) || (decide (2 * rem = w) && decide (hi % 2 = 1))
      else if mode = 1 then decide (r < rem * 65536 / w)
      else false
    (if up then hi + 1 else hi, q)

/-- Round to `fw` fraction bits with smallest normal exponent `emin`, exponents unbounded above. -/
def roundFloat (fw : Nat) (emin : Int) (mode r : Nat) : Num → Num
  | .fin n m e =>
    if m = 0 then .fin n 0 0
    else
      let q := max (leadExp m e) emin - fw
      let (m', e') := roundMag mode r m e q
      .fin n m' e'
  | x => x

/-- Round into a destination format, exponent unbounded above (R131 step, R134). -/
def roundFmt (fmt mode r : Nat) (x : Num) : Num :=
  if fmt = 7 then
    match x with
    | .fin n m e => let (m', e') := roundMag mode r m e 0; .fin n m' e'
    | y => y
  else
    let (_, fw, bias) := fmtShape fmt
    roundFloat fw (1 - bias) mode r x

/-- The bits of a finite value that the format holds exactly. -/
def encodeFinite (fmt : Nat) (n : Bool) (m : Nat) (e : Int) : Nat :=
  if fmt = 7 then
    let v := m * 2 ^ e.toNat
    if n then (256 - v % 256) % 256 else v % 256
  else
    let (ew, fw, bias) := fmtShape fmt
    let sgn := if n then 2 ^ (ew + fw) else 0
    if m = 0 then sgn
    else
      let l := leadExp m e
      if l < 1 - bias then sgn + m * 2 ^ (e - (1 - bias - fw)).toNat
      else
        let f := if (fw : Int) ≤ Nat.log2 m then m / 2 ^ (Nat.log2 m - fw) else m * 2 ^ (fw - Nat.log2 m)
        sgn + (l + bias).toNat * 2 ^ fw + f % 2 ^ fw

/-- The canonical NaN of a format with a sign (R123). -/
def nanBits (fmt : Nat) (neg : Bool) : Nat :=
  match fmt with
  | 0 => 0x7FC00000 + (if neg then 2 ^ 31 else 0)
  | 1 => 0x7FC0 + (if neg then 2 ^ 15 else 0)
  | 2 => 0x7E00 + (if neg then 2 ^ 15 else 0)
  | 3 => 0x7F + (if neg then 0x80 else 0)
  | 4 => 0x7E + (if neg then 0x80 else 0)
  | _ => 0

/-- The infinity of a format that has one. -/
def infBits (fmt : Nat) (neg : Bool) : Nat :=
  match fmt with
  | 0 => 0x7F800000 + (if neg then 2 ^ 31 else 0)
  | 1 => 0x7F80 + (if neg then 2 ^ 15 else 0)
  | 2 => 0x7C00 + (if neg then 2 ^ 15 else 0)
  | 4 => 0x7C + (if neg then 0x80 else 0)
  | _ => 0

/-- The bits of ±maxf. -/
def maxBits (fmt : Nat) (neg : Bool) : Nat := encodeFinite fmt neg (fmtMax fmt).1 (fmtMax fmt).2

/-- |x| > maxf for a finite x. -/
def overMax (fmt : Nat) : Num → Bool
  | .fin _ m e => !magLe m e (fmtMax fmt).1 (fmtMax fmt).2
  | _ => false

/-- The smallest X with m · 2^e ≤ maxf · 2^X, that is ⌈log2 (a / maxf)⌉, for m ≠ 0. -/
def ceilLog2Max (fmt m : Nat) (e : Int) : Int :=
  let (mm, me) := fmtMax fmt
  let x := leadExp m e - leadExp mm me
  if magLe m e mm (me + x) then x else x + 1

/-- The larger of two magnitudes, as (m, e). -/
def maxMag (a b : Nat × Int) : Nat × Int := if magLe a.1 a.2 b.1 b.2 then b else a

/-- The largest finite magnitude of a list, (0, 0) when there is none. -/
def amaxOf (vs : List Num) : Nat × Int :=
  vs.foldl (fun a v => match v with
    | .fin _ m e => maxMag a (m, e)
    | _ => a) (0, 0)

/-! ### Conversion (R127, R131 to R136) -/

/-- What a conversion found and counted: flags of R62 and counts of R227. -/
structure ConvStat where
  ovf : Bool := false
  unf : Bool := false
  nonfinite : Bool := false
  nOvf : Nat := 0
  nUnf : Nat := 0
  nNonfinite : Nat := 0
  deriving DecidableEq, Repr, Inhabited

def ConvStat.join (a b : ConvStat) : ConvStat :=
  { ovf := a.ovf || b.ovf, unf := a.unf || b.unf, nonfinite := a.nonfinite || b.nonfinite,
    nOvf := a.nOvf + b.nOvf, nUnf := a.nUnf + b.nUnf, nNonfinite := a.nNonfinite + b.nNonfinite }

/-- One converted block: element bits, block-scale byte and what was counted. -/
structure ConvOut where
  codes : List Nat
  bscale : Nat
  stat : ConvStat
  deriving DecidableEq, Repr, Inhabited

/-- A block of elements written with block scale 0xFF: elements 0, all reading as NaN. What else its elements counted stands (R131, R135,
R136). -/
def nanBlock (n : Nat) (st : ConvStat) : ConvOut :=
  { codes := List.replicate n 0, bscale := 0xFF, stat := { st with nonfinite := true, nNonfinite := n } }

/-- One element converted into a format, exponent already scaled: its bits and what was counted (R131, R134 to R136). -/
def convElem (fmt : Nat) (bscaled : Bool) (rnd : Nat) (ovf : Bool) (r : Nat) (x : Num) : Nat × ConvStat :=
  match x with
  | .nan => (if fmt = 7 then 0 else nanBits fmt false, { nonfinite := true, nNonfinite := 1 })
  | .inf n =>
    let b :=
      if fmt ≤ 2 || fmt = 4 then infBits fmt n
      else if fmt = 3 && ovf then nanBits 3 n
      else maxBits fmt n
    (b, { nonfinite := true, nNonfinite := 1 })
  | .fin n m e =>
    match roundFmt fmt rnd r (.fin n m e) with
    | .fin n' m' e' =>
      if overMax fmt (.fin n' m' e') then
        if ovf && (fmt ≤ 4) then
          (nanBits fmt n, { ovf := true, nonfinite := true, nOvf := 1, nNonfinite := 1 })
        else (maxBits fmt n, { ovf := true, nOvf := 1 })
      else
        let unf := decide (m ≠ 0) && decide (m' = 0)
        (encodeFinite fmt n' m' e', { unf := unf, nUnf := b2n unf })
    | _ => (if bscaled then 0 else 0, {})

/-- Convert each element with its own draw. -/
def convElems (fmt : Nat) (bscaled : Bool) (rnd : Nat) (ovf : Bool) (dr : Nat → Nat) : Nat → List Num → List Nat × ConvStat
  | _, [] => ([], {})
  | i, x :: xs =>
    let (b, st) := convElem fmt bscaled rnd ovf (dr i) x
    let (bs, st') := convElems fmt bscaled rnd ovf dr (i + 1) xs
    (b :: bs, st.join st')

/-- R131's convert_block for one block of values into `fmt` with tensor scale `s` and, when `bsc`, a block scale. `dr i` is
the draw of element `i`. -/
def convertBlock (fmt s : Nat) (bsc : Bool) (rnd : Nat) (ovf : Bool) (dr : Nat → Nat) (vs : List Num) : ConvOut :=
  let vs' := if s = 255 then vs.map (fun _ => Num.nan) else vs.map (Num.scale (127 - s))
  let fixed := fmt ≥ 5     -- FP6, FP4, INT8: no code for NaN
  if !bsc then
    let (cs, st) := convElems fmt false rnd ovf dr 0 vs'
    let st := if s = 255 then { st with nonfinite := true, nNonfinite := vs.length } else st
    { codes := cs, bscale := 0x7F, stat := st }
  else
    let a := amaxOf vs'
    let xb0 : Int := if a.1 = 0 then -127 else max (ceilLog2Max fmt a.1 a.2) (-127)
    let xb := min xb0 127
    let ys := vs'.map (Num.scale (-xb))
    let (cs, st) := convElems fmt true rnd ovf dr 0 ys
    let past := decide (127 < xb0) && ovf
    if fixed && (past || vs'.any Num.isNaN || (ovf && vs'.any (fun x => !x.isFinite))) then
      nanBlock vs.length { st with ovf := st.ovf || past }
    else { codes := cs, bscale := (xb + 127).toNat, stat := st }

/-! ### FP32 and the band accumulator format -/

/-- Round to FP32, nearest even, an overflow giving the infinity (R124, R189, R193). -/
def roundF32 (x : Num) : Num :=
  let y := roundFloat 23 (-126) 0 0 x
  if overMax 0 y then .inf y.isNeg else y

/-- Round to BA24 (R192, R193). -/
def roundBA24 (x : Num) : Num :=
  let y := roundFloat 15 (-126) 0 0 x
  match y with
  | .fin n m e => if magLe m e (2 ^ 16 - 1) 112 then y else .inf n
  | z => z

/-- The FP32 bits of a value, rounding to nearest even; a NaN is the canonical one (R123). -/
def toF32 (x : Num) : W32 :=
  match roundF32 x with
  | .nan => 0x7FC00000#32
  | .inf n => BitVec.ofNat 32 (infBits 0 n)
  | .fin n m e => BitVec.ofNat 32 (encodeFinite 0 n m e)

def ofF32 (w : W32) : Num := decodeElem 0 w.toNat

def fAdd (a b : W32) : W32 := toF32 ((ofF32 a).add (ofF32 b))
def fSub (a b : W32) : W32 := toF32 ((ofF32 a).sub (ofF32 b))
def fMul (a b : W32) : W32 := toF32 ((ofF32 a).mul (ofF32 b))
def fFma (a b c : W32) : W32 := toF32 (((ofF32 a).mul (ofF32 b)).add (ofF32 c))

/-- A quotient carried to `p` bits and a sticky bit, so that one later rounding to at most `p - 2` bits is exact. -/
def Num.quot (p : Nat) : Num → Num → Num
  | .nan, _ => .nan
  | _, .nan => .nan
  | .inf _, .inf _ => .nan
  | .inf a, .fin b _ _ => .inf (a != b)
  | .fin a _ _, .inf b => .fin (a != b) 0 0
  | .fin a m1 e1, .fin b m2 e2 =>
    if m2 = 0 then (if m1 = 0 then .nan else .inf (a != b))
    else if m1 = 0 then .fin (a != b) 0 0
    else
      let k := p + Nat.log2 m2 + 1
      let n := m1 * 2 ^ k
      .fin (a != b) (2 * (n / m2) + b2n (n % m2 != 0)) (e1 - e2 - k - 1)

/-- Integer square root by bits. -/
def isqrt : Nat → Nat → Nat → Nat
  | 0, r, _ => r
  | b + 1, r, n => let c := r + 2 ^ b; if c * c ≤ n then isqrt b c n else isqrt b r n

/-- A square root carried to at least `p` bits and a sticky bit. -/
def Num.root (p : Nat) : Num → Num
  | .nan => .nan
  | .inf n => if n then .nan else .inf false
  | .fin n m e =>
    if m = 0 then .fin n 0 0
    else if n then .nan
    else
      let k := 2 * p + (if e % 2 = 0 then 0 else 1)
      let v := m * 2 ^ k
      let r := isqrt (Nat.log2 v / 2 + 1) 0 v
      .fin false (2 * r + b2n (r * r != v)) ((e - k) / 2 - 1)

def fDiv (a b : W32) : W32 := toF32 ((ofF32 a).quot 60 (ofF32 b))
def fSqrt (a : W32) : W32 := toF32 ((ofF32 a).root 60)

/-- The FP32 constant of an integer. -/
def f32OfNat (n : Nat) : W32 := toF32 (.fin false n 0)

/-- Round to binary64, nearest even (R405, R412). -/
def roundF64 (x : Num) : Num :=
  let y := roundFloat 52 (-1022) 0 0 x
  match y with
  | .fin n m e => if magLe m e (2 ^ 53 - 1) 971 then y else .inf n
  | z => z

/-- The binary64 bits of a value. -/
def toF64 (x : Num) : W64 :=
  match roundF64 x with
  | .nan => 0x7FF8000000000000#64
  | .inf n => BitVec.ofNat 64 (0x7FF0000000000000 + (if n then 2 ^ 63 else 0))
  | .fin n m e =>
    let sgn := if n then 2 ^ 63 else 0
    if m = 0 then BitVec.ofNat 64 sgn
    else
      let l := leadExp m e
      if l < -1022 then BitVec.ofNat 64 (sgn + m * 2 ^ (e + 1074).toNat)
      else
        let f := if 52 ≤ Nat.log2 m then m / 2 ^ (Nat.log2 m - 52) else m * 2 ^ (52 - Nat.log2 m)
        BitVec.ofNat 64 (sgn + (l + 1023).toNat * 2 ^ 52 + f % 2 ^ 52)

/-- The BF16 magnitude at or above a magnitude; above the largest, the largest (R222). -/
def bf16Up (a : Nat × Int) : Nat :=
  if a.1 = 0 then 0
  else
    let q := max (leadExp a.1 a.2) (-126) - 7
    let m' := if q ≤ a.2 then a.1 * 2 ^ (a.2 - q).toNat else cdiv a.1 (2 ^ (q - a.2).toNat)
    let y : Num := .fin false m' q
    if overMax 1 y then maxBits 1 false else encodeFinite 1 false m' q

/-! ### Residue of a tag (R58) -/

/-- The value modulo 7. -/
def mod7 (v : Nat) : Nat := v % 7

end Sys2Proof.Machine
end

