-- ==== Sys2Proof/Machine/Registers.lean ====
section
/-! DEFINITION. The control registers (R51 to R54 and the register tables of every chapter): which words a block holds, the
fields of each word, their access types (R16, R19) and their values after cold start. A register of 8 bytes or more is the
words it consists of. -/

namespace Sys2Proof.Machine

/-- The access types of R16; `rwl` and `wol` are RW LIVE and WO LIVE. -/
inductive Acc where
  | ro
  | rw
  | rwl
  | wo
  | wol
  | w1c
  | lc
  deriving DecidableEq, Repr, Inhabited

/-- A field [hi:lo] of a register word, its access type and its value after cold start. -/
structure Fld where
  acc : Acc
  hi : Nat
  lo : Nat
  rst : Nat := 0
  deriving DecidableEq, Repr, Inhabited

/-! ### Block numbers (the control-space map) -/

def blkCT : Nat := 0x00
def blkSW : Nat := 0x01
def blkPM : Nat := 0x02
def blkSQ : Nat := 0x10
def blkME : Nat := 0x11
def blkVU : Nat := 0x12
def blkED : Nat := 0x13
def blkMS : Nat := 0x20
def blkHP : Nat := 0x21
def blkSF : Nat := 0x22
def blkGR : Nat := 0x23
def blkHV : Nat := 0x24
def blkFG : Nat := 0x25

/-- Instances of a block; 0 for a block number the map does not give (R51). -/
def blkInstances (b : Nat) : Nat :=
  if b = 0x00 || b = 0x01 || b = 0x02 then 1
  else if b = 0x10 || b = 0x12 then 96
  else if b = 0x11 || b = 0x13 then 384
  else if b = 0x20 || b = 0x21 || b = 0x25 then 1
  else if b = 0x22 || b = 0x24 then 16
  else if b = 0x23 then 4096
  else 0

/-- Blocks whose first registers are a function header (R54). -/
def hasHeader (b : Nat) : Bool :=
  b == 0x10 || b == 0x11 || b == 0x20 || b == 0x21 || b == 0x22 || b == 0x23 || b == 0x24 || b == 0x25

/-! ### Shapes that recur -/

def roWord (rst : Nat := 0) : List Fld := [{ acc := .ro, hi := 31, lo := 0, rst := rst }]
/-- A word of read-only fields, each given by its highest and lowest bit, with reserved bits between them. -/
def roBits (fs : List (Nat × Nat)) (rst : Nat := 0) : List Fld :=
  fs.map (fun p => { acc := .ro, hi := p.1, lo := p.2, rst := bitsOf rst p.1 p.2 })
/-- xx_LINK (R306). -/
def linkFlds : List Fld := roBits [(8, 0)]
def rwWord (rst : Nat := 0) : List Fld := [{ acc := .rw, hi := 31, lo := 0, rst := rst }]
def rwlWord (rst : Nat := 0) : List Fld := [{ acc := .rwl, hi := 31, lo := 0, rst := rst }]
def rwLow (hi : Nat) (rst : Nat := 0) : List Fld := [{ acc := .rw, hi := hi, lo := 0, rst := rst }]
def w1cLow (hi : Nat) : List Fld := [{ acc := .w1c, hi := hi, lo := 0 }]
def wo31 : Fld := { acc := .wo, hi := 31, lo := 31 }
def wol31 : Fld := { acc := .wol, hi := 31, lo := 31 }

/-- xx_STATE, xx_CMD and xx_REASON at 0x0000, 0x0004 and 0x0008 (R54). -/
def headerWord (off : Nat) : Option (List Fld) :=
  if off = 0 then some (roBits [(2, 0)])
  else if off = 4 then some [{ acc := .wo, hi := 1, lo := 0 }]
  else if off = 8 then some (roBits [(15, 0)])
  else none

/-- `off` lies in the words lo .. hi (byte offsets of the first and the last word). -/
def inWords (off lo hi : Nat) : Bool := decide (lo ≤ off) && decide (off ≤ hi)

/-! ### The blocks -/

/-- The CT block (R25, R30, R70, R71, R79, R425, R544, R573). -/
def ctWord (off : Nat) : Option (List Fld) :=
  if off = 0x40 || off = 0x44 then some (roWord)
  else if off = 0x80 then some (roWord 0x40)
  else if off = 0x84 then some (roWord)
  else if inWords off 0x100 0x1FC then some (roWord)
  else if off = 0x200 then some [{ acc := .rwl, hi := 1, lo := 1 }, { acc := .rwl, hi := 0, lo := 0 }]
  else if off = 0x204 then some (roWord (7 * 2 ^ 27))
  else if off = 0x208 then some (roWord)
  else if off = 0x300 || off = 0x308 || off = 0x30C then some (roWord)
  else if off = 0x310 || off = 0x314 || off = 0x318 then some (rwWord)
  else if off = 0x31C then some [{ acc := .wo, hi := 2, lo := 2 }, { acc := .wo, hi := 1, lo := 0 }]
  else if off = 0x320 then some (roWord)
  else if off = 0x400 then some [{ acc := .lc, hi := 7, lo := 0 }]
  else if off = 0x404 then some [{ acc := .lc, hi := 0, lo := 0 }]
  else if off = 0x408 then some [{ acc := .lc, hi := 31, lo := 0 }]
  else if off = 0x40C then some [{ acc := .lc, hi := 2, lo := 0 }]
  else if off = 0x410 then some [{ acc := .lc, hi := 31, lo := 0 }]
  else if off = 0x414 then some [{ acc := .lc, hi := 15, lo := 0 }]
  else if off = 0x418 || off = 0x41C then some (roWord)
  else if inWords off 0x420 0x44C then some [{ acc := .lc, hi := 31, lo := 0 }]
  else if off = 0x450 then some (roWord)
  else if inWords off 0x500 0x53C then some (rwWord)
  else if off = 0x540 then some [{ acc := .wo, hi := 2, lo := 2 }, { acc := .wo, hi := 1, lo := 0 }]
  else if inWords off 0x580 0x67C then some (roWord)
  else if off = 0x680 || off = 0x700 then some (roWord)
  else if off = 0x704 then some (rwLow 10)
  else if inWords off 0x800 0x94C then some (roWord)
  else if inWords off 0xA00 0xA14 then some (roWord)
  else if inWords off 0x1000 0x3FFC then some (roWord)
  else none

/-- The default drain times of R520, by kind, in µs. -/
def drainDefault (k : Nat) : Nat :=
  if k = 0 then 1000 else if k = 1 then 10000 else if k = 2 then 10000 else if k = 3 then 50000
  else if k = 4 then 1000 else if k = 5 then 1000 else 20000

/-- The SW block (R540 to R543). -/
def swWord (off : Nat) : Option (List Fld) :=
  if off = 0 then some [wol31, { acc := .rwl, hi := 30, lo := 30, rst := 1 }, { acc := .rwl, hi := 29, lo := 29, rst := 1 },
    { acc := .rwl, hi := 23, lo := 16, rst := 16 }]
  else if off = 4 then some (roWord 0xF0000000)
  else if off = 8 then some (w1cLow 5)
  else if off = 0xC then some [{ acc := .wol, hi := 31, lo := 30 }, { acc := .wol, hi := 15, lo := 12 },
    { acc := .wol, hi := 11, lo := 0 }]
  else if inWords off 0x10 0x28 then some (rwlWord (drainDefault ((off - 0x10) / 4)))
  else if off = 0x30 then some (rwlWord 100)
  else if off = 0x34 then some [{ acc := .rwl, hi := 31, lo := 8 }, { acc := .rwl, hi := 1, lo := 0 }]
  else if inWords off 0x40 0x74 || inWords off 0x108 0x11C then some (roWord)
  else if inWords off 0x1000 0x103C then
    if off % 16 = 0 then some [{ acc := .ro, hi := 31, lo := 31 }, { acc := .rwl, hi := 30, lo := 30 },
      { acc := .ro, hi := 29, lo := 0 }]
    else some (roWord)
  else if inWords off 0x8000 0xFFFC then some (roWord)
  else none

/-- The PM block (R588, R589). -/
def pmWord (off : Nat) : Option (List Fld) :=
  if off = 0 then some [wol31, { acc := .rwl, hi := 27, lo := 16, rst := 2000 }, { acc := .rwl, hi := 11, lo := 0, rst := 4000 }]
  else if off = 4 then some (roWord 4000)
  else if off = 8 then some (w1cLow 4)
  else if off = 0xC || off = 0x10 then some (roWord)
  else if inWords off 0x40 0x5C || inWords off 0x108 0x118 then some (roWord)
  else none

/-- The SQ block (R44, R45, R93, R95, R96, R207 to R211, R216, R230, R273, R545). -/
def sqWord (off : Nat) : Option (List Fld) :=
  if off < 0xC then headerWord off
  else if off = 0x10 then some [{ acc := .rwl, hi := 7, lo := 6 }, { acc := .rwl, hi := 5, lo := 4 },
    { acc := .rwl, hi := 3, lo := 2 }, { acc := .rwl, hi := 1, lo := 0 }]
  else if off = 0x18 || off = 0x20 || off = 0x24 || off = 0x28 then some (roWord)
  else if inWords off 0x100 0x1C4 then
    if off % 0x40 = 0 then some [{ acc := .rwl, hi := 1, lo := 1 }, { acc := .rwl, hi := 0, lo := 0 }]
    else if off % 0x40 = 4 then some (roBits [(31, 16), (12, 0)])
    else none
  else if off = 0x400 then some [wo31, { acc := .rwl, hi := 24, lo := 21, rst := 11 }, { acc := .rwl, hi := 20, lo := 16 },
    { acc := .rw, hi := 11, lo := 0 }]
  else if off = 0x404 then some [{ acc := .rw, hi := 24, lo := 6 }]
  else if off = 0x408 then some [{ acc := .wol, hi := 28, lo := 27 }, { acc := .wol, hi := 26, lo := 25 },
    { acc := .wol, hi := 24, lo := 21 }, { acc := .wol, hi := 11, lo := 0 }]
  else if off = 0x40C then some (w1cLow 5)
  else if inWords off 0x440 0x4FC || inWords off 0x50C 0x520 || inWords off 0x600 0x62C then some (roWord)
  else if off = 0x700 then some [{ acc := .rw, hi := 24, lo := 12, rst := 0x17F0 }, { acc := .rw, hi := 11, lo := 0, rst := 16 }]
  else if inWords off 0x1000 0x11FC then some (roWord)
  else none

/-- The ME block (R176, R179 to R182). -/
def meWord (off : Nat) : Option (List Fld) :=
  if off < 0xC then headerWord off
  else if off = 0x10 then some [wo31, { acc := .rw, hi := 1, lo := 0 }]
  else if off = 0x14 then some (roBits [(14, 0)])
  else if off = 0x18 then some [{ acc := .ro, hi := 17, lo := 17 }, { acc := .ro, hi := 16, lo := 16 },
    { acc := .rw, hi := 15, lo := 15 }, { acc := .rw, hi := 14, lo := 8 }, { acc := .rw, hi := 7, lo := 7 },
    { acc := .rw, hi := 6, lo := 0 }]
  else if inWords off 0x40 0x84 then some (roWord)
  else none

/-- The VU block (R264 to R268). -/
def vuWord (off : Nat) : Option (List Fld) :=
  if off = 0 then some [wo31]
  else if off = 4 then some (roBits [(9, 0)])
  else if off = 8 then some (w1cLow 2)
  else if inWords off 0x40 0x6C || inWords off 0x108 0x110 then some (roWord)
  else none

/-- The ED block (R511 to R514); TWIN is reserved on ME1 and ME3. -/
def edWord (inst off : Nat) : Option (List Fld) :=
  if off = 0 then
    if inst % 2 = 0 then some [wo31, { acc := .rw, hi := 1, lo := 1 }, { acc := .rw, hi := 0, lo := 0, rst := 1 }]
    else some [wo31, { acc := .rw, hi := 0, lo := 0, rst := 1 }]
  else if off = 4 then some (roBits [(6, 0)])
  else if off = 0xC then some (roBits [(31, 12)])
  else if off = 8 then some (w1cLow 5)
  else if inWords off 0x10 0x1C then some (roWord 0xFFFFFFFF)
  else if inWords off 0x40 0x84 || inWords off 0x108 0x11C then some (roWord)
  else none

/-- The MS block (R297 to R302, R282); the cold-start SPREAD_UNITS depends on the order code. -/
def msWord (off : Nat) : Option (List Fld) :=
  if off < 0xC then headerWord off
  else if off = 0x10 then some [wo31, { acc := .rw, hi := 27, lo := 24, rst := 4 }, { acc := .rwl, hi := 23, lo := 16, rst := 24 },
    { acc := .rw, hi := 15, lo := 0, rst := if Config.is4T then 128 else 64 }]
  else if off = 0x14 then some (roBits [(23, 3)] 0x10)
  else if off = 0x18 then some (w1cLow 6)
  else if off = 0x20 || off = 0x24 then some (roWord)
  else if off = 0x28 then some (roBits [(25, 24), (8, 0)])
  else if inWords off 0x40 0x7C || inWords off 0x118 0x130 then some (roWord)
  else if inWords off 0x200 0x2FC then
    if off % 16 = 0 then some [{ acc := .rw, hi := 31, lo := 31 }, { acc := .rw, hi := 27, lo := 24 }]
    else if off % 16 = 12 then some []
    else some (rwWord)
  else if inWords off 0x1000 0x17FC then some (roWord)
  else none

/-- The HP block (R321 to R326). -/
def hpWord (off : Nat) : Option (List Fld) :=
  if off < 0xC then headerWord off
  else if off = 0x10 then some [wol31, { acc := .rwl, hi := 28, lo := 28 }, { acc := .rwl, hi := 27, lo := 27 },
    { acc := .rwl, hi := 26, lo := 16, rst := 200 }, { acc := .rwl, hi := 15, lo := 0 }]
  else if off = 0x14 then some (roBits [(31, 31), (10, 0)])
  else if off = 0x20 then some (roWord)
  else if off = 0x24 then some linkFlds
  else if off = 0x18 then some (w1cLow 1)
  else if off = 0x1C then some [{ acc := .rwl, hi := 31, lo := 16, rst := 0x88B5 }, { acc := .rwl, hi := 15, lo := 0, rst := 50200 }]
  else if inWords off 0x30 0x3C then some (rwlWord)
  else if inWords off 0x40 0x6C || inWords off 0x118 0x11C then some (roWord)
  else none

/-- The SF blocks (R345 to R349). -/
def sfWord (off : Nat) : Option (List Fld) :=
  if off < 0xC then headerWord off
  else if off = 0x10 then some [wo31, { acc := .rw, hi := 30, lo := 30 }, { acc := .rw, hi := 29, lo := 29 },
    { acc := .rw, hi := 28, lo := 26, rst := 3 }, { acc := .rw, hi := 25, lo := 14 }, { acc := .rw, hi := 13, lo := 0, rst := 0x3FFF }]
  else if off = 0x14 then some [{ acc := .rw, hi := 31, lo := 16, rst := 0x88B5 }, { acc := .rw, hi := 15, lo := 0, rst := 50210 }]
  else if off = 0x18 then some [{ acc := .rw, hi := 31, lo := 16, rst := 20000 }, { acc := .rw, hi := 3, lo := 0, rst := 3 }]
  else if off = 0x1C then some (w1cLow 4)
  else if off = 0x20 then some (rwLow 25)
  else if off = 0x24 then some linkFlds
  else if off = 0x28 then some (rwLow 13)
  else if off = 0x30 then some [{ acc := .rw, hi := 31, lo := 24 }]
  else if off = 0x34 then some (rwLow 15)
  else if off = 0x38 then some (rwWord)
  else if off = 0x3C then some (rwLow 15)
  else if inWords off 0x40 0xB4 || inWords off 0x11C 0x12C then some (roWord)
  else if off = 0xC0 || off = 0xC4 then some (rwWord)
  else none

/-- The group-table entries (R352 to R354, R382, R383). -/
def grWord (off : Nat) : Option (List Fld) :=
  if off < 0xC then headerWord off
  else if off = 0x10 then some [wo31, { acc := .rw, hi := 30, lo := 27 }, { acc := .rw, hi := 26, lo := 25 },
    { acc := .rw, hi := 24, lo := 23 }, { acc := .rw, hi := 22, lo := 22 }, { acc := .rw, hi := 21, lo := 21 },
    { acc := .rw, hi := 20, lo := 17, rst := 3 }, { acc := .rw, hi := 16, lo := 13 }]
  else if off = 0x14 then some [{ acc := .rw, hi := 27, lo := 14 }, { acc := .rw, hi := 13, lo := 0 }]
  else if off = 0x18 || off = 0x28 then some (rwLow 25)
  else if off = 0x1C then some (rwWord 262144)
  else if off = 0x20 then some [{ acc := .rw, hi := 31, lo := 16, rst := 1000 }, { acc := .rw, hi := 15, lo := 0, rst := 100 }]
  else if off = 0x24 then some (rwLow 15 1024)
  else if off = 0x30 then some (roWord 0x3FFF)
  else if off = 0x34 then some (roBits [(31, 28), (13, 0)] 0x3FFF)
  else if off = 0x38 then some (w1cLow 5)
  else if inWords off 0x40 0x84 || inWords off 0x138 0x14C then some (roWord)
  else none

/-- The HV blocks (R414 to R421). -/
def hvWord (off : Nat) : Option (List Fld) :=
  if off < 0xC then headerWord off
  else if off = 0x10 then some [wo31, { acc := .rw, hi := 25, lo := 22, rst := 2 }, { acc := .rw, hi := 21, lo := 20 }]
  else if off = 0x14 then some (roBits [(31, 30), (27, 0)] 0xFFFF)
  else if off = 0x18 then some (w1cLow 7)
  else if off = 0x1C then some [{ acc := .rw, hi := 31, lo := 24, rst := 32 }, { acc := .rw, hi := 23, lo := 16, rst := 16 },
    { acc := .rw, hi := 15, lo := 8, rst := 64 }]
  else if off = 0x20 || off = 0x28 then some (rwLow 25)
  else if off = 0x24 then some (rwLow 16)
  else if off = 0x2C || off = 0x30 || off = 0x34 then some (rwLow 15)
  else if off = 0x38 || off = 0x3C || off = 0x40 then some (rwlWord)
  else if off = 0x48 then some [{ acc := .rw, hi := 31, lo := 31 }, { acc := .rw, hi := 30, lo := 29 },
    { acc := .rw, hi := 28, lo := 22 }, { acc := .rw, hi := 21, lo := 20 }]
  else if off = 0x50 || off = 0x54 then some (rwWord)
  else if inWords off 0x80 0xF4 || inWords off 0x118 0x134 then some (roWord)
  else none

/-- The FP32 staleness weights after cold start (R456): 1, 0.75, 0.5, 0.375, 0.25, 0.1875, 0.125, 0.0625. -/
def staleReset (k : Nat) : Nat :=
  if k = 0 then 0x3F800000 else if k = 1 then 0x3F400000 else if k = 2 then 0x3F000000 else if k = 3 then 0x3EC00000
  else if k = 4 then 0x3E800000 else if k = 5 then 0x3E400000 else if k = 6 then 0x3E000000 else 0x3D800000

/-- The FG block below 0x0200 and FG_GW (R455 to R460, R490). -/
def fgWord (off : Nat) : Option (List Fld) :=
  if off < 0xC then headerWord off
  else if off = 0x10 then some [wo31, { acc := .rw, hi := 30, lo := 30 }, { acc := .rw, hi := 29, lo := 22, rst := 0xFF }]
  else if off = 0x14 then some (roBits [(31, 28), (15, 0)])
  else if off = 0x24 then some linkFlds
  else if off = 0x68 then some (roWord)
  else if off = 0x18 then some (w1cLow 7)
  else if off = 0x1C then some [{ acc := .rw, hi := 31, lo := 31, rst := 1 }, { acc := .rw, hi := 27, lo := 24, rst := 8 },
    { acc := .rw, hi := 23, lo := 16, rst := 32 }, { acc := .rw, hi := 15, lo := 0, rst := 128 }]
  else if off = 0x20 then some [{ acc := .rw, hi := 15, lo := 6, rst := 256 }, { acc := .rw, hi := 5, lo := 3, rst := 1 },
    { acc := .rw, hi := 2, lo := 0, rst := 1 }]
  else if off = 0x28 then some [{ acc := .rw, hi := 27, lo := 24, rst := 2 }, { acc := .rw, hi := 23, lo := 20, rst := 2 },
    { acc := .rw, hi := 15, lo := 0, rst := 2000 }]
  else if off = 0x2C || off = 0x34 || off = 0x3F0 then some (rwLow 25)
  else if off = 0x30 then some (rwLow 16)
  else if off = 0x38 then some (rwLow 15)
  else if off = 0x3C then some (rwlWord 0x3F333333)
  else if inWords off 0x40 0x5C then some (rwlWord (staleReset ((off - 0x40) / 4)))
  else if off = 0x60 || off = 0x64 then some (rwlWord)
  else if off = 0x6C then some [{ acc := .wol, hi := 16, lo := 16 }, { acc := .wol, hi := 15, lo := 0 }]
  else if inWords off 0x80 0xE4 || inWords off 0x118 0x134 then some (roWord)
  else none

/-- The far-link registers of the FG block (R489 to R491). -/
def flWord (off : Nat) : Option (List Fld) :=
  if inWords off 0x200 0x208 then headerWord (off - 0x200)
  else if off = 0x210 then some [wo31, { acc := .rw, hi := 30, lo := 30 }, { acc := .rw, hi := 29, lo := 29 },
    { acc := .rw, hi := 28, lo := 26, rst := 2 }]
  else if off = 0x214 then some (rwLow 7 0xFF)
  else if off = 0x218 then some [{ acc := .rw, hi := 31, lo := 16, rst := 500 }, { acc := .rw, hi := 15, lo := 0, rst := 1000 }]
  else if off = 0x21C then some [{ acc := .rw, hi := 31, lo := 16, rst := 600 }, { acc := .rw, hi := 15, lo := 0, rst := 512 }]
  else if off = 0x220 then some [{ acc := .wol, hi := 1, lo := 0 }]
  else if off = 0x224 then some (roBits [(31, 27), (23, 0)])
  else if off = 0x230 || off = 0x234 then some (roWord)
  else if off = 0x228 then some (w1cLow 6)
  else if off = 0x238 then some (roWord 200000000)
  else if off = 0x240 then some (rwLow 25)
  else if off = 0x244 then some (rwLow 6)
  else if off = 0x248 then some [{ acc := .rw, hi := 31, lo := 16, rst := 0x88B6 }, { acc := .rw, hi := 15, lo := 0, rst := 50220 }]
  else if off = 0x250 || off = 0x258 then some (rwWord)
  else if off = 0x254 || off = 0x25C then some (rwLow 15)
  else if inWords off 0x260 0x27C then some (rwWord)
  else if inWords off 0x280 0x2FC || inWords off 0x328 0x340 then some (roWord)
  else none

/-- The fields of the word at byte offset `off` (a multiple of 4) of a block; `none` where the map places no register (R52).
Offset 0x000C of a header block is reserved. -/
def regWord (blk inst off : Nat) : Option (List Fld) :=
  if blk = 0x00 then ctWord off
  else if blk = 0x01 then swWord off
  else if blk = 0x02 then pmWord off
  else if blk = 0x10 then sqWord off
  else if blk = 0x11 then meWord off
  else if blk = 0x12 then vuWord off
  else if blk = 0x13 then edWord inst off
  else if blk = 0x20 then msWord off
  else if blk = 0x21 then hpWord off
  else if blk = 0x22 then sfWord off
  else if blk = 0x23 then grWord off
  else if blk = 0x24 then hvWord off
  else if blk = 0x25 then
    match fgWord off with
    | some fs => some fs
    | none => flWord off
  else none

/-- CT_LOCALITY's entry for core `c` and memory-port die `m` (R25, R279). -/
def localityWord (c m : Nat) : Nat :=
  if m / 4 = c / 12 then 0 * 65536 + 120
  else if m / 8 = c / 24 then 1 * 65536 + 148
  else 2 * 65536 + 172

/-- CT_SIZES after cold start on a module with no retired engine (R79). -/
def sizesReset (off : Nat) : Nat :=
  if off = 0x100 then 3
  else if off = 0x108 then 96
  else if off = 0x10C then 384
  else if off = 0x110 then 4
  else if off = 0x114 then 0x04210040
  else if off = 0x118 then 0x00200080
  else if off = 0x11C then 24576
  else if off = 0x120 then 512
  else if off = 0x124 then 256
  else if off = 0x128 then Config.mainGib
  else if off = 0x12C then 512
  else if off = 0x130 then 0x00011001
  else if off = 0x134 then 16
  else if off = 0x138 then 0x03200320
  else if off = 0x13C then 4096
  else if 0x140 ≤ off && off ≤ 0x16C then 0xFFFFFFFF
  else 0

/-- The value of a word built from its fields' cold-start values. -/
def fieldsReset (fs : List Fld) : Nat := fs.foldl (fun v f => setBits v f.hi f.lo f.rst) 0

/-- A register word after cold start. -/
def resetWord (blk inst off : Nat) : W32 :=
  BitVec.ofNat 32 (
    if blk = 0 && inWords off 0x100 0x1FC then sizesReset off
    else match regWord blk inst off with
      | some fs => fieldsReset fs
      | none => 0)

/-- Where a word stands: the low 36 bits of its global address (R51). -/
def ctlKey (blk inst off : Nat) : Nat := blk * 2 ^ 28 + inst * 2 ^ 16 + off

/-- The unlisted value of the register table at a key. -/
def ctlDefault (k : Nat) : W32 := resetWord (k / 2 ^ 28) (k / 2 ^ 16 % 4096) (k % 65536)

/-- The fields of a word that software may store into (RW and RW LIVE). -/
def storedMask (fs : List Fld) : Nat :=
  fs.foldl (fun v f => if f.acc = .rw || f.acc = .rwl then setBits v f.hi f.lo (2 ^ 32 - 1) else v) 0

/-- The bits of a word that belong to some field. -/
def fieldMask (fs : List Fld) : Nat := fs.foldl (fun v f => setBits v f.hi f.lo (2 ^ 32 - 1)) 0

end Sys2Proof.Machine
end

