-- ==== Sys2Proof/Machine/Table.lean ====
section
/-! DEFINITION. Sparse tables: a list of (key, value) pairs with keys strictly rising and no entry equal to the value that an
unlisted key reads as. Registers, contexts, engines and the other numbered units are kept in such tables, so that equal
contents are equal data. -/

namespace Sys2Proof.Machine

/-- A sparse table. -/
abbrev Tbl (α : Type) := List (Nat × α)

/-- The entry at `k`, or `d` where none is listed. -/
def Tbl.get {α : Type} (d : α) : Tbl α → Nat → α
  | [], _ => d
  | (a, v) :: t, k => if a = k then v else Tbl.get d t k

/-- Insert or replace the entry at `k`, keeping the keys rising. -/
def Tbl.put {α : Type} : Tbl α → Nat → α → Tbl α
  | [], k, v => [(k, v)]
  | (a, w) :: t, k, v =>
    if k < a then (k, v) :: (a, w) :: t
    else if a = k then (k, v) :: t
    else (a, w) :: Tbl.put t k v

/-- Remove whatever is listed at `k`. -/
def Tbl.erase {α : Type} : Tbl α → Nat → Tbl α
  | [], _ => []
  | (a, w) :: t, k => if a = k then Tbl.erase t k else (a, w) :: Tbl.erase t k

/-- Write `v` at `k`: writing the unlisted value removes the entry (the canonical form). -/
def Tbl.set {α : Type} [DecidableEq α] (d : α) (t : Tbl α) (k : Nat) (v : α) : Tbl α :=
  if v = d then t.erase k else t.put k v

/-- The canonical form of a table whose unlisted key `k` reads as `d k`: keys strictly rising from `lo`, no entry equal to
what its key would read as unlisted. -/
def Tbl.wfFrom {α : Type} [DecidableEq α] (d : Nat → α) : Nat → Tbl α → Bool
  | _, [] => true
  | lo, (a, v) :: t => decide (lo ≤ a) && decide (v ≠ d a) && Tbl.wfFrom d (a + 1) t

/-- The canonical form of a table whose unlisted keys all read as `d`. -/
def Tbl.wf {α : Type} [DecidableEq α] (d : α) (t : Tbl α) : Bool := Tbl.wfFrom (fun _ => d) 0 t

/-- Change the entry at `k` by `f`. -/
def Tbl.upd {α : Type} [DecidableEq α] (d : α) (t : Tbl α) (k : Nat) (f : α → α) : Tbl α :=
  t.set d k (f (t.get d k))

end Sys2Proof.Machine
end

