-- ==== Sys2Proof/Syntax.lean ====
section
/-! DEFINITION. The commands of the block: one constructor of `Instr` for each row of spec/opcode_table.json, and the plain
data its operands are made of (functions, tags, descriptors, messages, frames). -/

namespace Sys2Proof

/-! ### Names of units -/

/-- Who makes a register write or sends a function command (R53, R54): the claiming host, a service processor, or a context. -/
inductive Writer where
  | host
  | service
  | ctx (core : BitVec 7) (x : BitVec 2)
  deriving DecidableEq, Repr, Inhabited

/-- A function with a control header (R54 and the control-space map; FL: R461). -/
inductive Fn where
  | core (c : BitVec 7)
  | engine (c : BitVec 7) (m : BitVec 2)
  | ms
  | hp
  | sf (p : BitVec 4)
  | group (g : BitVec 12)
  | hive (h : BitVec 4)
  | forager
  | fl
  deriving DecidableEq, Repr, Inhabited

/-- A port (R7). -/
inductive Port where
  | hp
  | sf (p : BitVec 4)
  | fl
  deriving DecidableEq, Repr, Inhabited

/-- A reset domain: kind 0 to 6 of R520 and its number within the kind. -/
structure Domain where
  kind : BitVec 4
  num : BitVec 12
  deriving DecidableEq, Repr, Inhabited

/-! ### Tags and descriptors -/

/-- The 128-bit tag of a block (R58). Bits [11:0] are reserved and written as 0. `flags` is [40:29], so flag bit `b` of R62
stands at bit `b - 29` of it. -/
structure Tag where
  kind : BitVec 4 := 0
  fmt : BitVec 3 := 0
  scale : Byte := 0
  layer : W16 := 0
  step : BitVec 24 := 0
  round : W16 := 0
  group : BitVec 12 := 0
  op : BitVec 4 := 0
  flags : BitVec 12 := 0
  count : BitVec 14 := 0
  tres : BitVec 3 := 0
  deriving DecidableEq, Repr, Inhabited

/-- The 128-bit descriptor of a block that crosses a port or enters a hive (R63). -/
structure BDesc where
  extent : BitVec 40 := 0
  shard : W16 := 0
  srcModule : BitVec 14 := 0x3FFF
  srcSite : Byte := 0xFF
  seq : W32 := 0
  frag : BitVec 18 := 0
  deriving DecidableEq, Repr, Inhabited

/-- A tagged block, or one message of it: its tag, its descriptor and the bytes it carries. -/
structure Block where
  tag : Tag := {}
  desc : BDesc := {}
  payload : List Byte := []
  deriving DecidableEq, Repr, Inhabited

/-! ### Commands to a context -/

/-- The 64-byte command of R46's layout. -/
structure Cmd where
  entry : W64 := 0
  maxCC : W32 := 0
  cmdSeq : W32 := 0
  completion : W64 := 0
  arg0 : W64 := 0
  arg1 : W64 := 0
  arg2 : W64 := 0
  arg3 : W64 := 0
  eventToHost : Bool := false
  deriving DecidableEq, Repr, Inhabited

/-! ### Instruction operands (R82 to R117) -/

/-- Where an instruction issues and under which predicate: its core and context, PRED and PNEG (R82, R84). -/
structure Iss where
  core : BitVec 7 := 0
  ctx : BitVec 2 := 0
  pred : BitVec 3 := 0
  pneg : Bool := false
  deriving DecidableEq, Repr, Inhabited

/-- The second operand of a scalar instruction: SB, or IMM when I = 1. -/
inductive SrcB where
  | reg (sb : BitVec 6)
  | imm (v : W32)
  deriving DecidableEq, Repr, Inhabited

/-- The fields of LOADS. -/
structure LoadsF where
  tb : BitVec 5 := 0
  eng : BitVec 2 := 0
  buf : BitVec 1 := 0
  so : BitVec 6 := 0
  kn : BitVec 9 := 0
  nn : BitVec 9 := 0
  tr : Bool := false
  sh : Bool := false
  deriving DecidableEq, Repr, Inhabited

/-- The fields of STREAM. -/
structure StreamF where
  ta : BitVec 5 := 0
  tc : BitVec 5 := 0
  eng : BitVec 2 := 0
  buf : BitVec 1 := 0
  sm : BitVec 6 := 0
  sc : BitVec 6 := 0
  acc : BitVec 2 := 0
  dstb : Bool := false
  ab : BitVec 1 := 0
  rnd : BitVec 2 := 0
  ovf : Bool := false
  tr : Bool := false
  waitp : Bool := false
  rel : Bool := false
  red : BitVec 3 := 0
  topk : BitVec 4 := 0
  deriving DecidableEq, Repr, Inhabited

/-- The fields of DRAIN. -/
structure DrainF where
  tc : BitVec 5 := 0
  eng : BitVec 2 := 0
  sm : BitVec 6 := 0
  sc : BitVec 6 := 0
  nn : BitVec 9 := 0
  ab : BitVec 1 := 0
  rnd : BitVec 2 := 0
  ovf : Bool := false
  deriving DecidableEq, Repr, Inhabited

/-- The fields of VOP. -/
structure VopF where
  td : BitVec 5 := 0
  ta : BitVec 5 := 0
  tb : BitVec 5 := 0
  fn : BitVec 5 := 0
  ss : BitVec 6 := 0
  rnd : BitVec 2 := 0
  ovf : Bool := false
  att : BitVec 2 := 0
  eng : BitVec 2 := 0
  deriving DecidableEq, Repr, Inhabited

/-- The fields of MOVE, STASH and FETCH. -/
structure MoveF where
  td : BitVec 5 := 0
  ta : BitVec 5 := 0
  rnd : BitVec 2 := 0
  ovf : Bool := false
  setarr : Bool := false
  arr : BitVec 12 := 0
  deriving DecidableEq, Repr, Inhabited

/-- The fields of COLL. -/
structure CollF where
  td : BitVec 5 := 0
  ta : BitVec 5 := 0
  ck : BitVec 4 := 0
  setarr : Bool := false
  arr : BitVec 12 := 0
  deriving DecidableEq, Repr, Inhabited

/-- The fields of SEND. -/
structure SendF where
  ta : BitVec 5 := 0
  sdst : BitVec 6 := 0
  setarr : Bool := false
  arr : BitVec 12 := 0
  deriving DecidableEq, Repr, Inhabited

/-- The fields of SIGNAL. -/
structure SignalF where
  sa : BitVec 6 := 0
  core : BitVec 7 := 0
  ctx : BitVec 2 := 0
  pd : BitVec 3 := 0
  deriving DecidableEq, Repr, Inhabited

/-- The fields of the Staex 1 tile forms. -/
structure TileF where
  sa : BitVec 6 := 0
  sb : BitVec 6 := 0
  sc : BitVec 6 := 0
  fmt : BitVec 3 := 0
  accf : Bool := false
  eng : BitVec 2 := 0
  cf : BitVec 1 := 0
  deriving DecidableEq, Repr, Inhabited

/-! ### Host messages -/

/-- Where a host message comes from (R312, R319): source addresses, and for a relayed host the relaying module. -/
structure HostSrc where
  mac : BitVec 48 := 0
  ip : BitVec 128 := 0
  udp : W16 := 0
  relay : Option (Byte × BitVec 14) := none
  deriving DecidableEq, Repr, Inhabited

/-- The module's end of a host frame (R307, R324): its MAC address, the EtherType of a raw frame, and address and port of UDP. -/
structure HostEnd where
  mac : BitVec 48 := 0
  ether : W16 := 0x88B5
  ip : BitVec 128 := 0
  udp : W16 := 50200
  deriving DecidableEq, Repr, Inhabited

/-- A host message: the header of R308 and its payload. -/
structure HostMsg where
  src : HostSrc := {}
  own : HostEnd := {}
  ver : Byte := 1
  op : Byte := 0
  len : W16 := 0
  hseq : W32 := 0
  eack : W32 := 0
  status : W16 := 0
  addr : W64 := 0
  epoch : W32 := 0
  payload : List Byte := []
  deriving DecidableEq, Repr, Inhabited

/-! ### Site-fabric frames and collective messages -/

/-- What a collective message carries (R365, R366, R373, R374). -/
inductive CollRole where
  | up         -- a partial on its way up the tree
  | down       -- the result on its way down the tree
  | ring       -- a partial of a segment on its way round the ring
  | copy       -- an all-gather segment or broadcast data on the ring
  | direct     -- one member's own contribution sent straight to the owner of a segment
  | skipped    -- the SKIPPED notice of R372
  deriving DecidableEq, Repr, Inhabited

/-- A collective message: the fields that R377 has every one carry, its place, and its values. `vals` are FP32 words for a
partial and element bits for a copy or an OR; `first` is the element (or, for OP 8, the row) the first of them belongs to. -/
structure CollMsg where
  cseq : W32 := 0
  member : BitVec 14 := 0
  role : CollRole := .ring
  ck : BitVec 4 := 0
  tag : Tag := {}
  desc : BDesc := {}
  seg : Nat := 0
  first : Nat := 0
  vals : List W32 := []
  scales : List Byte := []
  mismatch : Option (BitVec 14) := none
  deriving DecidableEq, Repr, Inhabited

/-- What a member hands to the transport for another member of its group, named by index: a collective message, or one of the
notices of R372 and R378. -/
inductive CollOut where
  | msg (g dst : Nat) (m : CollMsg)
  | bypass (g dst : Nat) (cseq : W32) (skipped : Nat)
  | hold (g dst : Nat) (cseq : W32) (origin : Nat)
  | notice (g dst : Nat) (cseq : W32) (index field : Nat)
  deriving DecidableEq, Repr, Inhabited

/-- The frame that carries a transport frame (R329): its 802.1Q tag, the EtherType or the UDP port of its encapsulation, and the
destination addresses. -/
structure SfEth where
  pcp : BitVec 3 := 3
  vid : BitVec 12 := 0
  ether : Option W16 := none
  udp : Option W16 := none
  mac : BitVec 48 := 0
  ip : BitVec 128 := 0
  deriving DecidableEq, Repr, Inhabited

/-- A transport frame (R330). `unit` and `index` are DST_UNIT [15:12] and [11:0]; `pathNs` joins PATH_HI and PATH_NS.
A frame of a message between group members says with `coll` which message it is, as far as R330 does not (log 15). `fecCorr` of a frame that
arrives is how many of its codewords FEC corrected (R349). -/
structure SfFrame where
  eth : SfEth := {}
  ver : BitVec 4 := 1
  typ : BitVec 4 := 1
  retx : Bool := false
  srcModule : BitVec 14 := 0
  srcSite : Byte := 0
  dstModule : BitVec 14 := 0
  unit : BitVec 4 := 0
  index : BitVec 12 := 0
  reqId : W32 := 0
  grantId : W32 := 0
  length : W32 := 0
  pathNs : W32 := 0
  reason : W16 := 0
  offset : W32 := 0
  blk : Block := {}
  coll : Option CollOut := none
  fecCorr : W16 := 0
  deriving DecidableEq, Repr, Inhabited

/-! ### Far-link frames -/

/-- The frame that carries a CDX frame (R469): the EtherType or the UDP port of its encapsulation, and its addresses. -/
structure FlEth where
  ether : Option W16 := none
  udp : Option W16 := none
  dst : BitVec 48 := 0
  src : BitVec 48 := 0
  dstIp : BitVec 128 := 0
  srcIp : BitVec 128 := 0
  deriving DecidableEq, Repr, Inhabited

/-- A CDX frame (R470): header fields, sealed body and GCM tag. -/
structure CdxFrame where
  eth : FlEth := {}
  ver : BitVec 4 := 1
  typ : BitVec 4 := 1
  epoch : BitVec 1 := 0
  retx : Bool := false
  parity : Bool := false
  part : Byte := 0
  kM1 : BitVec 4 := 0
  nPar : BitVec 3 := 0
  session : W32 := 0
  frameNo : W64 := 0
  fseq : W32 := 0
  shardLen : W16 := 0
  txCC : W32 := 0
  fragLen : BitVec 17 := 0
  body : List Byte := []
  gcmTag : List Byte := []
  deriving DecidableEq, Repr, Inhabited

/-! ### Reports of physical events -/

/-- How channel training ended (R293). -/
inductive TrainEnd where
  | trained (ms : W16)
  | failed (channel : BitVec 9)
  deriving DecidableEq, Repr, Inhabited

/-- The place of a failed residue check or twin compare (R513), with the tile of the instruction it lies in. -/
structure CheckFail where
  point : BitVec 4 := 0
  band : BitVec 2 := 0
  column : Byte := 0
  row : BitVec 6 := 0
  tile : Nat := 0
  deriving DecidableEq, Repr, Inhabited

/-- Which check of a tile failed (R494, R506): the engine's own, its twin partner's, both, or the twin compare. -/
inductive FailKind where
  | own
  | partner
  | both
  | differ
  deriving DecidableEq, Repr, Inhabited

/-- A tile of an instruction with a failed check, and the place of the check; where both engines of a twin pair failed, `place2` is that of
the follower's. -/
structure TileFail where
  kind : FailKind := .own
  place : CheckFail := {}
  place2 : CheckFail := {}
  deriving DecidableEq, Repr, Inhabited

/-- How a replay compares with what was held (R500): its own checks and the place of one that failed, and its totals against the failing
engine's (a leader's), against a follower's, and, for a second replay, against those of the first replay. -/
structure ReplayRes where
  checksPass : Bool := true
  place : CheckFail := {}
  totalsEqual : Bool := true
  partnerEqual : Bool := false
  otherEqual : Bool := false
  deriving DecidableEq, Repr, Inhabited

/-- What the granule code makes of a granule read (R288 to R290). -/
inductive GranRes where
  | good
  | corrected
  | uncorrectable
  deriving DecidableEq, Repr, Inhabited

/-- A burst read: whether a link error made the die read it once more, and what the granule code makes of the data (R287). -/
structure ReadRes where
  again : Bool := false
  res : GranRes := .good
  deriving DecidableEq, Repr, Inhabited

/-- A scrub read: its burst, and whether it waited behind a priority fetch (R286, R291). -/
structure ScrubRes where
  read : ReadRes := {}
  behindFetch : Bool := false
  deriving DecidableEq, Repr, Inhabited

/-- The class of the burst that a channel serves (R286). -/
inductive BurstClass where
  | refresh
  | priorityFetch
  | region (i : BitVec 4)
  | other
  deriving DecidableEq, Repr, Inhabited

/-- What a port reports of traffic that it discards: a foreign frame, one with a bad FCS, one that fails authentication, or codewords that
FEC could not correct (R329, R330, R349, R469, R485). -/
inductive ForeignWhy where
  | foreign
  | badFcs
  | authFail
  | fecLost (codewords : W16)
  deriving DecidableEq, Repr, Inhabited

/-- What package bring-up found (R548 P4): spares that failed self-test and the repair map of an engine, by engine number. -/
structure EngineReport where
  eng : Nat := 0
  spare : W32 := 0
  deriving DecidableEq, Repr, Inhabited

/-- The reply a joining site gets (R453). -/
inductive JoinReply where
  | table (entries : List Byte) (joinRound : W16)
  | refused
  deriving DecidableEq, Repr, Inhabited

/-- Why the standby takes over (R534). -/
inductive TakeoverWhy where
  | heartbeatLost
  | activeFault
  deriving DecidableEq, Repr, Inhabited

/-- What the crumb engine got from one shadow block (R537, R539): the block, or the cause it is unreadable. -/
inductive CrumbRead where
  | stored (blk : List Byte)
  | unreadable (status : Byte)
  deriving DecidableEq, Repr, Inhabited

/-- What the power controller measures in a window (R583, R589): mean power in W, input in mV, and temperatures. -/
structure PowerRead where
  watts : W16 := 0
  vinMv : W16 := 0
  dieMax : Byte := 0
  inlet : Byte := 0
  outlet : Byte := 0
  energyMj : W32 := 0
  deriving DecidableEq, Repr, Inhabited

/-- A counted setting (R566). -/
inductive Counted where
  | siteId
  | gateway
  | secFloor
  | identityGen
  | hostMac
  | retire
  deriving DecidableEq, Repr, Inhabited

/-- The commands of the block, one for each row of spec/opcode_table.json. -/
inductive Instr where
  -- registers and functions
  | registerWrite (w : Writer) (addr : W64) (wide : Bool) (val : W64)
  | w1cFlagClear (w : Writer) (addr : W64) (val setNow : W32)
  | ctrReset (w : Writer) (addr : W64)
  | config (w : Writer) (f : Fn)
  | start (w : Writer) (f : Fn)
  | stop (w : Writer) (f : Fn)
  | stopDrainComplete (f : Fn)
  | msTrainingComplete (r : TrainEnd)
  | clockLost
  | rootPllRelock
  -- contexts
  | commandAdmission (c : BitVec 7) (x : BitVec 2)
  | commandStart (c : BitVec 7) (x : BitVec 2)
  | overrunStopped (c : BitVec 7) (x : BitVec 2)
  | illegalInstruction (c : BitVec 7) (x : BitVec 2) (word : W64)
  -- scalar and branch
  | add (i : Iss) (sd sa : BitVec 6) (b : SrcB)
  | sub (i : Iss) (sd sa : BitVec 6) (b : SrcB)
  | mul (i : Iss) (sd sa : BitVec 6) (b : SrcB)
  | and (i : Iss) (sd sa : BitVec 6) (b : SrcB)
  | or (i : Iss) (sd sa : BitVec 6) (b : SrcB)
  | xor (i : Iss) (sd sa : BitVec 6) (b : SrcB)
  | shl (i : Iss) (sd sa : BitVec 6) (b : SrcB)
  | shr (i : Iss) (sd sa : BitVec 6) (b : SrcB)
  | sra (i : Iss) (sd sa : BitVec 6) (b : SrcB)
  | li (i : Iss) (sd : BitVec 6) (imm : W32)
  | lih (i : Iss) (sd : BitVec 6) (imm : W32)
  | cmp (i : Iss) (pd cond : BitVec 3) (sa : BitVec 6) (b : SrcB)
  | ld (i : Iss) (w4 : Bool) (sd sa : BitVec 6) (imm : W32)
  | st (i : Iss) (w4 immed : Bool) (sa sb : BitVec 6) (imm : W32)
  | getcc (i : Iss) (sd : BitVec 6)
  | getid (i : Iss) (sd : BitVec 6)
  | br (i : Iss) (imm : W32)
  | jr (i : Iss) (sa : BitVec 6)
  | endCmd (i : Iss)
  | endComplete (c : BitVec 7) (x : BitVec 2)
  -- tensor
  | loads (i : Iss) (f : LoadsF)
  | stream (i : Iss) (f : StreamF)
  | drain (i : Iss) (f : DrainF)
  | engSeed (i : Iss) (sreg : BitVec 6) (eng : BitVec 2)
  | engineInstrStart (c : BitVec 7) (m : BitVec 2)
  | prepassSecondSweep (c : BitVec 7) (m : BitVec 2) (chk : List TileFail)
  | loadsComplete (c : BitVec 7) (m : BitVec 2)
  | streamComplete (c : BitVec 7) (m : BitVec 2) (chk : List TileFail)
  | drainComplete (c : BitVec 7) (m : BitVec 2) (chk : List TileFail)
  | tasterCompare (c : BitVec 7) (m : BitVec 2)
  -- vector, move, larder
  | vop (i : Iss) (f : VopF)
  | vopComplete (c : BitVec 7)
  | move (i : Iss) (f : MoveF)
  | moveComplete (c : BitVec 7)
  | stash (i : Iss) (f : MoveF)
  | stashComplete (c : BitVec 7)
  | fetch (i : Iss) (f : MoveF)
  | fetchComplete (c : BitVec 7)
  -- collective, message, synchronisation
  | coll (i : Iss) (f : CollF)
  | collHoldRelease (c : BitVec 7) (x : BitVec 2)
  | send (i : Iss) (f : SendF)
  | fenceStep (i : Iss)
  | waitArr (i : Iss) (first cntM1 : BitVec 12)
  | waitArrSatisfied (c : BitVec 7) (x : BitVec 2)
  | arrClr (i : Iss) (first cntM1 : BitVec 12)
  | waitT (i : Iss) (sa : BitVec 6)
  | interlockRelease (c : BitVec 7) (x : BitVec 2)
  | waitMsg (i : Iss) (td : BitVec 5)
  | waitMsgArrival (c : BitVec 7) (x : BitVec 2)
  | signal (i : Iss) (f : SignalF)
  | signalDecision (c : BitVec 7) (x : BitVec 2)
  | nop (i : Iss)
  -- tag, scale, descriptor
  | tagSet (i : Iss) (tn : BitVec 5) (sa : BitVec 6) (mask : BitVec 4) (clrf : Bool)
  | tagGet (i : Iss) (tn : BitVec 5) (sd : BitVec 6) (half : Bool)
  | tdescLd (i : Iss) (tn : BitVec 5) (sa : BitVec 6)
  | tdescSt (i : Iss) (tn : BitVec 5) (sa : BitVec 6)
  | tdescSetf (i : Iss) (tn : BitVec 5) (sa : BitVec 6) (field : BitVec 4)
  | scaleRd (i : Iss) (tn : BitVec 5) (sd : BitVec 6)
  | scaleMark (i : Iss) (tn : BitVec 5)
  | tile16Mma (i : Iss) (f : TileF)
  | tile32Mma (i : Iss) (f : TileF)
  -- writes with a row of their own
  | engineMapWrite (w : Writer) (c : BitVec 7) (val : W32)
  | sqSlotInit (w : Writer) (c : BitVec 7) (val : W32)
  | tasteNWrite (w : Writer) (c : BitVec 7) (n : BitVec 5)
  -- knock-back
  | knockbackK1CoreDrain
  | knockbackK2FabricDrain
  | knockbackK3HiveDrain
  | knockbackK4BaseInstall
  | knockbackK5Advance
  | knockbackK6Open
  | driftHoldRepeat
  -- memory
  | scrubRead (addr : W64) (r : ScrubRes) (passEnds : Bool)
  | refresh (ch : BitVec 9) (bank : BitVec 4) (shortened : Bool)
  | mainMemoryBurst (ch : BitVec 9) (cls : BurstClass) (behindFetch : Bool) (addr : W64) (r : ReadRes)
  -- ports and host
  | portLinkUp (p : Port) (lanes : BitVec 4) (anDone : Bool)
  | portLinkDown (p : Port) (lanes : BitVec 4)
  | hostFrameReceive (m : HostMsg)
  | claim (m : HostMsg)
  | release (m : HostMsg)
  | hostWrite (m : HostMsg)
  | hostRead (m : HostMsg)
  | doorbell (m : HostMsg)
  | query (m : HostMsg)
  | attest (m : HostMsg)
  | relay (m : HostMsg)
  | tunnelledHostMessage (b : Block)
  | relayResponseForward (b : Block)
  | neighbourSolicitation (p : Port) (target : BitVec 128)
  | claimLapsed
  | eventResend
  -- site fabric
  | sfCreqReceive (p : BitVec 4) (f : SfFrame)
  | sfGrant (p : BitVec 4)
  | sfCgntReceive (p : BitVec 4) (f : SfFrame)
  | sfCrefReceive (p : BitVec 4) (f : SfFrame)
  | sfDataReceive (p : BitVec 4) (f : SfFrame)
  | sfDackReceive (p : BitVec 4) (f : SfFrame)
  | sfDnakReceive (p : BitVec 4) (f : SfFrame)
  | sfForeignFrame (p : BitVec 4) (why : ForeignWhy)
  | sfRetransmitTimeout (p : BitVec 4) (reqId : W32)
  | grantReclaimed (p : BitVec 4) (grantId : W32)
  | pfcPauseReceive (p : BitVec 4)
  -- collectives
  | collMessageReceive (g : BitVec 12) (m : CollMsg)
  | collComplete (g : BitVec 12) (cseq : W32)
  | collDeadlineExpiry (g : BitVec 12) (cseq : W32)
  | collForwardWindowExpiry (g : BitVec 12) (cseq : W32)
  | ringHopExpiry (g : BitVec 12) (cseq : W32)
  | bypassReceive (g : BitVec 12) (cseq : W32) (sender skipped : BitVec 14)
  | holdReceive (g : BitVec 12) (cseq : W32) (origin : BitVec 14)
  | mismatchNoticeReceive (g : BitVec 12) (cseq : W32) (index : BitVec 14) (field : BitVec 4)
  -- hive
  | stateFetchComplete (h : BitVec 4) (shard : W16)
  | parkedGradientQueue (h : BitVec 4) (shard : W16)
  | hiveUpdate (h : BitVec 4)
  | hiveUpdateComplete (h : BitVec 4)
  -- forager
  | roundEncode
  | deltaMerge (b : Block)
  | mergeClose (span : W16)
  | mergeWaitExpiry (span : W16)
  | baseMessageReceive (b : Block)
  | refreshRequestReceive (b : Block)
  | fgRefresh (w : Writer) (val : W32)
  | joinTableReceive (r : JoinReply)
  | gatewayRetryTimer
  -- far link
  | flEgressAdmit
  | cdxDataReceive (f : CdxFrame)
  | cdxAckReceive (f : CdxFrame)
  | cdxNakReceive (f : CdxFrame)
  | cdxProbeReceive (f : CdxFrame)
  | cdxProbeEchoReceive (f : CdxFrame)
  | cdxForeignFrame (why : ForeignWhy)
  | ackTimer
  | fragmentOverdue (fseq : W32)
  | fragmentRtoExpiry (fseq : W32)
  | linkDead
  | probeTimer
  | sessionDead
  | helloTimer
  | helloReceive (f : CdxFrame)
  | finishReceive (f : CdxFrame)
  | keyRollover
  | rxKeyDerive
  | keyctlNextKey (w : Writer)
  | keyctlRekey (w : Writer)
  -- error defence
  | replay (c : BitVec 7) (m : BitVec 2)
  | replayComplete (c : BitVec 7) (m : BitVec 2) (r : ReplayRes)
  | retirementRest (c : BitVec 7) (m : BitVec 2)
  | twinWrite (w : Writer) (c : BitVec 7) (m : BitVec 2) (on : Bool)
  -- swarm watch
  | swarmScan
  | recoveryDrainStart (d : Domain)
  | recoveryDrainEnd (d : Domain)
  | resetEnd (d : Domain)
  | coreIsolatedReplay (c : BitVec 7)
  | replayLimit (c : BitVec 7)
  | heartbeat
  | takeover (why : TakeoverWhy)
  | heartbeatLossSilence
  | swCmdRecover (w : Writer) (d : Domain)
  | swCmdRecord (w : Writer) (d : Domain)
  | swCmdTakeover (w : Writer)
  -- start-up and identity
  | powerGood
  | rootPllLock
  | rootOfTrustSelftest (die0 die1 entropy : Bool)
  | firmwareVerify
  | packageBringup (engines : List EngineReport)
  | hostPortStart
  | fwInstall (w : Writer)
  | setPreferred (w : Writer) (slot : BitVec 1)
  | countedSettingWrite (w : Writer) (k : Counted) (val : Nat)
  | ownerKeyChange (w : Writer) (slot : BitVec 2) (clear : Bool)
  | countedSettingCommit (ok : Bool)
  -- power
  | pwrEnRise
  | pwrEnFall
  | inputUndervoltage
  | inputOvervoltage
  | pmControlWindow (r : PowerRead)
  | thermalLimitBegin
  | thermalLimitEnd
  | thermalTrip
  | brakeChange (low : Bool)
  | leak
  | fwActionComplete
  | leakClear
  | pfcPauseExpiry (p : BitVec 4)
  | flFrameTransmit
  | crumbBlockRead (r : CrumbRead)
  deriving DecidableEq, Repr

end Sys2Proof
end

