-- ==== Sys2Proof/Machine/UnitsCore.lean ====
section
/-! DEFINITION. The state of a core (chapters 2, 3, 5 to 8, 15 and 16): contexts, tensor registers, command queues, engines,
vector unit, mover, arrival bits and receive area. Plain data only. -/

namespace Sys2Proof.Machine

/-! ### Tensor registers (R87, R58) -/

/-- The 256-bit tensor-register descriptor of R87; bits [59:32] are reserved. -/
structure TDesc where
  base : W64 := 0
  rows : BitVec 24 := 0
  cols : BitVec 24 := 0
  rstride : W32 := 0
  fmt : BitVec 3 := 0
  bscale : Bool := false
  slot : BitVec 12 := 0
  scale : Byte := 0
  pieceRows : W16 := 0
  arrBase : BitVec 12 := 0
  scaleOff : W32 := 0
  deriving DecidableEq, Repr, Inhabited

/-- A tensor register: its descriptor and its tag. -/
structure TReg where
  d : TDesc := {}
  tag : Tag := {}
  deriving DecidableEq, Repr, Inhabited

/-- A register an instruction names, with the descriptor and tag copied at issue (R90); `r = 32` names no register. -/
structure Opd where
  r : Nat := 32
  t : TReg := {}
  deriving DecidableEq, Repr, Inhabited

/-! ### Contexts (R43 to R50) -/

/-- The context states of R43. -/
inductive CtxSt where
  | idle
  | ready
  | waiting
  | halted
  | isolated
  deriving DecidableEq, Repr, Inhabited

/-- What a WAITING context waits on (R23, R45): arrival bits, selected tensor registers, a busy register that holds an
instruction, END's outstanding instructions, a held COLL (a credit), a tagged message, a SIGNAL's decision, a fence. -/
inductive Wait where
  | none
  | arr (first last : Nat)
  | tregs (mask : W32)
  | held (i : Instr)
  | endW
  | coll (i : Instr) (oldest : W32)
  | msg (td : BitVec 5)
  | signal (pd : BitVec 3)
  | fence
  deriving DecidableEq, Repr, Inhabited

/-- The context waits with an instruction that the sequencer holds and has not issued (R91, R358). -/
def Wait.isHeld (w : Wait) : Bool :=
  match w with
  | .held _ => true
  | .coll _ _ => true
  | _ => false

/-- Who offered a command (R46), in the order in which a queue decides within one cc (R115); a SIGNAL with the number of its command. -/
inductive OfferSrc where
  | host (req : HostMsg)
  | tagged
  | signal (core ctx no : Nat)
  | hive (h : Nat)
  deriving DecidableEq, Repr, Inhabited

/-- A command offered to a queue and not yet decided on. -/
structure Offer where
  src : OfferSrc
  cmd : Cmd
  cc : W64
  deriving DecidableEq, Repr, Inhabited

/-- An admitted command that has not started. -/
structure QCmd where
  cmd : Cmd
  cc : W64
  deriving DecidableEq, Repr, Inhabited

/-- The running command: its number, when it started, and by how many cc it started late (R50). -/
structure RunCmd where
  cmd : Cmd
  no : Nat
  startCC : W64
  overrun : Nat
  deriving DecidableEq, Repr, Inhabited

/-- An instruction issued and not completed: its number and the number of its command. -/
structure OpTok where
  id : Nat
  no : Nat
  deriving DecidableEq, Repr, Inhabited

/-- A tensor register that an outstanding instruction keeps busy (R91). -/
structure BusyT where
  t : Nat
  wr : Bool
  id : Nat
  deriving DecidableEq, Repr, Inhabited

/-- What a knock-back copies of a context (R529): its registers, its program counter and its running command. -/
structure CtxCopy where
  pc : W64
  sregs : Tbl W64
  tregs : Tbl TReg
  preds : BitVec 8
  run : Option RunCmd
  deriving DecidableEq, Repr, Inhabited

/-- The block that a WAIT.MSG has begun to take (R111): its sender, site, SHARD and tag, and the bytes written so far. -/
structure RxTake where
  src : Nat
  site : Nat
  shard : Nat
  tag : Tag
  got : Nat := 0
  deriving DecidableEq, Repr, Inhabited

/-- A context; `issued` is the cc of its last issue and `passed` that in which it was last passed over (R42, R95). -/
structure Ctx where
  st : CtxSt := .idle
  wait : Wait := .none
  pc : W64 := 0
  sregs : Tbl W64 := []
  tregs : Tbl TReg := []
  preds : BitVec 8 := 0
  lastReason : W16 := 0
  run : Option RunCmd := none
  queue : List QCmd := []
  offers : List Offer := []
  outst : List OpTok := []
  busy : List BusyT := []
  fenced : Bool := false
  counted : Bool := false
  member : Bool := false
  copy : Option CtxCopy := none
  poison : Bool := false
  decision : Option Nat := none
  taking : Option RxTake := none
  progress : Nat := 0
  issued : Option W64 := none
  passed : Option W64 := none
  deriving DecidableEq, Repr, Inhabited

/-! ### Engines -/

/-- A VOP that is attached, or attaches, to a STREAM (R108, R243 to R252), with its number in issue order. -/
structure Attach where
  id : Nat
  x : Nat
  eng : Nat
  epi : Bool
  fn : Nat
  td : Opd
  tb : Opd
  ss : W64
  stats : Option Opd
  rnd : Nat
  ovf : Bool
  deriving DecidableEq, Repr, Inhabited

/-- A LOADS with everything copied at issue: rows of K from `k0`, columns of N from `n0` (R154). -/
structure LoadsOp where
  tb : Opd := {}
  k0 : Nat := 0
  n0 : Nat := 0
  kn : Nat := 0
  nn : Nat := 0
  buf : Nat := 0
  tr : Bool := false
  sh : Bool := false
  deriving DecidableEq, Repr, Inhabited

/-- A STREAM with everything copied at issue: `m` rows, `m0` the first row of TA and TC, `ka` the first column of TA, `nc` that of
TC (R155), the extents and form of its buffer (R148), and its attachments. -/
structure StreamOp where
  ta : Opd := {}
  tc : Opd := {}
  m : Nat := 0
  m0 : Nat := 0
  ka : Nat := 0
  nc : Nat := 0
  buf : Nat := 0
  acc : Nat := 0
  ab : Nat := 0
  rnd : Nat := 0
  red : Nat := 0
  topk : Nat := 0
  dstb : Bool := false
  ovf : Bool := false
  tr : Bool := false
  waitp : Bool := false
  rel : Bool := false
  kn : Nat := 0
  nn : Nat := 0
  sh : Bool := false
  pro : Option Attach := none
  epi : Option Attach := none
  deriving DecidableEq, Repr, Inhabited

/-- A DRAIN with everything copied at issue. -/
structure DrainOp where
  tc : Opd := {}
  m : Nat := 0
  m0 : Nat := 0
  nc : Nat := 0
  nn : Nat := 0
  ab : Nat := 0
  rnd : Nat := 0
  ovf : Bool := false
  deriving DecidableEq, Repr, Inhabited

/-- What an instruction in an engine's queue does. -/
inductive EngKind where
  | loads (o : LoadsOp)
  | stream (o : StreamOp)
  | drain (o : DrainOp)
  | seed (v : W64)
  deriving DecidableEq, Repr, Inhabited

/-- A stationary buffer: its loaded state and form, its tile as element bits and block-scale bytes by k and n, and the tag of
the tensor that loaded it. -/
structure Buf where
  loaded : Bool := false
  sh : Bool := false
  kn : Nat := 0
  nn : Nat := 0
  fmt : Nat := 0
  tile : List (List (W32 × Byte)) := []
  tag : Tag := {}
  deriving DecidableEq, Repr, Inhabited

/-- A buffer as the sequencer takes it in issue order (R148). -/
structure BufIss where
  loaded : Bool := false
  sh : Bool := false
  kn : Nat := 0
  nn : Nat := 0
  fmt : Nat := 0
  deriving DecidableEq, Repr, Inhabited

/-- An accumulator bank: the form that last wrote it, its FP32 words by row × 256 + column, and, after a tile form has left it
undefined (R117), the number of the free values its unlisted words read as. -/
structure Bank where
  sh : Bool := false
  free : Option Nat := none
  vals : Tbl W32 := []
  deriving DecidableEq, Repr, Inhabited

/-- What conversions into one destination have done so far: counts, the largest finite source magnitude of R222, and the rows written. -/
structure Conv where
  st : ConvStat := {}
  amax : Nat × Int := (0, 0)
  rows : Nat := 0
  deriving DecidableEq, Repr, Inhabited

/-- What a converting instruction has done so far into its own destination and those of its prologue and epilogue: the flags it carries
into all of them, those it sets besides in its own, the number of its first draw, and whether some rows stay unwritten because no
replay resolved them. -/
structure Tally where
  own : Conv := {}
  pro : Conv := {}
  epi : Conv := {}
  carried : BitVec 12 := 0
  flags : BitVec 12 := 0
  draw0 : Nat := 0
  bad : Bool := false
  deriving DecidableEq, Repr, Inhabited

/-- An instruction in an engine's queue, with what its start fixed: the scale chosen, whether it takes a pre-pass, whether the
second sweep has begun, the same two for a prologue's and an epilogue's own destination, the buffer it reads, and, once every row of its
own is written or held, what it has done. `fed` says that the last row of a STREAM has passed steering (R147), `waited` that its wait for
a replay has been counted (R514). -/
structure EngOp where
  id : Nat
  x : Nat
  no : Nat
  kind : EngKind
  tile : Bool := false
  started : Bool := false
  cc : W64 := 0
  scale : Nat := 127
  prepass : Bool := false
  swept : Bool := false
  proScale : Nat := 127
  proPrepass : Bool := false
  epiScale : Nat := 127
  epiPrepass : Bool := false
  buf : Buf := {}
  seed : W64 := 0
  fed : Bool := false
  waited : Bool := false
  fin : Option Tally := none
  deriving DecidableEq, Repr, Inhabited

/-- A taster sample that waits for its comparison (R236): each narrow value with its wide value, and the layer. -/
structure Sample where
  vals : List (Num × Num)
  layer : Nat
  deriving DecidableEq, Repr, Inhabited

/-- The replay rows of one tile (R495 to R506): the instruction, rows `first` to `last` of it, which engines of the pair failed, the
number of the failed check in the order of failures, the engine the replay runs on once it has begun, and the first replay engine whose
own check failed (`other`). `sweep1` marks a check of the first sweep, `retire` rows that a retiring engine leaves to a replay without
having held them (R508). The totals held, like those of the replay, are the work of an engine that may be at fault: how they compare comes
with REPLAY_COMPLETE (log 76). -/
structure Hold where
  id : Nat
  first : Nat
  last : Nat
  kind : FailKind
  seq : Nat := 0
  sweep1 : Bool := false
  retire : Bool := false
  rep : Option Nat := none
  other : Option Nat := none
  deriving DecidableEq, Repr, Inhabited

/-- An engine; `last` is the STREAM that started last, and its form (R147). The taster draws from a generator of its own, `tasteSeed` after
`tasteDraws` draws (R234). -/
structure Engine where
  q : List EngOp := []
  ib0 : BufIss := {}
  ib1 : BufIss := {}
  bankForm0 : Bool := false
  bankForm1 : Bool := false
  buf0 : Buf := {}
  buf1 : Buf := {}
  bank0 : Bank := {}
  bank1 : Bank := {}
  last : Option (Nat × Bool) := none
  seed : W64 := 1
  tasteSeed : W64 := 0
  tasteDraws : Nat := 0
  tasteWin : Option Nat := none
  tasteCnt : Nat := 0
  samples : List Sample := []
  holds : List Hold := []
  retiring : Bool := false
  resting : Bool := false
  permanent : Bool := false
  deriving DecidableEq, Repr, Inhabited

/-! ### Vector unit, mover, receive area -/

/-- A standalone VOP in progress, with the scales chosen at issue for its destination and for its statistics register (R219). -/
structure VuOp where
  id : Nat
  x : Nat
  no : Nat
  fn : Nat
  td : Opd
  ta : Opd
  tb : Opd
  ss : W64
  stats : Option Opd
  rnd : Nat
  ovf : Bool
  scale : Nat
  prepass : Bool
  statScale : Nat
  deriving DecidableEq, Repr, Inhabited

/-- What the mover does: MOVE, STASH or FETCH. -/
inductive MvKind where
  | move
  | stash
  | fetch
  deriving DecidableEq, Repr, Inhabited

/-- A mover instruction in progress; `hdr` is the larder header that a FETCH read as it started (R263). -/
structure MvOp where
  kind : MvKind
  id : Nat
  x : Nat
  no : Nat
  td : Opd
  ta : Opd
  rnd : Nat
  ovf : Bool
  arr : Option Nat
  scale : Nat := 127
  prepass : Bool := false
  poisoned : Bool := false
  hdr : List Byte := []
  hdrBad : Bool := false
  deriving DecidableEq, Repr, Inhabited

/-- A SEND whose messages the transport has not all finished with: its instruction, messages left, and arrival bit. -/
structure SendOp where
  id : Nat
  x : Nat
  no : Nat
  left : Nat
  arr : Option Nat
  deriving DecidableEq, Repr, Inhabited

/-- A block held for a context, from a byte offset of its core's receive area on (R274); a block that the far link brought while the area
had no room stays in that link's receive part and has no place yet (log 71). -/
structure RxBlk where
  x : Nat
  pos : Option Nat := none
  blk : Block
  deriving DecidableEq, Repr, Inhabited

/-- A core's shared units: the arrival bits with those pending and those set in the present cc (R97), the attachments, the vector unit and
the mover with their generators (R140). -/
structure Core where
  arr : BitVec 4096 := 0
  arrPend : Tbl Nat := []
  arrSet : Tbl W64 := []
  vuSeed : W64 := 1
  mvSeed : W64 := 1
  attach : List Attach := []
  vu : List VuOp := []
  mv : List MvOp := []
  sends : List SendOp := []
  rx : List RxBlk := []
  drained : Bool := false
  deriving DecidableEq, Repr, Inhabited

end Sys2Proof.Machine
end

