-- ==== Sys2Proof/Machine/UnitsFabric.lean ====
section
/-! DEFINITION. The state of the collectives (chapter 11) and of the hives (chapter 12). Plain data only. -/

namespace Sys2Proof.Machine

/-! ### Groups and collectives -/

/-- A late contribution that the group carries (R370, R371), the algorithm it ran under, and the K2 phases it has seen end. -/
structure Carry where
  msg : CollMsg
  tree : Bool
  ends : Nat
  deriving DecidableEq, Repr, Inhabited

/-- A collective at this member (R357 to R374). `own` is the member's own contribution as words by element (top-k records as
their words), `acc` what it reduces or gathers, and `got` the elements received by segment, by child (2^14 + position), or at
2^15 for a result on its way down. `landed` lists the runs of elements written
of an all-gather (R362), `sent` the messages (segment, first element) to which the own contribution has gone, `skips` the members this one
has skipped, `nextHop` the member that a bypass put in the place of the successor, `lastSent` the partial last delivered to
the successor, `asked` the segments whose partial the predecessor has requested credit for, and `folds` the carried contributions that
the result takes as it is formed (R370, R371). -/
structure Coll where
  cseq : W32 := 0
  c : Nat := 0
  x : Nat := 0
  id : Nat := 0
  ck : Nat := 0
  op : Nat := 0
  ta : Opd := {}
  td : Opd := {}
  arr : Option Nat := none
  ext : Nat := 0
  unit : Nat := 1
  tag : Tag := {}
  tree : Bool := false
  own : List W32 := []
  ownSc : List Byte := []
  ownCount : Nat := 0
  ownFlags : BitVec 12 := 0
  clock : Option W64 := none
  hop : Option W64 := none
  acc : List W32 := []
  accSc : List Byte := []
  got : Tbl Nat := []
  flags : Tbl (BitVec 12) := []
  counts : Tbl Nat := []
  scale : Byte := 0x7F
  landed : List (Nat × Nat) := []
  sent : List (Nat × Nat) := []
  sentUp : Bool := false
  segDone : Bool := false
  closed : Bool := false
  windowOver : Bool := false
  part : Bool := false
  carried : Bool := false
  arose : Bool := false
  dead : Bool := false
  hiveDead : Bool := false
  mism : Option (Nat × Nat) := none
  skips : List Nat := []
  skippedMe : Bool := false
  nextHop : Option Nat := none
  lastSent : List CollMsg := []
  asked : List Nat := []
  folds : List Carry := []
  done : Bool := false
  deriving DecidableEq, Repr, Inhabited

/-- A notice about a collective that this member has not yet issued (R372, R378): the sender of a BYPASS and whom it skipped, or the
member and field of a mismatch. -/
inductive Notice where
  | bypass (cseq : W32) (sender skipped : Nat)
  | mismatch (cseq : W32) (index field : Nat)
  deriving DecidableEq, Repr, Inhabited

/-- A group at this member: the members copied at START, the COLLs issued since, the outstanding collectives, those that have
ended, messages of collectives not yet issued with when they arrived (R363, R367), notices about such, carried contributions, and
late contributions that have been dropped (collective, member and segment). -/
structure Group where
  members : List Nat := []
  cseq : W32 := 0
  outst : List Coll := []
  ended : List Coll := []
  early : List (W64 × CollMsg) := []
  notices : List Notice := []
  carry : List Carry := []
  gone : List (W32 × Nat × Nat) := []
  deriving DecidableEq, Repr, Inhabited

/-! ### Hives -/

/-- An ownership-table entry that a hive owns, copied at its START (R385, R386). -/
structure OwnE where
  shard : Nat := 0
  pinned : Bool := false
  layer : Nat := 0
  off : Nat := 0
  elems : Nat := 0
  home : Nat := 0
  wc : Nat := 0
  deriving DecidableEq, Repr, Inhabited

/-- A reduced gradient that a hive holds: its shard, FP32 elements and tag, and the group in whose room it stays (R396). -/
structure HiveG where
  shard : Nat
  vals : List W32
  tag : Tag
  room : Option Nat := none
  deriving DecidableEq, Repr, Inhabited

/-- A gradient that direct messages are filling (R393): the fragments written, how many elements they hold, the elements, the carried
flags of all of them (R62) and the tag of the last fragment. -/
structure DirectG where
  shard : Nat
  frags : List Nat := []
  count : Nat := 0
  flags : BitVec 12 := 0
  vals : Tbl W32 := []
  tag : Tag := {}
  deriving DecidableEq, Repr, Inhabited

/-- What a hive has gathered for a layer's norm record in the current step (R412), binary64 sums as their bits. -/
structure LayerSum where
  layer : Nat
  step : Nat := 0
  treated : List Nat := []
  g2 : W64 := 0
  w2 : W64 := 0
  d2 : W64 := 0
  cf : Option W32 := none
  dmax : W32 := 0
  flushed : Nat := 0
  count : Nat := 0
  status : Nat := 0
  updated : Bool := false
  deriving DecidableEq, Repr, Inhabited

/-- A shard update in progress: its gradient, the learning rate and the layer-order bytes 2 to 7 read at its start. -/
structure HiveRun where
  g : HiveG
  lr : W32
  lotBytes : List Byte
  pos : Nat
  deriving DecidableEq, Repr, Inhabited

/-- A slot of a hive's staging area (R399): the shard whose state it holds, its bytes from an offset on, and whether the home held an
uncorrectable granule. -/
structure StageSlot where
  shard : Nat
  off : Nat
  len : Nat
  bad : Bool := false
  deriving DecidableEq, Repr, Inhabited

/-- A hive. `staged` and `fetching` list shards whose state is, or is coming, in the staging area, whose ring of slots is `slots`; `unread` the
shards whose master the forager has still to read for the last round (R73); `seed` is its generator (R140). -/
structure Hive where
  own : List OwnE := []
  prog : List Byte := []
  queue : List HiveG := []
  parked : List HiveG := []
  held : List HiveG := []
  direct : List DirectG := []
  staged : List Nat := []
  slots : List StageSlot := []
  fetching : List Nat := []
  cur : Option HiveRun := none
  sums : List LayerSum := []
  latchN : W32 := 0
  latchClip : W32 := 0
  gWritten : Bool := false
  unread : List Nat := []
  told : Bool := false
  seed : W64 := 1
  deriving DecidableEq, Repr, Inhabited

end Sys2Proof.Machine
end

