-- ==== Sys2Proof/Machine/UnitsPort.lean ====
section
/-! DEFINITION. The state of the ports (chapter 10): the host port's front end and the site-fabric transport. Plain data only. -/

namespace Sys2Proof.Machine

/-- An event that waits for its acknowledgement (R317, R320). -/
structure HpEvent where
  seq : W32
  payload : List Byte
  deriving DecidableEq, Repr, Inhabited

/-- The host port's command front end: the claimant, the kept responses of R315 oldest first, the requests being carried out,
when each was admitted (R316), the event queue, and when the claimant and its acknowledgements were last heard. -/
structure HostPort where
  claimant : Option HostSrc := none
  epoch : W32 := 0
  kept : List HostMsg := []
  inProg : List HostMsg := []
  admitted : List (HostMsg × W64) := []
  events : List HpEvent := []
  nextSeq : W32 := 0
  lost : Nat := 0
  lastMsg : W64 := 0
  lastEack : W64 := 0
  macOverride : BitVec 48 := 0
  deriving DecidableEq, Repr, Inhabited

/-! ### Site-fabric transport (R330 to R344) -/

/-- Whose work a message is, told when the transport has finished with it (R111, R342): a SEND, a collective, a relayed host
message, the forager, a fragment that the far link brought, or nobody. -/
inductive TxOwner where
  | send (core id : Nat)
  | coll (group : Nat) (cseq : W32)
  | relay
  | forager
  | far (fseq : W32)
  | none
  deriving DecidableEq, Repr, Inhabited

/-- A message that the sender's transport has not finished with: its request number, destination, the message, the grant once
it has come, the frame sent last, and how often frames of it were resent. -/
structure SfTx where
  reqId : W32
  dst : BitVec 14
  unit : BitVec 4
  index : BitVec 12
  blk : Block
  owner : TxOwner
  grant : Option W32 := none
  last : SfFrame
  lastCC : W64
  resends : Nat := 0
  tried : Nat := 0
  far : Option (Byte × BitVec 14) := none
  coll : Option CollOut := none
  deriving DecidableEq, Repr, Inhabited

/-- A receiver's active grant: the request it answers, its bound T in ns, when it was made, the place kept for the message in a core's
receive area, whether the forager is to send it to another site (log 17), the bytes received by offset, and the offset for which a DNAK was
last sent. -/
structure SfGrant where
  grantId : W32
  req : SfFrame
  tNs : Nat
  cc : W64
  pos : Option Nat := none
  far : Bool := false
  parts : List (Nat × List Byte) := []
  tag : Tag := {}
  desc : BDesc := {}
  nak : Option (Nat × W64) := none
  coll : Option CollOut := none
  deriving DecidableEq, Repr, Inhabited

/-- A site-fabric port's transport: messages to send, active grants, withheld requests oldest first
(each with whether the forager is to send its message to another site, log 17), delivered messages by
sender and request with the grant number, delivered blocks by the tuple of R64, the next numbers, and whether a received PFC
pause lasts. -/
structure SfPort where
  tx : List SfTx := []
  grants : List SfGrant := []
  held : List (SfFrame × Bool) := []
  delivered : List (Nat × Nat × W32) := []
  dups : List (Nat × Nat × Nat × Nat × Nat) := []
  nextReq : W32 := 1
  nextGrant : W32 := 1
  paused : Bool := false
  unsent : List SfFrame := []
  deriving DecidableEq, Repr, Inhabited

end Sys2Proof.Machine
end

