-- ==== Sys2Proof/Machine/UnitsFar.lean ====
section
/-! DEFINITION. The state of the forager (chapter 13) and of the far link (chapter 14). Plain data only. -/

namespace Sys2Proof.Machine

/-! ### Forager -/

/-- A valid span, copied at the forager's START (R422). -/
structure Span where
  id : Nat := 0
  layer : Nat := 0
  site : Nat := 0
  module : Nat := 0
  hive : Nat := 0
  first : Nat := 0
  elems : Nat := 0
  off4k : Nat := 0
  deriving DecidableEq, Repr, Inhabited

/-- A pending slot of a shard (R427, R437): its round, the record bytes it holds, the messages not yet acknowledged, and the spans
whose records an install has subtracted. -/
structure Slot where
  shard : Nat
  hive : Nat
  round : Nat
  bytes : Nat := 0
  subtracted : List Nat := []
  deriving DecidableEq, Repr, Inhabited

/-- A delta message of a pending slot that has not been acknowledged (R437): its round, span and the whole message, and since when no
transport has held it. -/
structure DeltaMsg where
  round : Nat
  span : Nat
  blk : Block
  failed : Option W64 := none
  deriving DecidableEq, Repr, Inhabited

/-- The open merge of a span at its merge module: the contributions merged, by site and round, whether it is marked stale (R439), merges
closed since START, when the own site became complete, and COUNT, STALE and BASE_ROUND of the last publication. -/
structure Merge where
  span : Nat
  contribs : List (Nat × Nat) := []
  stale : Bool := false
  flags : BitVec 12 := 0
  closes : Nat := 0
  ownCC : Option W64 := none
  lastPub : Nat := 0
  lastFlags : BitVec 12 := 0
  lastCount : Nat := 0
  deriving DecidableEq, Repr, Inhabited

/-- What a site has contributed to a span: elements received by round, and when they became complete (R440, R441). -/
structure Received where
  span : Nat
  site : Nat
  round : Nat
  elems : Nat
  doneCC : Option W64 := none
  deriving DecidableEq, Repr, Inhabited

/-- How a merge module sees a site for a span: active, the merges in a row that it missed (R440), and whether it has become active again
since it last got a base (R445). -/
structure SiteView where
  span : Nat
  site : Nat
  active : Bool := true
  missed : Nat := 0
  again : Bool := false
  deriving DecidableEq, Repr, Inhabited

/-- A base kept for installation (R447): its messages, and whether K4 has taken it into the installation queue (R448). -/
structure Kept where
  span : Nat
  base : Nat
  prev : Nat
  installAt : Nat
  refresh : Bool
  msgs : List Block
  queued : Bool := false
  deriving DecidableEq, Repr, Inhabited

/-- The forager: the spans copied at START, the closed rounds still to encode with their SAMPLES, the pending slots and their unacknowledged
messages, merges and sites at a merge module, kept bases, JOIN_ROUND and the spans that have a base while the site joins, the tuples of
R468 and the next SEQ of this run's series toward other sites, the messages that have reached it, and its generator (R433). -/
structure Fg where
  spans : List Span := []
  encode : List (Nat × W64) := []
  slots : List Slot := []
  deltas : List DeltaMsg := []
  merges : List Merge := []
  recv : List Received := []
  sites : List SiteView := []
  kept : List Kept := []
  joined : Option Nat := none
  based : List Nat := []
  farSeen : List (Nat × Nat × Nat × Nat × Nat × W32) := []
  farSeq : W32 := 0
  inbox : List Block := []
  seed : W64 := 1
  deriving DecidableEq, Repr, Inhabited

/-! ### Far link -/

/-- A fragment in the transmit part of the long-haul buffer (R471, R480): its message, number, whether its timer runs and when it last
restarted, and its own timeout in ns when doubled (R477). -/
structure FragTx where
  fseq : W32
  blk : Block
  timed : Bool := false
  timer : W64 := 0
  rto : Option Nat := none
  deriving DecidableEq, Repr, Inhabited

/-- A fragment that the receive part holds shards of: its shape once a shard has shown it, the shards by index, when it first counted as
seen, when a NAK entry last named it, and whether a shard has shown another shape (R472, R474). -/
structure FragRx where
  fseq : W32
  known : Bool := false
  k : Nat := 16
  p : Nat := 2
  shard : Nat := 64
  len : Nat := 32
  shards : Tbl (List Byte) := []
  firstCC : W64 := 0
  nakCC : Option W64 := none
  differs : Bool := false
  deriving DecidableEq, Repr, Inhabited

/-- A frame that waits for admission to the transmit queue, or stands in it (R481): not yet sealed, its class, when it was admitted, and
for a PROBE_ECHO when the PROBE arrived. -/
structure FlFrame where
  f : CdxFrame
  cls : Nat := 0
  cc : W64 := 0
  since : W64 := 0
  waited : Bool := false
  deriving DecidableEq, Repr, Inhabited

/-- A key exchange in progress (R482, R484): whether this side started it, the draw of the own ephemeral key, own and peer HELLO bodies,
the peer's parts so far, and the secrets they give. -/
structure Hello where
  starter : Bool := false
  draw : Nat := 0
  parts : Tbl (List Byte) := []
  own : List Byte := []
  peer : List Byte := []
  tsTx : List Byte := []
  tsRx : List Byte := []
  finTx : List Byte := []
  finRx : List Byte := []
  sentFin : Bool := false
  deriving DecidableEq, Repr, Inhabited

/-- A key of the link with its number and salt (R484). -/
structure LinkKey where
  no : Nat := 0
  key : List Byte := []
  salt : List Byte := []
  deriving DecidableEq, Repr, Inhabited

/-- The link session. `sess` is the SESSION of its frames, and `sessionNo` the one this side will use as initiator. `txKeys` and `rxKeys`
are the keys in the slots of each direction, `txNo` the one in use for sending, and `txTs` and `rxTs` the secrets of the highest of each,
the only ones not erased; `rxFresh` is the secret that a new exchange has given for the next receive key (R484, R486, R488). -/
structure Fl where
  sess : W32 := 0
  initiator : Bool := false
  hello : Option Hello := none
  rekey : Option Hello := none
  txKeys : List LinkKey := []
  txTs : List Byte := []
  txNo : Nat := 0
  txUnder : Nat := 0
  moveAsked : Bool := false
  peerRxNo : Nat := 0
  rxKeys : List LinkKey := []
  rxTs : List Byte := []
  rxFresh : Option (List Byte) := none
  rxSwitch : Option W64 := none
  frameNo : W64 := 0
  seenNo : List Nat := []
  highNo : Nat := 0
  nextFseq : W32 := 0
  tx : List FragTx := []
  cum : W32 := 0
  stored : List Nat := []
  fwd : List FragRx := []
  rx : List FragRx := []
  sinceAck : Nat := 0
  storeCC : Option W64 := none
  echo : Option (W32 × W64) := none
  waiting : List FlFrame := []
  txq : List FlFrame := []
  sessionNo : W32 := 0
  lastAuth : W64 := 0
  deadCC : W64 := 0
  probeCC : W64 := 0
  helloCC : W64 := 0
  refusedCC : Option W64 := none
  deriving DecidableEq, Repr, Inhabited

end Sys2Proof.Machine
end

