-- ==== Sys2Proof/Machine/UnitsModule.lean ====
section
/-! DEFINITION. The state of the module as a whole (chapters 16 to 18): swarm watch and crumb store, start-up, the counted-setting store,
the boot store, the memory system's training values, and the power controller. Plain data only. -/

namespace Sys2Proof.Machine

/-! ### Swarm watch -/

/-- A recovery in progress (R523 to R531): the domain, its phase (1 FENCED, 2 DRAINING, 3 reset, 4 replay), cause, crumb record
number, when its drain clock started, the functions that were RUNNING, the suspects still to replay, and the context named. -/
structure Recovery where
  d : Domain
  phase : Nat := 1
  cause : Nat := 0
  record : Nat := 0xFFFFFFFF
  clock : W64 := 0
  fns : List Fn := []
  suspects : List Nat := []
  replaying : Option Nat := none
  replayCC : W64 := 0
  outcomes : Tbl Nat := []
  ends : Tbl Nat := []
  named : Nat := 0xFFFF
  ctxs : List Nat := []
  keep : Bool := true
  deriving DecidableEq, Repr, Inhabited

/-- The kind of a wait with what it concerns (R23, R516): an arrival bit, a busy register, the instructions of a command, a credit of a unit
(numbered as DST_UNIT of R330) or, for a held COLL, of a group, a message, a fence, a memory-port die. -/
inductive WaitOn where
  | arrival (bit : Nat)
  | treg (r : Nat)
  | instrs
  | credit (unit index : Nat)
  | message
  | decision
  | stepFence
  | roundFence
  | memory (die : Nat)
  | hive (h : Nat)
  deriving DecidableEq, Repr, Inhabited

/-- A node of the wait-for graph as one scan saw it (R516): its number, its waits and the numbers of their targets, whether it has a wait, and
its progress count. -/
structure Node where
  id : Nat
  targets : List Nat := []
  why : List WaitOn := []
  ext : Bool := false
  waits : Bool := false
  work : Bool := false
  openQ : Bool := false
  progress : Nat := 0
  deriving DecidableEq, Repr, Inhabited

/-- The progress count that a node published, and the scan in which it last rose (R518). -/
structure Progress where
  count : Nat := 0
  scan : Nat := 0
  deriving DecidableEq, Repr, Inhabited

/-- A crumb record that is being taken (R537): its cause, domain, and the blocks still to read, as kind and instance. -/
structure CrumbJob where
  number : Nat
  cause : Nat
  domKind : Nat
  inst : Nat
  cc : W64
  replay : W32 := 0
  stops : List Nat := []
  todo : List (Nat × Nat)
  got : List Byte := []
  entries : Nat := 0
  bad : Nat := 0
  deriving DecidableEq, Repr, Inhabited

/-- A crumb record in the store. -/
structure CrumbRec where
  number : Nat
  cc : W64
  bytes : List Byte
  deriving DecidableEq, Repr, Inhabited

/-- The escalation of R521: the hung component's nodes, the smaller domains still to recover, and when the last of them ended. -/
structure Escalation where
  nodes : List Nat
  todo : List Domain
  scan : Nat := 0
  deriving DecidableEq, Repr, Inhabited

/-- The swarm watch. -/
structure Sw where
  recs : List Recovery := []
  stuck : List Node := []
  prog : Tbl Progress := []
  scan : Nat := 0
  hung : List (List Nat) := []
  quiet : Nat := 0
  esc : List Escalation := []
  crumbNo : Nat := 0
  job : Option CrumbJob := none
  jobs : List CrumbJob := []
  crumbs : Tbl (Option CrumbRec) := []
  trail : List (List Byte) := []
  beat : W64 := 0
  silent : Bool := false
  deriving DecidableEq, Repr, Inhabited

/-! ### Start-up and the stores -/

/-- Start-up (R548, R549, R579, R580): the stage reached, the cause of a stop, the pins, and whether every transmitter is squelched. -/
structure Boot where
  stage : Option Nat := none
  cause : Nat := 0
  pwrEn : Bool := true
  pgood : Bool := true
  thermtrip : Bool := false
  inputOk : Bool := true
  inputCut : Bool := false
  pllLocked : Bool := false
  squelch : Bool := false
  claimWait : Bool := false
  slotRun : Nat := 0
  fallback : Bool := false
  resA : Nat := 0
  resB : Nat := 0
  image : List Byte := []
  deriving DecidableEq, Repr, Inhabited

/-- A change that waits for its commit (R568): the setting's number in R572, its instances, the value before and after, the claim epoch
and writer, and when the write was accepted. -/
structure CsJob where
  setting : Nat
  insts : List Nat := [0]
  old : Nat := 0
  new : Nat := 0
  detail : List Byte := []
  epoch : W32 := 0
  mac : BitVec 48 := 0
  cc : W64 := 0
  deriving DecidableEq, Repr, Inhabited

/-- A firmware action in progress (R554): the action, its slot, and the image to write. -/
structure FwJob where
  action : Nat
  slot : Nat
  image : Option (List Byte)
  reason : Nat := 0
  deriving DecidableEq, Repr, Inhabited

/-- What both control dies keep over a cold start: committed settings and their use counts, owner keys, the journal, and the boot store
(R551 to R571). -/
structure Store where
  siteId : Byte := 0xFF
  gateway : Bool := false
  floor : W32 := 0
  gen : Nat := 0
  hostMac : BitVec 48 := 0
  retire : BitVec 384 := 0
  siteUsed : Nat := 0
  gatewayUsed : Nat := 0
  floorUsed : Nat := 0
  genUsed : Nat := 0
  macUsed : Nat := 0
  owners : Tbl (List Byte) := []
  journal : List (List Byte) := []
  slotA : List Byte := Config.factorySlotA
  slotB : List Byte := Config.factorySlotB
  preferred : Nat := 0
  boots : W32 := Config.bootCount
  deriving DecidableEq, Repr

/-- The memory system beside its registers: a START that is training and from what (R293), whether the channels have stayed in
self-refresh with their contents since MS was last RUNNING (R295), the channels that refresh at a shortened interval (R292), SPREAD_UNITS
of the contents (R280), and SCRUB_HOURS of the scrub pass in progress, 0 for none (R298). -/
structure Ms where
  training : Bool := false
  full : Bool := true
  kept : Bool := false
  derated : List Nat := []
  spread : Nat := 0
  scrub : Nat := 0
  deriving DecidableEq, Repr, Inhabited

/-- The power controller beside its registers: the pins BRAKE_N and LEAK_N, thermal limiting and its limit, and since when P has
exceeded L, and whether LIMIT_UNMET has been set for it (R583 to R587). -/
structure Pm where
  brakeLow : Bool := false
  leakLow : Bool := false
  thermal : Bool := false
  thermalW : Nat := 0
  unmet : Option W64 := none
  told : Bool := false
  deriving DecidableEq, Repr, Inhabited

end Sys2Proof.Machine
end

