-- ==== Sys2Proof/Machine/State.lean ====
section
/-! DEFINITION. The state of the module: everything the spec gives it, the queue of waiting commands, and the reasons a step
can stop. Plain data only. -/

namespace Sys2Proof.Machine

/-- Why a step stops with a fault. -/
inductive Fault where
  /-- Raised by a command whose operand names a unit the module does not have (a core at or above 96): no such command can
  arise. Safe. -/
  | noSuchUnit
  deriving DecidableEq, Repr, Inhabited

/-- Why a step is refused. -/
inductive Refusal where
  /-- Raised by the dispatcher for a command that has no meaning yet. Safe. -/
  | notModelled (mnemonic : String)
  deriving DecidableEq, Repr, Inhabited

/-- The state of the module. -/
structure State where
  pending : List Instr := []
  freeCtr : Nat := 0
  nextId : Nat := 1
  cycle : W64 := 0
  ctl : Tbl W32 := []
  rsv : List Nat := []
  mem : List Host.Cell := []
  ue : List Nat := []
  sce : List Nat := []
  ctxs : Tbl Ctx := []
  cores : Tbl Core := []
  engines : Tbl Engine := []
  hp : HostPort := {}
  hpOut : List HostMsg := []
  ports : Tbl SfPort := []
  sfOut : List (Nat × SfFrame) := []
  sfSeq : Tbl W32 := []
  dieSt : Tbl Nat := []
  selfFar : List Block := []
  kbStep : Nat := 0
  kbEval : Bool := false
  kbRepeat : Bool := false
  groups : Tbl Group := []
  hives : Tbl Hive := []
  fg : Fg := {}
  fl : Fl := {}
  flOut : List CdxFrame := []
  advOut : List (Port × BitVec 128) := []
  frontIn : List Block := []
  sw : Sw := {}
  boot : Boot := {}
  store : Store := {}
  csJob : Option CsJob := none
  fwJob : Option FwJob := none
  ms : Ms := {}
  pm : Pm := {}
  deriving DecidableEq, Repr

/-- The committed SITE_ID (R10, R566). -/
def State.siteId (s : State) : Byte := s.store.siteId

/-- The module right after reset: power has just been applied with PWR_EN high, every register holds its value after cold start, nothing
has run, and the start-up of R548 lies ahead (log 4). -/
def State.reset : State := {}

end Sys2Proof.Machine
end

