-- ==== Sys2Proof/Machine/Ops.lean ====
section
/-! DEFINITION. The named operations over the state: register words and fields, counters and flags, function states, units,
memory and its access rules, tags. Everything else is written in terms of these. -/

namespace Sys2Proof.Machine

abbrev Out := Host.Outcome State Fault Refusal

/-! ### Register words (R54, R57, R182) -/

/-- A stored register word. -/
def State.word (s : State) (blk inst off : Nat) : W32 :=
  let k := ctlKey blk inst off
  Tbl.get (ctlDefault k) s.ctl k

def State.setWord (s : State) (blk inst off : Nat) (v : W32) : State :=
  let k := ctlKey blk inst off
  { s with ctl := Tbl.set (ctlDefault k) s.ctl k v }

/-- A field of a stored word. -/
def State.fld (s : State) (blk inst off hi lo : Nat) : Nat := bitsOf (s.word blk inst off).toNat hi lo

def State.setFld (s : State) (blk inst off hi lo v : Nat) : State :=
  s.setWord blk inst off (BitVec.ofNat 32 (setBits (s.word blk inst off).toNat hi lo v))

/-- A register of 8 bytes: the word at `off` and the one after it. -/
def State.word64 (s : State) (blk inst off : Nat) : Nat :=
  (s.word blk inst off).toNat + 2 ^ 32 * (s.word blk inst (off + 4)).toNat

def State.setWord64 (s : State) (blk inst off v : Nat) : State :=
  (s.setWord blk inst off (BitVec.ofNat 32 v)).setWord blk inst (off + 4) (BitVec.ofNat 32 (v / 2 ^ 32))

/-- Add to a 64-bit counter, which holds at its maximum (R182). -/
def State.count64 (s : State) (blk inst off n : Nat) : State :=
  if n = 0 then s else s.setWord64 blk inst off (min (s.word64 blk inst off + n) (2 ^ 64 - 1))

/-- Add to a 32-bit counter, which holds at its maximum (R17). -/
def State.count32 (s : State) (blk inst off n : Nat) : State :=
  if n = 0 then s
  else s.setWord blk inst off (BitVec.ofNat 32 (min ((s.word blk inst off).toNat + n) (2 ^ 32 - 1)))

/-- Add `n` to a field of `w` bits that holds at its maximum. -/
def State.countFld (s : State) (blk inst off hi lo n : Nat) : State :=
  s.setFld blk inst off hi lo (min (s.fld blk inst off hi lo + n) (2 ^ (hi + 1 - lo) - 1))

/-- Set flag `b` of the W1C register at `off`, counting the event (R16, R17, R57). -/
def State.setFlag (s : State) (blk inst off b : Nat) : State :=
  (s.setFld blk inst off b b 1).count32 blk inst (off + 0x100 + 4 * b) 1

/-- The same for `n` setting events at once, none for n = 0. -/
def State.setFlagN (s : State) (n blk inst off b : Nat) : State :=
  if n = 0 then s else (s.setFld blk inst off b b 1).count32 blk inst (off + 0x100 + 4 * b) n

/-- `setFlag` under a condition. -/
def State.setFlagIf (s : State) (c : Bool) (blk inst off b : Nat) : State :=
  if c then s.setFlag blk inst off b else s

/-! ### The crumb trail (R538) -/

/-- Add a trail entry: reason code, source kind of R539, source instance and detail. The latest 1,024 stay. -/
def State.addTrail (s : State) (reason kind inst detail : Nat) : State :=
  let e := leBytes 8 s.cycle.toNat ++ leBytes 2 reason ++ leBytes 1 kind ++ leBytes 1 0 ++ leBytes 2 inst ++ leBytes 2 detail
  let l := s.sw.trail ++ [e]
  { s with sw := { s.sw with trail := l.drop (l.length - 1024) } }

/-! ### Functions and their states (R20, R54) -/

/-- Block, number and header offset of a function; the far link's header stands at 0x0200 of the FG block (R489). -/
def fnBlk : Fn → Nat × Nat × Nat
  | .core c => (0x10, c.toNat, 0)
  | .engine c m => (0x11, c.toNat * 4 + m.toNat, 0)
  | .ms => (0x20, 0, 0)
  | .hp => (0x21, 0, 0)
  | .sf p => (0x22, p.toNat, 0)
  | .group g => (0x23, g.toNat, 0)
  | .hive h => (0x24, h.toNat, 0)
  | .forager => (0x25, 0, 0)
  | .fl => (0x25, 0, 0x200)

def fnOFF : Nat := 0
def fnCONFIGURING : Nat := 1
def fnRUNNING : Nat := 2
def fnFENCED : Nat := 3
def fnDRAINING : Nat := 4

/-- xx_STATE.STATE of a function. -/
def State.fnState (s : State) (f : Fn) : Nat :=
  let (b, i, o) := fnBlk f
  s.fld b i o 2 0

def State.setFnState (s : State) (f : Fn) (st : Nat) : State :=
  let (b, i, o) := fnBlk f
  s.setFld b i o 2 0 st

/-- xx_REASON.REASON of a function. -/
def State.fnReason (s : State) (f : Fn) : Nat :=
  let (b, i, o) := fnBlk f
  s.fld b i (o + 8) 15 0

def State.setFnReason (s : State) (f : Fn) (r : Nat) : State :=
  let (b, i, o) := fnBlk f
  s.setFld b i (o + 8) 15 0 r

def State.fnRunning (s : State) (f : Fn) : Bool := s.fnState f == 2

/-! ### Reason codes (R118) -/

def rsOK : Nat := 0x0000
def rsBAD_STATE : Nat := 0x0005
def rsDEPENDENCY : Nat := 0x0006
def rsCTX_CLOSED : Nat := 0x0007
def rsISOLATED : Nat := 0x0008
def rsQUEUE_FULL : Nat := 0x0009
def rsBUSY : Nat := 0x000A
def rsBAD_ENTRY : Nat := 0x000B
def rsBOUND_UNMET : Nat := 0x000C
def rsOVERRUN_STOPPED : Nat := 0x000D
def rsUNMAPPED : Nat := 0x0101
def rsNOT_PERMITTED : Nat := 0x0102
def rsMISALIGNED : Nat := 0x0103
def rsOPERAND_SPACE : Nat := 0x0104
def rsILLEGAL : Nat := 0x0201
def rsBAD_OPERAND : Nat := 0x0202
def rsBAD_FORMAT : Nat := 0x0203
def rsBAD_SHAPE : Nat := 0x0204
def rsNOT_OWNER : Nat := 0x0205
def rsBUF_EMPTY : Nat := 0x0206
def rsARR_BUSY : Nat := 0x0207
def rsBAD_TAG : Nat := 0x0208
def rsRESERVED_SET : Nat := 0x0301
def rsOVERCOMMIT : Nat := 0x0302
def rsLIMIT_USED : Nat := 0x0303
def rsSITE_UNSET : Nat := 0x0304
def rsBAD_SETTING : Nat := 0x0305
def rsMISMATCH : Nat := 0x0401
def rsCLOCK_LOST : Nat := 0x0501

/-- The reason code of a function state (R20, R118): OFF 1, CONFIGURING 2, FENCED 3, DRAINING 4; RUNNING is no refusal. -/
def stateReason (st : Nat) : Nat :=
  if st = 0 then 1 else if st = 1 then 2 else if st = 2 then 0 else st

/-! ### Units by number -/

def State.ctx (s : State) (c x : Nat) : Ctx := Tbl.get {} s.ctxs (c * 4 + x)
def State.setCtx (s : State) (c x : Nat) (k : Ctx) : State := { s with ctxs := Tbl.set {} s.ctxs (c * 4 + x) k }
def State.updCtx (s : State) (c x : Nat) (f : Ctx → Ctx) : State := s.setCtx c x (f (s.ctx c x))

def State.core (s : State) (c : Nat) : Core := Tbl.get {} s.cores c
def State.setCore (s : State) (c : Nat) (k : Core) : State := { s with cores := Tbl.set {} s.cores c k }
def State.updCore (s : State) (c : Nat) (f : Core → Core) : State := s.setCore c (f (s.core c))

def State.eng (s : State) (c m : Nat) : Engine := Tbl.get {} s.engines (c * 4 + m)
def State.setEng (s : State) (c m : Nat) (e : Engine) : State := { s with engines := Tbl.set {} s.engines (c * 4 + m) e }
def State.updEng (s : State) (c m : Nat) (f : Engine → Engine) : State := s.setEng c m (f (s.eng c m))

def State.port (s : State) (p : Nat) : SfPort := Tbl.get {} s.ports p
def State.setPort (s : State) (p : Nat) (k : SfPort) : State := { s with ports := Tbl.set {} s.ports p k }
def State.updPort (s : State) (p : Nat) (f : SfPort → SfPort) : State := s.setPort p (f (s.port p))

/-- Cores c0 to c95 exist (R7). -/
def coreOk (c : BitVec 7) : Bool := c.toNat < 96

/-! ### Free values -/

/-- Take the number of the next free value. -/
def State.nextFree (s : State) : Nat × State := (s.freeCtr, { s with freeCtr := s.freeCtr + 1 })

/-- Take the next number for an instruction, a command or a collective. -/
def State.newId (s : State) : Nat × State := (s.nextId, { s with nextId := s.nextId + 1 })

/-! ### Memory (R51, R270, R280) -/

/-- What a byte that no entry lists reads as (R271 for spaces 1, 2 and 4; log 2 for main memory). -/
def unlistedByte : Byte := 0

/-- The canonical form of the memory list: addresses strictly rising, and no entry equal to what an unlisted address reads as. -/
def Memory.wf (m : List Host.Cell) : Bool := Tbl.wf unlistedByte m

def State.byte (s : State) (a : Nat) : Byte := Tbl.get unlistedByte s.mem a

def State.setByte (s : State) (a : Nat) (b : Byte) : State := { s with mem := Tbl.set unlistedByte s.mem a b }

/-- `n` bytes from address `a` upwards. -/
def State.readMem (s : State) (a : Nat) : Nat → List Byte
  | 0 => []
  | n + 1 => s.byte a :: s.readMem (a + 1) n

/-- Write bytes from address `a` upwards. A granule written again is no longer uncorrectable (R290). -/
def State.writeBytes (s : State) (a : Nat) : List Byte → State
  | [] => s
  | b :: bs => (s.setByte a b).writeBytes (a + 1) bs

/-- The space code of an address. -/
def spaceOf (a : Nat) : Nat := a / 2 ^ 60

/-- What an error covers: a 16-byte granule of main memory (R288), an 8-byte SRAM word of the other stores (R271). -/
def errLen (g : Nat) : Nat := if spaceOf g = 3 then 16 else 8

/-- The granule or word at `g` shares a byte with `n` bytes from `a`. -/
def errMeets (a n g : Nat) : Bool := decide (a < g + errLen g) && decide (g < a + n)

def State.clearUe (s : State) (a n : Nat) : State :=
  { s with ue := s.ue.filter (fun g => !errMeets a n g), sce := s.sce.filter (fun g => !errMeets a n g) }

def State.writeMem (s : State) (a : Nat) (bs : List Byte) : State := (s.writeBytes a bs).clearUe a bs.length

/-- The little-endian number in `n` bytes from `a`. -/
def State.readNat (s : State) (a n : Nat) : Nat := leNat (s.readMem a n)

def State.writeNat (s : State) (a n v : Nat) : State := s.writeMem a (leBytes n v)

/-- Some byte of `n` from `a` lies in an uncorrectable granule or SRAM word (R271, R290). -/
def State.ueIn (s : State) (a n : Nat) : Bool := s.ue.any (errMeets a n)

/-- No byte of `n` from `a` lies in a granule or word in error. -/
def State.clean (s : State) (a n : Nat) : Bool := !s.ueIn a n && !s.sce.any (errMeets a n)

/-- The offset of an address of spaces 1 to 4 in its store and the capacity of that store; `none` when a zero field is set or
a unit number is out of range (R51). -/
def storeOf (a : Nat) : Option (Nat × Nat) :=
  let sp := spaceOf a
  let r := a % 2 ^ 60
  if sp = 1 then
    if r / 2 ^ 39 = 0 && r / 2 ^ 25 % 128 = 0 && r / 2 ^ 32 < 96 then some (r % 2 ^ 25, Config.coreStoreBytes) else none
  else if sp = 2 then if r / 2 ^ 29 = 0 then some (r, Config.moduleStoreBytes) else none
  else if sp = 3 then if r / 2 ^ 42 = 0 then some (r, Config.mainBytes) else none
  else if sp = 4 then
    if r / 2 ^ 36 = 0 && r / 2 ^ 28 % 16 = 0 then some (r % 2 ^ 28, Config.fastTierBytes) else none
  else none

/-- All of `n` bytes from `a` lie within the valid range of one store of spaces 1 to 4 (R51). -/
def inStore (a n : Nat) : Bool :=
  match storeOf a with
  | some (o, cap) => decide (o + n ≤ cap) && decide (o < cap)
  | none => false

/-- The core, or the hive, whose store an address of space 1 or 4 lies in. -/
def unitOf (a : Nat) : Nat := a % 2 ^ 60 / 2 ^ 32

def coreAddr (c off : Nat) : Nat := 2 ^ 60 + c * 2 ^ 32 + off
def modAddr (off : Nat) : Nat := 2 * 2 ^ 60 + off
def mainAddr (off : Nat) : Nat := 3 * 2 ^ 60 + off
def fastAddr (h off : Nat) : Nat := 4 * 2 ^ 60 + h * 2 ^ 32 + off

/-- The spread part of main memory in bytes (R280). -/
def State.spread (s : State) : Nat := s.fld 0x20 0 0x10 15 0 * 32 * 2 ^ 30

/-- The memory-port die and the channel of a main-memory offset (R280). -/
def State.dieOf (s : State) (o : Nat) : Nat × Nat :=
  if o < s.spread then
    let g := o / 4096
    (g % 32, g % 32 * 16 + g / 32 % 16)
  else
    let d := (Config.mainBytes - s.spread) / 32
    let die := (o - s.spread) / d
    (die, die * 16 + (o - s.spread) % d / 4096 % 16)

/-- FENCED (3) or DRAINING (4) while a memory-port die is under recovery, 0 otherwise (R296). -/
def State.die (s : State) (m : Nat) : Nat := Tbl.get 0 s.dieSt m

/-- The first refusing state among the dies of the granules from `o`, `n` of them (R296). -/
def State.dieRefusal (s : State) (o : Nat) : Nat → Nat
  | 0 => 0
  | n + 1 => if s.die (s.dieOf o).1 ≠ 0 then s.die (s.dieOf o).1 else s.dieRefusal ((o / 4096 + 1) * 4096) n

/-- A memory-port die under recovery refuses an access of `n` bytes from `a` in main memory (R296). -/
def State.dieHolds (s : State) (a n : Nat) : Bool :=
  spaceOf a == 3 && !s.dieSt.isEmpty && s.dieRefusal (a % 2 ^ 60) ((a % 4096 + n + 4095) / 4096) != 0

/-- The state in which the owner of a store refuses an access, as a reason code; 0 when it is served (R270, R296). -/
def State.storeRefusal (s : State) (a n : Nat) : Nat :=
  let sp := spaceOf a
  if sp = 1 then
    let st := s.fld 0x10 (unitOf a) 0 2 0
    if st = 3 || st = 4 then st else 0
  else if sp = 4 then
    let st := s.fld 0x24 (unitOf a) 0 2 0
    if st = 3 || st = 4 then st else 0
  else
    let st := s.fld 0x20 0 0 2 0
    if st ≠ 2 then stateReason st
    else if s.dieHolds a n then s.dieRefusal (a % 2 ^ 60) ((a % 4096 + n + 4095) / 4096)
    else 0

/-- Why an access of `n` bytes from `a` in spaces 1 to 4 is refused, 0 when it is served (R52, R270). -/
def State.accessReason (s : State) (a n : Nat) : Nat :=
  if n = 0 then 0 else if !inStore a n then rsUNMAPPED else s.storeRefusal a n

/-- An uncorrectable granule at global address `g` is met by a read (cause 0) or a scrub (cause 1): counted, flagged and
recorded (R290, R301); a double-bit error of an SRAM word is counted and flagged (R271, R300). -/
def State.ueEvent (s : State) (g cause : Nat) : State :=
  if spaceOf g = 3 then
    let s := (s.count64 0x20 0 0x48 1).setFlag 0x20 0 0x18 1
    (s.setWord64 0x20 0 0x20 g).setWord 0x20 0 0x28 (BitVec.ofNat 32 (cause * 2 ^ 24 + (s.dieOf (g % 2 ^ 60)).2))
  else (s.count64 0x20 0 0x60 1).setFlag 0x20 0 0x18 4

/-- SRAM words with a single-bit error that a read meets are corrected, written back, counted and flagged (R271, R300). -/
def State.correct (s : State) (ws : List Nat) : State :=
  if ws.isEmpty then s
  else
    { (s.count64 0x20 0 0x58 ws.length).setFlagN ws.length 0x20 0 0x18 3 with sce := s.sce.filter (fun g => !ws.contains g) }

/-- Every granule or SRAM word in error among `n` bytes from `a` is met by a read. -/
def State.noteUe (s : State) (a n : Nat) : State :=
  ((s.ue.filter (errMeets a n)).foldl (fun s g => s.ueEvent g 0) s).correct (s.sce.filter (errMeets a n))

/-- Bytes of a range take the value of a byte that nothing has written. -/
def State.clearRange (s : State) (a n : Nat) : State :=
  { s with mem := s.mem.filter (fun e => !(decide (a ≤ e.1) && decide (e.1 < a + n))),
           ue := s.ue.filter (fun g => !errMeets a n g), sce := s.sce.filter (fun g => !errMeets a n g) }

/-- A read of some ranges of `n` bytes from `a`: what it does at each granule or word in error, and whether one was uncorrectable, so that what
it gives carries POISON (R271, R290). -/
def State.meetUe (s : State) (rs : List (Nat × Nat)) : State × Bool :=
  (rs.foldl (fun s p => s.noteUe p.1 p.2) s, rs.any (fun p => s.ueIn p.1 p.2))

/-- A 16-byte address register: the word at the lowest offset holds bits [31:0]. -/
def State.word128 (s : State) (blk inst off : Nat) : Nat := s.word64 blk inst off + 2 ^ 64 * s.word64 blk inst (off + 8)

/-! ### Tags (R58 to R62) -/

/-- The 128 bits of a tag. -/
def tagBits (t : Tag) : Nat :=
  t.kind.toNat * 2 ^ 124 + t.fmt.toNat * 2 ^ 121 + t.scale.toNat * 2 ^ 113 + t.layer.toNat * 2 ^ 97 + t.step.toNat * 2 ^ 73
    + t.round.toNat * 2 ^ 57 + t.group.toNat * 2 ^ 45 + t.op.toNat * 2 ^ 41 + t.flags.toNat * 2 ^ 29 + t.count.toNat * 2 ^ 15
    + t.tres.toNat * 2 ^ 12

/-- The fields that stand in 128 bits. -/
def tagFields (v : Nat) : Tag :=
  { kind := BitVec.ofNat 4 (v / 2 ^ 124), fmt := BitVec.ofNat 3 (v / 2 ^ 121), scale := BitVec.ofNat 8 (v / 2 ^ 113),
    layer := BitVec.ofNat 16 (v / 2 ^ 97), step := BitVec.ofNat 24 (v / 2 ^ 73), round := BitVec.ofNat 16 (v / 2 ^ 57),
    group := BitVec.ofNat 12 (v / 2 ^ 45), op := BitVec.ofNat 4 (v / 2 ^ 41), flags := BitVec.ofNat 12 (v / 2 ^ 29),
    count := BitVec.ofNat 14 (v / 2 ^ 15), tres := BitVec.ofNat 3 (v / 2 ^ 12) }

/-- The residue modulo 7 of a tag with TRES taken as zero (R58). -/
def tagResidue (t : Tag) : Nat := tagBits { t with tres := 0 } % 7

/-- Write TRES. -/
def sealTag (t : Tag) : Tag := { t with tres := BitVec.ofNat 3 (tagResidue t) }

/-- TRES is right (R60). -/
def tagOk (t : Tag) : Bool := t.tres.toNat == tagResidue t

/-- The tag of 128 bits. Its reserved bits count in the residue, so that TRES is right or wrong as it stands there, and are written as 0
from then on (R58, R60). -/
def tagOfBits (v : Nat) : Tag :=
  let t := tagFields v
  if bitsOf v 11 0 = 0 then t
  else if setBits v 14 12 0 % 7 = bitsOf v 14 12 then sealTag t else { t with tres := 7 }

def tagBytes (t : Tag) : List Byte := leBytes 16 (tagBits t)
def tagOfBytes (bs : List Byte) : Tag := tagOfBits (leNat (bs.take 16))

/-! Flag numbers within FLAGS, bit b of R62 at b − 29. -/
def fMISMATCH : Nat := 0
def fSTALE : Nat := 1
def fCARRIED : Nat := 2
def fEVAL : Nat := 3
def fTWIN : Nat := 4
def fPOISON : Nat := 5
def fEMPTY_K : Nat := 6
def fPARTIAL : Nat := 7
def fLATE : Nat := 8
def fUNDERFLOW : Nat := 9
def fOVERFLOW : Nat := 10
def fNONFINITE : Nat := 11

def hasFlag (t : Tag) (b : Nat) : Bool := t.flags.getLsbD b

def flagBit (b : Nat) (on : Bool) : BitVec 12 := if on then BitVec.ofNat 12 (2 ^ b) else 0

/-- The carried flags of R62: NONFINITE, OVERFLOW, UNDERFLOW_SEEN, PARTIAL, POISON, EVAL, CARRIED, STALE. -/
def carriedMask : BitVec 12 := 0xEAE#12

def carriedOf (t : Tag) : BitVec 12 := t.flags &&& carriedMask

/-- A tag as a reader uses it: of one whose TRES is wrong only that it carries POISON (R60). -/
def readTag (t : Tag) : Tag := if tagOk t then t else sealTag { flags := flagBit fPOISON true }

/-- LAYER of a tag whose TRES is right. -/
def tagLayer (t : Tag) : Option Nat := if tagOk t then some t.layer.toNat else none

/-- OR flags into a tag, writing TRES anew; a wrong TRES leaves POISON behind it (R60). -/
def orFlags (t : Tag) (f : BitVec 12) : Tag := sealTag { readTag t with flags := (readTag t).flags ||| f }

/-- A reader treats a tag whose TRES is wrong as POISON (R60). -/
def poisoned (t : Tag) : Bool := !tagOk t || hasFlag t fPOISON

/-- CT_STEP_STATUS.STEP, CT_ROUND.ROUND and CT_STEP_STATUS.EVAL. -/
def State.step24 (s : State) : Nat := s.fld 0 0 0x204 23 0
def State.round16 (s : State) : Nat := s.fld 0 0 0x208 15 0
def State.evalOn (s : State) : Bool := s.fld 0 0 0x204 31 31 == 1

/-- STEP and ROUND take the current values, and TRES is written. -/
def State.now (s : State) (t : Tag) : Tag :=
  sealTag { t with step := BitVec.ofNat 24 s.step24, round := BitVec.ofNat 16 s.round16 }

/-- A core's tag unit fills STEP, ROUND and TRES and sets EVAL in evaluation mode (R59, R62, R76). -/
def State.stamp (s : State) (t : Tag) : Tag := s.now { t with flags := t.flags ||| flagBit fEVAL s.evalOn }

/-! ### Block descriptors (R63) -/

def descBytes (d : BDesc) : List Byte :=
  leBytes 16 (d.extent.toNat * 2 ^ 88 + d.shard.toNat * 2 ^ 72 + d.srcModule.toNat * 2 ^ 58 + d.srcSite.toNat * 2 ^ 50
    + d.seq.toNat * 2 ^ 18 + d.frag.toNat)

def descOfBytes (bs : List Byte) : BDesc :=
  let v := leNat (bs.take 16)
  { extent := BitVec.ofNat 40 (v / 2 ^ 88), shard := BitVec.ofNat 16 (v / 2 ^ 72), srcModule := BitVec.ofNat 14 (v / 2 ^ 58),
    srcSite := BitVec.ofNat 8 (v / 2 ^ 50), seq := BitVec.ofNat 32 (v / 2 ^ 18), frag := BitVec.ofNat 18 v }

/-- A block as bytes: tag, descriptor, payload. -/
def blockBytes (b : Block) : List Byte := tagBytes b.tag ++ descBytes b.desc ++ b.payload

def blockOfBytes (bs : List Byte) : Block :=
  { tag := tagOfBytes bs, desc := descOfBytes (bs.drop 16), payload := bs.drop 32 }

end Sys2Proof.Machine
end

