-- ==== Sys2Proof/Machine/CoreOps.lean ====
section
/-! DEFINITION. Operations over a core: scalar, predicate and tensor registers, outstanding instructions and busy registers
(R91), arrival bits (R96, R97), tensor-register descriptors as bytes (R87). -/

namespace Sys2Proof.Machine

/-! ### Registers of a context -/

def Ctx.sreg (k : Ctx) (n : Nat) : W64 := Tbl.get 0 k.sregs n
def Ctx.setSreg (k : Ctx) (n : Nat) (v : W64) : Ctx := { k with sregs := Tbl.set 0 k.sregs n v }
def Ctx.treg (k : Ctx) (n : Nat) : TReg := Tbl.get {} k.tregs n
def Ctx.setTreg (k : Ctx) (n : Nat) (v : TReg) : Ctx := { k with tregs := Tbl.set {} k.tregs n v }

/-- p0 always reads as 1 (R84). -/
def Ctx.pred (k : Ctx) (n : Nat) : Bool := n == 0 || k.preds.getLsbD n

/-- A write to p0 is ignored (R84). -/
def Ctx.setPred (k : Ctx) (n : Nat) (b : Bool) : Ctx :=
  if n = 0 then k
  else { k with preds := BitVec.ofNat 8 (setBits k.preds.toNat n n (b2n b)) }

/-- The register an instruction names, with its descriptor and tag copied (R90). -/
def Ctx.opd (k : Ctx) (n : Nat) : Opd := { r := n, t := k.treg n }

/-! ### Outstanding instructions and busy registers (R91, R100) -/

def Ctx.busyWr (k : Ctx) (t : Nat) : Bool := k.busy.any (fun b => b.t == t && b.wr)
def Ctx.busyAny (k : Ctx) (t : Nat) : Bool := k.busy.any (fun b => b.t == t)

/-- The sequencer holds an instruction that names a source busy for writing or a destination busy at all (R91). -/
def Ctx.holds (k : Ctx) (dsts srcs : List Nat) : Bool := srcs.any k.busyWr || dsts.any k.busyAny

/-- The number of the running command, 0 when none runs. -/
def Ctx.cmdNo (k : Ctx) : Nat :=
  match k.run with
  | some r => r.no
  | none => 0

/-- Issue instruction `id`: it is outstanding, and its registers are busy. -/
def Ctx.begin (k : Ctx) (id : Nat) (dsts srcs : List Nat) : Ctx :=
  { k with outst := k.outst ++ [{ id := id, no := k.cmdNo }],
           busy := k.busy ++ (dsts.map (fun t => { t := t, wr := true, id := id }))
             ++ (srcs.map (fun t => { t := t, wr := false, id := id })) }

/-- Instruction `id` has read its last element: its sources are no longer busy. -/
def Ctx.readDone (k : Ctx) (id : Nat) : Ctx := { k with busy := k.busy.filter (fun b => !(b.id == id && !b.wr)) }

/-- Instruction `id` has completed. -/
def Ctx.done (k : Ctx) (id : Nat) : Ctx :=
  { k with outst := k.outst.filter (fun o => o.id != id), busy := k.busy.filter (fun b => b.id != id) }

/-- Some instruction of the running command is outstanding (R100). -/
def Ctx.pendingOps (k : Ctx) : Bool := k.outst.any (fun o => o.no == k.cmdNo)

def State.opDone (s : State) (c x id : Nat) : State := s.updCtx c x (fun k => k.done id)

/-- Change the tag of a destination register; register 32 is none. A tag whose TRES is wrong counts as one with POISON alone (R60). -/
def State.updTag (s : State) (c x r : Nat) (f : Tag → Tag) : State :=
  if r < 32 then s.updCtx c x (fun k => k.setTreg r { k.treg r with tag := f (readTag (k.treg r).tag) }) else s

/-- A completing instruction ORs flags into its destination's tag (R90, R106). -/
def State.orDst (s : State) (c x r : Nat) (fl : BitVec 12) : State := s.updTag c x r (fun t => orFlags t fl)

/-- A completing instruction that wrote its destination: the flags it produces ORed in, EVAL among them in evaluation mode
(R76), FMT and SCALE written, and nothing else changed (R90). -/
def State.tagWritten (s : State) (c x r : Nat) (fl : BitVec 12) (fmt scale : Nat) : State :=
  s.updTag c x r (fun t => sealTag { t with flags := t.flags ||| fl ||| flagBit fEVAL s.evalOn,
                                            fmt := BitVec.ofNat 3 fmt, scale := BitVec.ofNat 8 scale })

/-- The same for an instruction that may have written nothing, and then changes only FLAGS (R90). -/
def State.tagWrote (s : State) (c x r : Nat) (fl : BitVec 12) (fmt scale : Nat) (wrote : Bool) : State :=
  if wrote then s.tagWritten c x r fl fmt scale else s.orDst c x r fl

/-! ### Arrival bits (R96, R97) -/

def Core.arrBit (k : Core) (b : Nat) : Bool := k.arr.getLsbD b

def Core.setArrBit (k : Core) (b : Nat) (v : Bool) : Core :=
  { k with arr := BitVec.ofNat 4096 (setBits k.arr.toNat b b (b2n v)) }

/-- Bits first .. last are all set. -/
def Core.arrAll (k : Core) (first last : Nat) : Bool :=
  (List.range (last + 1 - first)).all (fun i => k.arrBit (first + i))

/-- Clear bits first .. last. -/
def Core.clearArr (k : Core) (first last : Nat) : Core :=
  let w := last + 1 - first
  { k with arr := BitVec.ofNat 4096 (setBits k.arr.toNat (first + w - 1) first 0) }

/-- Bit `b` is pending for an outstanding instruction (R97). -/
def Core.arrPending (k : Core) (b : Nat) : Bool := Tbl.get 0 k.arrPend b != 0

def Core.anyPending (k : Core) (first last : Nat) : Bool := k.arrPend.any (fun p => decide (first ≤ p.1) && decide (p.1 ≤ last))

/-- An instruction that will set bits first .. last clears them at issue and makes them pending. -/
def Core.claimArr (k : Core) (first last id : Nat) : Core :=
  let k := k.clearArr first last
  { k with arrPend := (List.range (last + 1 - first)).foldl (fun t i => Tbl.set 0 t (first + i) id) k.arrPend }

/-- The owning operation sets bit `b`; it is no longer pending. The cc is kept, because ARR.CLR in the same cc leaves the bit set. -/
def State.setArr (s : State) (c b : Nat) : State :=
  s.updCore c (fun k => { k.setArrBit b true with
    arrPend := k.arrPend.erase b, arrSet := Tbl.put (k.arrSet.filter (fun p => p.2 == s.cycle)) b s.cycle })

/-- ARR.CLR clears bits first .. last, but for those that an event set in the same cc (R97). -/
def Core.arrClr (k : Core) (cc : W64) (first last : Nat) : Core :=
  let keep := k.arrSet.filter (fun p => p.2 == cc)
  { keep.foldl (fun q p => if decide (first ≤ p.1) && decide (p.1 ≤ last) && k.arrBit p.1 then q.setArrBit p.1 true else q)
      (k.clearArr first last) with arrSet := keep }

def State.setArrOpt (s : State) (c : Nat) (b : Option Nat) : State :=
  match b with
  | some b => s.setArr c b
  | none => s

/-- Every bit an instruction still holds pending is no longer pending. -/
def State.dropPending (s : State) (c id : Nat) : State :=
  s.updCore c (fun k => { k with arrPend := k.arrPend.filter (fun p => p.2 != id) })

/-! ### Descriptors in memory (R87, R116) -/

def tdescBits (d : TDesc) : Nat :=
  d.base.toNat * 2 ^ 192 + d.rows.toNat * 2 ^ 168 + d.cols.toNat * 2 ^ 144 + d.rstride.toNat * 2 ^ 112 + d.fmt.toNat * 2 ^ 109
    + b2n d.bscale * 2 ^ 108 + d.slot.toNat * 2 ^ 96 + d.scale.toNat * 2 ^ 88 + d.pieceRows.toNat * 2 ^ 72
    + d.arrBase.toNat * 2 ^ 60 + d.scaleOff.toNat

def tdescOfBits (v : Nat) : TDesc :=
  { base := BitVec.ofNat 64 (v / 2 ^ 192), rows := BitVec.ofNat 24 (v / 2 ^ 168), cols := BitVec.ofNat 24 (v / 2 ^ 144),
    rstride := BitVec.ofNat 32 (v / 2 ^ 112), fmt := BitVec.ofNat 3 (v / 2 ^ 109), bscale := bitAt v 108,
    slot := BitVec.ofNat 12 (v / 2 ^ 96), scale := BitVec.ofNat 8 (v / 2 ^ 88), pieceRows := BitVec.ofNat 16 (v / 2 ^ 72),
    arrBase := BitVec.ofNat 12 (v / 2 ^ 60), scaleOff := BitVec.ofNat 32 v }

end Sys2Proof.Machine
end

