-- ==== Sys2Proof/Machine/Operands.lean ====
section
/-! DEFINITION. Tensor operands (R87 to R92, R126 to R129, R593, R594): where an element and a block scale stand, reading and
writing elements, the extents a descriptor names, and the operand checks with their rank (R119). -/

namespace Sys2Proof.Machine

/-! ### Places (R88) -/

/-- The bit address of element (i, j). -/
def elemBit (d : TDesc) (i j : Nat) : Nat := 8 * (d.base.toNat + i * d.rstride.toNat) + j * fmtBits d.fmt.toNat

/-- The address of the block scale of element (i, j). -/
def scaleAddr (d : TDesc) (i j : Nat) : Nat :=
  d.base.toNat + d.scaleOff.toNat + i * cdiv d.cols.toNat 32 + j / 32

/-- Bytes of one row of `n` elements. -/
def rowBytes (d : TDesc) (n : Nat) : Nat := cdiv (n * fmtBits d.fmt.toNat) 8

/-- The bits of element (i, j). -/
def State.elemBits (s : State) (d : TDesc) (i j : Nat) : Nat :=
  let w := fmtBits d.fmt.toNat
  let b := elemBit d i j
  let n := cdiv (b % 8 + w) 8
  s.readNat (b / 8) n / 2 ^ (b % 8) % 2 ^ w

/-- Write the bits of element (i, j), leaving its neighbours. -/
def State.putElem (s : State) (d : TDesc) (i j v : Nat) : State :=
  let w := fmtBits d.fmt.toNat
  let b := elemBit d i j
  let n := cdiv (b % 8 + w) 8
  s.writeNat (b / 8) n (setBits (s.readNat (b / 8) n) (b % 8 + w - 1) (b % 8) v)

/-- The block-scale byte of element (i, j), 0x7F without block scales (R126). -/
def State.bscaleOf (s : State) (d : TDesc) (i j : Nat) : Byte := if d.bscale then s.byte (scaleAddr d i j) else 0x7F

/-- The value of element (i, j) under the tag's SCALE (R126, R127). -/
def State.elem (s : State) (o : TReg) (i j : Nat) : Num :=
  elemValue o.d.fmt.toNat o.tag.scale.toNat (s.bscaleOf o.d i j).toNat (s.elemBits o.d i j)

/-- Elements (i, j0) to (i, j0 + n − 1). -/
def State.elemRow (s : State) (o : TReg) (i j0 n : Nat) : List Num := (List.range n).map (fun j => s.elem o i (j0 + j))

/-- The elements' FP32 words, converted exactly where they lie in the range of FP32 (R189, R124). -/
def State.f32Elem (s : State) (o : TReg) (i j : Nat) : W32 := toF32 (s.elem o i j)

/-- Write a list of element codes of row i from column j. -/
def State.putRow (s : State) (d : TDesc) (i j : Nat) : List Nat → State
  | [] => s
  | v :: vs => (s.putElem d i j v).putRow d i (j + 1) vs

/-- Write one FP32 word as element (i, j) of an FP32 tensor. -/
def State.putF32 (s : State) (d : TDesc) (i j : Nat) (w : W32) : State := s.writeNat (elemBit d i j / 8) 4 w.toNat

/-! ### Converting a row into a destination (R131, R129) -/

/-- Cut a row's values into blocks of R129: the block that holds column j0 ends at the next multiple of 32. -/
def cutBlocks : Nat → Nat → List Num → List (Nat × List Num)
  | 0, _, _ => []
  | _ + 1, _, [] => []
  | fuel + 1, j, v :: vs =>
    let n := 32 - j % 32
    (j, (v :: vs).take n) :: cutBlocks fuel (j + n) ((v :: vs).drop n)

/-- Convert and write the values of row i from column j0, block by block; `dr` gives the draw of each element. A conversion that covers part
of a block chooses the scale from the elements it converts and writes it as the block's; the block's other codes stay (log 60). -/
def State.convRow (s : State) (d : TDesc) (scale rnd : Nat) (ovf : Bool) (dr : Nat → Nat) (i j0 : Nat) (vs : List Num) :
    State × ConvStat :=
  if d.bscale then
    (cutBlocks (vs.length + 1) j0 vs).foldl (fun (p : State × ConvStat) b =>
      let o := convertBlock d.fmt.toNat scale true rnd ovf (fun k => dr (b.1 - j0 + k)) b.2
      let s1 := p.1.putRow d i b.1 o.codes
      (s1.writeMem (scaleAddr d i b.1) [BitVec.ofNat 8 o.bscale], p.2.join o.stat)) (s, {})
  else
    let o := convertBlock d.fmt.toNat scale false rnd ovf dr vs
    (s.putRow d i j0 o.codes, o.stat)

/-- The bits after a row's last element, up to its byte boundary, are written as 0 with the last block (R129). -/
def State.padRow (s : State) (d : TDesc) (i : Nat) : State :=
  let w := fmtBits d.fmt.toNat
  let e := d.cols.toNat * w
  if d.bscale && e % 8 ≠ 0 then
    let a := d.base.toNat + i * d.rstride.toNat + e / 8
    s.writeMem a [BitVec.ofNat 8 ((s.byte a).toNat % 2 ^ (e % 8))]
  else s

/-! ### Checks (R89, R110, R119, R128, R593, R594) -/

/-- Bytes from BASE to the end of the last element. -/
def spanBytes (d : TDesc) : Nat :=
  if d.rows = 0 || d.cols = 0 then 0 else (d.rows.toNat - 1) * d.rstride.toNat + rowBytes d d.cols.toNat

/-- BASE or the block-scale array lies in space 0 (R594). -/
def inControl (d : TDesc) : Bool :=
  spaceOf d.base.toNat == 0 || (d.bscale && spaceOf ((d.base.toNat + d.scaleOff.toNat) % 2 ^ 64) == 0)

/-- The extent a register names, elements and block scales, is mapped and served: 0, or the reason it is not (R52, R270, R594). -/
def State.spanReason (s : State) (d : TDesc) : Nat :=
  if inControl d then rsOPERAND_SPACE
  else
    let r := s.accessReason d.base.toNat (spanBytes d)
    if r ≠ 0 then r
    else if d.bscale && d.rows ≠ 0 then
      s.accessReason (d.base.toNat + d.scaleOff.toNat) (d.rows.toNat * cdiv d.cols.toNat 32)
    else 0

/-- BASE and RSTRIDE are multiples of 64 (R89). -/
def alignedD (d : TDesc) : Bool := d.base.toNat % 64 == 0 && d.rstride.toNat % 64 == 0

/-- FP6 and FP4 need block scales, FP32, BF16 and FP16 take none (R89, R128). -/
def formatD (d : TDesc) : Bool :=
  !((d.fmt.toNat == 5 || d.fmt.toNat == 6) && !d.bscale) && !(d.bscale && d.fmt.toNat < 3)

/-- The first reason of a list of checks that fails, 0 when none does. -/
def firstReason : List (Bool × Nat) → Nat
  | [] => 0
  | (bad, r) :: cs => if bad then r else firstReason cs

/-- The first non-zero reason of a list. -/
def firstNonzero : List Nat → Nat
  | [] => 0
  | r :: rs => if r ≠ 0 then r else firstNonzero rs

/-- The address and space checks of the registers an engine or vector instruction names, in the order of R119. -/
def State.engAddr (s : State) (ds : List TDesc) : Nat :=
  firstNonzero (ds.map (fun d => if !alignedD d then rsMISALIGNED else s.spanReason d))

/-- What R89 and R594 ask of a register that is named, whether or not an element of it is used. -/
def nameReason (ds : List TDesc) : Nat :=
  firstNonzero (ds.map (fun d => if !alignedD d then rsMISALIGNED else if inControl d then rsOPERAND_SPACE else 0))

/-- The same for an instruction to which R89's alignment does not apply. -/
def State.anyAddr (s : State) (ds : List TDesc) : Nat := firstNonzero (ds.map s.spanReason)

/-- BAD_FORMAT for a named register (R89, R128). -/
def fmtReason (ds : List TDesc) : Nat := if ds.all formatD then 0 else rsBAD_FORMAT

/-! ### Granules and words in error under the elements a read covers (R290, R165) -/

/-- Rows i0 .. and columns j0 .. of a register: the first of each, and how many. -/
structure Rect where
  i0 : Nat := 0
  j0 : Nat := 0
  ni : Nat := 0
  nj : Nat := 0
  deriving DecidableEq, Repr, Inhabited

/-- All of a register. -/
def TDesc.all (d : TDesc) : Rect := { ni := d.rows.toNat, nj := d.cols.toNat }

/-- The byte spans of the elements of a rectangle, and of their block scales. -/
def rectSpans (d : TDesc) (q : Rect) : List (Nat × Nat) :=
  if q.nj = 0 then []
  else ((List.range q.ni).map (fun i =>
    let a := elemBit d (q.i0 + i) q.j0 / 8
    let z := (elemBit d (q.i0 + i) (q.j0 + q.nj - 1) + fmtBits d.fmt.toNat + 7) / 8
    let b := scaleAddr d (q.i0 + i) q.j0
    (a, z - a) :: (if d.bscale then [(b, scaleAddr d (q.i0 + i) (q.j0 + q.nj - 1) + 1 - b)] else []))).flatten

/-- Those of some granules and words in error that a read of some rectangles meets. -/
def errHits (gs : List Nat) (rs : List (TDesc × Rect)) : List Nat :=
  if gs.isEmpty then []
  else
    let sp := (rs.map (fun r => rectSpans r.1 r.2)).flatten
    gs.filter (fun g => sp.any (fun p => errMeets p.1 p.2 g))

/-- A read of some rectangles meets an uncorrectable granule or word: the destination gets POISON (R271, R290). -/
def State.poisonRects (s : State) (rs : List (TDesc × Rect)) : Bool := !(errHits s.ue rs).isEmpty

/-- What R271 and R290 state of each granule or word in error that a read of some rectangles meets. -/
def State.noteRects (s : State) (rs : List (TDesc × Rect)) : State :=
  ((errHits s.ue rs).foldl (fun s g => s.ueEvent g 0) s).correct (errHits s.sce rs)

/-- The same for all of a register. -/
def State.poisonRead (s : State) (d : TDesc) : Bool := s.poisonRects [(d, d.all)]
def State.noteRead (s : State) (d : TDesc) : State := s.noteRects [(d, d.all)]

/-- A register has the shape (rows, cols) of another. -/
def sameShape (a b : TDesc) : Bool := a.rows == b.rows && a.cols == b.cols

end Sys2Proof.Machine
end

