-- ==== Sys2Proof/Machine/Transport.lean ====
section
/-! DEFINITION. The sender's side of the site-fabric transport (R329 to R342, R463 to R466): the route table, sending frames,
offering a message, dividing a block into messages, choosing a gateway, and ending a message. -/

namespace Sys2Proof.Machine

/-- This module's id as port `p` holds it (R328). -/
def State.moduleId (s : State) (p : Nat) : Nat := s.fld 0x22 p 0x10 13 0

/-- This module's id as the SF blocks that are not OFF hold it (R328); SF0's where every port is OFF. -/
def State.ownModule (s : State) : Nat :=
  s.moduleId (((List.range 16).find? (fun p => s.fld 0x22 p 0 2 0 != 0)).getD 0)

/-- LINK_UP of a port's xx_LINK (R306). -/
def State.sfLinkUp (s : State) (p : Nat) : Bool := s.fld 0x22 p 0x24 1 1 == 1

/-- The route-table entry of a port for module `d` (R337). -/
def State.routeAddr (s : State) (p d : Nat) : Nat := modAddr (s.fld 0x22 p 0x20 25 0 * 16 + 16 * d)

/-- A read of the route table meets an error of its SRAM words (R271). -/
def State.noteRoute (s : State) (p d : Nat) : State := if d < s.fld 0x22 p 0x28 13 0 then s.noteUe (s.routeAddr p d) 16 else s

/-- The path bound in ns of the route-table entry for module `d`, `none` when the entry is not valid (R337). -/
def State.route (s : State) (p d : Nat) : Option Nat :=
  if d < s.fld 0x22 p 0x28 13 0 then
    let a := s.routeAddr p d
    if (s.byte a).toNat % 2 = 1 then
      some (((List.range (s.byte (a + 1)).toNat).map (fun h => s.readNat (a + 4 + 2 * h) 2)).sum)
    else none
  else none

/-- The retry budget of a port in ns (R341). -/
def State.retryBudget (s : State) (p : Nat) : Nat := s.fld 0x22 p 0x18 31 16 * (s.fld 0x22 p 0x18 3 0 + 1)

/-- The frame in which port `p` sends to module `d` of its site (R329). -/
def State.sfEth (s : State) (p d : Nat) : SfEth :=
  let e : SfEth := { pcp := BitVec.ofNat 3 (s.fld 0x22 p 0x10 28 26), vid := BitVec.ofNat 12 (s.fld 0x22 p 0x10 25 14) }
  if s.fld 0x22 p 0x10 29 29 = 0 then
    { e with ether := some (BitVec.ofNat 16 (s.fld 0x22 p 0x14 31 16)), mac := BitVec.ofNat 48 (s.fld 0x22 p 0x30 31 24 * 2 ^ 24
        + s.fld 0x22 p 0x34 15 0 * 2 ^ 32 + d) }
  else
    { e with udp := some (BitVec.ofNat 16 (s.fld 0x22 p 0x14 15 0)), mac := BitVec.ofNat 48 (s.word64 0x22 p 0x38),
             ip := BitVec.ofNat 128 (s.word64 0x22 p 0xC0 * 2 ^ 64 + s.siteId.toNat * 2 ^ 16 + d) }

/-- A transport frame in its Ethernet frame. -/
def State.framed (s : State) (p : Nat) (f : SfFrame) : SfFrame := { f with eth := s.sfEth p f.dstModule.toNat }

/-- A frame leaves port `p`. While LINK_UP is 0 (R344) or the transmitter is squelched (R305) nothing is sent; under a received pause
frames wait (R340). -/
def State.emit (s : State) (p : Nat) (f : SfFrame) : State :=
  if s.fld 0x22 p 0x24 1 0 ≠ 3 then s
  else if (s.port p).paused then s.updPort p (fun k => { k with unsent := k.unsent ++ [s.framed p f] })
  else { (s.count64 0x22 p 0x40 1) with sfOut := s.sfOut ++ [(p, s.framed p f)] }

/-- A frame sent again, counted in SF_RETX_FRAMES when the port sends at all. -/
def State.reemit (s : State) (p : Nat) (f : SfFrame) : State :=
  (s.emit p { f with retx := true }).count64 0x22 p 0x70 (b2n (s.fld 0x22 p 0x24 1 0 == 3))

/-- The CREQ of a message (R330, R333). -/
def State.creq (s : State) (p : Nat) (reqId : W32) (dst : BitVec 14) (unit : BitVec 4) (index : BitVec 12) (len path : Nat) :
    SfFrame :=
  { typ := 1, srcModule := BitVec.ofNat 14 (s.moduleId p), srcSite := s.siteId, dstModule := dst, unit := unit, index := index,
    reqId := reqId, length := BitVec.ofNat 32 len, pathNs := BitVec.ofNat 32 path }

/-- The transport has finished with one message of a SEND: when it was the last, the SEND completes and its arrival bit is set
(R111). -/
def State.sendFinished (s : State) (c id : Nat) : State :=
  match (s.core c).sends.find? (fun o => o.id == id) with
  | none => s
  | some o =>
    if o.left ≤ 1 then
      let s := s.updCore c (fun k => { k with sends := k.sends.filter (fun q => q.id != id) })
      (s.opDone c o.x id).setArrOpt c o.arr
    else s.updCore c (fun k => { k with sends := k.sends.map (fun q => if q.id == id then { q with left := q.left - 1 } else q) })

/-- The transport has finished with a message, whatever the outcome (R111, R342). Only a SEND learns of it; a collective and
the forager treat an undelivered message as never delivered. A fragment that the far link brought leaves the receive part with its last
message (R480). -/
def State.msgFinished (s : State) (o : TxOwner) : State :=
  match o with
  | .send c id => s.sendFinished c id
  | .far q =>
    if s.ports.any (fun p => p.2.tx.any (fun t => t.owner == .far q)) then s
    else { s with fl := { s.fl with fwd := s.fl.fwd.filter (fun x => x.fseq != q) } }
  | _ => s

/-- A new message takes the sender's module and site and the next SEQ: of its group's series, or, toward another site, of the forager's
run (R63, R468). One that is sent on for its originator, or again by it, keeps what it has (R467, R468). -/
def State.numbered (s : State) (p : Nat) (far : Bool) (blk : Block) : State × Block :=
  if blk.desc.srcModule ≠ 0x3FFF then (s, blk)
  else
    let named := fun (seq : W32) =>
      { blk with desc := { blk.desc with srcModule := BitVec.ofNat 14 (s.moduleId p), srcSite := s.siteId, seq := seq } }
    if far then ({ s with fg := { s.fg with farSeq := s.fg.farSeq + 1 } }, named s.fg.farSeq)
    else
      let g := (readTag blk.tag).group.toNat
      let seq := Tbl.get 0 s.sfSeq g
      ({ s with sfSeq := Tbl.set 0 s.sfSeq g (seq + 1) }, named seq)

/-- A port takes a message of this owner. -/
def State.portTakes (s : State) (p : Nat) (o : TxOwner) : Bool :=
  s.fnRunning (.sf (BitVec.ofNat 4 p)) ||
    (s.fnState (.sf (BitVec.ofNat 4 p)) == 4 && (match o with
      | .coll g _ => s.fnState (.group (BitVec.ofNat 12 g)) == 4
      | .forager => s.fnState .forager == 4
      | _ => false))

/-- Offer one message to port `p` (R333, R339): it is numbered, takes a request number, and its CREQ is sent. A port that
is not RUNNING takes no new work (R20), but one that is stopping carries what the groups and the forager it is stopped with have still to
send (R55, R56). A destination without a valid route entry is counted in SF_NO_ROUTE; either way the transport has finished with the
message. -/
def State.offerMsg (s : State) (p : Nat) (dst : BitVec 14) (unit : BitVec 4) (index : BitVec 12) (blk : Block) (o : TxOwner)
    (far : Option (Byte × BitVec 14)) (tried : Nat) (coll : Option CollOut) : State :=
  if !s.portTakes p o then s.msgFinished o
  else
    let s := s.noteRoute p dst.toNat
    match s.route p dst.toNat with
    | none => ((s.count64 0x22 p 0xA8 1).setFlag 0x22 p 0x1C 3).msgFinished o
    | some path =>
      let (s, blk) := s.numbered p far.isSome blk
      let r := (s.port p).nextReq
      let f := { s.creq p r dst unit index blk.payload.length path with coll := coll }
      let t : SfTx := { reqId := r, dst := dst, unit := unit, index := index, blk := blk, owner := o, last := f,
                        lastCC := s.cycle, far := far, tried := tried, coll := coll }
      let s := s.updPort p (fun k => { k with nextReq := r + 1, tx := k.tx ++ [t] })
      s.emit p f

/-- Offer a message that is no collective's. -/
def State.sendMsg (s : State) (p : Nat) (dst : BitVec 14) (unit : BitVec 4) (index : BitVec 12) (blk : Block) (o : TxOwner)
    (far : Option (Byte × BitVec 14)) (tried : Nat) : State := s.offerMsg p dst unit index blk o far tried none

/-- Cut a byte list into pieces of `n`. -/
def cutBytes (n : Nat) : Nat → List Byte → List (List Byte)
  | 0, _ => []
  | _ + 1, [] => []
  | fuel + 1, bs => bs.take n :: cutBytes n fuel (bs.drop n)

/-- The messages of a block: `n` payload bytes each, one empty message for an empty block (R331). -/
def messagesOf (n : Nat) (bs : List Byte) : List (List Byte) := if bs.isEmpty then [[]] else cutBytes n bs.length bs

/-- The gateway entry for a site: COUNT and the listed modules (R463). -/
def State.gatewayAddr (s : State) (site : Nat) : Nat := modAddr (s.fld 0x25 0 0x3F0 25 0 * 16 + 32 * site)
def State.gateways (s : State) (site : Nat) : List Nat :=
  let a := s.gatewayAddr site
  (List.range (s.byte a).toNat).map (fun j => s.readNat (a + 2 + 2 * j) 2 % 2 ^ 14)

/-- The tunnel header of R465. -/
def tunnelHeader (site plane dstModule unit index : Nat) : List Byte :=
  leBytes 1 site ++ leBytes 1 plane ++ leBytes 2 dstModule ++ leBytes 2 (unit * 4096 + index) ++ List.replicate 10 0

/-- FL cannot forward now: it is not RUNNING, its session is not up, or the link is dead (R479). -/
def State.flDown (s : State) : Bool := !s.fnRunning .fl || s.fld 0x25 0 0x224 31 30 != 2 || s.fld 0x25 0 0x224 27 27 == 1

/-- Offer one message for another site to its gateway, starting from index j = (SHARD + SRC_MODULE) modulo COUNT plus the
number of gateways already tried (R464). A gateway that is this module hands the message to its own forager, whose queue is
`selfFar`, unless its far link is down. A gateway to which the port has no valid route counts in SF_NO_ROUTE, and the next is tried
(R339). With every gateway tried, or none listed, FG_FL_NO_GATEWAY counts it. -/
def State.sendFar (s : State) (p site : Nat) (blk : Block) (o : TxOwner) (tried : Nat) : State :=
  let gs := s.gateways site
  let s := s.noteUe (s.gatewayAddr site) 32
  let (s', blk) := s.numbered p true blk
  let self := s.moduleId p
  let gw := fun (t : Nat) => gs.getD ((blk.desc.shard.toNat + self + t) % gs.length) 0x3FFF
  let usable := fun (t : Nat) => if gw t = self then !s.flDown else !s.portTakes p o || (s.route p (gw t)).isSome
  let cands := (List.range (gs.length - tried)).map (fun d => tried + d)
  let lost := (cands.takeWhile (fun t => !usable t)).countP (fun t => gw t != self)
  let count := fun (s : State) => (s.count64 0x22 p 0xA8 lost).setFlagIf (lost != 0) 0x22 p 0x1C 3
  match cands.find? usable with
  | none => ((count s).count64 0x25 0 0x2E0 1).msgFinished o
  | some t =>
    if gw t = self then ({ count s' with selfFar := s'.selfFar ++ [blk] }).msgFinished o
    else (count s').sendMsg p (BitVec.ofNat 14 (gw t)) 3 0 blk o (some (BitVec.ofNat 8 site, BitVec.ofNat 14 (gw t))) t

/-- Offer a whole block (R111, R331, R465): to a module of this site over plane `plane`, or to another site through a gateway
on plane SHARD modulo 16 with a tunnel header in every message. -/
def State.sendBlock (s : State) (plane site : Nat) (dst : BitVec 14) (unit : BitVec 4) (index : BitVec 12) (blk : Block)
    (o : TxOwner) : State :=
  if site = s.siteId.toNat then
    ((messagesOf 65536 blk.payload).zipIdx).foldl (fun s (m : List Byte × Nat) =>
      s.sendMsg plane dst unit index { blk with desc := { blk.desc with frag := BitVec.ofNat 18 m.2 }, payload := m.1 } o none 0) s
  else
    let h := tunnelHeader site plane dst.toNat unit.toNat index.toNat
    ((messagesOf 65520 blk.payload).zipIdx).foldl (fun s (m : List Byte × Nat) =>
      s.sendFar (blk.desc.shard.toNat % 16) site
        { blk with desc := { blk.desc with frag := BitVec.ofNat 18 m.2 }, payload := h ++ m.1 } o 0) s

/-- How many messages `sendBlock` makes of a block. -/
def State.messageCount (s : State) (site : Nat) (payload : List Byte) : Nat :=
  (messagesOf (if site = s.siteId.toNat then 65536 else 65520) payload).length

end Sys2Proof.Machine
end

