-- ==== Sys2Proof/Machine/HostOps.lean ====
section
/-! DEFINITION. What the module sends its host: messages as bytes (R308), relayed messages (R319), the event queue (R317,
R320), and overruns of a bound (R37). -/

namespace Sys2Proof.Machine

/-- A host message as bytes (R308). -/
def hostBytes (m : HostMsg) : List Byte :=
  [m.ver, m.op] ++ leBytes 2 m.len.toNat ++ leBytes 4 m.hseq.toNat ++ leBytes 4 m.eack.toNat ++ leBytes 2 m.status.toNat
    ++ leBytes 2 0 ++ leBytes 8 m.addr.toNat ++ leBytes 4 m.epoch.toNat ++ leBytes 4 0 ++ m.payload

/-- The header and payload of a host message from a given source. -/
def hostOfBytes (src : HostSrc) (bs : List Byte) : HostMsg :=
  { src := src, ver := BitVec.ofNat 8 (leField bs 0 1), op := BitVec.ofNat 8 (leField bs 1 1),
    len := BitVec.ofNat 16 (leField bs 2 2), hseq := BitVec.ofNat 32 (leField bs 4 4), eack := BitVec.ofNat 32 (leField bs 8 4),
    status := BitVec.ofNat 16 (leField bs 12 2), addr := BitVec.ofNat 64 (leField bs 16 8),
    epoch := BitVec.ofNat 32 (leField bs 24 4), payload := bs.drop 32 }

/-- The 16-byte relay header of R318. -/
def relayHeader (site module : Nat) (mac : BitVec 48) : List Byte :=
  leBytes 1 site ++ leBytes 1 0 ++ leBytes 2 module ++ leBytes 6 mac.toNat ++ List.replicate 6 0

/-- A KIND 11 block (R318). -/
def State.relayBlock (s : State) (site module : Nat) (mac : BitVec 48) (inner : List Byte) : Block :=
  { tag := s.now { kind := 11, count := 1 }, desc := {}, payload := relayHeader site module mac ++ inner }

/-- Send a message toward a host: out of HP unless its transmitter is squelched (R305, R562), or as a KIND 11 block to the module that
relayed it, with a relay header that names this module (R319). -/
def State.hpSend (s : State) (dst : HostSrc) (m : HostMsg) : State :=
  match dst.relay with
  | none => if s.fld 0x21 0 0x24 0 0 = 0 then s else { s with hpOut := s.hpOut ++ [{ m with src := dst }] }
  | some (site, mo) =>
    s.sendBlock 0 site.toNat mo 4 0 (s.relayBlock s.siteId.toNat s.ownModule dst.mac (hostBytes m)) .relay

/-- A request comes from the claimant (R312, R319). -/
def State.fromClaimant (s : State) (m : HostMsg) : Bool := s.hp.claimant == some m.src

/-- HP's MAC address (R324). -/
def State.hpMac (s : State) : BitVec 48 := if s.hp.macOverride = 0 then Config.hpMac else s.hp.macOverride

/-- HP's end of a host frame as its registers stand (R307, R324). -/
def State.hpEnd (s : State) : HostEnd :=
  { mac := s.hpMac, ether := BitVec.ofNat 16 (s.fld 0x21 0 0x1C 31 16), ip := BitVec.ofNat 128 (s.word128 0x21 0 0x30),
    udp := BitVec.ofNat 16 (s.fld 0x21 0 0x1C 15 0) }

/-- The response to a request (R308, R315): it comes from the address and port that the request was sent to (R307). -/
def State.responseTo (s : State) (m : HostMsg) (status : Nat) (payload : List Byte) : HostMsg :=
  { src := m.src, own := { m.own with mac := s.hpMac }, op := m.op + 0x80, len := BitVec.ofNat 16 payload.length,
    hseq := m.hseq, status := BitVec.ofNat 16 status, addr := m.addr, epoch := s.hp.epoch, payload := payload }

/-- An event as a message (R317). -/
def State.eventMsg (s : State) (e : HpEvent) : HostMsg :=
  { own := s.hpEnd, op := 0x40, len := BitVec.ofNat 16 e.payload.length, hseq := e.seq, epoch := s.hp.epoch, payload := e.payload }

/-- Queue an event and send it. -/
def State.pushEvent (s : State) (dst : HostSrc) (payload : List Byte) : State :=
  let e : HpEvent := { seq := s.hp.nextSeq, payload := payload }
  let s := { s with hp := { s.hp with events := s.hp.events ++ [e], nextSeq := s.hp.nextSeq + 1,
                                      lastEack := if s.hp.events.isEmpty then s.cycle else s.hp.lastEack } }
  s.hpSend dst (s.eventMsg e)

/-- An event that finds the queue full is not queued and is counted (R320). -/
def State.loseEvent (s : State) : State :=
  (({ s with hp := { s.hp with lost := s.hp.lost + 1 } }).count64 0x21 0 0x60 1).setFlag 0x21 0 0x18 1

/-- The first event queued after room returns is an EVENTS_LOST event carrying the number lost (R320, log 27). -/
def State.reportLost (s : State) (dst : HostSrc) : State :=
  if s.hp.lost = 0 || decide (1024 ≤ s.hp.events.length) then s
  else ({ s with hp := { s.hp with lost := 0 } }).pushEvent dst ([5] ++ leBytes 4 s.hp.lost)

/-- The module sends events to the claimant only (R317). -/
def State.queueEvent (s : State) (payload : List Byte) : State :=
  match s.hp.claimant with
  | none => s
  | some dst =>
    let s := s.reportLost dst
    if 1024 ≤ s.hp.events.length then s.loseEvent else s.pushEvent dst payload

/-- CT_HEALTH.LATE_EVENTS counts, and a LATE event names the class, the overrun in cc and the source port or core (R37, R317). -/
def State.lateEvent (s : State) (cls ovr src : Nat) : State :=
  (s.count32 0 0 0x84 1).queueEvent ([4] ++ leBytes 1 cls ++ leBytes 4 ovr ++ leBytes 2 src)

/-- The cc by which a claimant's request has passed the 5 µs of R34 since its admission (R316). -/
def State.hostOverrun (s : State) (m : HostMsg) : Nat :=
  match s.hp.admitted.find? (fun q => q.1 == m) with
  | some q => if s.fromClaimant m then (s.cycle - q.2).toNat - 5000 else 0
  | none => 0

/-- An overrun at the command front end (R37, R326). -/
def State.hostLate (s : State) (ovr : Nat) : State := if ovr = 0 then s else (s.count64 0x21 0 0x68 1).lateEvent 0 ovr 0

/-- Answer a request: the response leaves, a non-zero STATUS is counted in HP_REFUSED (R326), the request is no longer being
carried out, and its response is kept among the last 256 (R315). A claimant's request on which its target acts, or which its queue decides,
after the bound of R34 is late; a READ that ends with MEM_UE has read its bytes (R37, R271, R316). -/
def State.respond (s : State) (m : HostMsg) (status : Nat) (payload : List Byte) (keep : Bool) : State :=
  let r := s.responseTo m status payload
  let kept := if keep then
      let l := s.hp.kept ++ [r]
      l.drop (l.length - 256)
    else s.hp.kept
  let ovr := if m.op = 5 || status = 0 || status = 0xA002 then s.hostOverrun m else 0
  let s := { s with hp := { s.hp with kept := kept, inProg := s.hp.inProg.filter (fun q => q != m),
                                      admitted := s.hp.admitted.filter (fun q => q.1 != m) } }
  ((s.count64 0x21 0 0x58 (b2n (status != 0))).hpSend m.src r).hostLate ovr

end Sys2Proof.Machine
end

