-- ==== Sys2Proof/Machine/CtxOps.lean ====
section
/-! DEFINITION. Operations over a context: the command layout, admission (R47), ending and halting a command (R49, R86), the
guard under which an instruction issues (R42, R83 to R85), and advancing the program counter. -/

namespace Sys2Proof.Machine

/-! ### Commands (R46) -/

def cmdOfBytes (bs : List Byte) : Cmd :=
  { entry := BitVec.ofNat 64 (leField bs 0 8), maxCC := BitVec.ofNat 32 (leField bs 8 4), cmdSeq := BitVec.ofNat 32 (leField bs 12 4),
    completion := BitVec.ofNat 64 (leField bs 16 8), arg0 := BitVec.ofNat 64 (leField bs 24 8),
    arg1 := BitVec.ofNat 64 (leField bs 32 8), arg2 := BitVec.ofNat 64 (leField bs 40 8), arg3 := BitVec.ofNat 64 (leField bs 48 8),
    eventToHost := leField bs 56 1 % 2 == 1 }

/-- Q_OPEN and STEP_MEMBER of SQ_CTXn_CTL (R44). -/
def State.qOpen (s : State) (c x : Nat) : Bool := s.fld 0x10 c (0x100 + 0x40 * x) 1 1 == 1
def State.stepMember (s : State) (c x : Nat) : Bool := s.fld 0x10 c (0x100 + 0x40 * x) 0 0 == 1

/-- cc the running command may still issue (R48); `none` for an unbounded one. -/
def State.remainCC (s : State) (r : RunCmd) : Option Nat :=
  if r.cmd.maxCC = 0 then none else some (r.cmd.maxCC.toNat - (s.cycle - r.startCC).toNat)

/-- The BUSY check of R47: 5. -/
def State.busyAccount (s : State) (k : Ctx) : Bool :=
  let run := match k.run with
    | none => some 0
    | some r => s.remainCC r
  match run with
  | none => true
  | some r =>
    k.queue.any (fun q => q.cmd.maxCC == 0) ||
      decide (4000 < r + (k.queue.map (fun q => q.cmd.maxCC.toNat)).sum)

/-- A valid ENTRY (R47: 6): in space 1 of this core or in space 2, within capacity, 8-byte aligned. -/
def entryOk (c : Nat) (a : Nat) : Bool :=
  a % 8 == 0 && inStore a 8 && (spaceOf a == 2 || (spaceOf a == 1 && unitOf a == c))

/-- A valid COMPLETION (R47: 7). -/
def completionOk (a : Nat) : Bool := a == 0 || (a % 32 == 0 && inStore a 32)

/-- The first reason for which a context refuses a command, 0 when it admits it (R47). -/
def State.admitReason (s : State) (c x : Nat) (cmd : Cmd) : Nat :=
  let k := s.ctx c x
  firstReason [
    (!s.fnRunning (.core (BitVec.ofNat 7 c)), stateReason (s.fnState (.core (BitVec.ofNat 7 c)))),
    (!s.qOpen c x, rsCTX_CLOSED),
    (k.st == .isolated, rsISOLATED),
    (64 ≤ k.queue.length, rsQUEUE_FULL),
    (s.busyAccount k, rsBUSY),
    (!entryOk c cmd.entry.toNat, rsBAD_ENTRY),
    (!completionOk cmd.completion.toNat, rsBAD_ENTRY)]

/-- Offer a command to a context's queue: it waits there for its decision in order of arrival (R115). -/
def State.offer (s : State) (c x : Nat) (src : OfferSrc) (cmd : Cmd) : State :=
  s.updCtx c x (fun k => { k with offers := k.offers ++ [{ src := src, cmd := cmd, cc := s.cycle }] })

/-! ### Ending a command (R49, R86) -/

/-- The 32-byte completion record. -/
def State.completionRecord (s : State) (c x : Nat) (r : RunCmd) (status : Nat) (poison : Bool) : List Byte :=
  let t : Tag := sealTag { kind := 12, step := BitVec.ofNat 24 s.step24, round := BitVec.ofNat 16 s.round16, count := 1,
                           flags := flagBit fLATE (r.overrun ≠ 0) ||| flagBit fPOISON poison }
  tagBytes t ++ leBytes 4 r.cmd.cmdSeq.toNat ++ leBytes 2 status ++ leBytes 2 (c * 4 + x) ++ leBytes 4 r.overrun
    ++ leBytes 4 s.cycle.toNat

def State.setLastReason (s : State) (c x r : Nat) : State := s.updCtx c x (fun k => { k with lastReason := BitVec.ofNat 16 r })

/-- LAST_REASON as a command ends: a SIGNAL refused before its issuer has seen it leaves its reason there (R115), unless the context halts for a
reason of its own. -/
def Ctx.toldReason (k : Ctx) (st : CtxSt) : W16 :=
  match k.decision with
  | some why => if why = 0 || st = .halted then k.lastReason else BitVec.ofNat 16 why
  | none => k.lastReason

/-- The running command ends with `status`: its completion record is written and, when asked for, sent as an event; a refused
write leaves its reason in LAST_REASON (R49), and so does a SIGNAL refused before its issuer has seen it (R115). The context takes state
`st`. -/
def State.endCommand (s : State) (c x status : Nat) (st : CtxSt) : State :=
  match (s.ctx c x).run with
  | none => s
  | some r =>
    let rec32 := s.completionRecord c x r status (s.ctx c x).poison
    let a := r.cmd.completion.toNat
    let s := s.updCtx c x (fun k => { k with
      run := none, wait := .none, st := st, fenced := false, poison := false, decision := none, taking := none,
      lastReason := k.toldReason st })
    let s := if a = 0 then s
      else
        let why := s.accessReason a 32
        if why = 0 then s.writeMem a rec32 else s.setLastReason c x why
    if r.cmd.eventToHost then s.queueEvent ([1] ++ rec32) else s

/-! ### Knock-back copies (R529) -/

/-- The knock-back copy of a context (R529). -/
def Ctx.takeCopy (k : Ctx) : Ctx :=
  { k with copy := some { pc := k.pc, sregs := k.sregs, tregs := k.tregs, preds := k.preds, run := k.run } }

/-! ### Core-level isolated replay (R530, R531) -/

/-- The core's suspects are being replayed. -/
def State.underReplay (s : State) (c : Nat) : Bool :=
  s.sw.recs.any (fun r => r.d.kind == 1 && r.d.num.toNat == c && r.phase == 4)

/-- The replay of a context ends with an outcome at the instruction it stands on. -/
def State.replayEnds (s : State) (c x outcome : Nat) : State :=
  let pc := (s.ctx c x).pc.toNat
  let s : State := { s with sw := { s.sw with recs := s.sw.recs.map (fun r =>
    if r.d.kind = 1 && r.d.num.toNat = c && r.replaying == some x then
      { r with replaying := none, outcomes := r.outcomes.put x outcome, ends := r.ends.put x pc }
    else r) } }
  s.updCtx c x (fun k => { k with run := none, wait := .none })

/-- An instruction faults: the context is HALTED with the reason in LAST_REASON and in the completion record (R86). A replayed context
ends its replay instead (R531). -/
def State.halt (s : State) (c x r : Nat) : State :=
  let s := s.setLastReason c x r
  if (s.ctx c x).st = .isolated then s.replayEnds c x 3 else s.endCommand c x r .halted

/-! ### Issue (R42, R84) -/

/-- A context whose state lets its next instruction issue: READY, or ISOLATED under core-level replay (R43, R530). -/
def Ctx.canIssue (k : Ctx) : Bool :=
  k.run.isSome && (k.st == .ready || (k.st == .isolated && k.wait == .none))

/-- The core is RUNNING, or DRAINING with admitted work still completing (R55). -/
def State.coreServes (s : State) (c : Nat) : Bool :=
  let st := s.fld 0x10 c 0 2 0
  st == 2 || st == 4

/-- The running command has issued for MAX_CC cc (R48). Every cc since it started counts, those in which its context waited too: the
model's choice (log 64). -/
def State.overran (s : State) (k : Ctx) : Bool :=
  match k.run with
  | none => false
  | some r => s.remainCC r == some 0

/-- PRED and PNEG let the instruction execute (R82). -/
def Ctx.guarded (k : Ctx) (i : Iss) : Bool := k.pred i.pred.toNat != i.pneg

/-- Why the fetch of the instruction at `a` is refused for core `c`, 0 when it is served: a fetch is an access to the own core's store
or to module store (R52, R270, log 58). A DRAINING core still fetches from its own store (R55). -/
def State.fetchReason (s : State) (c a : Nat) : Nat :=
  if !entryOk c a then rsUNMAPPED else if spaceOf a = 2 then s.accessReason a 8 else 0

/-! ### The choice among contexts (R42) -/

/-- The context of a core that issued last; before any has, the order begins with context 0 (log 64). -/
def State.lastIssued (s : State) (c : Nat) : Nat :=
  let cc := fun x => ((s.ctx c x).issued.map (fun v => v.toNat + 1)).getD 0
  let best := (List.range 4).foldl (fun b x => if cc b < cc x then x else b) 0
  if cc best = 0 then 3 else best

/-- The state of a context, its command's account and its core let it issue; while suspects of the core are replayed, only the replayed context
does (R40, R43, R48, R55). -/
def State.mayIssue (s : State) (c x : Nat) : Bool :=
  let k := s.ctx c x
  k.canIssue && s.coreServes c && !s.overran k && !(s.underReplay c && k.st != .isolated)

/-- Round-robin gives the issue slot of this cc to context x: no context of the core has issued in it, x has not been passed over in it, and
every context that may issue and stands before x in the order, which starts after the context that issued last, has been (R42, R95). -/
def State.turn (s : State) (c x : Nat) : Bool :=
  let p := s.lastIssued c
  (List.range 4).all (fun y => (s.ctx c y).issued != some s.cycle) && (s.ctx c x).passed != some s.cycle &&
    (List.range ((x + 3 - p) % 4)).all (fun n =>
      let y := (p + 1 + n) % 4
      !s.mayIssue c y || (s.ctx c y).passed == some s.cycle)

/-- The context is passed over in this cc (R95). -/
def State.passOver (s : State) (c x : Nat) : State := s.updCtx c x (fun k => { k with passed := some s.cycle })

/-- An instruction of the context took the issue slot of this cc, unless the sequencer holds it (R91) or passed the context over. -/
def State.noteIssue (s : State) (c x : Nat) : State :=
  s.updCtx c x (fun k => if k.wait.isHeld || k.passed == some s.cycle then k else { k with issued := some s.cycle })

def State.advance (s : State) (c x : Nat) : State := s.updCtx c x (fun k => { k with pc := k.pc + 8, progress := k.progress + 1 })

/-- An instruction at a core and context: a core the module does not have is no command; a context that cannot issue, or that round-robin
does not choose in this cc, leaves the state as it is; an instruction that cannot be fetched halts the context (R52); a guarding predicate
that is 0 only passes the instruction by (R84); a field value that the operation's table calls ILLEGAL halts the context, before any other check of R119; otherwise `body` runs it. A word with an undefined operation or
a reserved bit set is no instruction and halts whatever its predicate: see execIllegalInstruction. While suspects of the core are
replayed, only the replayed context issues (R40), and an instruction that `stop` makes a stop point is not issued (R530). -/
def issueStop (i : Iss) (illegal : Bool) (s : State) (stop : Nat → Nat → Ctx → Bool) (body : Nat → Nat → Ctx → State) : Out :=
  if !coreOk i.core then .fault .noSuchUnit
  else
    let c := i.core.toNat
    let x := i.ctx.toNat
    let k := s.ctx c x
    if !(s.mayIssue c x && s.turn c x) then .next s
    else if k.st == .isolated && stop c x k && k.guarded i && s.fetchReason c k.pc.toNat = 0 then .next (s.replayEnds c x 1)
    else
      .next ((if s.fetchReason c k.pc.toNat ≠ 0 then s.halt c x (s.fetchReason c k.pc.toNat)
        else if !k.guarded i then s.advance c x
        else if illegal then s.halt c x rsILLEGAL
        else body c x k).noteIssue c x)

/-- Issue an instruction that is no stop point. -/
def issue (i : Iss) (illegal : Bool) (s : State) (body : Nat → Nat → Ctx → State) : Out :=
  issueStop i illegal s (fun _ _ _ => false) body

/-- Every context's instruction of this kind is a stop point. -/
def stopAlways (_c _x : Nat) (_k : Ctx) : Bool := true

/-- An address outside the core's own store. -/
def foreignAddr (c a : Nat) : Bool := !(spaceOf a == 1 && unitOf a == c)

/-- An instruction that writes to tensor register `t` would write outside the core's own store. -/
def stopWrite (t : Nat) (c _x : Nat) (k : Ctx) : Bool := foreignAddr c (k.treg t).d.base.toNat

/-- The context waits (R43). -/
def State.waitOn (s : State) (c x : Nat) (w : Wait) : State :=
  s.updCtx c x (fun k => { k with wait := w, st := if k.st == .isolated then .isolated else .waiting })

/-- The context can issue again. -/
def State.wake (s : State) (c x : Nat) : State :=
  s.updCtx c x (fun k => { k with wait := .none, st := if k.st == .isolated then .isolated else .ready })

end Sys2Proof.Machine
end

