-- ==== Sys2Proof/Machine/CtlRead.lean ====
section
/-! DEFINITION. Which accesses the control-space map accepts (R51 to R53), and small tests that many units share. -/

namespace Sys2Proof.Machine

/-- Block, instance and offset of a space-0 address. -/
def ctlParts (a : Nat) : Nat × Nat × Nat :=
  let r := a % 2 ^ 36
  (r / 2 ^ 28, r / 2 ^ 16 % 4096, r % 65536)

/-- A word the map places at a space-0 address (R52). -/
def ctlMapped (a : Nat) : Bool :=
  let (b, i, o) := ctlParts a
  a < 2 ^ 36 && i < blkInstances b && (regWord b i o).isSome

/-- Why an access of `n` bytes to space 0 is refused: wrong size or alignment, or no register (R52, R53); 0 otherwise. -/
def ctlReason (a n : Nat) : Nat :=
  if (n = 4 || n = 8) && a % n = 0 && ctlMapped a && (n = 4 || ctlMapped (a + 4)) then 0 else rsUNMAPPED

/-- DRIFT_HOLD (R75). -/
def State.driftHold (s : State) : Bool := s.fld 0 0 0x204 30 30 == 1

def isLoads (k : EngKind) : Bool :=
  match k with
  | .loads .. => true
  | _ => false

def isStream (k : EngKind) : Bool :=
  match k with
  | .stream .. => true
  | _ => false

end Sys2Proof.Machine
end

