-- ==== Sys2Proof/Machine/Flags.lean ====
section
/-! DEFINITION. Scale slots, the choice of a tensor scale, and everything a conversion counts and flags (R207 to R233). -/

namespace Sys2Proof.Machine

/-! ### The slot table (R207, R214, R215) -/

def State.slotCount (s : State) (c : Nat) : Nat := s.fld 0x10 c 0x400 11 0

/-- The byte offset of slot `i` in its core's store. -/
def State.slotOff (s : State) (c i : Nat) : Nat := s.fld 0x10 c 0x404 24 6 * 64 + 64 * i

def State.slotAddr (s : State) (c i : Nat) : Nat := coreAddr c (s.slotOff c i)

/-- The STATE word of a slot, the value SCALE.RD returns (R116, R215). -/
def State.slotWord (s : State) (c i : Nat) : Nat := s.readNat (s.slotAddr c i + 32) 8

def State.slotFld (s : State) (c i hi lo : Nat) : Nat := bitsOf (s.slotWord c i) hi lo

def State.setSlotFld (s : State) (c i hi lo v : Nat) : State :=
  s.writeNat (s.slotAddr c i + 32) 8 (setBits (s.slotWord c i) hi lo v)

def slEMPTY : Nat := 0
def slTRACK : Nat := 1
def slMARKED : Nat := 2

/-- A slot record after cold start with given settings (R213, R217). -/
def slotRecord (mode headroom hlen : Nat) : List Byte :=
  List.replicate 32 0 ++ leBytes 8 (0x7F * 2 ^ 56 + 0x7F * 2 ^ 48 + 15 * 2 ^ 20 + mode * 2 ^ 11 + headroom * 2 ^ 9 + hlen * 2 ^ 5)
    ++ List.replicate 24 0

/-- Reset a slot with a mode, head-room and history length. -/
def State.resetSlot (s : State) (c i mode headroom hlen : Nat) : State :=
  s.writeMem (s.slotAddr c i) (slotRecord mode headroom hlen)

/-- Write every slot record of a core with its values after cold start, `n` of them (R213). -/
def State.resetSlots (s : State) (c : Nat) : Nat → State
  | 0 => s
  | n + 1 => (s.resetSlots c n).resetSlot c n 0 0 15

/-- A destination names a slot that the table has, or none (R208). -/
def State.slotOk (s : State) (c : Nat) (d : TDesc) : Bool := d.slot == 0xFFF || decide (d.slot.toNat < s.slotCount c)

/-! ### Choosing the scale (R219, R220) -/

/-- The tensor scale for a largest magnitude: 0x7F for zero, else 127 + ⌈log2(a / maxf)⌉ + H clamped to 0x00 .. 0xFE. -/
def scaleFor (fmt : Nat) (a : Nat × Int) (headroom : Nat) : Nat :=
  if a.1 = 0 then 0x7F else (min (max (127 + ceilLog2Max fmt a.1 a.2 + headroom) 0) 254).toNat

/-- The newest `n` history magnitudes of a slot, from the HEAD entry downwards. -/
def State.slotHist (s : State) (c i n : Nat) : List Nat :=
  let h := s.slotFld c i 23 20
  (List.range n).map (fun k => s.readNat (s.slotAddr c i + 2 * ((h + 16 - k) % 16)) 2)

/-- The largest of the newest min(COUNT, HLEN + 1) history entries, as a magnitude. -/
def State.slotAmax (s : State) (c i : Nat) : Nat × Int :=
  let n := min (s.slotFld c i 19 15) (s.slotFld c i 8 5 + 1)
  amaxOf ((s.slotHist c i n).map (decodeElem 1))

/-- Whether a conversion into a destination takes a pre-pass (R219). A slot that the table does not have is no slot: R208 refuses such a
destination at issue. -/
def State.wantsPrepass (s : State) (c : Nat) (d : TDesc) : Bool :=
  if d.slot = 0xFFF || !s.slotOk c d then false
  else
    let i := d.slot.toNat
    s.slotFld c i 14 13 == slMARKED || s.slotFld c i 12 11 == 1 ||
      (s.slotFld c i 14 13 == slEMPTY && s.slotFld c i 12 11 != 2)

/-- A slot record is read: an error of its SRAM words is noted (R271). -/
def State.readSlot (s : State) (c i : Nat) : State := s.noteUe (s.slotAddr c i) 64

/-- The history-based choice of a conversion that takes no pre-pass: the scale, and the slot with SCALE_LAST written (R219). -/
def State.chooseScale (s : State) (c : Nat) (d : TDesc) : Nat × State :=
  if d.slot = 0xFFF || !s.slotOk c d then (d.scale.toNat, s)
  else
    let i := d.slot.toNat
    let s := s.readSlot c i
    if s.slotFld c i 14 13 = slEMPTY then (0x7F, s)
    else
      let v := scaleFor d.fmt.toNat (s.slotAmax c i) (s.slotFld c i 10 9)
      (v, s.setSlotFld c i 63 56 v)

/-- The choice of a conversion with a pre-pass, from the exact amax of its own values (R220). -/
def State.choosePrepass (s : State) (c : Nat) (d : TDesc) (a : Nat × Int) : Nat × State :=
  let i := d.slot.toNat
  let s := if d.slot = 0xFFF || !s.slotOk c d then s else s.readSlot c i
  let v := scaleFor d.fmt.toNat a (s.slotFld c i 10 9)
  (v, if d.slot = 0xFFF || !s.slotOk c d then s else s.setSlotFld c i 63 56 v)

/-- Read-marking at an instruction's start: a source whose tag carries OVERFLOW marks its slot while the slot still holds the
scale that overflowed (R223). -/
def State.markSource (s : State) (c : Nat) (t : TReg) : State :=
  let i := t.d.slot.toNat
  let g := readTag t.tag
  if t.d.slot ≠ 0xFFF && i < s.slotCount c && hasFlag g fOVERFLOW then
    let s := s.readSlot c i
    if s.slotFld c i 12 11 < 2 && s.slotFld c i 14 13 == slTRACK && s.slotFld c i 63 56 == g.scale.toNat then
      s.setSlotFld c i 14 13 slMARKED
    else s
  else s

def State.markSources (s : State) (c : Nat) (ts : List TReg) : State := ts.foldl (fun s t => s.markSource c t) s

/-- Add to a 32-bit count in memory, which holds at its maximum; the read notes an error of its SRAM word (R271). -/
def State.memCount (s : State) (a n : Nat) : State :=
  if n = 0 then s
  else
    let s := s.noteUe a 4
    s.writeNat a 4 (min (s.readNat a 4 + n) (2 ^ 32 - 1))

/-- The same for a 64-bit count. -/
def State.memCount64 (s : State) (a n : Nat) : State :=
  if n = 0 then s
  else
    let s := s.noteUe a 8
    s.writeNat a 8 (min (s.readNat a 8 + n) (2 ^ 64 - 1))

/-- The completion of a conversion that used a slot: the amax rounded up to BF16 enters the history, SCALE_NEXT is recomputed,
the counts are added (R222, R227), and STATE moves as R223's table says. -/
def State.slotComplete (s : State) (c : Nat) (d : TDesc) (a : Nat × Int) (st : ConvStat) (prepass : Bool) : State :=
  if d.slot = 0xFFF || !(d.slot.toNat < s.slotCount c) then s
  else
    let i := d.slot.toNat
    let ad := s.slotAddr c i
    let s := s.readSlot c i
    let h := (s.slotFld c i 23 20 + 1) % 16
    let v := bf16Up a
    let s := s.writeNat (ad + 2 * h) 2 v
    let s := s.setSlotFld c i 23 20 h
    let s := s.setSlotFld c i 19 15 (min (s.slotFld c i 19 15 + 1) 16)
    let s := s.setSlotFld c i 47 32 v
    let s := s.setSlotFld c i 55 48 (scaleFor d.fmt.toNat (s.slotAmax c i) (s.slotFld c i 10 9))
    let s := s.memCount (ad + 40) st.nOvf
    let s := s.memCount (ad + 44) st.nUnf
    let s := s.memCount (ad + 48) st.nNonfinite
    let s := s.memCount (ad + 52) (b2n prepass)
    if st.nOvf ≠ 0 then (if s.slotFld c i 12 11 < 2 then s.setSlotFld c i 14 13 slMARKED else s)
    else if prepass then s.setSlotFld c i 14 13 slTRACK
    else if s.slotFld c i 14 13 = slEMPTY then s.setSlotFld c i 14 13 slTRACK
    else s

/-! ### The layer watch table (R231, R232) -/

/-- LT: 0 when WATCH is not enabled or the memory system does not serve it. -/
def State.layerCount (s : State) : Nat :=
  if s.fld 0x20 0 0x200 31 31 = 1 && s.fnRunning .ms then s.fld 0x20 0 0x208 31 0 * 32 else 0

/-- The address of the record that counts for a layer. -/
def State.layerAddr (s : State) (layer : Nat) : Nat :=
  modAddr (s.fld 0x20 0 0x204 31 0 * 4096 + 128 * min layer (s.layerCount - 1))

/-- A count for LAYER L goes to the last record, which sets LAYER_FOLD, when L has no record of its own (R231). -/
def State.folds (s : State) (layer : Nat) : Bool := decide (s.layerCount ≤ layer)

/-- Add conversion counts to a layer's record, without a core's flag (the hive's derivations, R233). -/
def State.layerAdd (s : State) (layer : Nat) (st : ConvStat) (prepass : Bool) : State :=
  if s.layerCount = 0 then s
  else
    let a := s.layerAddr layer
    (((s.memCount64 a st.nOvf).memCount64 (a + 8) st.nUnf).memCount64 (a + 16) st.nNonfinite).memCount64 (a + 24) (b2n prepass)

/-- Some count was added. -/
def ConvStat.any (st : ConvStat) (prepass : Bool) : Bool := st.nOvf != 0 || st.nUnf != 0 || st.nNonfinite != 0 || prepass

/-- The same with LAYER_FOLD of the core that counts (R231, R230). -/
def State.layerCountFor (s : State) (c layer : Nat) (st : ConvStat) (prepass : Bool) : State :=
  (s.layerAdd layer st prepass).setFlagIf (s.layerCount != 0 && s.folds layer && st.any prepass) 0x10 c 0x40C 5

/-- The counts of one converting instruction: its unit's three counters at SQ offset `off`, its layer, and SQ_WATCH_FLAGS
(R227 to R230). A tile form has no tag and so no layer. -/
def State.convCounts (s : State) (c off : Nat) (layer : Option Nat) (st : ConvStat) (prepass : Bool) : State :=
  let s := ((s.count64 0x10 c off st.nOvf).count64 0x10 c (off + 8) st.nUnf).count64 0x10 c (off + 16) st.nNonfinite
  let s := match layer with
    | some l => s.layerCountFor c l st prepass
    | none => s
  let s := s.setFlagIf (st.nOvf != 0) 0x10 c 0x40C 0
  let s := s.setFlagIf (st.nUnf != 0) 0x10 c 0x40C 1
  let s := s.setFlagIf (st.nNonfinite != 0) 0x10 c 0x40C 2
  s.setFlagIf prepass 0x10 c 0x40C 3

/-- The flags a conversion produces for its destination tag (R62). -/
def ConvStat.flags (st : ConvStat) : BitVec 12 :=
  flagBit fOVERFLOW st.ovf ||| flagBit fUNDERFLOW st.unf ||| flagBit fNONFINITE st.nonfinite

end Sys2Proof.Machine
end

