-- ==== Sys2Proof/Machine/VectorOps.lean ====
section
/-! DEFINITION. The functions of the vector unit (R108, R139, R245 to R248), on FP32 words: element-wise functions, row
functions, and the statistics and apply phases of FN 15 to 20. Sums run in ascending column order (log 10). -/

namespace Sys2Proof.Machine

def f32One : W32 := 0x3F800000#32
def f32NegInf : W32 := 0xFF800000#32

def f32IsNaN (a : W32) : Bool := (ofF32 a).isNaN

def f32Nan : W32 := 0x7FC00000#32
def f32Inf : W32 := 0x7F800000#32

/-- Maximum and minimum; a NaN operand gives NaN, and of equal operands the first is taken (R124, R122). -/
def fMax (a b : W32) : W32 :=
  if f32IsNaN a || f32IsNaN b then 0x7FC00000#32 else if (ofF32 a).lt (ofF32 b) then b else a

def fMin (a b : W32) : W32 :=
  if f32IsNaN a || f32IsNaN b then 0x7FC00000#32 else if (ofF32 b).lt (ofF32 a) then b else a

/-- exp: of ±infinity +infinity and +0, of a NaN the NaN (R124). -/
def fExp (a : W32) : W32 :=
  match ofF32 a with
  | .nan => f32Nan
  | .inf n => if n then 0 else f32Inf
  | .fin n _ _ => if !n && decide (0x42B17218 ≤ a.toNat) then f32Inf else Config.vuExp a

/-- The natural logarithm: −infinity of a zero, NaN of a negative operand, +infinity of +infinity (R124). -/
def fLog (a : W32) : W32 :=
  match ofF32 a with
  | .nan => f32Nan
  | .inf n => if n then f32Nan else f32Inf
  | .fin n m _ => if m = 0 then f32NegInf else if n then f32Nan else Config.vuLog a

/-- 1 / √a: an infinity of a zero's sign, NaN of a negative operand, +0 of +infinity (R124). -/
def fRsqrt (a : W32) : W32 :=
  match ofF32 a with
  | .nan => f32Nan
  | .inf n => if n then f32Nan else 0
  | .fin n m _ => if m = 0 then (if n then f32NegInf else f32Inf) else if n then f32Nan else Config.vuRsqrt a

/-- tanh: ±1 of ±infinity (R124). -/
def fTanh (a : W32) : W32 :=
  match ofF32 a with
  | .nan => f32Nan
  | .inf n => if n then 0xBF800000#32 else f32One
  | .fin _ _ _ => Config.vuTanh a

/-- The element-wise functions FN 0 to 12 (R108) of TA, TB, TD and the constant SS. DESIGN CHOICE (log 89): R139 rounds each internal step and
does not say whether a product and the sum it enters are one step; those of FN 3 and FN 12 are, and are rounded together once. -/
def ewise (fn : Nat) (a b d ss : W32) : W32 :=
  match fn with
  | 0 => fAdd a b
  | 1 => fSub a b
  | 2 => fMul a b
  | 3 => fFma a b d
  | 4 => fMax a b
  | 5 => fMin a b
  | 6 => fExp a
  | 7 => fLog a
  | 8 => fDiv f32One a
  | 9 => fRsqrt a
  | 10 => fTanh a
  | 12 => fFma a ss b
  | _ => a

/-- FN 13 and 14: the sum or the maximum of a row, which is then merged into `z` when there is one (R108, R245). -/
def rowFn (fn : Nat) (z : Option W32) (es : List W32) : W32 :=
  let f := if fn = 13 then fAdd else fMax
  match z, es with
  | some v, [] => v
  | none, [] => 0
  | none, e :: es => es.foldl f e
  | some v, e :: es => f v (es.foldl f e)

/-- The five statistics columns of a row, used by number. -/
abbrev Stats := List W32

def Stats.col (st : Stats) (i : Nat) : W32 := st.getD i 0

/-- The columns that the statistics phase of a function writes. -/
def statCols (fn : Nat) : List Nat :=
  match fn with
  | 15 => [0, 1, 2]
  | 16 => [0, 2]
  | 17 => [0, 1]
  | 18 => [3]
  | 19 => [3, 4]
  | 20 => [4]
  | _ => []

/-- The columns before a statistics phase that starts afresh (R248): −∞ for column 0 of FN 17, 0 for every sum and count. -/
def freshStats (fn : Nat) (st : Stats) : Stats :=
  (List.range 5).map (fun i => if (statCols fn).contains i then (if fn = 17 && i = 0 then f32NegInf else 0) else st.col i)

/-- μ = Σx / n. -/
def statMean (st : Stats) : W32 := fDiv (st.col 0) (st.col 2)

/-- rstd of FN 15 and 19: 1 / √(max(Σx² / n − μ², 0) + c). -/
def layerRstd (c : W32) (st : Stats) : W32 :=
  let mu := statMean st
  fRsqrt (fAdd (fMax (fSub (fDiv (st.col 1) (st.col 2)) (fMul mu mu)) 0) c)

/-- rstd of FN 16 and 20: 1 / √(Σx² / n + c). -/
def rmsRstd (c : W32) (st : Stats) : W32 := fRsqrt (fAdd (fDiv (st.col 0) (st.col 2)) c)

/-- P = exp(c × S − m) / l. -/
def softP (c s : W32) (st : Stats) : W32 := fDiv (fExp (fSub (fMul c s) (st.col 0))) (st.col 1)

def setAt (st : Stats) (i : Nat) (v : W32) : Stats := (List.range 5).map (fun k => if k = i then v else st.col k)

/-- One element in the statistics phase of FN 15, 16, 18, 19 or 20: `x` is E (with the residual added for FN 15 and 16), `b` the
element of TB, `d` that of TD. -/
def statStep (fn : Nat) (c : W32) (st : Stats) (x b d : W32) : Stats :=
  match fn with
  | 15 => setAt (setAt (setAt st 0 (fAdd (st.col 0) x)) 1 (fAdd (st.col 1) (fMul x x))) 2 (fAdd (st.col 2) f32One)
  | 16 => setAt (setAt st 0 (fAdd (st.col 0) (fMul x x))) 2 (fAdd (st.col 2) f32One)
  | 18 => setAt st 3 (fAdd (st.col 3) (fMul (softP c b st) x))
  | 19 =>
    let g := fMul x b
    let xh := fMul (fSub d (statMean st)) (layerRstd c st)
    setAt (setAt st 3 (fAdd (st.col 3) g)) 4 (fAdd (st.col 4) (fMul g xh))
  | 20 =>
    let g := fMul x b
    let xh := fMul d (rmsRstd c st)
    setAt st 4 (fAdd (st.col 4) (fMul g xh))
  | _ => st

/-- A sum in FP32, in order; 0 for none. -/
def f32Sum : List W32 → W32
  | [] => 0
  | e :: es => es.foldl fAdd e

/-- The statistics phase over a row: elements x with their TB and TD elements, in column order (R247). -/
def statRow (fn : Nat) (c : W32) (st : Stats) (es : List (W32 × W32 × W32)) : Stats :=
  if fn = 17 then
    let m := es.foldl (fun m e => fMax m (fMul c e.1)) (st.col 0)
    let l := fAdd (fMul (st.col 1) (fExp (fSub (st.col 0) m))) (f32Sum (es.map (fun e => fExp (fSub (fMul c e.1) m))))
    setAt (setAt st 0 m) 1 l
  else es.foldl (fun st e => statStep fn c st e.1 e.2.1 e.2.2) st

/-- One element in the apply phase (R247): `e` is E, `b` the row-0 element of TB (or the score for FN 18), `b1` that of row 1, `d` the
element of TD. -/
def applyElem (fn : Nat) (c : W32) (st : Stats) (e b b1 d : W32) : W32 :=
  match fn with
  | 15 => fAdd (fMul (fMul (fSub e (statMean st)) (layerRstd c st)) b) b1
  | 16 => fMul (fMul e (rmsRstd c st)) b
  | 17 => softP c e st
  | 18 => fMul (fMul c (softP c b st)) (fSub e (st.col 3))
  | 19 =>
    let r := layerRstd c st
    let xh := fMul (fSub d (statMean st)) r
    fMul r (fSub (fSub (fMul e b) (fDiv (st.col 3) (st.col 2))) (fDiv (fMul xh (st.col 4)) (st.col 2)))
  | 20 =>
    let r := rmsRstd c st
    let xh := fMul d r
    fMul r (fSub (fMul e b) (fDiv (fMul xh (st.col 4)) (st.col 2)))
  | _ => e

/-! ### Which registers a function uses -/

/-- FN 15 to 20 have a statistics register (R246). -/
def usesStats (fn : Nat) : Bool := decide (15 ≤ fn) && decide (fn ≤ 20)

/-- TB is an operand of the function (R108, R247). -/
def usesTB (fn : Nat) : Bool := fn ≤ 5 || fn == 12 || fn == 15 || fn == 16 || fn == 18 || fn == 19 || fn == 20

/-- TD is an operand of the function: the addend of FN 3, the forward input of FN 19 and 20 (R108, R245, R247). -/
def readsTD (fn : Nat) : Bool := fn == 3 || fn == 19 || fn == 20

/-- The same for an attached function: FN 13 and 14 as epilogues merge with the row value in TD (R245). -/
def attReadsTD (fn : Nat) : Bool := readsTD fn || fn == 13 || fn == 14

/-- The values of TB that go with element (i, j): row 0 and row 1 for FN 15, 16, 19 and 20 in their apply phase and FN 19 and 20 in
their statistics phase, the element itself otherwise. -/
def State.tbElem (s : State) (tb : Opd) (rowwise : Bool) (i j : Nat) : W32 :=
  if tb.r ≥ 32 || tb.t.d.rows = 0 then 0 else s.f32Elem tb.t (if rowwise then 0 else i) j

def State.tdElem (s : State) (td : Opd) (i j : Nat) : W32 := if td.r ≥ 32 || td.t.d.rows = 0 then 0 else s.f32Elem td.t i j

/-- The statistics columns of row i. -/
def State.statsOf (s : State) (ts : Option Opd) (i : Nat) : Stats :=
  match ts with
  | some o => (List.range 5).map (fun k => s.f32Elem o.t i k)
  | none => []

/-- The columns a statistics phase changed, each converted with tensor scale `sc`, rounding to nearest even: number, bits and what was
counted (R127, R136, R139). -/
def statConv (sc fn : Nat) (st : Stats) : List (Nat × Nat × ConvStat) :=
  (statCols fn).map (fun k =>
    let o := convertBlock 0 sc false 0 false (fun _ => 0) [ofF32 (st.col k)]
    (k, o.codes.getD 0 0, o.stat))

/-- The values and coordinates that enter a function for element (i, j) of E. -/
def State.fnArgs (s : State) (fn : Nat) (tb td : Opd) (stat : Bool) (i j : Nat) : W32 × W32 × W32 :=
  let rw := fn == 19 || fn == 20 || (!stat && (fn == 15 || fn == 16))
  (s.tbElem tb rw i j, if !stat && fn = 15 then (if tb.t.d.rows.toNat < 2 then 0 else s.f32Elem tb.t 1 j) else 0, s.tdElem td i j)

/-- The residual of FN 15 and 16 in a statistics-phase epilogue: x = E + TB when TB.ROWS ≠ 0 (R247). -/
def residual (fn : Nat) (tb : Opd) (e b : W32) : W32 :=
  if (fn = 15 || fn = 16) && tb.r < 32 && tb.t.d.rows ≠ 0 then fAdd e b else e

/-- One row of an epilogue: the values that go on to TC, the new statistics columns, and the new row value of FN 13 and 14
(R245, R247). `j0` is the TC column of the first value. -/
def State.epilogueRow (s : State) (a : Attach) (i j0 : Nat) (es : List W32) : List W32 × Stats × Option W32 :=
  let fn := a.fn
  let c := a.ss.setWidth 32
  let st := s.statsOf a.stats i
  if fn ≤ 12 then
    (es.zipIdx.map (fun p => ewise fn p.1 (s.tbElem a.tb false i (j0 + p.2)) (s.tdElem a.td i (j0 + p.2)) c), st, none)
  else if fn ≤ 14 then (es, st, some (rowFn fn (some (s.tdElem a.td i 0)) es))
  else if fn = 18 then
    (es.zipIdx.map (fun p => let (b, b1, d) := s.fnArgs 18 a.tb a.td false i (j0 + p.2); applyElem 18 c st p.1 b b1 d), st, none)
  else
    let xs := es.zipIdx.map (fun p =>
      let (b, _, d) := s.fnArgs fn a.tb a.td true i (j0 + p.2)
      (residual fn a.tb p.1 b, b, d))
    (if fn = 15 || fn = 16 then xs.map (fun x => x.1) else es, statRow fn c st xs, none)

/-- One element of a prologue (R245, R247). -/
def State.prologueElem (s : State) (a : Attach) (i j : Nat) (e : W32) : W32 :=
  let c := a.ss.setWidth 32
  if a.fn ≤ 12 then ewise a.fn e (s.tbElem a.tb false i j) (s.tdElem a.td i j) c
  else
    let (b, b1, d) := s.fnArgs a.fn a.tb a.td false i j
    applyElem a.fn c (s.statsOf a.stats i) e b b1 d

end Sys2Proof.Machine
end

