-- ==== Sys2Proof/Machine/Comb.lean ====
section
/-! DEFINITION. What an engine computes (chapters 5 and 6): band sums, runs and promotion in the order of R185 to R191, maximum,
minimum and top-k (R198 to R206), and the rows of a STREAM and a DRAIN. -/

namespace Sys2Proof.Machine

/-! ### One pass (R186 to R191) -/

/-- The format of the run of R188. -/
inductive RunFmt where
  | ba24
  | f32
  | exact
  deriving DecidableEq, Repr, Inhabited

def runFmt (fa fb : Nat) : RunFmt := if fa = 0 || fb = 0 then .f32 else if fa = 7 then .exact else .ba24

def roundRun : RunFmt → Num → Num
  | .ba24, x => roundBA24 x
  | .f32, x => roundF32 x
  | .exact, x => x

/-- A run, and whether some rounding of it made an infinity of a finite value (R193). -/
abbrev Run := Num × Bool

/-- One run rounding of c + s. -/
def runStep (f : RunFmt) (c : Run) (s : Num) : Run :=
  let x := c.1.add s
  let y := roundRun f x
  (y, c.2 || (x.isFinite && !y.isFinite))

/-- Cut a list into pieces of `n`. -/
def pieces {α : Type} (n : Nat) : Nat → List α → List (List α)
  | 0, _ => []
  | _ + 1, [] => []
  | fuel + 1, xs => xs.take n :: pieces n fuel (xs.drop n)

/-- A zero without its sign: the integers of INT8 have one zero (R122). -/
def Num.plusZero (x : Num) : Num := if x.isZero then .zero else x

/-- The run of a pass: streamed row `xs` against column `ys`, `u` products per cell. In normal form the bands of 16u products
are chained from +0; in shallow form there is one band and one rounding. -/
def runOf (f : RunFmt) (u : Nat) (sh : Bool) (xs ys : List Num) : Run :=
  let ps := (List.zipWith Num.mul xs ys).map (fun p => if f = .exact then p.plusZero else p)
  if sh then
    let x := sumNum ps
    let y := roundRun f x
    (y, x.isFinite && !y.isFinite)
  else (pieces (16 * u) ps.length ps).foldl (fun c band => runStep f c (sumNum band)) (.zero, false)

/-- Promotion into an FP32 total (R189), and whether it overflowed. -/
def promote (t0 : Num) (c : Num) : Num × Bool :=
  let x := t0.add c
  let y := roundF32 x
  (y, x.isFinite && !y.isFinite)

/-! ### Buffers and banks -/

/-- Tile element (k, n) of a buffer under the scale of the tensor that loaded it. -/
def Buf.val (b : Buf) (k n : Nat) : Num :=
  let e := (b.tile.getD k []).getD n (0, 0x7F)
  elemValue b.fmt b.tag.scale.toNat e.2.toNat e.1.toNat

/-- Column n of a buffer. -/
def Buf.column (b : Buf) (n : Nat) : List Num := (List.range b.kn).map (fun k => b.val k n)

/-- The place of row m, column n among the 16,384 words of a bank: 256 rows of 64 columns in normal form, 64 rows of 256 in shallow form
(R145; log 61). -/
def bankIdx (sh : Bool) (m n : Nat) : Nat := m * (if sh then 256 else 64) + n

def Bank.word (b : Bank) (i : Nat) : W32 :=
  match b.free with
  | none => Tbl.get 0 b.vals i
  | some f => Tbl.get (Config.freeW32 (f + i)) b.vals i

def Bank.setWord (b : Bank) (i : Nat) (v : W32) : Bank :=
  match b.free with
  | none => { b with vals := Tbl.set 0 b.vals i v }
  | some _ => { b with vals := b.vals.put i v }

def Bank.setRow (b : Bank) (m : Nat) : Nat → List W32 → Bank
  | _, [] => b
  | n, v :: vs => (b.setWord (bankIdx b.sh m n) v).setRow m (n + 1) vs

def Engine.bank (e : Engine) (ab : Nat) : Bank := if ab = 0 then e.bank0 else e.bank1
def Engine.setBank (e : Engine) (ab : Nat) (b : Bank) : Engine := if ab = 0 then { e with bank0 := b } else { e with bank1 := b }
def Engine.bufN (e : Engine) (b : Nat) : Buf := if b = 0 then e.buf0 else e.buf1
def Engine.setBuf (e : Engine) (n : Nat) (b : Buf) : Engine := if n = 0 then { e with buf0 := b } else { e with buf1 := b }
def Engine.ib (e : Engine) (b : Nat) : BufIss := if b = 0 then e.ib0 else e.ib1
def Engine.setIb (e : Engine) (n : Nat) (b : BufIss) : Engine := if n = 0 then { e with ib0 := b } else { e with ib1 := b }

/-! ### Maximum, minimum and top-k (R198 to R206) -/

/-- An entry of a top-k record. -/
abbrev TkEntry := W32 × Nat

/-- The magnitude of an FP32 word that is not NaN, as an order-preserving number. -/
def magKey (w : W32) : Nat := w.toNat % 2 ^ 31

/-- Whether a new entry `a` goes in front of `b`: larger magnitude, or the same and a lower position. -/
def tkBefore (a b : TkEntry) : Bool := magKey b.1 < magKey a.1 || (magKey a.1 == magKey b.1 && a.2 < b.2)

/-- Insert behind every entry that the new one does not go in front of. -/
def tkInsert (a : TkEntry) : List TkEntry → List TkEntry
  | [] => [a]
  | b :: bs => if tkBefore a b then a :: b :: bs else b :: tkInsert a bs

/-- The k entries of R200 among held entries and new candidates, and whether a NaN candidate was dropped. -/
def tkMerge (k : Nat) (held new : List TkEntry) : List TkEntry × Bool :=
  let all := held ++ new
  let ok := all.filter (fun e => !f32IsNaN e.1)
  ((ok.foldl (fun acc e => tkInsert e acc) []).take k, ok.length != all.length)

/-- The entries of a record held in 2k words (R105, R204): its count is that of entry 0, truncated to k. -/
def tkParse (k : Nat) (ws : List W32) : List TkEntry :=
  let n := min k (bitsOf (ws.getD 1 0).toNat 23 16)
  (List.range n).map (fun e => (ws.getD (2 * e) 0, bitsOf (ws.getD (2 * e + 1) 0).toNat 11 0))

/-- The 2k words of a record (R105, R202). -/
def tkWords (k : Nat) (es : List TkEntry) : List W32 :=
  let n := min k es.length
  ((List.range k).map (fun i =>
    let e := es.getD i (0, 0xFFF)
    let e := if i < n then e else (0, 0xFFF)
    [e.1, BitVec.ofNat 32 (e.2 + n * 2 ^ 16)])).flatten

/-- The result of RED = 1 or 2: the merged value first, then the candidates by column (R199). -/
def redMM (red : Nat) (merged : Option W32) (cs : List W32) : W32 :=
  let f := if red = 1 then fMax else fMin
  match merged, cs with
  | some v, cs => cs.foldl f v
  | none, [] => 0
  | none, c :: cs => cs.foldl f c

/-! ### The rows of a STREAM -/

/-- What one result row leaves: its totals (one per column, one value, or a record's words), the wide totals of the taster, the
values behind an epilogue with its statistics and row value, and whether NONFINITE is set. -/
structure RowOut where
  row : Nat := 0
  vals : List W32 := []
  wide : List Num := []
  out : List W32 := []
  stats : Stats := []
  rowVal : Option W32 := none
  nf : Bool := false
  deriving DecidableEq, Repr, Inhabited

/-- Number of results of one row. -/
def StreamOp.width (o : StreamOp) : Nat := if o.red = 0 then o.nn else if o.red = 3 then 2 * (o.topk + 1) else 1

/-- The column of TC at which a row's results begin. -/
def StreamOp.col (o : StreamOp) : Nat := if o.red = 3 then 0 else o.nc

/-- C is read (R161, R189). -/
def StreamOp.readsC (o : StreamOp) : Bool := o.acc == 2 && !o.dstb

/-- The words row r starts from: bank row r, or row m0 + r of TC (R189, R198); 0 with ACC = 2 and DSTB = 1, where TC is not read (R161, log
62). -/
def State.initRow (s : State) (e : Engine) (o : StreamOp) (r : Nat) : List W32 :=
  if o.acc = 1 then (List.range o.width).map (fun n => (e.bank o.ab).word (bankIdx o.sh r n))
  else if o.readsC then
    if o.red = 3 then
      (List.range o.width).map (fun n =>
        BitVec.ofNat 32 (s.readNat (o.tc.t.d.base.toNat + (o.m0 + r) * o.tc.t.d.rstride.toNat + 4 * n) 4))
    else (List.range o.width).map (fun n => s.f32Elem o.tc.t (o.m0 + r) (o.nc + n))
  else List.replicate o.width 0

/-- The run format and multiplicity of a STREAM over a buffer; `fa` is the streamed format. -/
def streamRuns (fa : Nat) (b : Buf) (o : StreamOp) (xs : List Num) (f : RunFmt) : List Run :=
  (List.range o.nn).map (fun n => runOf f (fmtMult fa) o.sh xs (b.column n))

/-- The result of one streamed row before any epilogue. -/
def State.streamRow (s : State) (e : Engine) (b : Buf) (fa : Nat) (o : StreamOp) (r : Nat) (xs : List Num) : RowOut :=
  let t0 := s.initRow e o r
  if o.kn = 0 then
    let vs := if o.red = 3 then tkWords (o.topk + 1) [] else t0
    { row := r, vals := vs, nf := o.red ≠ 3 && vs.any (fun v => !(ofF32 v).isFinite) }
  else
    let f := runFmt fa b.fmt
    let rs := streamRuns fa b o xs f
    let ovf := rs.any (fun x => x.2)
    if o.red = 0 then
      let ts := List.zipWith (fun t x => promote (ofF32 t) x.1) t0 rs
      let wf : RunFmt := if f = .exact then .exact else .f32
      let ws := List.zipWith (fun t x => (promote (ofF32 t) x.1).1) t0 (streamRuns fa b o xs wf)
      { row := r, vals := ts.map (fun t => toF32 t.1), wide := ws,
        nf := ovf || ts.any (fun t => t.2 || !t.1.isFinite) }
    else
      let cs := rs.map (fun x => toF32 (promote .zero x.1).1)
      let ovf := ovf || rs.any (fun x => (promote .zero x.1).2)
      if o.red = 3 then
        let k := o.topk + 1
        let held := if o.acc = 0 then [] else tkParse k t0
        let (es, bad) := tkMerge k held (cs.zipIdx.map (fun p => (p.1, o.nc + p.2)))
        { row := r, vals := tkWords k es, nf := ovf || bad }
      else
        let v := redMM o.red (if o.acc = 0 then none else t0.head?) cs
        { row := r, vals := [v], nf := ovf || !(ofF32 v).isFinite }

/-- The TA rows and columns that a STREAM touches: the first row and column and how many of each (R155). -/
def StreamOp.taRect (o : StreamOp) : Nat × Nat × Nat × Nat :=
  if o.tr then (o.ka, o.m0, o.kn, o.m) else (o.m0, o.ka, o.m, o.kn)

/-- Transpose a matrix of `n` columns. -/
def transposeN (n : Nat) (xs : List (List Num)) : List (List Num) := (List.range n).map (fun j => xs.map (fun r => r.getD j .zero))

/-- The elements of TA that a STREAM reads, by TA row. -/
def State.taElems (s : State) (o : StreamOp) : List (List Num) :=
  let (i0, j0, ni, nj) := o.taRect
  (List.range ni).map (fun i => s.elemRow o.ta.t (i0 + i) j0 nj)

/-- What a prologue makes of the elements of TA, in FP32, by TA row (R245, R247). -/
def State.proValues (s : State) (o : StreamOp) (a : Attach) : List (List W32) :=
  let (i0, j0, ni, nj) := o.taRect
  (List.range ni).map (fun i => (List.range nj).map (fun j => s.prologueElem a (i0 + i) (j0 + j) (s.f32Elem o.ta.t (i0 + i) (j0 + j))))

/-- One TA row of a prologue's results, cut into blocks and converted into TD.FMT (R249, R129): the blocks by first column, and the
values that enter the array. -/
def proRow (a : Attach) (scale : Nat) (dr : Nat → Nat) (j0 : Nat) (vs : List W32) : List (Nat × ConvOut) × List Num :=
  let d := a.td.t.d
  let bl := if d.bscale then cutBlocks (vs.length + 1) j0 (vs.map ofF32) else [(j0, vs.map ofF32)]
  let cs := bl.map (fun b => (b.1, convertBlock d.fmt.toNat scale d.bscale a.rnd a.ovf (fun k => dr (b.1 - j0 + k)) b.2))
  (cs, (cs.map (fun c => c.2.codes.map (fun x => elemValue d.fmt.toNat scale c.2.bscale x))).flatten)

/-- Write one converted TA row of a prologue at its TA coordinates; the row's last block takes its padding with it (R129). -/
def State.putProRow (s : State) (d : TDesc) (i : Nat) (cs : List (Nat × ConvOut)) : State :=
  cs.foldl (fun s c =>
    let s := s.putRow d i c.1 c.2.codes
    let s := if d.bscale then s.writeMem (scaleAddr d i c.1) [BitVec.ofNat 8 c.2.bscale] else s
    if c.1 + c.2.codes.length = d.cols.toNat then s.padRow d i else s) s

/-- Stochastic draws of a generator from the state's next free number on (R138, R140). -/
def State.draws (s : State) (seed : W64) (k : Nat) : Nat := (Config.draw seed (s.freeCtr + k)).toNat

def State.drew (s : State) (n : Nat) : State := { s with freeCtr := s.freeCtr + n }

/-- The rows of a STREAM's operand as they enter the array, M of them; the copies that a prologue writes; and its conversion counts
and largest finite magnitude. -/
def State.operandRows (s : State) (c : Nat) (op : EngOp) (o : StreamOp) : List (List Num) × State × ConvStat × (Nat × Int) :=
  match o.pro with
  | none =>
    let e := s.taElems o
    (if o.tr then transposeN o.m e else e, s, {}, (0, 0))
  | some a =>
    let (i0, j0, _, nj) := o.taRect
    let vs := s.proValues o a
    let rows := vs.zipIdx.map (fun p => proRow a op.proScale (fun k => s.draws (s.core c).vuSeed (p.2 * nj + k)) j0 p.1)
    let st := rows.foldl (fun st r => r.1.foldl (fun st c => st.join c.2.stat) st) ({} : ConvStat)
    let s1 := if a.td.t.d.rows = 0 then s
      else (rows.zipIdx).foldl (fun s r => s.putProRow a.td.t.d (i0 + r.2) r.1.1) s
    let e := rows.map (fun r => r.2)
    (if o.tr then transposeN o.m e else e, s1.drew (vs.length * nj), st, amaxOf (vs.flatten.map ofF32))

/-- The streamed format as the array sees it: TD.FMT behind a prologue (R249). -/
def StreamOp.fa (o : StreamOp) : Nat :=
  match o.pro with
  | some a => a.td.t.d.fmt.toNat
  | none => o.ta.t.d.fmt.toNat

/-- Every result row of a STREAM, epilogue included, from the operand rows `xs`. -/
def State.streamRows (s : State) (e : Engine) (b : Buf) (o : StreamOp) (xs : List (List Num)) : List RowOut :=
  (List.range o.m).map (fun r =>
    let ro := s.streamRow e b o.fa o r (xs.getD r [])
    match o.epi with
    | none => { ro with out := ro.vals }
    | some a =>
      let (vs, st, rv) := s.epilogueRow a (o.m0 + r) o.nc ro.vals
      { ro with out := vs, stats := st, rowVal := rv })

/-- The bank rows that a DRAIN converts. -/
def drainRows (b : Bank) (o : DrainOp) : List (List W32) :=
  (List.range o.m).map (fun r => (List.range o.nn).map (fun n => b.word (bankIdx b.sh r n)))

/-- Fill a buffer's tile from TB (R154). -/
def State.loadTile (s : State) (o : LoadsOp) : List (List (W32 × Byte)) :=
  (List.range o.kn).map (fun k => (List.range o.nn).map (fun n =>
    let (i, j) := if o.tr then (o.k0 + n, o.n0 + k) else (o.k0 + k, o.n0 + n)
    (BitVec.ofNat 32 (s.elemBits o.tb.t.d i j), s.bscaleOf o.tb.t.d i j)))

end Sys2Proof.Machine
end

