-- ==== Sys2Proof/Machine/HiveOps.lean ====
section
/-! DEFINITION. Operations over a hive (chapter 12): its tables and areas, FP32 arithmetic with flushing, hive programs, compensated
masters, working copies, parking, hand-offs and norm records. -/

namespace Sys2Proof.Machine

def State.hive (s : State) (h : Nat) : Hive := Tbl.get {} s.hives h
def State.setHive (s : State) (h : Nat) (k : Hive) : State := { s with hives := Tbl.set {} s.hives h k }
def State.updHive (s : State) (h : Nat) (f : Hive → Hive) : State := s.setHive h (f (s.hive h))

/-! ### Tables and areas (R385 to R391, R398) -/

/-- Base, size in bytes and enable of a region-table entry (R282). -/
def State.regionOn (s : State) (i : Nat) : Bool := s.fld 0x20 0 (0x200 + 16 * i) 31 31 == 1
def State.regionBase (s : State) (i : Nat) : Nat := s.fld 0x20 0 (0x204 + 16 * i) 31 0 * 4096
def State.regionSize (s : State) (i : Nat) : Nat := s.fld 0x20 0 (0x208 + 16 * i) 31 0 * 4096

def State.ownBase (s : State) (h : Nat) : Nat := s.fld 0x24 h 0x20 25 0 * 16
def State.ownCount (s : State) (h : Nat) : Nat := s.fld 0x24 h 0x24 16 0
def State.lotBase (s : State) (h : Nat) : Nat := s.fld 0x24 h 0x28 25 0 * 16
def State.lotCount (s : State) (h : Nat) : Nat := s.fld 0x24 h 0x2C 15 0

/-- Bytes of the park, collective and staging areas (R389). -/
def State.parkBytes (s : State) (h : Nat) : Nat := s.fld 0x24 h 0x1C 31 24 * 2 ^ 20
def State.collBytes (s : State) (h : Nat) : Nat := s.fld 0x24 h 0x1C 23 16 * 2 ^ 20
def State.stageBytes (s : State) (h : Nat) : Nat := s.fld 0x24 h 0x1C 15 8 * 2 ^ 20

/-- The fields of an ownership-table entry at a module-store address, and whether hive `h` owns it (R385, R386). -/
def State.ownEntry (s : State) (h i : Nat) : Option OwnE :=
  let a := modAddr (s.ownBase h + 32 * i)
  let f := (s.byte a).toNat
  if f % 2 = 1 && (s.byte (a + 6)) == s.siteId && s.readNat (a + 4) 2 % 2 ^ 14 == s.fld 0x22 h 0x10 13 0
      && (s.byte (a + 1)).toNat % 16 == h then
    some { shard := i, pinned := bitAt f 1, layer := s.readNat (a + 2) 2, off := s.readNat (a + 8) 5, elems := s.readNat (a + 16) 4,
           home := s.readNat (a + 20) 4, wc := s.readNat (a + 24) 8 }
  else none

/-- The entries a hive owns, as START copies them. -/
def State.ownedOf (s : State) (h : Nat) : List OwnE := (List.range (s.ownCount h)).filterMap (s.ownEntry h)

/-- LAYER of layer-order position j. -/
def State.lotLayer (s : State) (h j : Nat) : Nat := s.readNat (modAddr (s.lotBase h + 16 * j)) 2

/-- The position of a layer in the table. -/
def State.lotPos (s : State) (h layer : Nat) : Option Nat := (List.range (s.lotCount h)).find? (fun j => s.lotLayer h j == layer)

def Hive.entry (k : Hive) (shard : Nat) : Option OwnE := k.own.find? (fun e => e.shard == shard)

/-- Where a shard's state lies (R385, R391). -/
def State.homeAddr (s : State) (h : Nat) (e : OwnE) : Nat :=
  if e.pinned then fastAddr h (e.home * 4096)
  else mainAddr (s.regionBase 2 + h * (s.regionSize 2 / 16) + e.home * 4096)

/-- The next 64-byte boundary. -/
def up64 (a : Nat) : Nat := cdiv a 64 * 64

/-- Offsets of the compensation words and of state stream i from the home, and the state size for `ns` streams (R391). -/
def compOff (n : Nat) : Nat := up64 (4 * n)
def streamOff (n : Nat) : Nat → Nat
  | 0 => up64 (compOff n + 2 * n)
  | i + 1 => up64 (streamOff n i + 4 * n)
def stateSize (n ns : Nat) : Nat := if ns = 0 then compOff n + 2 * n else streamOff n (ns - 1) + 4 * n

/-! ### FP32 with flushing (R404) -/

/-- A subnormal operand is taken as zero of its sign. -/
def hIn (a : W32) : Num :=
  if a.toNat / 2 ^ 23 % 256 = 0 then .fin (bitAt a.toNat 31) 0 0 else ofF32 a

/-- An exact result non-zero and below 2^-126 in magnitude is flushed, before any rounding. -/
def tiny : Num → Bool
  | .fin _ m e => m != 0 && decide (leadExp m e < -126)
  | _ => false

def hOut (x : Num) : W32 := if tiny x then (if x.isNeg then 0x80000000#32 else 0) else toF32 x

/-- Maximum and minimum with NaN and with −0 below +0 (R410). -/
def hMax (a b : Num) : Num :=
  if a.isNaN || b.isNaN then .nan
  else if a.isZero && b.isZero then .fin (a.isNeg && b.isNeg) 0 0
  else if a.lt b then b else a
def hMin (a b : Num) : Num :=
  if a.isNaN || b.isNaN then .nan
  else if a.isZero && b.isZero then .fin (a.isNeg || b.isNeg) 0 0
  else if a.lt b then a else b

/-- A signed number v × 2^e. -/
def numOfInt (v : Int) (e : Int) : Num := .fin (decide (v < 0)) v.natAbs e

/-- One of the two FP32 neighbours of an exact value, which is `q` but for a sticky last bit, or that value itself where it is one (R410,
log 22): the one with the larger magnitude when `up`. -/
def hNear (up : Bool) (q : Num) : W32 :=
  match roundFloat 23 (-126) 2 0 q, q with
  | .fin n m e, .fin _ mq eq =>
    let lo := toF32 (.fin n m e)
    if !magLe mq eq m e && up then lo + 1 else lo
  | _, _ => 0

/-- 1/√A (R410). -/
def hRsqrt (a : W32) : W32 :=
  match hIn a with
  | .nan => 0x7FC00000#32
  | .inf n => if n then 0x7FC00000#32 else 0
  | .fin n m e =>
    if m = 0 then (if n then 0xFF800000#32 else 0x7F800000#32)
    else if n then 0x7FC00000#32
    else hNear (Config.hiveRsqrtUp a) ((Num.fin false 1 0).quot 80 ((Num.fin false m e).root 80))

/-- 2^(f / 2^k) × 2^120, cut off, for f below 2^k: each bit of the fraction is one square root. -/
def exp2Frac : Nat → Nat → Nat
  | 0, _ => 2 ^ 120
  | k + 1, f =>
    let v := exp2Frac k (f % 2 ^ k) * 2 ^ (f / 2 ^ k) * 2 ^ 120
    isqrt (Nat.log2 v / 2 + 1) 0 v

/-- 2^A with its value before flushing: it overflows to +∞ from A = 128 on, and is flushed below A = −126 (R404, R410). -/
def hExp2 (a : W32) : Num × W32 :=
  match hIn a with
  | .nan => (.nan, 0x7FC00000#32)
  | .inf n => if n then (.zero, 0) else (.inf false, 0x7F800000#32)
  | .fin n m e =>
    let l := (-e).toNat
    let v : Int := (if n then -1 else 1) * (m * 2 ^ e.toNat : Nat)
    let i := v / 2 ^ l
    let f := (v % 2 ^ l).toNat
    if 128 ≤ i then (.inf false, 0x7F800000#32)
    else if i < -126 then (.fin false 1 (-127), 0)
    else
      let q := Num.fin false (2 * exp2Frac l f + b2n (f != 0)) (i - 121)
      (q, hNear (Config.hiveExp2Up a) q)

/-- The first `k` bits of log₂ of t / 2^200 from 1 up to 2: each is one squaring. -/
def log2Bits : Nat → Nat → Nat → Nat
  | 0, _, acc => acc
  | k + 1, t, acc =>
    let u := t * t / 2 ^ 200
    if 2 ^ 201 ≤ u then log2Bits k (u / 2) (2 * acc + 1) else log2Bits k u (2 * acc)

/-- log₂ A (R410). -/
def hLog2 (a : W32) : Num × W32 :=
  match hIn a with
  | .nan => (.nan, 0x7FC00000#32)
  | .inf n => if n then (.nan, 0x7FC00000#32) else (.inf false, 0x7F800000#32)
  | .fin n m e =>
    if m = 0 then (.inf true, 0xFF800000#32)
    else if n then (.nan, 0x7FC00000#32)
    else
      let k := Nat.log2 m
      let v : Int := e + k
      if m = 2 ^ k then (numOfInt v 0, toF32 (numOfInt v 0))
      else
        let t := v * 2 ^ 80 + (log2Bits 80 (m * 2 ^ (200 - k)) 0 : Nat)
        let q := if t < 0 then Num.fin true (2 * (t.natAbs - 1) + 1) (-81) else .fin false (2 * t.natAbs + 1) (-81)
        (q, hNear (Config.hiveLog2Up a) q)

/-- One operation of R410: the exact value before flushing where it has one, and the result. -/
def hiveOp (op : Nat) (a b c : W32) : Num × W32 :=
  let x := hIn a
  let y := hIn b
  let z := hIn c
  let out := fun (v : Num) => (v, hOut v)
  if op = 0 then out x
  else if op = 1 then out (x.add y)
  else if op = 2 then out (x.sub y)
  else if op = 3 then out (x.mul y)
  else if op = 4 then out ((x.mul y).add z)
  else if op = 5 then out (hMax x y)
  else if op = 6 then out (hMin x y)
  else if op = 7 then out x.abs
  else if op = 8 then out (if x.isNaN || x.isZero then x else .fin x.isNeg 1 0)
  else if op = 9 then out (if (Num.zero).lt x && !x.isNaN then y else z)
  else if op = 10 then out ((Num.fin false 1 0).quot 80 x)
  else if op = 11 then (ofF32 (hRsqrt a), hRsqrt a)
  else if op = 12 then out (x.root 80)
  else if op = 13 then hExp2 a
  else hLog2 a

/-! ### Hive programs (R409, R410) -/

/-- An instruction of an image. -/
structure HInstr where
  op : Nat
  d : Nat
  a : Nat
  b : Nat
  c : Nat
  scalar : Bool
  rsv : Nat
  deriving DecidableEq, Repr

def hinstrOf (w : Nat) : HInstr :=
  { op := bitsOf w 31 27, d := bitsOf w 26 21, a := bitsOf w 20 15, b := bitsOf w 14 9, c := bitsOf w 8 3, scalar := bitAt w 2,
    rsv := w % 4 }

/-- LEN, NS, constants and instructions of an image. -/
def progLen (p : List Byte) : Nat := leField p 0 1
def progNs (p : List Byte) : Nat := leField p 1 1 % 8
def progInstrs (p : List Byte) : List HInstr := (List.range (progLen p)).map (fun i => hinstrOf (leField p (256 + 4 * i) 4))
def progConst (p : List Byte) (i : Nat) : W32 := BitVec.ofNat 32 (leField p (64 + 4 * i) 4)

def HInstr.reads (i : HInstr) : List Nat :=
  if i.op = 4 || i.op = 9 then [i.a, i.b, i.c]
  else if i.op = 1 || i.op = 2 || i.op = 3 || i.op = 5 || i.op = 6 then [i.a, i.b] else [i.a]

/-- A scalar instruction after an ordinary one. -/
def lateScalar : List HInstr → Bool → Bool
  | [], _ => false
  | i :: is, seen => (i.scalar && seen) || lateScalar is (seen || !i.scalar)

/-- The image at an address (R409). -/
def State.progImage (s : State) (a : Nat) : List Byte := s.readMem a (256 + 4 * (s.byte a).toNat)

/-- An image that START refuses with BAD_PROGRAM (R409). -/
def badProgram (p : List Byte) : Bool :=
  let is := progInstrs p
  progLen p == 0 || decide (4 < progNs p) || leField p 1 1 / 8 != 0 || lateScalar is false
    || (p.drop 2).take 62 != List.replicate 62 0 || (p.drop 160).take 96 != List.replicate 96 0
    || is.any (fun i => decide (14 < i.op) || i.rsv != 0 || (i.scalar && (i.reads.any (fun r => r < 32) || i.d < 32))
      || (!i.scalar && decide (32 ≤ i.d)) || i.d < 2 || decide (56 ≤ i.d)
      || (decide (2 ≤ i.d) && decide (i.d ≤ 5) && decide (progNs p + 2 ≤ i.d)))

abbrev HRegs := Tbl W32

/-- Run instructions; the flag says that the last write of register 6 was flushed from a non-zero result (R404). -/
def runProg : List HInstr → HRegs × Bool → HRegs × Bool
  | [], r => r
  | i :: is, (r, fl) =>
    let (x, v) := hiveOp i.op (Tbl.get 0 r i.a) (Tbl.get 0 r i.b) (Tbl.get 0 r i.c)
    runProg is (Tbl.set 0 r i.d v, if i.d = 6 then tiny x else fl)

/-- The registers for one shard after the scalar instructions (R410, R411). -/
def scalarRegs (p : List Byte) (lrs t cf cnt : W32) : HRegs :=
  let r := (List.range 24).foldl (fun r i => Tbl.set 0 r (32 + i) (progConst p i)) []
  let r := [(56, lrs), (57, t), (58, f32One), (59, cf), (60, cnt)].foldl (fun r (q : Nat × W32) => Tbl.set 0 r q.1 q.2) r
  (runProg ((progInstrs p).filter (fun i => i.scalar)) (r, false)).1

/-- The element pass over one element: the new streams, D and whether D was flushed. -/
def elemPass (p : List Byte) (base : HRegs) (g w : W32) (ss : List W32) : List W32 × W32 × Bool :=
  let r := base.filter (fun q => decide (32 ≤ q.1))
  let r := Tbl.set 0 (Tbl.set 0 r 0 g) 1 w
  let r := ss.zipIdx.foldl (fun r (q : W32 × Nat) => Tbl.set 0 r (2 + q.2) q.1) r
  let (r, fl) := runProg ((progInstrs p).filter (fun i => !i.scalar)) (r, false)
  ((List.range ss.length).map (fun i => Tbl.get 0 r (2 + i)), Tbl.get 0 r 6, fl)

/-! ### Compensated masters (R403) -/

/-- The exponent of u(w). -/
def ulpExp (w : W32) : Int :=
  let e : Nat := w.toNat / 2 ^ 23 % 256
  if e = 0 then -149 else Int.ofNat e - 150

/-- V of a master and its compensation word. -/
def masterV (w : W32) (c : W16) : Num := (ofF32 w).add (numOfInt c.toInt (ulpExp w - 16))

/-- Round to an integer, nearest even. -/
def roundInt : Num → Int
  | .fin n m e =>
    let (m', e') := roundMag 0 0 m e 0
    let v : Int := Int.ofNat (m' * 2 ^ e'.toNat)
    if n then -v else v
  | _ => 0

/-- master_add: the new master and compensation word. -/
def masterAdd (w : W32) (c : W16) (d : Num) : W32 × W16 :=
  let x := (masterV w c).add d
  let w' := toF32 x
  if !(ofF32 w').isFinite then (w', 0)
  else
    let k := roundInt ((x.sub (ofF32 w')).scale (16 - ulpExp w'))
    (w', BitVec.ofInt 16 (max (-32768) (min 32767 k)))

/-! ### Clipping (R405, R406) -/

/-- The value of binary64 bits. -/
def ofF64 (b : W64) : Num :=
  let n := b.toNat / 2 ^ 63 == 1
  let e : Nat := b.toNat / 2 ^ 52 % 2048
  let f := b.toNat % 2 ^ 52
  if e = 2047 then (if f = 0 then .inf n else .nan)
  else if e = 0 then .fin n f (-1074)
  else .fin n (2 ^ 52 + f) (Int.ofNat e - 1075)

def f64Add (a b : W64) : W64 := toF64 ((ofF64 a).add (ofF64 b))
def f64Mul (a b : W64) : W64 := toF64 ((ofF64 a).mul (ofF64 b))
def f64Div (a b : W64) : W64 := toF64 ((ofF64 a).quot 120 (ofF64 b))
def f64Sqrt (a : W64) : W64 := toF64 ((ofF64 a).root 120)
def f64OfNat (n : Nat) : W64 := toF64 (.fin false n 0)

/-- Σ x² over FP32 values, in binary64, in ascending order (R405, R412; log 10). -/
def sumSq (vs : List W32) : W64 :=
  vs.foldl (fun (a : W64) v => f64Add a (toF64 ((ofF32 v).mul (ofF32 v)))) 0

/-- A threshold or norm for which f is 1. -/
def noClip (v : W32) : Bool := !(ofF32 v).isFinite || ((ofF32 v).isNeg && !(ofF32 v).isZero)

/-- min(1, x) of a binary64 value, rounded once to FP32. -/
def clipMin (x : W64) : W32 :=
  if (ofF64 x).isNaN then f32One else if (ofF64 x).lt (.fin false 1 0) then toF32 (ofF64 x) else f32One

/-- clip_factor for a shard of `elems` elements whose Σg² is `g2`. -/
def State.clipFactor (s : State) (h elems layerElems : Nat) (clipT : W32) (g2 : W64) : W32 :=
  let mode := s.fld 0x24 h 0x10 21 20
  let norm := f64Sqrt g2
  if mode = 1 then
    if (ofF64 norm).isZero || (ofF32 clipT).isZero || noClip clipT || layerElems = 0 then f32One
    else clipMin (f64Div (f64Mul (toF64 (ofF32 clipT)) (f64Sqrt (f64Div (f64OfNat elems) (f64OfNat layerElems)))) norm)
  else if mode = 2 then
    let n := (s.hive h).latchN
    let c := (s.hive h).latchClip
    if (ofF32 n).isZero || noClip n || noClip c then f32One
    else clipMin (f64Div (toF64 (ofF32 c)) (f64Sqrt (toF64 (ofF32 n))))
  else f32One

/-! ### Working copies (R387, R407) -/

/-- The descriptor of a working-copy record. -/
def State.wcDesc (s : State) (a : Nat) : TDesc := tdescOfBits (s.readNat a 32)

/-- The masters of a shard. -/
def State.master (s : State) (h : Nat) (e : OwnE) (i : Nat) : W32 := BitVec.ofNat 32 (s.readNat (s.homeAddr h e + 4 * i) 4)
def State.comp (s : State) (h : Nat) (e : OwnE) (i : Nat) : W16 :=
  BitVec.ofNat 16 (s.readNat (s.homeAddr h e + compOff e.elems + 2 * i) 2)
def State.masterVal (s : State) (h : Nat) (e : OwnE) (i : Nat) : Num := masterV (s.master h e i) (s.comp h e i)

def State.putMaster (s : State) (h : Nat) (e : OwnE) (i : Nat) (w : W32) (c : W16) : State :=
  (s.writeNat (s.homeAddr h e + 4 * i) 4 w.toNat).writeNat (s.homeAddr h e + compOff e.elems + 2 * i) 2 c.toNat

/-- WC_RND of a layer, 3 acting as 0 (R398). -/
def wcRnd (lot : List Byte) : Nat := let r := leField lot 1 1 % 4; if r = 3 then 0 else r

/-- The layer-order bytes 2 to 7 of a layer as they stand now; zeros where the table does not list it. -/
def State.lotBytes (s : State) (h layer : Nat) : List Byte :=
  match s.lotPos h layer with
  | some j => s.readMem (modAddr (s.lotBase h + 16 * j + 2)) 6
  | none => List.replicate 6 0

/-- The bytes of a shard's state at its home. -/
def State.homeBytes (s : State) (h : Nat) (e : OwnE) : Nat := stateSize e.elems (progNs (s.hive h).prog)

/-- A memory-port die under recovery holds up the update that makes the working copy of step m: the state and the copy wait for it
(R296, log 66). -/
def State.shardHeld (s : State) (h : Nat) (e : OwnE) (m : Nat) : Bool :=
  let d := s.wcDesc (e.wc + 64 * (m % 2))
  s.dieHolds (s.homeAddr h e) (s.homeBytes h e) || s.dieHolds d.base.toNat (spanBytes d)

/-- Derive the working copy that serves step m from the masters (R407). Its tag carries POISON when a master read is uncorrectable, or
when what it is derived from carries POISON (R62, R290). -/
def State.deriveWc (s : State) (h : Nat) (e : OwnE) (rnd m : Nat) (poison : Bool) : State :=
  let s := s.noteUe (e.wc + 64 * (m % 2)) 32
  let masters := stateSize e.elems 0
  let poison := poison || s.ueIn (s.homeAddr h e) masters
  let s := s.noteUe (s.homeAddr h e) masters
  let a := e.wc + 64 * (m % 2)
  let d := s.wcDesc a
  let n := d.cols.toNat
  let s0 := s
  let (s1, st) := (List.range d.rows.toNat).foldl (fun (p : State × ConvStat) i =>
    let vs := (List.range n).map (fun j => s0.masterVal h e (i * n + j))
    let (s', st) := p.1.convRow d d.scale.toNat rnd false (fun k => s0.draws (s0.hive h).seed (i * n + k)) i 0 vs
    (s'.padRow d i, p.2.join st)) (s, {})
  let s := (s1.drew e.elems).layerAdd e.layer st false
  let t : Tag := sealTag { kind := 2, fmt := d.fmt, scale := d.scale, layer := BitVec.ofNat 16 e.layer, step := BitVec.ofNat 24 m,
                           round := BitVec.ofNat 16 s.round16, count := 1, flags := st.flags ||| flagBit fPOISON poison }
  s.writeMem (a + 32) (tagBytes t)

/-! ### Staging, parking and hand-off (R392 to R400, R596) -/

/-- A shard's state can be updated now: pinned, or staged. -/
def Hive.ready (k : Hive) (e : OwnE) : Bool := e.pinned || k.staged.contains e.shard

/-- CT_STEP_STATUS.PHASE. -/
def State.phase (s : State) : Nat := s.fld 0 0 0x204 29 27
def State.fenceClosed (s : State) : Bool := s.phase != 7

/-- The three conditions under which a gradient is parked (R395). The last round knock-back closed the round before CT_ROUND (R72). -/
def State.mustPark (s : State) (h : Nat) (e : OwnE) (t : Tag) : Bool :=
  let k := s.hive h
  !k.ready e || (s.fenceClosed && serialLater 24 t.step.toNat s.kbStep)
    || (serialLater 16 t.round.toNat (s.round16 + 65535) && k.own.any (fun o => o.layer == e.layer && k.unread.contains o.shard))

/-- Bytes of the park area in use: parked gradients, and the decoded elements of those that direct messages fill (R393). -/
def State.parkUsed (s : State) (h : Nat) : Nat :=
  let k := s.hive h
  (k.parked.map (fun g => 4 * g.vals.length)).sum + (k.direct.map (fun d => 4 * d.count)).sum

/-- Bytes granted and not yet delivered to a unit, over every port. -/
def State.grantedTo (s : State) (same : SfFrame → Bool) : Nat :=
  (s.ports.map (fun q => ((q.2.grants.filter (fun g => same g.req)).map (fun g => g.req.length.toNat)).sum)).sum

/-- Bytes of the park area that grants for direct messages reserve: 2 × LENGTH each (R393). -/
def State.parkReserved (s : State) (h : Nat) : Nat := 2 * s.grantedTo (fun r => r.unit == 1 && r.index.toNat == h)

/-- The address of an offset of a hive's staging area. -/
def State.stageAddr (s : State) (h o : Nat) : Nat := fastAddr h (s.parkBytes h + s.collBytes h + o)

/-- The slot that holds a shard's state. -/
def Hive.slotOf (k : Hive) (shard : Nat) : Option StageSlot := k.slots.find? (fun q => q.shard == shard)

/-- The place of the ring for `n` bytes: behind the slot taken last, or at the start again, when no slot in use lies there (R399). -/
def State.stageRoom (s : State) (h n : Nat) : Option Nat :=
  let ps := (s.hive h).slots
  let clear := fun (o : Nat) => decide (o + n ≤ s.stageBytes h) && ps.all (fun q => decide (o + n ≤ q.off) || decide (q.off + q.len ≤ o))
  [((ps.getLast?).map (fun q => q.off + q.len)).getD 0, 0].find? clear

/-- Read a shard's home into its slot of the staging area (R399); an uncorrectable granule met there stays with the slot (R290). -/
def State.stageIn (s : State) (h : Nat) (e : OwnE) (o : Nat) : State :=
  let n := s.homeBytes h e
  let a := s.homeAddr h e
  let bad := s.ueIn a n
  let s := s.noteUe a n
  (s.writeMem (s.stageAddr h o) (s.readMem a n)).updHive h (fun k =>
    { k with slots := k.slots ++ [{ shard := e.shard, off := o, len := n, bad := bad }] })

/-- The state that an update of a shard works on stands at its home: a pinned shard's does, and a staged one's is written back there from its
slot (R399). Whether an uncorrectable word was read for it comes with it (R271, R290). -/
def State.stateHome (s : State) (h : Nat) (e : OwnE) : State × Bool :=
  match (s.hive h).slotOf e.shard with
  | none => s.meetUe [(s.homeAddr h e, s.homeBytes h e)]
  | some q =>
    let (s, ue) := s.meetUe [(s.stageAddr h q.off, q.len)]
    (s.writeMem (s.homeAddr h e) (s.readMem (s.stageAddr h q.off) q.len), ue || q.bad)

/-- The staging area holds what has been written back. -/
def State.stateSlot (s : State) (h : Nat) (e : OwnE) : State :=
  match (s.hive h).slotOf e.shard with
  | none => s
  | some q => s.writeMem (s.stageAddr h q.off) (s.readMem (s.homeAddr h e) q.len)

/-- Stage the shards of a layer-order position that are not pinned (R399). -/
def State.stagePos (s : State) (h j : Nat) : State :=
  if s.lotCount h ≤ j then s
  else
    let l := s.lotLayer h j
    s.updHive h (fun k =>
      let new := (k.own.filter (fun e => e.layer == l && !e.pinned && !k.staged.contains e.shard && !k.fetching.contains e.shard)).map
        (fun e => e.shard)
      { k with fetching := k.fetching ++ new })

/-- Start a fetch of a shard's state at once (R395). -/
def State.fetchState (s : State) (h : Nat) (e : OwnE) : State :=
  s.updHive h (fun k => if k.ready e || k.fetching.contains e.shard then k else { k with fetching := k.fetching ++ [e.shard] })

/-- Queue a gradient for update, or park it, or leave it in its group's room (R395, R396). -/
def State.placeGradient (s : State) (h : Nat) (e : OwnE) (g : HiveG) : State :=
  if !s.mustPark h e g.tag then s.updHive h (fun k => { k with queue := k.queue ++ [{ g with room := none }] })
  else
    let s := s.fetchState h e
    if s.parkUsed h + s.parkReserved h + 4 * e.elems ≤ s.parkBytes h then
      ((s.updHive h (fun k => { k with parked := k.parked ++ [{ g with room := none }] })).count64 0x24 h 0x90 1).setFlag 0x24 h 0x18 0
    else (s.updHive h (fun k => { k with held := k.held ++ [g] })).setFlag 0x24 h 0x18 1

/-- The checks of a hand-off (R394) and its placing. -/
def State.handOff (s : State) (h : Nat) (g : HiveG) : State :=
  if hasFlag g.tag fEVAL then s.count64 0x24 h 0xB0 1
  else
    let bad := (s.count64 0x24 h 0xB8 1).setFlag 0x24 h 0x18 6
    match (s.hive h).entry g.shard with
    | none => bad
    | some e =>
      if g.tag.layer.toNat ≠ e.layer || g.vals.length ≠ e.elems || !(g.tag.op == 1 || g.tag.op == 2) then bad
      else if serialLater 24 s.step24 g.tag.step.toNat then (s.count64 0x24 h 0xC0 1).setFlag 0x24 h 0x18 7
      else s.placeGradient h e g

/-- Element width in bytes of FP32, BF16 and FP16. -/
def width3 (fmt : Nat) : Nat := if fmt = 0 then 4 else 2

/-- A direct message to a hive is discarded or written into the park area; the last fragment hands the gradient off (R332, R393). -/
def State.hiveMessage (s : State) (h : Nat) (b : Block) : State :=
  let k := s.hive h
  let drop := s.count64 0x24 h 0xC8 1
  match k.entry b.desc.shard.toNat with
  | none => drop
  | some e =>
    let fm := b.tag.fmt.toNat
    let w := width3 fm
    let per := 65536 / w
    let fr := b.desc.frag.toNat
    let last := cdiv (e.elems * w) 65536 - 1
    let need := if fr = last then (e.elems - fr * per) * w else 65536
    if !tagOk b.tag || b.tag.kind ≠ 1 || 2 < fm || b.desc.extent.toNat ≠ e.elems || last < fr || b.payload.length ≠ need then drop
    else
      let vs := (List.range (b.payload.length / w)).map (fun i => toF32 (elemValue fm b.tag.scale.toNat 127 (leField b.payload (w * i) w)))
      let d := (k.direct.find? (fun d => d.shard == e.shard)).getD { shard := e.shard }
      let d := { d with vals := vs.zipIdx.foldl (fun t (q : W32 × Nat) => Tbl.set 0 t (fr * per + q.2) q.1) d.vals,
                        frags := if d.frags.contains fr then d.frags else d.frags ++ [fr],
                        count := if d.frags.contains fr then d.count else d.count + vs.length,
                        flags := d.flags ||| carriedOf b.tag,
                        tag := if fr = last then b.tag else d.tag }
      let rest := k.direct.filter (fun q => q.shard != e.shard)
      if d.frags.length ≤ last then s.setHive h { k with direct := rest ++ [d] }
      else
        (s.setHive h { k with direct := rest }).handOff h
          { shard := e.shard, vals := (List.range e.elems).map (Tbl.get 0 d.vals), tag := sealTag { d.tag with flags := d.tag.flags ||| d.flags } }

/-! ### Norm records and triggers (R412, R413, R417, R418) -/

def State.normAddr (s : State) (h j par : Nat) : Nat := fastAddr h (s.fld 0x24 h 0x34 15 0 * 4096 + (2 * j + par) * 64)

/-- T of a layer: the larger of its two records. -/
def State.layerT (s : State) (h j : Nat) : Nat := max (s.readNat (s.normAddr h j 0 + 28) 4) (s.readNat (s.normAddr h j 1 + 28) 4)

/-- What a hive has gathered for a layer in step n. -/
def Hive.sumOf (k : Hive) (layer n : Nat) : LayerSum :=
  (k.sums.find? (fun a => a.layer == layer && a.step == n)).getD { layer := layer, step := n }

/-- A completion trigger offers its command (R418). -/
def State.trigger (s : State) (h when_ layer pos step : Nat) : State :=
  if s.fld 0x24 h 0x48 31 31 = 1 && s.fld 0x24 h 0x48 30 29 = when_ then
    let s := s.noteUe (s.word64 0x24 h 0x50) 64
    let cmd := cmdOfBytes (s.readMem (s.word64 0x24 h 0x50) 64)
    let arg := layer + pos * 2 ^ 16 + step * 2 ^ 32 + h * 2 ^ 56
    s.offer (s.fld 0x24 h 0x48 28 22) (s.fld 0x24 h 0x48 21 20) (.hive h) { cmd with arg0 := BitVec.ofNat 64 arg }
  else s

/-- Write a layer's norm record of its step, and offer the trigger's command. -/
def State.writeNorm (s : State) (h : Nat) (a : LayerSum) : State :=
  let s := s.updHive h (fun k => { k with sums := k.sums.filter (fun b => !(b.layer == a.layer && b.step == a.step)) })
  match s.lotPos h a.layer with
  | none => s
  | some j =>
    let s := (s.noteUe (s.normAddr h j 0) 64).noteUe (s.normAddr h j 1) 64
    let t := s.layerT h j + b2n a.updated
    let cf := if a.updated then a.cf.getD f32One else f32One
    let bs := leBytes 8 a.g2.toNat ++ leBytes 8 a.w2.toNat ++ leBytes 8 a.d2.toNat ++ leBytes 4 a.step ++ leBytes 4 t
      ++ leBytes 4 cf.toNat ++ leBytes 4 a.dmax.toNat ++ leBytes 4 a.flushed ++ leBytes 4 a.count ++ leBytes 1 a.status
      ++ List.replicate 15 0
    (s.writeMem (s.normAddr h j (a.step % 2)) bs).trigger h 0 a.layer j a.step

/-- Put back what has been gathered for a layer, and write its record once every owned shard of it has been treated (R413). -/
def State.putSum (s : State) (h : Nat) (a : LayerSum) : State :=
  let s := s.updHive h (fun k => { k with sums := k.sums.filter (fun b => !(b.layer == a.layer && b.step == a.step)) ++ [a] })
  if ((s.hive h).own.filter (fun e => e.layer == a.layer)).all (fun e => a.treated.contains e.shard) then s.writeNorm h a else s

/-- Another gradient of a shard waits at the hive. -/
def Hive.wants (k : Hive) (shard : Nat) : Bool := (k.queue ++ k.parked ++ k.held).any (fun g => g.shard == shard)

/-- Some gradient of step n is parked, held, queued or being updated, of one layer or of any. -/
def Hive.hasStep (k : Hive) (n : Nat) (layer : Option Nat) : Bool :=
  let all := k.queue ++ k.parked ++ k.held ++ (k.cur.toList.map (fun r => r.g))
  all.any (fun g => g.tag.step.toNat == n &&
    (match layer with
      | none => true
      | some l => (k.entry g.shard).any (fun e => e.layer == l)))

/-- In K3 the hive writes the records of layers some of whose shards got no gradient, and ends its part once nothing of step n is left
(R397, R413). -/
def State.hiveK3 (s : State) (h n : Nat) : State :=
  let k := s.hive h
  let s := (k.sums.filter (fun a => a.step == n && !k.hasStep n (some a.layer))).foldl (fun s a => s.writeNorm h a) s
  let k := s.hive h
  if k.told || k.hasStep n none || k.sums.any (fun a => a.step == n) then s
  else (s.updHive h (fun k => { k with told := true })).trigger h 1 0 0xFFFF n

/-- The latch of HV_GNORM2 and HV_CLIP and the first prefetches as the fence opens (R399, R406, R416). -/
def State.hiveOpen (s : State) (h : Nat) (advanced : Bool) : State :=
  let s := if !advanced then s
    else
      let v := s.word 0x24 h 0x40
      let k := s.hive h
      let s := s.setFlagIf (!k.gWritten || noClip v) 0x24 h 0x18 3
      s.updHive h (fun k => { k with latchN := v, latchClip := s.word 0x24 h 0x3C, gWritten := false })
  (List.range (s.fld 0x24 h 0x10 25 22)).foldl (fun s j => s.stagePos h j) (s.updHive h (fun k => { k with told := false }))

end Sys2Proof.Machine
end

