-- ==== Sys2Proof/Machine/Tensor.lean ====
section
/-! DEFINITION. Issuing tensor instructions and tile forms to an engine (R87 to R95, R101 to R107, R117, R148, R149, R161, R162,
R180, R203, R243 to R252, R593, R594). Every check is made at issue, in the order of R119; a faulting instruction has no other
effect. -/

namespace Sys2Proof.Machine

/-! ### Which engine may be named (R93, R94, R149, R504) -/

/-- ED_CFG.TWIN of the pair that engine m belongs to. -/
def State.twinOn (s : State) (c m : Nat) : Bool := s.fld 0x13 (c * 4 + m / 2 * 2) 0 1 1 == 1

/-- Engine m is a twin follower (R504). -/
def State.isFollower (s : State) (c m : Nat) : Bool := m % 2 == 1 && s.twinOn c m

/-- The engine is retired (R508, R510). -/
def Engine.retired (e : Engine) : Bool := e.retiring || e.resting || e.permanent

/-- The owner of engine m (R93). -/
def State.engOwner (s : State) (c m : Nat) : Nat := s.fld 0x10 c 0x10 (2 * m + 1) (2 * m)

/-- Why context x may not name engine m: a twin follower, not its owner or retired, then the engine's state (R94, R149, R504). -/
def State.engNameReason (s : State) (c x m : Nat) : Nat :=
  if s.isFollower c m then 0x9301
  else if s.engOwner c m ≠ x || (s.eng c m).retired then rsNOT_OWNER
  else stateReason (s.fld 0x11 (c * 4 + m) 0 2 0)

/-! ### Touched elements -/

/-- The rows i0 .. i0+ni−1 and columns j0 .. j0+nj−1 of a register are mapped and served (R52). -/
def State.rectReason (s : State) (d : TDesc) (i0 j0 ni nj : Nat) : Nat :=
  if ni = 0 || nj = 0 then 0
  else
    let a := elemBit d i0 j0 / 8
    let z := (elemBit d (i0 + ni - 1) (j0 + nj - 1) + fmtBits d.fmt.toNat + 7) / 8
    let r := s.accessReason a (z - a)
    if r ≠ 0 then r
    else if d.bscale then
      let b := scaleAddr d i0 j0
      s.accessReason b (scaleAddr d (i0 + ni - 1) (j0 + nj - 1) + 1 - b)
    else 0

/-! ### Engine queues (R95) -/

/-- A full queue leaves the context READY: it is passed over in this cc, and that is counted (R95, R42). -/
def State.engStall (s : State) (c x : Nat) : State := (s.count32 0x10 c 0x18 1).passOver c x

/-- The generator state for an instruction that enters the queue now (R141). -/
def Engine.issueSeed (e : Engine) : W64 :=
  e.q.foldl (fun v o => match o.kind with
    | .seed w => w
    | _ => v) e.seed

/-- Put an instruction into engine m's queue: it is outstanding and its registers are busy (R91). -/
def State.engQueue (s : State) (c x m : Nat) (kind : EngKind) (dsts srcs : List Nat) (tile : Bool) (issue : Engine → Engine) :
    State :=
  let (id, s) := s.newId
  let k := s.ctx c x
  let e := s.eng c m
  let op : EngOp := { id := id, x := x, no := k.cmdNo, kind := kind, tile := tile, cc := s.cycle, seed := e.issueSeed }
  let s := s.setCtx c x (k.begin id dsts srcs)
  s.setEng c m (issue { e with q := e.q ++ [op] })

/-- The common form of a tensor instruction: the interlock of R91, a full queue (R95), then the checks in order, then `go`. A failed
check halts the context in the state `faulted`. -/
def State.tensorGo (s : State) (c x m need : Nat) (i : Instr) (dsts srcs : List Nat) (checks : List Nat) (faulted go : State) : State :=
  let k := s.ctx c x
  if k.holds dsts srcs then s.waitOn c x (.held i)
  else if 8 < (s.eng c m).q.length + need then s.engStall c x
  else
    let r := firstNonzero (s.engNameReason c x m :: checks)
    if r ≠ 0 then faulted.halt c x r else go

/-- A check as a reason. -/
def chk (bad : Bool) (r : Nat) : Nat := if bad then r else 0

/-- [31:0] and [63:32] of a scalar register. -/
def lo32 (v : W64) : Nat := v.toNat % 2 ^ 32
def hi32 (v : W64) : Nat := v.toNat / 2 ^ 32

/-- Bank capacity in rows (R101). -/
def bankRows (sh : Bool) : Nat := if sh then 64 else 256
def nnLimit (sh : Bool) : Nat := if sh then 256 else 64

/-! ### LOADS -/

/-- The LOADS that an instruction issues from a context. -/
def loadsOp (f : LoadsF) (k : Ctx) : LoadsOp :=
  let so := k.sreg f.so.toNat
  { tb := k.opd f.tb.toNat, k0 := lo32 so, n0 := hi32 so, kn := f.kn.toNat, nn := f.nn.toNat, buf := f.buf.toNat, tr := f.tr, sh := f.sh }

/-- The checks of a LOADS in the order of R119, each the reason it halts with or 0 (R101, R103, R148, R154, R180). -/
def State.loadsReasons (s : State) (c : Nat) (o : LoadsOp) (m : Nat) : List Nat :=
  let d := o.tb.t.d
  [s.engAddr [d], if o.tr then s.rectReason d o.k0 o.n0 o.nn o.kn else s.rectReason d o.k0 o.n0 o.kn o.nn, fmtReason [d],
   chk (o.kn > (if o.sh then 16 else 64) * fmtMult d.fmt.toNat || o.nn = 0 || o.nn > nnLimit o.sh) rsBAD_SHAPE,
   chk (o.sh && s.fld 0x11 (c * 4 + m) 0x10 1 0 == 1) 0x9102]

/-- LOADS: fill a stationary buffer (R101, R103, R148, R154, R180). -/
def execLoads (i : Iss) (f : LoadsF) (s : State) : Out :=
  issue i false s (fun c x k =>
    let m := f.eng.toNat
    let o := loadsOp f k
    s.tensorGo c x m 1 (.loads i f) [] [f.tb.toNat] (s.loadsReasons c o m) s
      ((s.engQueue c x m (.loads o) [] [f.tb.toNat] false (fun e =>
        e.setIb f.buf.toNat { loaded := true, sh := f.sh, kn := o.kn, nn := o.nn, fmt := o.tb.t.d.fmt.toNat })).advance c x))

/-! ### STREAM -/

/-- The attachment a STREAM takes, with the registers it names copied. DESIGN CHOICE (log 78): an attached VOP's registers count as named by
its STREAM (R251), so that their descriptors and tags are those of the STREAM's issue (R90). -/
def Ctx.takeAttach (k : Ctx) (a : Attach) : Attach :=
  { a with td := if a.td.r < 32 then k.opd a.td.r else a.td, tb := if a.tb.r < 32 then k.opd a.tb.r else a.tb,
           stats := a.stats.map (fun o => k.opd o.r) }

/-- The pending attachment of a context to an engine (R108). -/
def Core.attachOf (k : Core) (x m : Nat) (epi : Bool) : Option Attach :=
  k.attach.find? (fun a => a.x == x && a.eng == m && a.epi == epi)

/-- The registers an attachment writes and reads (R251). -/
def Attach.dsts (a : Attach) : List Nat :=
  let td := if a.td.r < 32 && ((a.epi && (a.fn == 13 || a.fn == 14)) || (!a.epi && a.td.t.d.rows != 0)) then [a.td.r] else []
  if a.epi && usesStats a.fn && a.fn ≠ 18 then td ++ (a.stats.toList.map (fun o => o.r)) else td

def Attach.srcs (a : Attach) : List Nat :=
  let all := [a.td.r, a.tb.r] ++ (a.stats.toList.map (fun o => o.r))
  all.filter (fun r => r < 32 && !a.dsts.contains r)

/-- An attached function uses TB, or TD, as an operand or a destination; ROWS = 0 stands for no tensor (R245, R247, R249; log 12). -/
def Attach.usesTb (a : Attach) : Bool := usesTB a.fn && a.tb.r < 32 && a.tb.t.d.rows != 0
def Attach.usesTd (a : Attach) : Bool := (!a.epi || attReadsTD a.fn) && a.td.r < 32 && a.td.t.d.rows != 0

/-- The registers of an attachment whose extents its checks cover. -/
def Attach.regs (a : Attach) : List TDesc :=
  ((if a.usesTb then [a.tb] else []) ++ (if a.usesTd then [a.td] else []) ++ a.stats.toList).map (fun o => o.t.d)

/-- The registers an attachment names (R251): their alignment, space, format and slot are checked, also where ROWS = 0 (R89, R128, R208,
R594). -/
def Attach.names (a : Attach) : List TDesc :=
  (([a.td, a.tb].filter (fun o => decide (o.r < 32))) ++ a.stats.toList).map (fun o => o.t.d)

/-- R244 refuses a prologue, or an epilogue, for this STREAM. -/
def badPro (f : StreamF) (a : Attach) : Bool := (usesStats a.fn && f.tr) || a.fn == 13 || a.fn == 14 || a.fn == 18
def badEpi (f : StreamF) (_a : Attach) : Bool := f.dstb || f.red ≠ 0

/-- An attachment that R244 refuses for this STREAM. -/
def badAttach (f : StreamF) (pro epi : Option Attach) : Bool := pro.any (badPro f) || epi.any (badEpi f)

/-- The rows of E that an attached VOP touches, as TA or TC rows: the first, and one past the last (R243, R246). -/
def StreamOp.attRows (o : StreamOp) (a : Attach) : Nat × Nat :=
  if a.epi then (o.m0, o.m0 + o.m)
  else
    let q := o.taRect
    (q.1, if q.2.2.2 = 0 then q.1 else q.1 + q.2.2.1)

/-- The checks of the statistics tensor: format, then shape (R246); `rows` is how many rows it must cover. -/
def statsFmt (st : Option Opd) : Nat :=
  match st with
  | some o => chk (o.t.d.fmt ≠ 0 || o.t.d.bscale) rsBAD_FORMAT
  | none => 0

def statsShape (st : Option Opd) (rows : Nat) : Nat :=
  match st with
  | some o => chk (o.t.d.cols.toNat < 5 || o.t.d.rows.toNat < rows) rsBAD_SHAPE
  | none => 0

/-- The shape a taken attachment needs: statistics for every row it touches (R246), a prologue's copy (R249). DESIGN CHOICE (log 79): R109
asks equal ROWS and COLS of a standalone VOP's operands; of an attached one's it is not asked. -/
def attachShape (o : StreamOp) (a : Attach) : Nat :=
  let rows := (if (o.attRows a).1 = (o.attRows a).2 then 0 else (o.attRows a).2)
  firstNonzero [statsShape a.stats rows, chk (!a.epi && a.usesTd && !sameShape a.td.t.d o.ta.t.d) rsBAD_SHAPE]

/-- The highest TA row whose piece a STREAM waits for (R593). -/
def StreamOp.lastPieceRow (o : StreamOp) : Nat := if o.tr then o.ka + o.kn - 1 else o.m0 + o.m - 1

/-- A STREAM that waits on arrival bits (R107, R166). -/
def StreamOp.waits (o : StreamOp) : Bool := o.waitp && o.ta.t.d.pieceRows ≠ 0 && o.kn ≠ 0 && o.m ≠ 0

/-- A STREAM converts into TC unless it keeps its results in a bank or writes a top-k record (R131, R202). -/
def StreamOp.converts (o : StreamOp) : Bool := !o.dstb && o.red ≠ 3

/-- TC is read or written. With DSTB = 1 it is neither, and no check covers it, whatever ACC says (R161, log 62). -/
def StreamOp.usesTC (o : StreamOp) : Bool := !o.dstb

/-- The STREAM that an instruction of context x issues, with the buffer's loaded shape and the attachments it takes (R101, R251). -/
def State.streamOp (s : State) (c x : Nat) (f : StreamF) (k : Ctx) : StreamOp :=
  let m := f.eng.toNat
  let ib := (s.eng c m).ib f.buf.toNat
  let sm := k.sreg f.sm.toNat
  let sc := k.sreg f.sc.toNat
  { ta := k.opd f.ta.toNat, tc := k.opd f.tc.toNat, m := lo32 sm, m0 := hi32 sm, ka := lo32 sc, nc := hi32 sc, buf := f.buf.toNat,
    acc := f.acc.toNat, ab := f.ab.toNat, rnd := f.rnd.toNat, red := f.red.toNat, topk := f.topk.toNat, dstb := f.dstb, ovf := f.ovf,
    tr := f.tr, waitp := f.waitp, rel := f.rel, kn := ib.kn, nn := ib.nn, sh := ib.sh,
    pro := ((s.core c).attachOf x m false).map k.takeAttach, epi := ((s.core c).attachOf x m true).map k.takeAttach }

/-- The attachments a STREAM takes. -/
def StreamOp.atts (o : StreamOp) : List Attach := o.pro.toList ++ o.epi.toList

/-- The registers a STREAM writes and reads (R91, R251). -/
def StreamOp.dsts (o : StreamOp) : List Nat := (if o.dstb then [] else [o.tc.r]) ++ (o.atts.map Attach.dsts).flatten
def StreamOp.srcs (o : StreamOp) : List Nat :=
  [o.ta.r] ++ (o.atts.map Attach.srcs).flatten

/-- The checks of a STREAM that rank before R244's, in the order of R119, each the reason it halts with or 0. -/
def State.streamFirst (s : State) (o : StreamOp) (ib : BufIss) : List Nat :=
  let ta := o.ta
  let tc := o.tc
  let own := [ta.t.d] ++ (if o.usesTC then [tc.t.d] else [])
  let (i0, j0, ni, nj) := o.taRect
  let rectC := if o.usesTC && o.red ≠ 3 then s.rectReason tc.t.d o.m0 o.nc o.m (if o.red = 0 then o.nn else 1)
    else if o.usesTC && o.m ≠ 0 then
      s.accessReason (tc.t.d.base.toNat + o.m0 * tc.t.d.rstride.toNat) ((o.m - 1) * tc.t.d.rstride.toNat + 4 * o.width)
    else 0
  [s.engAddr (own ++ (o.atts.map Attach.regs).flatten), nameReason (o.atts.map Attach.names).flatten, if ib.loaded then s.rectReason ta.t.d i0 j0 ni nj else 0,
   if ib.loaded then rectC else 0, fmtReason (own ++ (o.atts.map Attach.names).flatten),
   firstNonzero (o.atts.map (fun a => statsFmt a.stats)),
   chk (ib.loaded && (fmtMult o.fa ≠ fmtMult ib.fmt || ((o.fa == 7) != (ib.fmt == 7)))) rsBAD_FORMAT,
   chk (o.red = 3 && !o.dstb && (tc.t.d.fmt ≠ 0 || tc.t.d.bscale)) rsBAD_FORMAT,
   chk (ib.loaded && (o.dstb || o.acc = 1) && o.m > bankRows ib.sh) rsBAD_SHAPE,
   chk (ib.loaded && o.red = 3 && o.nc + ib.nn > 4096) rsBAD_SHAPE,
   chk (o.red = 3 && !o.dstb && tc.t.d.cols.toNat < 2 * (o.topk + 1)) rsBAD_SHAPE,
   firstNonzero (o.atts.map (attachShape o)),
   chk (!ib.loaded) rsBUF_EMPTY]

/-- The checks of a STREAM in the order of R119, each the reason it halts with or 0. A STREAM converts into TC, or into the destination of
an attached VOP (R208). -/
def State.streamReasons (s : State) (c : Nat) (f : StreamF) (o : StreamOp) (ib : BufIss) : List Nat :=
  s.streamFirst o ib ++
  [chk (badAttach f o.pro o.epi) rsBAD_OPERAND,
   chk (o.waits && o.ta.t.d.arrBase.toNat + o.lastPieceRow / o.ta.t.d.pieceRows.toNat > 4095) rsBAD_OPERAND,
   chk ((o.converts || o.pro.isSome) && !(([o.ta.t.d] ++ (if o.usesTC then [o.tc.t.d] else []) ++
      (o.atts.map Attach.names).flatten).all (s.slotOk c))) rsBAD_OPERAND]

/-- A context's attachments to an engine end. -/
def State.dropAttach (s : State) (c x m : Nat) : State :=
  s.updCore c (fun q => { q with attach := q.attach.filter (fun a => !(a.x == x && a.eng == m)) })

/-- The attachments that R244 refuses end; an accepted one stays for the next STREAM (R108, R244). -/
def State.dropBad (s : State) (c x m : Nat) (f : StreamF) : State :=
  s.updCore c (fun q => { q with attach := q.attach.filter (fun a =>
    !(a.x == x && a.eng == m && (if a.epi then badEpi f a else badPro f a))) })

/-- STREAM: push rows of TA through a loaded buffer. A STREAM with DSTB = 1 sets the form that R162 gives a later DRAIN of its bank whatever
its M: DESIGN CHOICE (log 80). The check of R244 is reached when every one before it passes. -/
def execStream (i : Iss) (f : StreamF) (s : State) : Out :=
  issueStop i (f.acc = 3 || f.rnd = 3 || 4 ≤ f.red.toNat) s (fun c x k => !f.dstb && stopWrite f.tc.toNat c x k) (fun c x k =>
    let m := f.eng.toNat
    let ib := (s.eng c m).ib f.buf.toNat
    let o := s.streamOp c x f k
    let faulted := if firstNonzero (s.engNameReason c x m :: s.streamFirst o ib) = 0 then s.dropBad c x m f else s
    s.tensorGo c x m 1 (.stream i f) o.dsts o.srcs (s.streamReasons c f o ib) faulted
      (((s.dropAttach c x m).engQueue c x m (.stream o) o.dsts o.srcs false (fun e =>
        let e := if f.rel then e.setIb f.buf.toNat { ib with loaded := false } else e
        if f.dstb then (if f.ab = 0 then { e with bankForm0 := ib.sh } else { e with bankForm1 := ib.sh }) else e)).advance c x))

/-! ### DRAIN and ENG.SEED -/

/-- The DRAIN that an instruction issues from a context. -/
def drainOp (f : DrainF) (k : Ctx) : DrainOp :=
  let sm := k.sreg f.sm.toNat
  { tc := k.opd f.tc.toNat, m := lo32 sm, m0 := hi32 sm, nc := hi32 (k.sreg f.sc.toNat), nn := f.nn.toNat, ab := f.ab.toNat,
    rnd := f.rnd.toNat, ovf := f.ovf }

/-- The checks of a DRAIN of a bank whose form is `sh`, in the order of R119, each the reason it halts with or 0 (R101, R162, R208). -/
def State.drainReasons (s : State) (c : Nat) (o : DrainOp) (sh : Bool) : List Nat :=
  [s.engAddr [o.tc.t.d], s.rectReason o.tc.t.d o.m0 o.nc o.m o.nn, fmtReason [o.tc.t.d],
   chk (o.nn = 0 || o.nn > nnLimit sh || o.m > bankRows sh) rsBAD_SHAPE,
   chk (!s.slotOk c o.tc.t.d) rsBAD_OPERAND]

/-- DRAIN: write an accumulator bank to TC (R101, R162). -/
def execDrain (i : Iss) (f : DrainF) (s : State) : Out :=
  issueStop i (f.rnd = 3) s (stopWrite f.tc.toNat) (fun c x k =>
    let m := f.eng.toNat
    let e := s.eng c m
    let o := drainOp f k
    s.tensorGo c x m 1 (.drain i f) [f.tc.toNat] [] (s.drainReasons c o (if f.ab = 0 then e.bankForm0 else e.bankForm1)) s
      ((s.engQueue c x m (.drain o) [f.tc.toNat] [] false id).advance c x))

/-- ENG.SEED: a seed of 0 is taken as 1 (R141). -/
def execEngSeed (i : Iss) (sreg : BitVec 6) (eng : BitVec 2) (s : State) : Out :=
  issue i false s (fun c x k =>
    let v := k.sreg sreg.toNat
    let v := if v = 0 then 1 else v
    s.tensorGo c x eng.toNat 1 (.engSeed i sreg eng) [] [] [] s
      ((s.engQueue c x eng.toNat (.seed v) [] [] false id).advance c x))

/-! ### Tile forms (R117) -/

/-- The register a tile form's operand amounts to: s by s elements in rows of s, SCALE 0x7F, no slot. -/
def tileOpd (base : W64) (n fmt : Nat) : Opd :=
  { r := 32,
    t := { d := { base := base, rows := BitVec.ofNat 24 n, cols := BitVec.ofNat 24 n,
                  rstride := BitVec.ofNat 32 (n * fmtBits fmt / 8), fmt := BitVec.ofNat 3 fmt, slot := 0xFFF, scale := 0x7F },
           tag := sealTag { fmt := BitVec.ofNat 3 fmt, scale := 0x7F } } }

/-- The LOADS and the STREAM that a tile form of size `n` amounts to (R117). The STREAM takes no attachment: a pending one waits for the
next STREAM instruction (log 63). -/
def tileLoads (f : TileF) (n : Nat) (k : Ctx) : LoadsOp :=
  { tb := tileOpd (k.sreg f.sb.toNat) n f.fmt.toNat, kn := n, nn := n, buf := 1 }
def tileStream (f : TileF) (n : Nat) (k : Ctx) : StreamOp :=
  let fm := f.fmt.toNat
  { ta := tileOpd (k.sreg f.sa.toNat) n fm, tc := tileOpd (k.sreg f.sc.toNat) n (if fm = 7 || f.cf = 0 then 0 else 1), m := n, buf := 1,
    acc := if f.accf then 2 else 0, ab := 1, rel := true, kn := n, nn := n }

/-- The checks of a tile form in the order of R119, each the reason it halts with or 0 (R117). -/
def State.tileReasons (s : State) (f : TileF) (lo : LoadsOp) (so : StreamOp) : List Nat :=
  let regs := [so.ta, lo.tb, so.tc]
  [chk (regs.any (fun o => o.t.d.base.toNat % 64 != 0)) rsMISALIGNED,
   chk (regs.any (fun o => spaceOf o.t.d.base.toNat != 1)) rsOPERAND_SPACE,
   firstNonzero (regs.map (fun o => s.accessReason o.t.d.base.toNat (spanBytes o.t.d))),
   chk (!(f.fmt.toNat ≤ 3 || f.fmt.toNat = 7)) rsBAD_FORMAT]

/-- A tile form of size `n`: a LOADS of B into buffer 1 and a STREAM of n rows from it, which take two entries of the engine's queue; the
context is passed over unless two are free (log 63). -/
def tileForm (i : Iss) (f : TileF) (n : Nat) (held : Instr) (s : State) : Out :=
  issueStop i false s (fun c _ k => foreignAddr c (k.sreg f.sc.toNat).toNat) (fun c x k =>
    let m := f.eng.toNat
    let lo := tileLoads f n k
    let so := tileStream f n k
    s.tensorGo c x m 2 held [] [] (s.tileReasons f lo so) s
      (((s.engQueue c x m (.loads lo) [] [] true (fun e => e.setIb 1 { e.ib1 with loaded := false })).engQueue c x m (.stream so) [] [] true
        id).advance c x))

/-- TILE16.MMA. -/
def execTile16Mma (i : Iss) (f : TileF) (s : State) : Out := tileForm i f 16 (.tile16Mma i f) s

/-- TILE32.MMA. -/
def execTile32Mma (i : Iss) (f : TileF) (s : State) : Out := tileForm i f 32 (.tile32Mma i f) s

end Sys2Proof.Machine
end

