-- ==== Sys2Proof/Machine/EngineRun.lean ====
section
/-! DEFINITION. An engine at work (R147 to R166, R219 to R227, R234 to R238, R245 to R252, R493 to R509): starting the
instructions of its queue, the second sweep of a pre-pass, completion with its writes, flags and counts, and the taster. Engines
advance in whole instructions: what a STREAM reads is read when it completes (log 11). -/

namespace Sys2Proof.Machine

/-- An engine works on its queue in RUNNING, and on admitted work in FENCED and DRAINING (R55, R523). -/
def State.engWorks (s : State) (c m : Nat) : Bool := decide (2 ≤ s.fld 0x11 (c * 4 + m) 0 2 0)

def EngKind.loadsTo (k : EngKind) (b : Nat) : Bool :=
  match k with
  | .loads o => o.buf == b
  | _ => false

def EngKind.writesBank (k : EngKind) (ab : Nat) : Bool :=
  match k with
  | .stream o => o.dstb && o.ab == ab
  | _ => false

/-- The instruction is a STREAM from buffer b. -/
def EngKind.readsBuf (k : EngKind) (b : Nat) : Bool :=
  match k with
  | .stream o => o.buf == b
  | _ => false

/-- The instruction is a STREAM or a DRAIN that reads a bank. -/
def EngKind.readsBank (k : EngKind) (ab : Nat) : Bool :=
  match k with
  | .stream o => o.acc == 1 && o.ab == ab
  | .drain o => o.ab == ab
  | _ => false

/-- The STREAM of a tile form leaves bank 1 undefined (R117), and so counts among those that write it. -/
def EngOp.writesBank (p : EngOp) (ab : Nat) : Bool := p.kind.writesBank ab || (p.tile && isStream p.kind && ab == 1)

/-- The copies of R499 from the buffer an instruction read have not all ended: some of its tiles still waits for its replay to begin. -/
def Engine.uncopied (e : Engine) (id : Nat) : Bool := e.holds.any (fun h => h.id == id && h.rep.isNone)

/-- The conditions of R147 under which an instruction starts behind the instructions `before` that still stand in front of it in the queue,
but for the change of form: earlier instructions have all started; a STREAM has passed steering once it is `fed`. A buffer from which a
replay has still to copy is not loaded again (R501). -/
def Engine.readyBut (e : Engine) (before : List EngOp) (k : EngKind) : Bool :=
  match k with
  | .loads l => !before.any (fun o => isLoads o.kind || (o.kind.readsBuf l.buf && (!o.fed || e.uncopied o.id)))
  | .stream o => !before.any (fun p => p.kind.loadsTo o.buf || (isStream p.kind && !p.fed))
  | .drain o => !before.any (fun p => p.writesBank o.ab)
  | .seed _ => true

/-- A STREAM of the other form than the previous one waits until that one's own results have left the drain (R147, R170). -/
def Engine.formGap (e : Engine) (before : List EngOp) (k : EngKind) : Bool :=
  match k with
  | .stream o => e.last.any (fun l => l.2 != o.sh && before.any (fun p => p.id == l.1 && p.fin.isNone))
  | _ => false

/-- Whether an instruction may start behind the instructions `before` (R147). -/
def Engine.mayStart (e : Engine) (before : List EngOp) (k : EngKind) : Bool := e.readyBut before k && !e.formGap before k

/-- The next instruction to start, with those in front of it. -/
def splitStart : List EngOp → List EngOp → Option (List EngOp × EngOp × List EngOp)
  | _, [] => none
  | pre, o :: os => if o.started then splitStart (pre ++ [o]) os else some (pre, o, os)

/-- The highest TA row of the first piece a STREAM reads. -/
def StreamOp.firstPieceRow (o : StreamOp) : Nat := if o.tr then o.ka else o.m0

/-- The pieces of TA up to that of row `last` have arrived (R107). -/
def State.piecesTo (s : State) (c : Nat) (o : StreamOp) (last : Nat) : Bool :=
  if !o.waits then true
  else
    let d := o.ta.t.d
    (s.core c).arrAll (d.arrBase.toNat + o.firstPieceRow / d.pieceRows.toNat) (d.arrBase.toNat + last / d.pieceRows.toNat)

/-- Every piece of the rows a STREAM reads has arrived (R107, R241). -/
def State.piecesHere (s : State) (c : Nat) (o : StreamOp) : Bool := s.piecesTo c o o.lastPieceRow

/-! ### Replay engines (R498, R499) -/

/-- Engine r may run a replay for engine m: RUNNING, not retired, no twin follower, not in m's twin pair. -/
def State.mayReplay (s : State) (c m r : Nat) : Bool :=
  s.fld 0x11 (c * 4 + r) 0 2 0 == 2 && !(s.eng c r).retired && !s.isFollower c r && !(r / 2 == m / 2 && s.twinOn c m)

/-- The engines in the order in which R498 tries them for engine m. -/
def replayOrder (m : Nat) : List Nat := [1, 2, 3].map (fun k => (m + k) % 4)

/-- The engines that R498 tries for engine m, in order, those that qualify. -/
def State.replayers (s : State) (c m : Nat) : List Nat := (replayOrder m).filter (s.mayReplay c m)

/-- The engine that takes the next replay of a held tile: after a first replay whose own check failed, the next engine of R498's order that
qualifies (R500); for a tile of a twin pair, only an engine outside the pair; else engine m itself when none qualifies. -/
def State.nextReplayer (s : State) (c m : Nat) (h : Hold) : Option Nat :=
  match h.other with
  | some r => ((((replayOrder m).dropWhile (fun x => x != r)).drop 1).filter (s.mayReplay c m)).head?
  | none =>
    match s.replayers c m with
    | r :: _ => some r
    | [] => if h.kind = .both || h.kind = .differ then none else some m

/-- The replay of a held tile of engine m runs on engine r, rather than being the work of its twin (R506). -/
def State.runsOn (s : State) (c m r : Nat) (h : Hold) : Bool := h.rep == some r && !(m / 2 == r / 2 && s.twinOn c m)

/-- A replay for another engine of the core runs on engine r. -/
def State.replayingOn (s : State) (c r : Nat) : Bool :=
  (List.range 4).any (fun m => m != r && (s.eng c m).holds.any (s.runsOn c m r))

/-- A replay runs on engine r, for itself or another. -/
def State.runsReplay (s : State) (c r : Nat) : Bool := (List.range 4).any (fun m => (s.eng c m).holds.any (s.runsOn c m r))

/-- A replay runs on engine r, or is the next that a held tile waits for there (R499). -/
def State.replayDue (s : State) (c r : Nat) : Bool :=
  s.runsReplay c r || (List.range 4).any (fun m => match (s.eng c m).holds.head? with
    | some h => h.rep.isNone && s.nextReplayer c m h == some r
    | none => false)

/-- The STREAMs whose rows replays run through engine r. -/
def State.replayOps (s : State) (c r : Nat) : List StreamOp :=
  ((List.range 4).map (fun m => ((s.eng c m).holds.filter (s.runsOn c m r)).filterMap (fun h =>
    match (s.eng c m).q.find? (fun o => o.id == h.id) with
    | some op => (match op.kind with
      | .stream o => some o
      | _ => none)
    | none => none))).flatten

/-- The engine whose queue and tiles an engine works on: a twin follower does what its leader does, in the same cc (R505). -/
def State.leadOf (s : State) (c m : Nat) : Nat := if s.isFollower c m then m - 1 else m

/-- The engines that do the work of engine m's queue: both of a twin pair (R505). -/
def State.pairOf (s : State) (c m : Nat) : List Nat := if s.twinOn c m then [m, m + 1] else [m]

/-- The engine gates its clock: its queue and every stage are empty, those of the leader and of a replay it runs too (R150, R499, R505). -/
def State.gated (s : State) (c m : Nat) : Bool :=
  (s.eng c m).q.isEmpty && (s.eng c (s.leadOf c m)).q.isEmpty && !s.replayingOn c m

/-- Count a replay of `rows` streamed rows run on engine r for engine m (R182, R507, R514). -/
def State.countReplay (s : State) (c m r rows : Nat) : State :=
  let s := s.count64 0x11 (c * 4 + r) 0x70 rows
  if r = m then s else (s.count64 0x13 (c * 4 + r) 0x60 1).count64 0x13 (c * 4 + r) 0x40 1

/-! ### Tags an instruction reads (R60, R106, R252) -/

/-- The registers an attachment reads, as operands. -/
def Attach.reads (a : Attach) : List Opd :=
  (if a.usesTd && attReadsTD a.fn then [a.td] else []) ++ (if a.usesTb then [a.tb] else []) ++ a.stats.toList

/-- The rectangles an attachment reads for the elements `q` of E (R243, R245, R247, R246). -/
def Attach.rects (a : Attach) (q : Rect) : List (TDesc × Rect) :=
  let rowwise : Rect := { q with i0 := 0, ni := if a.fn = 15 then 2 else 1 }
  let elem := a.fn ≤ 12 || a.fn = 18 || (a.epi && (a.fn = 15 || a.fn = 16))
  (if a.usesTb then [(a.tb.t.d, if elem then q else rowwise)] else [])
    ++ (if a.usesTd && attReadsTD a.fn then [(a.td.t.d, if readsTD a.fn then q else { q with j0 := 0, nj := 1 })] else [])
    ++ a.stats.toList.map (fun o => (o.t.d, { q with j0 := 0, nj := 5 }))

/-- The elements a STREAM reads, those of its attachments too (R155, R165, R189). A row of a top-k record is read as its words. -/
def StreamOp.rects (o : StreamOp) : List (TDesc × Rect) :=
  let (i0, j0, ni, nj) := o.taRect
  let a : Rect := { i0 := i0, j0 := j0, ni := ni, nj := nj }
  let c : Rect := { i0 := o.m0, j0 := o.col, ni := o.m, nj := o.width }
  (if o.kn = 0 then [] else [(o.ta.t.d, a)]) ++ (if o.readsC then [(o.tc.t.d, c)] else [])
    ++ (o.pro.toList.map (fun p => p.rects a)).flatten ++ (o.epi.toList.map (fun p => p.rects { c with nj := o.nn })).flatten

/-- The elements of TB a LOADS reads (R154). -/
def LoadsOp.rect (o : LoadsOp) : Rect :=
  if o.tr then { i0 := o.k0, j0 := o.n0, ni := o.nn, nj := o.kn } else { i0 := o.k0, j0 := o.n0, ni := o.kn, nj := o.nn }

/-- The tags a STREAM over a buffer reads. -/
def StreamOp.tags (o : StreamOp) (b : Buf) : List Tag :=
  (if o.kn = 0 then [] else [o.ta.t.tag]) ++ [b.tag] ++ (if o.readsC then [o.tc.t.tag] else [])
    ++ ((o.pro.toList ++ o.epi.toList).map (fun a => a.reads.map (fun x => x.t.tag))).flatten

/-- The input tags whose POISON stops a STREAM: TA's, the buffer's, C's and those of attached registers (R62, R106, R252). -/
def StreamOp.poisonTags (o : StreamOp) (b : Buf) : List Tag :=
  [o.ta.t.tag, b.tag] ++ (if o.readsC then [o.tc.t.tag] else []) ++ ((o.pro.toList ++ o.epi.toList).map (fun a => a.reads.map (fun x => x.t.tag))).flatten

/-- The carried flags of a STREAM's inputs. -/
def StreamOp.carried (o : StreamOp) (b : Buf) : BitVec 12 := (o.poisonTags b).foldl (fun f t => f ||| carriedOf t) 0

/-- ED_TAG_RESIDUE counts every tag read with a wrong TRES (R60). -/
def State.countTres (s : State) (c m : Nat) (ts : List Tag) : State :=
  s.count64 0x13 (c * 4 + m) 0x80 (ts.filter (fun t => !tagOk t)).length

/-! ### Start (R147, R219, R223) -/

/-- The register that an attached VOP converts into, beside TC: a prologue's TD, the row value of FN 13 and 14, or a statistics phase's
columns (R245 to R249). -/
def Attach.dest (a : Attach) : Option Opd :=
  if !a.epi || a.fn = 13 || a.fn = 14 then some a.td else if usesStats a.fn && a.fn ≠ 18 then a.stats else none

/-- The scale of an attached operation's destination when it is chosen, and whether it waits for a pre-pass (R219). DESIGN CHOICE (log 81):
statistics take the choice of their slot's history and no pre-pass. -/
def State.attScale (s : State) (c : Nat) (a : Option Attach) : Nat × Bool × State :=
  match a with
  | none => (127, false, s)
  | some a =>
    match a.dest with
    | none => (127, false, s)
    | some o =>
      if (!a.epi || a.fn < 15) && s.wantsPrepass c o.t.d then (127, true, s)
      else
        let (v, s) := s.chooseScale c o.t.d
        (v, false, s)

/-- The start of a STREAM: the buffer and its form, the tags read, the scale choices, which read the slots as the previous cc left them, and
then the read-marking (R219, R224). DESIGN CHOICE (log 82): the read-marking compares a tag's SCALE with the SCALE_LAST that the choices of
the same instruction have written. -/
def State.startStream (s : State) (c m : Nat) (op : EngOp) (o : StreamOp) : EngOp × State :=
  let b := (s.eng c m).bufN o.buf
  let s := s.updEng c m (fun e => { e with last := some (op.id, o.sh) })
  let op := { op with started := true, cc := s.cycle, buf := b }
  if o.m = 0 then (op, s)
  else
    let s := if op.tile then s else s.countTres c m (o.tags b)
    if (o.poisonTags b).any poisoned then (op, s)
    else
      let (ps, pp, s) := s.attScale c o.pro
      let (es, ep, s) := s.attScale c o.epi
      let op := { op with proScale := ps, proPrepass := pp, epiScale := es, epiPrepass := ep }
      let (op, s) :=
        if !o.converts then (op, s)
        else if s.wantsPrepass c o.tc.t.d then ({ op with prepass := true }, s)
        else
          let (v, s) := s.chooseScale c o.tc.t.d
          ({ op with scale := v }, s)
      (op, s.markSources c ((if o.kn = 0 then [] else [o.ta.t]) ++ (if o.readsC then [o.tc.t] else [])
        ++ ((o.pro.toList ++ o.epi.toList).map (fun a => a.reads.map (fun x => x.t))).flatten))

/-- The start of a DRAIN. -/
def State.startDrain (s : State) (c : Nat) (op : EngOp) (o : DrainOp) : EngOp × State :=
  let op := { op with started := true, cc := s.cycle }
  if s.wantsPrepass c o.tc.t.d then ({ op with prepass := true }, s)
  else
    let (v, s) := s.chooseScale c o.tc.t.d
    ({ op with scale := v }, s)

/-- The start of a LOADS: from now on its buffer holds no complete tile, and the form is that of the tile being written; TB is read-marked
(R181, R223). -/
def State.startLoads (s : State) (c m : Nat) (op : EngOp) (o : LoadsOp) : EngOp × State :=
  let s := if op.tile then s else (s.countTres c m [o.tb.t.tag]).markSource c o.tb.t
  ({ op with started := true, cc := s.cycle },
   s.updEng c m (fun e => e.setBuf o.buf { e.bufN o.buf with loaded := false, sh := o.sh }))

/-! ### Feeding (R107, R147, R171, R221) -/

/-- A STREAM whose inputs carry POISON (R106, R252). -/
def EngOp.poisonIn (op : EngOp) (o : StreamOp) : Bool := (o.poisonTags op.buf).any poisoned

/-- A started STREAM whose last row has not passed steering. -/
def Engine.unfed (e : Engine) : Option (EngOp × StreamOp) :=
  e.q.findSome? (fun p => match p.kind with
    | .stream o => if p.started && !p.fed then some (p, o) else none
    | _ => none)

/-- Nothing holds the last row of a started STREAM back: it has no rows or reads none, or every piece has arrived and no sweep is left
before its final one. The final sweep waits for no arrival bit again (R104, R106, R107, R220, R221). -/
def State.canFeed (s : State) (c : Nat) (op : EngOp) (o : StreamOp) : Bool :=
  o.m = 0 || op.poisonIn o || (if op.prepass || op.proPrepass then op.swept else s.piecesHere c o)

/-- The STREAM that stands before steering is fed once nothing holds it back, and its REL releases the buffer then (R164, R221; log 49). -/
def State.feed (s : State) (c m : Nat) : State :=
  match (s.eng c m).unfed with
  | none => s
  | some (op, o) =>
    if !s.canFeed c op o then s
    else s.updEng c m (fun e =>
      let e := { e with q := e.q.map (fun p => if p.id == op.id then { p with fed := true } else p) }
      if o.rel then e.setBuf o.buf { e.bufN o.buf with loaded := false } else e)

/-- The row feeder of an engine waits for a piece of TA (R107, R171). -/
def State.feedFrozen (s : State) (c m : Nat) : Bool :=
  match (s.eng c m).unfed with
  | none => false
  | some (op, o) => !(o.m = 0 || op.poisonIn o || op.swept) && !s.piecesHere c o

/-- A further check has failed while the hold buffer holds replay rows: the engine stands still until the buffer is free (R502). -/
def State.holdFrozen (s : State) (c m : Nat) : Bool := decide (1 < ((s.eng c m).holds.filter (fun h => !h.retire)).length)

/-- The engine is frozen (R171, R172, R502). -/
def State.frozen (s : State) (c m : Nat) : Bool := s.feedFrozen c m || s.holdFrozen c m

/-- A row of a STREAM stands between steering and drain: it is not still waiting for its first piece, or with TR = 1 for every piece (R241),
and not all written (R181). The rows of a poisoned STREAM are there like any (log 49). -/
def State.hasRows (s : State) (c : Nat) (op : EngOp) : Bool :=
  match op.kind with
  | .stream o => op.started && op.fin.isNone && o.m != 0 &&
      (op.fed || op.swept || s.piecesTo c o (if o.tr then o.lastPieceRow else o.firstPieceRow))
  | _ => false

/-- Rows in shallow form, of a STREAM of its own or of a replay, have the spare accumulator bank of an engine whose taster does not have it
to itself (R169, R237, R499). -/
def State.spareTaken (s : State) (c m : Nat) : Bool :=
  s.fld 0x11 (c * 4 + m) 0x10 1 0 == 0 && ((s.replayOps c m).any (fun o => o.sh) ||
    (s.eng c (s.leadOf c m)).q.any (fun op => match op.kind with
      | .stream o => o.sh && s.hasRows c op
      | _ => false))

/-! ### What a STREAM or DRAIN forms -/

/-- Everything a STREAM forms from the state as it stands: its result rows, the state with a prologue's copies written, and the
prologue's counts. -/
def State.formStream (s : State) (c m : Nat) (op : EngOp) (o : StreamOp) : List RowOut × State × ConvStat × (Nat × Int) :=
  let (xs, s1, st, am) := s.operandRows c op o
  (s.streamRows (s.eng c m) op.buf o xs, s1, st, am)

/-- The values a STREAM converts. -/
def rowValues (rs : List RowOut) : List Num := (rs.map (fun r => r.out.map ofF32)).flatten

/-- The values a DRAIN converts, by row. -/
def State.drainValues (s : State) (c m : Nat) (o : DrainOp) : List (List Num) :=
  (drainRows ((s.eng c m).bank o.ab) o).map (fun r => r.map ofF32)

/-! ### Held rows (R495, R500, R506) -/

/-- Residue checks are made on this engine (R493, R496). -/
def State.residueOn (s : State) (c m : Nat) : Bool := s.fld 0x13 (c * 4 + m) 0 0 0 == 1

/-- The row of its tile from which a failed check holds rows: where both engines of a pair failed, the lower of the two. -/
def heldRow (f : TileFail) : Nat := if f.kind = .both then min f.place.row.toNat f.place2.row.toNat else f.place.row.toNat

/-- Row r lies in the replay rows of a failed tile. -/
def rowHeld (chks : List TileFail) (r : Nat) : Bool := chks.any (fun f => f.place.tile == r / 64 && decide (heldRow f ≤ r % 64))

/-- A failed check counts where the engine that made it has RESIDUE = 1 (R493, R496); without twin mode every failure is the engine's own. The
compare of a twin pair is no check of R493 and always counts (R505). -/
def State.liveCheck (s : State) (c m : Nat) (f : TileFail) : Option TileFail :=
  let a := s.residueOn c m
  let b := s.residueOn c (m + 1)
  if !s.twinOn c m then (if a then some { f with kind := .own } else none)
  else
    match f.kind with
    | .own => if a then some f else none
    | .partner => if b then some f else none
    | .both => if a then some (if b then f else { f with kind := .own })
        else if b then some { f with kind := .partner, place := f.place2 } else none
    | .differ => some f

/-- One failure for each tile, the first. -/
def perTile (chks : List TileFail) : List TileFail :=
  chks.foldl (fun acc f => if acc.any (fun g => g.place.tile == f.place.tile) then acc else acc ++ [f]) []

/-- The checks that count, one for each tile that the instruction has. The rows of a retiring engine are formed, and checked, by replays
(R508). -/
def State.liveChecks (s : State) (c m rows : Nat) (chks : List TileFail) : List TileFail :=
  if (s.eng c m).retiring then []
  else perTile ((chks.filterMap (s.liveCheck c m)).filter (fun f => decide (f.place.tile * 64 + heldRow f < rows)))

/-- ED_LAST_FAIL (R513). -/
def lastFailWord (f : CheckFail) : W32 :=
  BitVec.ofNat 32 (f.point.toNat * 2 ^ 28 + f.band.toNat * 2 ^ 26 + f.column.toNat * 2 ^ 18 + f.row.toNat * 2 ^ 12)

/-- A failed check is recorded on engine m (R513, R514). -/
def State.noteFail (s : State) (c m : Nat) (f : CheckFail) : State :=
  let i := c * 4 + m
  ((s.count64 0x13 i 0x48 1).setFlag 0x13 i 0x08 0).setWord 0x13 i 0x0C (lastFailWord f)

/-- A twin compare that differed is recorded on both engines of the pair (R506, R513). -/
def State.noteTwin (s : State) (c m : Nat) (f : CheckFail) : State :=
  [m, m + 1].foldl (fun s e =>
    let i := c * 4 + e
    ((s.count64 0x13 i 0x78 1).setFlag 0x13 i 0x08 4).setWord 0x13 i 0x0C (lastFailWord { f with point := 10 })) s

/-- An unresolved tile: POISON for its destination, counted on engine m (R500, R506). -/
def State.noteUnresolved (s : State) (c m : Nat) : State := (s.count64 0x13 (c * 4 + m) 0x70 1).setFlag 0x13 (c * 4 + m) 0x08 3

/-- A failed check of a tile: recorded, and its replay rows held (R495). When only the partner of a pair failed, the leader serves as
the replay, and when only the leader failed, the partner does (R506). -/
def State.holdTile (s : State) (c m id rows : Nat) (sweep1 : Bool) (f : TileFail) : State :=
  let (n, s) := s.newId
  let h : Hold := { id := id, first := f.place.tile * 64 + heldRow f, last := min rows (f.place.tile * 64 + 64) - 1,
                    kind := f.kind, seq := n, sweep1 := sweep1,
                    rep := if !s.twinOn c m then none else
                      match f.kind with
                      | .own => some (m + 1)
                      | .partner => some m
                      | _ => none }
  let s := match f.kind with
    | .own => s.noteFail c m f.place
    | .partner => s.noteFail c (m + 1) f.place
    | .both => (s.noteFail c m f.place).noteFail c (m + 1) f.place2
    | .differ => s.noteTwin c m f.place
  s.updEng c m (fun e => { e with holds := e.holds ++ [h] })

/-- The rows that a retiring engine leaves to replays, tile by tile (R508). -/
def State.holdRetired (s : State) (c m id rows : Nat) : State :=
  (List.range (cdiv rows 64)).foldl (fun s t =>
    let (n, s) := s.newId
    let h : Hold := { id := id, first := t * 64, last := min rows (t * 64 + 64) - 1, kind := .own, seq := n, retire := true }
    s.updEng c m (fun e => { e with holds := e.holds ++ [h] })) s

/-! ### Completion (R90, R106, R164, R222, R227) -/

/-- One more row of values converted into a destination. -/
def Conv.add (v : Conv) (st : ConvStat) (vs : List Num) : Conv :=
  { st := v.st.join st, amax := maxMag v.amax (amaxOf vs), rows := v.rows + 1 }

/-- Write one result row of a STREAM: to its bank, or converted into TC, or as a record; with an epilogue's statistics and row value.
`n` numbers its first draw. -/
def State.writeRow (s : State) (c m : Nat) (op : EngOp) (o : StreamOp) (t : Tally) (r : RowOut) (n : Nat) : State × Tally :=
  let t := { t with flags := t.flags ||| flagBit fNONFINITE r.nf }
  if o.dstb then (s.updEng c m (fun e => e.setBank o.ab ({ e.bank o.ab with sh := o.sh }.setRow r.row 0 r.vals)), t)
  else if o.red = 3 then
    (s.writeMem (o.tc.t.d.base.toNat + (o.m0 + r.row) * o.tc.t.d.rstride.toNat) ((r.vals.map (fun w => leBytes 4 w.toNat)).flatten), t)
  else
    let vs := r.out.map ofF32
    let (s, st) := s.convRow o.tc.t.d op.scale o.rnd o.ovf (fun k => (Config.draw op.seed (n + k)).toNat) (o.m0 + r.row) o.nc vs
    let s := if vs.length ≠ 0 && o.nc + vs.length = o.tc.t.d.cols.toNat then s.padRow o.tc.t.d (o.m0 + r.row) else s
    (s, { t with own := t.own.add st vs })

/-- One row of FN 13 or 14 is written to column 0 of TD's row, with draw `n` of the vector unit (R245). -/
def State.writeRowVal (s : State) (c : Nat) (op : EngOp) (o : StreamOp) (a : Attach) (v : Conv) (r : RowOut) (n : Nat) : State × Conv :=
  let d := a.td.t.d
  let x := ofF32 (r.rowVal.getD 0)
  let (s', st) := s.convRow d op.epiScale a.rnd a.ovf (fun k => s.draws (s.core c).vuSeed (n + k)) (o.m0 + r.row) 0 [x]
  (if d.cols = 1 then s'.padRow d (o.m0 + r.row) else s', v.add st [x])

/-- The statistics columns that a phase of FN 15 to 20 leaves for row i are written with tensor scale `sc` (R127, R246). -/
def State.writeStats (s : State) (ts : Opd) (sc fn i : Nat) (st : Stats) (v : Conv) : State × Conv :=
  let cs := statConv sc fn st
  (cs.foldl (fun s x => s.putElem ts.t.d i x.1 x.2.1) s,
   v.add (cs.foldl (fun a x => a.join x.2.2) {}) ((statCols fn).map (fun k => ofF32 (st.col k))))

/-- What an epilogue leaves of some rows beside TC: their row values or their statistics. -/
def State.writeEpi (s : State) (c : Nat) (op : EngOp) (o : StreamOp) (rs : List RowOut) (v : Conv) : State × Conv :=
  match o.epi with
  | none => (s, v)
  | some a =>
    if a.fn = 13 || a.fn = 14 then
      let p := rs.foldl (fun (p : State × Conv) r => p.1.writeRowVal c op o a p.2 r r.row) (s, v)
      (p.1.drew o.m, p.2)
    else
      match (if a.fn = 18 then none else a.stats) with
      | some ts => rs.foldl (fun (p : State × Conv) r => p.1.writeStats ts op.epiScale a.fn (o.m0 + r.row) r.stats p.2) (s, v)
      | none => (s, v)

/-- Write the rows that `keep` selects, those of the epilogue among them; the first draw of the STREAM has number `n`. -/
def State.writeRows (s : State) (c m : Nat) (op : EngOp) (o : StreamOp) (keep : Nat → Bool) (t : Tally) (n : Nat) (rs : List RowOut) :
    State × Tally :=
  let ks := rs.filter (fun r => keep r.row)
  let p := ks.foldl (fun (p : State × Tally) r => p.1.writeRow c m op o p.2 r (n + r.row * o.width)) (s, t)
  let q := (p.1.drew (rs.length * o.width)).writeEpi c op o ks p.2.epi
  (q.1, { p.2 with epi := q.2 })

/-- Write the rows of a DRAIN that `keep` selects; its first draw has number `n`. -/
def State.writeDrain (s : State) (op : EngOp) (o : DrainOp) (keep : Nat → Bool) (t : Tally) (n : Nat) (rs : List (List Num)) :
    State × Tally :=
  let p := (rs.zipIdx.filter (fun r => keep r.2)).foldl (fun (p : State × Tally) r =>
    let (s', st) := p.1.convRow o.tc.t.d op.scale o.rnd o.ovf (fun k => (Config.draw op.seed (n + r.2 * o.nn + k)).toNat) (o.m0 + r.2)
      o.nc r.1
    let s' := if o.nn ≠ 0 && o.nc + o.nn = o.tc.t.d.cols.toNat then s'.padRow o.tc.t.d (o.m0 + r.2) else s'
    (s', { p.2 with own := p.2.own.add st r.1 })) (s, t)
  (p.1.drew (rs.length * o.nn), p.2)

/-- The scale of a row-function epilogue that calls for a pre-pass, from the exact amax of its values. DESIGN CHOICE (log 83): R250 gives
sweeps to a prologue and to TC alone, so none is added. -/
def State.epiScaled (s : State) (c : Nat) (op : EngOp) (o : StreamOp) (rs : List RowOut) : EngOp × State :=
  match o.epi with
  | some a =>
    if op.epiPrepass then
      let r := s.choosePrepass c a.td.t.d (amaxOf (rs.map (fun r => ofF32 (r.rowVal.getD 0))))
      ({ op with epiScale := r.1 }, r.2)
    else (op, s)
  | none => (op, s)

/-- A conversion into a register of an attached VOP is complete: its slot, the vector unit's counts and the register's tag (R90, R222,
R227). -/
def State.convDone (s : State) (c x : Nat) (q : Opd) (v : Conv) (prepass : Bool) (fl : BitVec 12) (scale : Nat) (wrote : Bool) : State :=
  let s := (s.slotComplete c q.t.d v.amax v.st prepass).convCounts c 0x600 (tagLayer q.t.tag) v.st prepass
  s.tagWrote c x q.r (fl ||| v.st.flags) q.t.d.fmt.toNat scale wrote

/-- What an attached VOP leaves as its STREAM completes. A prologue writes TD when TD has rows and some row passed it (R249). -/
def State.attachDone (s : State) (c : Nat) (op : EngOp) (o : StreamOp) (t : Tally) (a : Attach) : State :=
  match a.dest with
  | none => s
  | some q =>
    if a.epi then s.convDone c op.x q t.epi op.epiPrepass t.carried op.epiScale (t.epi.rows != 0)
    else s.convDone c op.x q t.pro op.proPrepass t.carried op.proScale (q.t.d.rows != 0 && o.kn != 0)

/-- The attached VOPs of a STREAM in issue order (R224). -/
def StreamOp.inOrder (o : StreamOp) : List Attach :=
  match o.pro, o.epi with
  | some p, some e => if p.id < e.id then [p, e] else [e, p]
  | p, e => p.toList ++ e.toList

/-- Take an instruction out of engine m's queue and complete it. -/
def State.leaveQueue (s : State) (c m : Nat) (op : EngOp) : State :=
  (s.updEng c m (fun e => { e with q := e.q.filter (fun o => o.id != op.id) })).opDone c op.x op.id

/-- Count at an engine and, in twin mode, at its follower, which does what the leader does (R505, R507). -/
def State.countPair (s : State) (blk c m off n : Nat) : State :=
  let s := s.count64 blk (c * 4 + m) off n
  if s.twinOn c m then s.count64 blk (c * 4 + m + 1) off n else s

/-- ED_TILES (R507): the tiles of `rows` rows that no replay holds back. A held one counts as its replay ends (log 84). -/
def State.countTiles (s : State) (c m rows : Nat) (live : List TileFail) : State :=
  if (s.eng c m).retiring then s else s.countPair 0x13 c m 0x40 (cdiv rows 64 - live.length)

/-- An instruction with everything written or given up completes: the flags and SCALE of TC, the slot, and the counts. -/
def State.completeOp (s : State) (c m : Nat) (op : EngOp) (t : Tally) : State :=
  let off := 0x440 + 0x30 * m
  let twin := flagBit fTWIN (s.twinOn c m)
  match op.kind with
  | .stream o =>
    let pz := flagBit fPOISON t.bad
    let s := o.inOrder.foldl (fun s a => s.attachDone c op o t a) s
    let s := if o.converts then
        let s := if op.tile then s else s.slotComplete c o.tc.t.d t.own.amax t.own.st op.prepass
        s.convCounts c off (if op.tile then none else tagLayer o.tc.t.tag) t.own.st op.prepass
      else s
    let s := s.count64 0x12 c 0x48 (o.pro.toList.length + o.epi.toList.length)
    let fl := t.carried ||| t.flags ||| t.own.st.flags ||| pz
    let s := if o.dstb then s.orDst c op.x o.tc.r fl
      else s.tagWritten c op.x o.tc.r (fl ||| twin) o.tc.t.d.fmt.toNat (if o.red = 3 then 0x7F else op.scale)
    let s := if !op.tile then s
      else
        let (f, s) := s.nextFree
        (s.drew (16384 - 1)).updEng c m (fun e => { e with bank1 := { free := some f, vals := [] } })
    s.leaveQueue c m op
  | .drain o =>
    let s := s.slotComplete c o.tc.t.d t.own.amax t.own.st op.prepass
    let s := s.convCounts c off (tagLayer o.tc.t.tag) t.own.st op.prepass
    let s := s.tagWrote c op.x o.tc.r (t.flags ||| t.own.st.flags ||| flagBit fPOISON t.bad ||| twin) o.tc.t.d.fmt.toNat op.scale (o.m != 0)
    s.leaveQueue c m op
  | _ => s.leaveQueue c m op

/-- Complete now, or keep what was done until every replay of the instruction has ended (R501). -/
def State.finishOrHold (s : State) (c m : Nat) (op : EngOp) (t : Tally) : State :=
  if (s.eng c m).holds.any (fun h => h.id == op.id) then
    s.updEng c m (fun e => { e with q := e.q.map (fun o => if o.id == op.id then { op with fin := some t } else o) })
  else s.completeOp c m op t

/-! ### The taster (R234 to R238) -/

/-- TASTE_N of the core. -/
def State.tasteN (s : State) (c : Nat) : Nat := s.fld 0x10 c 0x400 20 16

/-- SPARE_BANK_USE of the engine. -/
def State.spareUse (s : State) (c m : Nat) : Nat := s.fld 0x11 (c * 4 + m) 0x10 1 0

/-- Count a skipped sample, per engine and per layer (R237). -/
def State.tasteSkip (s : State) (c m layer : Nat) : State :=
  let s := s.count64 0x10 c (0x460 + 0x30 * m) 1
  if s.layerCount = 0 then s
  else (s.memCount64 (s.layerAddr layer + 40) 1).setFlagIf (s.folds layer) 0x10 c 0x40C 5

/-- The position of the selected tile in a window of 2^n tiles, drawn from the taster's own generator when the window begins (R234). -/
def State.tasteWindow (s : State) (c m n : Nat) : Nat × State :=
  match (s.eng c m).tasteWin with
  | some w => (w, s)
  | none =>
    let e := s.eng c m
    let w := (Config.tasterDraw e.tasteSeed e.tasteDraws).toNat % 2 ^ n
    (w, s.updEng c m (fun e => { e with tasteWin := some w, tasteCnt := 0, tasteDraws := e.tasteDraws + 1 }))

/-- One result tile passes the taster: `vals` are its narrow and wide values, `lost` says that its sample is abandoned because the
tile is replayed (R503). DESIGN CHOICE (log 85): a tile form has no tag, and its sample counts in the record of layer 0; so does that of a
TC whose tag has a wrong TRES. -/
def State.tasteTile (s : State) (c m : Nat) (o : StreamOp) (vals : List (Num × Num)) (lost : Bool) : State :=
  let n := s.tasteN c
  let use := s.spareUse c m
  if n = 0 then s
  else
    let (w, s) := s.tasteWindow c m n
    let cnt := (s.eng c m).tasteCnt
    let s := s.updEng c m (fun e =>
      if cnt + 1 = 2 ^ n then { e with tasteCnt := 0, tasteWin := none } else { e with tasteCnt := cnt + 1 })
    if cnt ≠ w || use = 2 then s
    else if lost || (use = 0 && o.sh) then s.tasteSkip c m (readTag o.tc.t.tag).layer.toNat
    else s.updEng c m (fun e => { e with samples := e.samples ++ [{ vals := vals, layer := (readTag o.tc.t.tag).layer.toNat }] })

/-- A shallow-form STREAM with rows in the engine takes the spare bank of samples that still wait (R237). -/
def State.tasteAbandon (s : State) (c m : Nat) : State :=
  if !s.spareTaken c m then s
  else
    let ss := (s.eng c m).samples
    ss.foldl (fun s x => s.tasteSkip c m x.layer) (s.updEng c m (fun e => { e with samples := [] }))

/-- The narrow values of a result row as the taster reads them: from TC, or the totals of the bank (R236). -/
def State.narrowRow (s : State) (op : EngOp) (o : StreamOp) (r : RowOut) : List Num :=
  if o.dstb then r.vals.map ofF32
  else
    let t : TReg := { o.tc.t with tag := sealTag { o.tc.t.tag with scale := BitVec.ofNat 8 op.scale } }
    s.elemRow t (o.m0 + r.row) o.nc r.vals.length

/-- Every result tile of a STREAM passes the taster, that of each engine of a twin pair (R505). -/
def State.tasteStream (s : State) (c m : Nat) (op : EngOp) (o : StreamOp) (rs : List RowOut) (chks : List TileFail) : State :=
  if o.red ≠ 0 then s
  else
    (List.range (cdiv o.m 64)).foldl (fun s t =>
      let tr := rs.filter (fun r => r.row / 64 == t)
      let vals := (tr.map (fun r => (s.narrowRow op o r).zip r.wide)).flatten
      let lost := (s.eng c m).retiring || chks.any (fun f => f.place.tile == t)
      (s.pairOf c m).foldl (fun s e => s.tasteTile c e o vals lost) s) s

/-- The error bin of a sample (R236). -/
def tasteBin (vals : List (Num × Num)) : Nat :=
  let bad := vals.any (fun p => !p.1.isFinite || !p.2.isFinite)
  let w := amaxOf (vals.map (fun p => p.2))
  let e := amaxOf (vals.map (fun p => p.1.sub p.2))
  if bad then 15
  else if w.1 = 0 then (if vals.all (fun p => p.1.isZero) then 0 else 15)
  else (List.range 15).foldl (fun (b i : Nat) => if magLe w.1 (w.2 + (2 * Int.ofNat i - 24)) e.1 e.2 then i + 1 else b) 0

/-- TASTER_COMPARE: the oldest waiting sample is compared and counted (R236), or abandoned once a shallow-form STREAM has taken the spare
accumulator bank (R169, R237). -/
def execTasterCompare (c : BitVec 7) (m : BitVec 2) (s : State) : Out :=
  if !coreOk c then .fault .noSuchUnit
  else
    let cn := c.toNat
    let mn := m.toNat
    match (s.eng cn mn).samples with
    | [] => .next s
    | x :: xs =>
      if s.spareTaken cn mn then .next (s.tasteAbandon cn mn) else
      let b := tasteBin x.vals
      let ex := decide (s.fld 0x10 cn 0x400 24 21 ≤ b)
      let s := s.updEng cn mn (fun e => { e with samples := xs })
      let s := s.count64 0x10 cn (0x458 + 0x30 * mn) 1
      let s := if ex then (s.count64 0x10 cn (0x468 + 0x30 * mn) 1).setFlag 0x10 cn 0x40C 4 else s
      if s.layerCount = 0 then .next s
      else
        let a := s.layerAddr x.layer
        let s := (s.memCount64 (a + 32) 1).memCount (a + 64 + 4 * b) 1
        let s := if ex then s.memCount64 (a + 48) 1 else s
        .next (s.setFlagIf (s.folds x.layer) 0x10 cn 0x40C 5)

/-- An instruction of engine m's queue waits for a replay: counted once (R499, R514). -/
def State.noteWaited (s : State) (c m : Nat) (op : EngOp) : State :=
  (s.count64 0x13 (c * 4 + m) 0x68 1).updEng c m (fun e =>
    { e with q := e.q.map (fun p => if p.id == op.id then { p with waited := true } else p) })

/-- ENGINE_INSTR_START: the first instruction of the queue that has not started starts, when its conditions hold (R147); a STREAM waits for a
replay that runs, or is due, on its engine (R499). The rows of a shallow-form STREAM take the spare accumulator bank from waiting samples (R237). ENG.SEED completes as it starts (R141). -/
def execEngineInstrStart (c : BitVec 7) (m : BitVec 2) (s : State) : Out :=
  if !coreOk c then .fault .noSuchUnit
  else
    let cn := c.toNat
    let mn := m.toNat
    let s0 := s
    let s := s.feed cn mn
    let e := s.eng cn mn
    match splitStart [] e.q with
    | none => .next s0
    | some (pre, op, post) =>
      if !s.engWorks cn mn || e.retiring || !e.mayStart pre op.kind then .next s0
      else if isStream op.kind && s.replayDue cn mn then
        .next (if op.waited then s0 else s0.noteWaited cn mn op)
      else
        let put := fun (o : EngOp) (s : State) => s.updEng cn mn (fun e => { e with q := pre ++ [o] ++ post })
        match op.kind with
        | .loads o =>
          let (op, s) := s.startLoads cn mn op o
          .next (put op s)
        | .stream o =>
          let (op, s) := s.startStream cn mn op o
          .next ((s.pairOf cn mn).foldl (fun s e => s.tasteAbandon cn e) ((put op s).feed cn mn))
        | .drain o =>
          let (op, s) := s.startDrain cn op o
          .next (put op s)
        | .seed v =>
          .next ((s.updEng cn mn (fun e => { e with q := pre ++ post, seed := v })).opDone cn op.x op.id)

/-! ### The completions -/

/-- The first started instruction of a kind that has not yet done its own part. -/
def Engine.running (e : Engine) (p : EngKind → Bool) : Option EngOp := e.q.find? (fun o => o.started && o.fin.isNone && p o.kind)

def isDrain (k : EngKind) : Bool :=
  match k with
  | .drain _ => true
  | _ => false

/-- LOADS_COMPLETE: the tile stands in its buffer, marked loaded with SH, KN and NN (R103, R151); a frozen engine's loader stands still
(R172). An uncorrectable granule under TB
makes the tile carry POISON (R290). -/
def execLoadsComplete (c : BitVec 7) (m : BitVec 2) (s : State) : Out :=
  if !coreOk c then .fault .noSuchUnit
  else
    let cn := c.toNat
    let mn := m.toNat
    match (s.eng cn mn).running isLoads with
    | none => .next s
    | some op =>
      if s.frozen cn mn then .next s else
      match op.kind with
      | .loads o =>
        let rd := [(o.tb.t.d, o.rect)]
        let tag := if s.poisonRects rd then orFlags o.tb.t.tag (flagBit fPOISON true) else o.tb.t.tag
        let b : Buf := { loaded := true, sh := o.sh, kn := o.kn, nn := o.nn, fmt := o.tb.t.d.fmt.toNat, tile := s.loadTile o, tag := tag }
        let s := ((s.noteRects rd).updEng cn mn (fun e => e.setBuf o.buf b)).countPair 0x11 cn mn 0x78 1
        .next (s.leaveQueue cn mn op)
      | _ => .next s

/-- An operation put back in its place in the queue. -/
def State.putOp (s : State) (c m : Nat) (o : EngOp) : State :=
  s.updEng c m (fun e => { e with q := e.q.map (fun p => if p.id == o.id then o else p) })

/-- The sweeps of a STREAM before its final one are over, each counted as its rows, and the scales of its pre-pass destinations are
chosen: the prologue's first, then TC's (R220, R221, R250). -/
def State.sweepStream (s : State) (c m : Nat) (op : EngOp) (o : StreamOp) : State :=
  let s := s.countPair 0x11 c m 0x70 ((b2n op.prepass + b2n op.proPrepass) * o.m)
  let r := match o.pro, op.proPrepass with
    | some a, true => s.choosePrepass c a.td.t.d (amaxOf ((s.proValues o a).flatten.map ofF32))
    | _, _ => (op.proScale, s)
  let op := { op with proScale := r.1 }
  let q := if op.prepass then r.2.choosePrepass c o.tc.t.d (amaxOf (rowValues (r.2.formStream c m op o).1)) else (op.scale, r.2)
  (s.pairOf c m).foldl (fun s e => s.tasteAbandon c e) ((q.2.putOp c m { op with scale := q.1, swept := true }).feed c m)

/-- An earlier instruction of the queue still has held rows that write a bank which an instruction uses, or that read a bank it writes (R196,
R499). -/
def Engine.bankHeld (e : Engine) (op : EngOp) : Bool :=
  e.q.any (fun p => p.fin.isSome && [0, 1].any (fun b =>
    (p.writesBank b && (op.writesBank b || op.kind.readsBank b)) || (p.kind.readsBank b && op.writesBank b)))

/-- PREPASS_SECOND_SWEEP: the first sweep has ended, and the scale follows from the exact amax of its values (R220). A failed check of
the first sweep is replayed first (R503), a frozen engine stands still, and bank rows that a replay still owes are waited for. -/
def execPrepassSecondSweep (c : BitVec 7) (m : BitVec 2) (chks : List TileFail) (s : State) : Out :=
  if !coreOk c then .fault .noSuchUnit
  else
    let cn := c.toNat
    let mn := m.toNat
    match (s.eng cn mn).running (fun k => isStream k || isDrain k) with
    | none => .next s
    | some op =>
      if !(op.prepass || op.proPrepass) || op.swept || (s.eng cn mn).holds.any (fun h => h.id == op.id) || s.frozen cn mn then .next s
      else
        match op.kind with
        | .stream o =>
          let live := s.liveChecks cn mn o.m chks
          if (s.eng cn mn).bankHeld op then .next s
          else if !live.isEmpty then .next (live.foldl (fun s f => s.holdTile cn mn op.id o.m true f) s)
          else .next (s.sweepStream cn mn op o)
        | .drain o =>
          let live := s.liveChecks cn mn o.m chks
          if !live.isEmpty then .next (live.foldl (fun s f => s.holdTile cn mn op.id o.m true f) s)
          else
            let r := s.choosePrepass cn o.tc.t.d (amaxOf (s.drainValues cn mn o).flatten)
            .next (r.2.putOp cn mn { op with scale := r.1, swept := true })
        | _ => .next s

/-- A STREAM whose inputs carry POISON: nothing is written; POISON is set in TC's tag and in those of the registers an attachment
would write (R106, R252). -/
def State.poisonStream (s : State) (c m : Nat) (op : EngOp) (o : StreamOp) : State :=
  let fl := flagBit fPOISON true
  let s := s.orDst c op.x o.tc.r fl
  let s := (o.pro.toList ++ o.epi.toList).foldl (fun s a => a.dsts.foldl (fun s r => s.orDst c op.x r fl) s) s
  (s.countPair 0x11 c m 0x70 o.m).leaveQueue c m op

/-- A STREAM that is not poisoned has formed its rows: those that no check holds are written, with the attached operations' own results, the
taster takes its tiles, and the tiles whose check failed are held (R495). A retiring engine writes none of them (R508). -/
def State.streamDone (s : State) (c m : Nat) (op : EngOp) (o : StreamOp) (live : List TileFail) : State :=
  let ret := (s.eng c m).retiring
  let ue := s.poisonRects o.rects
  let (rs, s, pst, pam) := (s.noteRects o.rects).formStream c m op o
  let (op, s) := s.epiScaled c op o rs
  let t : Tally := { pro := { st := pst, amax := pam, rows := o.m }, carried := o.carried op.buf ||| flagBit fPOISON ue,
                     flags := flagBit fEMPTY_K (o.kn = 0), draw0 := s.freeCtr }
  let w := s.writeRows c m op o (fun r => !ret && !rowHeld live r) t s.freeCtr rs
  let s := ((s.pairOf c m).foldl (fun s e => s.tasteAbandon c e) w.1).tasteStream c m op o rs live
  let s := (s.countPair 0x11 c m 0x70 (if ret then 0 else o.m)).countTiles c m o.m live
  let s := live.foldl (fun s f => s.holdTile c m op.id o.m false f) s
  (if ret then s.holdRetired c m op.id o.m else s).finishOrHold c m op w.2

/-- STREAM_COMPLETE: every result row of the first started STREAM is written, but for the rows a failed check holds, and unless rows
are held the STREAM completes (R164, R495, R501). A STREAM of M = 0 changes nothing (R104). A STREAM that is not fed, or whose engine
stands frozen, is not complete (R107, R172). -/
def execStreamComplete (c : BitVec 7) (m : BitVec 2) (chks : List TileFail) (s : State) : Out :=
  if !coreOk c then .fault .noSuchUnit
  else
    let cn := c.toNat
    let mn := m.toNat
    let s0 := s
    let s := s.feed cn mn
    match (s.eng cn mn).running isStream with
    | none => .next s0
    | some op =>
      match op.kind with
      | .stream o =>
        let vu := fun (s : State) => s.count64 0x12 cn 0x48 (o.pro.toList.length + o.epi.toList.length)
        if !op.fed || s.frozen cn mn || (s.eng cn mn).bankHeld op then .next s0
        else if o.m = 0 then .next (vu (s.leaveQueue cn mn op))
        else if op.poisonIn o then .next (vu (s.poisonStream cn mn op o))
        else .next (s.streamDone cn mn op o (s.liveChecks cn mn o.m chks))
      | _ => .next s0

/-- DRAIN_COMPLETE: the bank rows are converted into TC (R163, R164), unless the engine stands frozen (R172). A DRAIN of M = 0 writes nothing
and records an amax of 0 (R222). -/
def execDrainComplete (c : BitVec 7) (m : BitVec 2) (chks : List TileFail) (s : State) : Out :=
  if !coreOk c then .fault .noSuchUnit
  else
    let cn := c.toNat
    let mn := m.toNat
    match (s.eng cn mn).running isDrain with
    | none => .next s
    | some op =>
      match op.kind with
      | .drain o =>
        if (op.prepass && !op.swept) || s.frozen cn mn then .next s
        else
          let ret := (s.eng cn mn).retiring
          let live := s.liveChecks cn mn o.m chks
          let rs := s.drainValues cn mn o
          let (s, t) := s.writeDrain op o (fun r => !ret && !rowHeld live r) { draw0 := s.freeCtr } s.freeCtr rs
          let s := live.foldl (fun s f => s.holdTile cn mn op.id o.m false f) (s.countTiles cn mn o.m live)
          .next ((if ret then s.holdRetired cn mn op.id o.m else s).finishOrHold cn mn op t)
      | _ => .next s

end Sys2Proof.Machine
end

