-- ==== Sys2Proof/Machine/ErrorDefence.lean ====
section
/-! DEFINITION. Replays, strikes and retirement (R498 to R510). -/

namespace Sys2Proof.Machine

/-- A DOMAIN event (R546). -/
def State.domainEvent (s : State) (kind inst st cause reason record ctx : Nat) : State :=
  s.queueEvent ([3] ++ leBytes 1 kind ++ leBytes 2 inst ++ leBytes 1 st ++ leBytes 1 cause ++ leBytes 2 reason ++ leBytes 4 record
    ++ leBytes 2 ctx ++ leBytes 2 0 ++ leBytes 8 s.cycle.toNat)

def causeHANG : Nat := 0
def causeSOFTWARE : Nat := 1
def causeRETIREMENT : Nat := 2
def causeCLOCK_LOST : Nat := 3
def causeESCALATION : Nat := 4
def causeTAKEOVER : Nat := 5

/-- No crumb record, and no named context. -/
def noRecord : Nat := 0xFFFFFFFF
def noContext : Nat := 0xFFFF

/-! ### Retirement (R508, R510) -/

/-- An instruction that has not started completes without effect: POISON in its destination tag, and its context's LAST_REASON takes
ENGINE_RETIRED (R508). -/
def State.voidOp (s : State) (c : Nat) (op : EngOp) : State :=
  let fl := flagBit fPOISON true
  let s := match op.kind with
    | .stream o => s.orDst c op.x o.tc.r fl
    | .drain o => s.orDst c op.x o.tc.r fl
    | _ => s
  (s.setLastReason c op.x 0x9302).opDone c op.x op.id

/-- Retirement of engine m begins: it admits nothing more, and what has not started is voided. -/
def State.beginRetire (s : State) (c m : Nat) : State :=
  let e := s.eng c m
  let s := s.addTrail 0x9302 1 (c * 4 + m) 0
  let s := s.setEng c m { e with retiring := true, q := e.q.filter (fun o => o.started) }
  (e.q.filter (fun o => !o.started)).foldl (fun s o => s.voidOp c o) s

/-- A strike on engine m (R507), which the crumb trail takes with the column of the engine's last failed check (R538). -/
def State.strike (s : State) (c m : Nat) : State :=
  let i := c * 4 + m
  let s := s.addTrail 0 1 i (s.fld 0x13 i 0x0C 25 18)
  let n := s.word64 0x13 i 0x40
  let s1 := s.word64 0x13 i 0x18
  let s0 := s.word64 0x13 i 0x10
  let s := (s.count64 0x13 i 0x50 1).setFlag 0x13 i 0x08 1
  let s := if s1 ≠ 2 ^ 64 - 1 && n - s1 < 2 ^ 20 && !(s.eng c m).retired then s.beginRetire c m else s
  (s.setWord64 0x13 i 0x18 s0).setWord64 0x13 i 0x10 n

/-- Engine m is judged by a replay: a strike when its totals differ, a false alarm when they are equal (R500). A retiring engine takes
no further strike (R508), and one with RESIDUE = 0 none (R496). -/
def State.judge (s : State) (c m : Nat) (equal : Bool) : State :=
  if equal then (s.count64 0x13 (c * 4 + m) 0x58 1).setFlag 0x13 (c * 4 + m) 0x08 2
  else if (s.eng c m).retired || !s.residueOn c m then s
  else s.strike c m

/-- The sizes table after an engine is gone (R80). -/
def State.dropEngine (s : State) (c m : Nat) : State :=
  let off := 0x140 + 4 * (c / 8)
  let s := s.setFld 0 0 off (4 * (c % 8) + m) (4 * (c % 8) + m) 0
  let s := s.setWord 0 0 0x10C (s.word 0 0 0x10C - 1)
  s.setWord 0 0 0x104 (s.word 0 0 0x104 + 1)

/-- What a follower has loaded and accumulated is what its leader has (R505): the engine it becomes as the pair separates. -/
def Engine.parted (f l : Engine) : Engine :=
  { f with ib0 := l.ib0, ib1 := l.ib1, bankForm0 := l.bankForm0, bankForm1 := l.bankForm1, buf0 := l.buf0, buf1 := l.buf1,
           bank0 := l.bank0, bank1 := l.bank1, last := l.last, seed := l.seed }

/-- The follower of a pair that separates keeps the buffers, banks and generator it has worked with. -/
def State.partTwin (s : State) (c l : Nat) : State := s.updEng c (l + 1) (fun f => f.parted (s.eng c l))

/-- A context no longer owns an engine: its pending attachments to it are dropped, and where there were some it learns NOT_OWNER (R255). -/
def State.disown (s : State) (c m x : Nat) : State :=
  if (s.core c).attach.any (fun a => a.eng == m && a.x == x) then (s.dropAttach c x m).setLastReason c x rsNOT_OWNER else s

/-- A pair one of whose engines retires leaves twin mode; a follower that survives gets the leader's owner (R509). -/
def State.loseTwin (s : State) (c m : Nat) : State :=
  if !s.twinOn c m then s
  else
    let l := m / 2 * 2
    let s := (s.partTwin c l).setFld 0x13 (c * 4 + l) 0 1 1 0
    let s := (s.setFlag 0x13 (c * 4 + l) 0x08 5).setFlag 0x13 (c * 4 + l + 1) 0x08 5
    let o := s.engOwner c l
    let was := s.engOwner c (l + 1)
    if m ≠ l then s
    else
      let s := s.setFld 0x10 c 0x10 (2 * l + 3) (2 * l + 2) o
      if was = o then s else s.disown c (l + 1) was

/-- RETIREMENT_REST: the last replay of a retiring engine has been written; the engine passes through FENCED and DRAINING, one command each,
and then rests in OFF (R508). -/
def execRetirementRest (c : BitVec 7) (m : BitVec 2) (s : State) : Out :=
  if !coreOk c then .fault .noSuchUnit
  else
    let cn := c.toNat
    let mn := m.toNat
    let e := s.eng cn mn
    let st := s.fld 0x11 (cn * 4 + mn) 0 2 0
    if !e.retiring || !e.q.isEmpty || !e.holds.isEmpty then .next s
    else if st = fnRUNNING then .next (s.setFld 0x11 (cn * 4 + mn) 0 2 0 fnFENCED)
    else if st = fnFENCED then .next (s.setFld 0x11 (cn * 4 + mn) 0 2 0 fnDRAINING)
    else
      let i := cn * 4 + mn
      let s := s.loseTwin cn mn
      let s := s.setEng cn mn { seed := e.seed, resting := true, permanent := e.permanent }
      let s := ((s.setFld 0x11 i 0 2 0 0).setFld 0x11 i 8 15 0 0x9302).dropEngine cn mn
      let s := s.domainEvent 0 i 0 causeRETIREMENT 0x9302 noRecord noContext
      .next (s.queueEvent ([2] ++ leBytes 4 (s.word 0 0 0x104).toNat))

/-! ### Replays (R498 to R500, R506) -/

/-- Take a hold off engine m. -/
def State.dropHold (s : State) (c m : Nat) (h : Hold) : State := s.updEng c m (fun e => { e with holds := e.holds.erase h })

/-- Change the tally of a held instruction, and complete it once none of its tiles is held (R501). -/
def State.afterReplay (s : State) (c m id : Nat) (f : Tally → Tally) : State :=
  match (s.eng c m).q.find? (fun o => o.id == id) with
  | none => s
  | some op =>
    match op.fin with
    | none => s
    | some t => s.finishOrHold c m { op with fin := some (f t) } (f t)

/-- The rows of a tile stay unwritten: POISON (R500, R506). -/
def State.unresolved (s : State) (c m : Nat) (h : Hold) : State :=
  let s := (s.dropHold c m h).noteUnresolved c m
  let s := if !h.sweep1 then s
    else match (s.eng c m).q.find? (fun o => o.id == h.id) with
      | some op =>
        match op.kind with
        | .stream o => s.orDst c op.x o.tc.r (flagBit fPOISON true)
        | .drain o => s.orDst c op.x o.tc.r (flagBit fPOISON true)
        | _ => s
      | none => s
  s.afterReplay c m h.id (fun t => { t with bad := true })

/-- Write the replay rows with draws of engine r (R499), or, where a twin's results stand for the failing engine's, with the draws that both
of the pair took (R505, R506). A replay of the first sweep writes nothing (R503). -/
def State.writeReplay (s : State) (c m r : Nat) (pair : Bool) (h : Hold) : State :=
  match (s.eng c m).q.find? (fun o => o.id == h.id) with
  | none => s
  | some op =>
    match op.fin with
    | none => s
    | some t =>
      let op := if pair then op else { op with seed := (s.eng c r).seed }
      let n := if pair then t.draw0 else s.freeCtr
      let keep := fun k => decide (h.first ≤ k) && decide (k ≤ h.last)
      match op.kind with
      | .stream o =>
        let (rs, _, _, _) := s.formStream c m op o
        let (s, t) := s.writeRows c m op o keep t n rs
        s.updEng c m (fun e => { e with q := e.q.map (fun p => if p.id == op.id then { p with fin := some t } else p) })
      | .drain o =>
        let (s, t) := s.writeDrain op o keep t n (s.drainValues c m o)
        s.updEng c m (fun e => { e with q := e.q.map (fun p => if p.id == op.id then { p with fin := some t } else p) })
      | _ => s

/-- A STREAM in progress on engine r keeps the rows of a replay of instruction `id` out: its last row has not passed steering, or, when the
forms differ, its results have not left the drain (R499). -/
def State.entryBarred (s : State) (c r id : Nat) (sh : Option Bool) : Bool :=
  (s.eng c r).q.any (fun p => match p.kind with
    | .stream o => p.id != id && p.started && p.fin.isNone && (!p.fed || sh.any (fun f => f != o.sh))
    | _ => false)

/-- The form of the rows of a held tile; a DRAIN's have none. -/
def Engine.heldForm (e : Engine) (id : Nat) : Option Bool :=
  match e.q.find? (fun o => o.id == id) with
  | some op => (match op.kind with
    | .stream o => some o.sh
    | _ => none)
  | none => none

/-- A tile of another engine whose check failed before waits for the same replay engine (R502). -/
def State.laterThan (s : State) (c r seq : Nat) : Bool :=
  (List.range 4).any (fun m => match (s.eng c m).holds.head? with
    | some h => h.rep.isNone && decide (h.seq < seq) && s.nextReplayer c m h == some r
    | none => false)

/-- The next STREAM of engine r, not yet started, waits for a replay (R499). -/
def State.preempt (s : State) (c r : Nat) : State :=
  match (s.eng c r).q.find? (fun o => !o.started && isStream o.kind) with
  | some op => if op.waited then s else s.noteWaited c r op
  | none => s

/-- REPLAY: the held tile that stands first on engine m goes to its replay engine: its tile is copied and its rows enter (R498, R499). A
replay engine runs one replay at a time, in the order the checks failed (R502). -/
def execReplay (c : BitVec 7) (m : BitVec 2) (s : State) : Out :=
  if !coreOk c then .fault .noSuchUnit
  else
    let cn := c.toNat
    let mn := m.toNat
    match (s.eng cn mn).holds.head? with
    | none => .next s
    | some h =>
      if h.rep.isSome then .next s
      else
        match s.nextReplayer cn mn h with
        | none => .next (s.unresolved cn mn h)
        | some r =>
          if s.replayingOn cn r || s.laterThan cn r h.seq || s.entryBarred cn r h.id ((s.eng cn mn).heldForm h.id) then .next s
          else
            let s := s.updEng cn mn (fun e => { e with holds := e.holds.map (fun x => if x == h then { x with rep := some r } else x) })
            .next (s.preempt cn r)

/-- The rows that a replay of a held tile streams: none for those of a DRAIN. -/
def Engine.replayRows (e : Engine) (h : Hold) : Nat := if (e.heldForm h.id).isSome then h.last + 1 - h.first else 0

/-- A replay that runs on engine r stands still: the row feeder of r does, or that of engine m, whose bank the rows are for (R172). -/
def State.replayStill (s : State) (c m r : Nat) (h : Hold) : Bool :=
  s.feedFrozen c r || (s.feedFrozen c m && (s.eng c m).q.any (fun o => o.id == h.id && (o.kind.writesBank 0 || o.kind.writesBank 1)))

/-- The engines of the pair that a passing replay judges, with the comparison for each (R500, R506); a retiring engine held no totals of the
rows it left (R508). -/
def judged (m : Nat) (h : Hold) (r : ReplayRes) : List (Nat × Bool) :=
  if h.retire then [] else
  match h.kind with
  | .own => [(m, r.totalsEqual)]
  | .partner => [(m + 1, r.totalsEqual)]
  | .both => [(m, r.totalsEqual), (m + 1, r.partnerEqual)]
  | .differ => ([(m, r.totalsEqual), (m + 1, r.partnerEqual)]).filter (fun p => !p.2)

/-- REPLAY_COMPLETE: the replay of a held tile of engine m is judged (R500, R506). -/
def execReplayComplete (c : BitVec 7) (m : BitVec 2) (r : ReplayRes) (s : State) : Out :=
  if !coreOk c then .fault .noSuchUnit
  else
    let cn := c.toNat
    let mn := m.toNat
    match (s.eng cn mn).holds.find? (fun h => h.rep.isSome) with
    | none => .next s
    | some h =>
      let e := h.rep.getD mn
      let pair : Bool := decide (e / 2 = mn / 2) && s.twinOn cn mn
      if !pair && s.replayStill cn mn e h then .next s
      else
        let s := if pair then s else s.countReplay cn mn e ((s.eng cn mn).replayRows h)
        if !r.checksPass && s.residueOn cn e then
          let s := s.noteFail cn e r.place
          let h2 := { h with rep := none, other := some e }
          if h.other.isSome || (s.nextReplayer cn mn h2).isNone then .next (s.unresolved cn mn h)
          else .next (s.updEng cn mn (fun g => { g with holds := g.holds.map (fun x => if x == h then h2 else x) }))
        else if h.kind = .differ && !r.totalsEqual && !r.partnerEqual then .next (s.unresolved cn mn h)
        else
          let s := if h.sweep1 then s else s.writeReplay cn mn e pair h
          let s := (judged mn h r).foldl (fun s p => s.judge cn p.1 p.2) s
          let s := match h.other with
            | some q => s.judge cn q r.otherEqual
            | none => s
          let s := if h.sweep1 || (h.retire && e != mn) then s else s.countPair 0x13 cn mn 0x40 1
          .next ((s.dropHold cn mn h).afterReplay cn mn h.id id)

end Sys2Proof.Machine
end

