-- ==== Sys2Proof/Machine/Vector.lean ====
section
/-! DEFINITION. VOP (R108, R109, R139, R243 to R252): attaching to a STREAM, and running standalone. -/

namespace Sys2Proof.Machine

/-- A register that names none. -/
def noOpd : Opd := {}

/-- The statistics register and the reserved bits of SS (R246). -/
def ssStats (k : Ctx) (ss : W64) : Opd := k.opd (bitsOf ss.toNat 36 32)
def ssBad (fn : Nat) (ss : W64) : Bool := usesStats fn && bitsOf ss.toNat 63 37 != 0

/-- The attachment that a VOP of context x with ATT = 1 or 2 makes: every register it names belongs to its STREAM (R108, R251). -/
def vopAttach (x : Nat) (f : VopF) (k : Ctx) : Attach :=
  let fn := f.fn.toNat
  let epi := f.att == 2
  let ss := k.sreg f.ss.toNat
  { id := 0, x := x, eng := f.eng.toNat, epi := epi, fn := fn, td := k.opd f.td.toNat, tb := k.opd f.tb.toNat, ss := ss,
    stats := if usesStats fn then some (ssStats k ss) else none,
    rnd := f.rnd.toNat, ovf := f.ovf }

/-- The checks of an attaching VOP in the order of R119, each the reason it halts with or 0 (R108, R246). -/
def State.attachReasons (s : State) (c : Nat) (a : Attach) : List Nat :=
  [s.engAddr a.regs, nameReason a.names, fmtReason a.names, statsFmt a.stats, statsShape a.stats 0, chk (ssBad a.fn a.ss) rsBAD_OPERAND,
   chk (!a.names.all (s.slotOk c)) rsBAD_OPERAND, chk ((s.core c).attachOf a.x a.eng a.epi).isSome rsBAD_OPERAND]

/-- A VOP with ATT = 1 or 2 attaches (R108): its registers are those of the STREAM it will run with (R251). -/
def State.attachVop (s : State) (c x : Nat) (f : VopF) : State :=
  let a := vopAttach x f (s.ctx c x)
  let r := firstNonzero (s.attachReasons c a)
  if r ≠ 0 then s.halt c x r
  else
    let (id, s) := s.newId
    (s.updCore c (fun q => { q with attach := q.attach ++ [{ a with id := id }] })).advance c x

/-- The rows and columns of the operands that a standalone VOP reads and writes beside TA. -/
def State.vopRects (s : State) (fn : Nat) (ta tb td : TDesc) : Nat :=
  let r := ta.rows.toNat
  let n := ta.cols.toNat
  firstNonzero [
    if fn = 13 || fn = 14 then s.rectReason td 0 0 r 1 else s.rectReason td 0 0 r n,
    if fn = 18 then s.rectReason tb 0 0 r n
    else if usesStats fn && usesTB fn then s.rectReason tb 0 0 (if fn = 15 then 2 else 1) n
    else 0]

/-- The operation that a standalone VOP of context x starts; its number, scale and pre-pass are settled at issue. -/
def vopOp (x : Nat) (f : VopF) (k : Ctx) : VuOp :=
  let fn := f.fn.toNat
  let ss := k.sreg f.ss.toNat
  { id := 0, x := x, no := k.cmdNo, fn := fn, td := k.opd f.td.toNat, ta := k.opd f.ta.toNat,
    tb := if usesTB fn then k.opd f.tb.toNat else noOpd, ss := ss, stats := if usesStats fn then some (ssStats k ss) else none,
    rnd := f.rnd.toNat, ovf := f.ovf, scale := 0, prepass := false, statScale := 0 }

/-- The registers a standalone VOP writes and reads (R91). -/
def VuOp.dsts (o : VuOp) : List Nat := [o.td.r] ++ o.stats.toList.map (fun q => q.r)
def VuOp.srcs (o : VuOp) : List Nat := [o.ta.r] ++ (if usesTB o.fn then [o.tb.r] else [])

/-- The source registers of a standalone VOP: TD where it reads it, and a statistics register where a forward pass filled it (FN 18 to 20). -/
def VuOp.sources (o : VuOp) : List Opd :=
  ([o.ta, o.tb] ++ (if readsTD o.fn then [o.td] else []) ++ (if 18 ≤ o.fn then o.stats.toList else [])).filter (fun q => q.r < 32)

/-- The rectangles it reads: those of its function's operands. -/
def VuOp.rects (o : VuOp) : List (TDesc × Rect) :=
  let q := o.ta.t.d.all
  let rowwise : Rect := { q with ni := if o.fn = 15 then 2 else 1 }
  [(o.ta.t.d, q)] ++ (if usesTB o.fn then [(o.tb.t.d, if o.fn ≤ 12 || o.fn = 18 then q else rowwise)] else [])
    ++ (if readsTD o.fn then [(o.td.t.d, q)] else []) ++ (if 18 ≤ o.fn then o.stats.toList.map (fun t => (t.t.d, { q with nj := 5 })) else [])

/-- The checks of a standalone VOP in the order of R119, each the reason it halts with or 0 (R108, R208, R246). -/
def State.vopReasons (s : State) (c : Nat) (o : VuOp) : List Nat :=
  let ta := o.ta.t.d
  let regs := ([o.ta, o.td] ++ (if usesTB o.fn then [o.tb] else []) ++ o.stats.toList).map (fun q => q.t.d)
  [s.engAddr regs, s.vopRects o.fn ta o.tb.t.d o.td.t.d, fmtReason regs, statsFmt o.stats,
   chk (o.fn ≤ 12 && (!sameShape ta o.td.t.d || (usesTB o.fn && !sameShape ta o.tb.t.d))) rsBAD_SHAPE,
   statsShape o.stats ta.rows.toNat, chk (ssBad o.fn o.ss) rsBAD_OPERAND, chk (!regs.all (s.slotOk c)) rsBAD_OPERAND]

/-- A standalone VOP starts at issue (R219): its scale is chosen then, and its sources are read-marked after it (R224). -/
def State.startVop (s : State) (c x : Nat) (f : VopF) : State :=
  let k := s.ctx c x
  let o := vopOp x f k
  if k.holds o.dsts o.srcs then s.waitOn c x (.held (.vop { core := BitVec.ofNat 7 c, ctx := BitVec.ofNat 2 x } f))
  else
    let r := firstNonzero (s.vopReasons c o)
    if r ≠ 0 then s.halt c x r
    else
      let bad := o.sources.any (fun q => poisoned q.t.tag)
      let pre := !bad && s.wantsPrepass c o.td.t.d
      let (sc, s) := if bad || pre then (127, s) else s.chooseScale c o.td.t.d
      let (ss, s) := match (if bad then none else o.stats) with
        | some t => s.chooseScale c t.t.d
        | none => (127, s)
      let s := if bad then s else s.markSources c (o.sources.map (fun q => q.t))
      let (id, s) := s.newId
      let s := s.updCtx c x (fun k => k.begin id o.dsts o.srcs)
      (s.updCore c (fun q => { q with vu := q.vu ++ [{ o with id := id, scale := sc, prepass := pre, statScale := ss }] })).advance c x

/-- VOP. -/
def execVop (i : Iss) (f : VopF) (s : State) : Out :=
  issueStop i (20 < f.fn.toNat || f.rnd = 3 || f.att = 3) s (stopWrite f.td.toNat) (fun c x _ =>
    if f.att = 0 then s.startVop c x f else s.attachVop c x f)

/-- One row of a standalone VOP: the values of TD's row from column 0, and the statistics columns it leaves (R108, R247, R248). -/
def State.vopRow (s : State) (o : VuOp) (i : Nat) : List W32 × Stats :=
  let n := o.ta.t.d.cols.toNat
  let es := (List.range n).map (fun j => s.f32Elem o.ta.t i j)
  let c : W32 := o.ss.setWidth 32
  let st0 := s.statsOf o.stats i
  if o.fn ≤ 12 then (es.zipIdx.map (fun p => ewise o.fn p.1 (s.tbElem o.tb false i p.2) (s.tdElem o.td i p.2) c), st0)
  else if o.fn ≤ 14 then ([rowFn o.fn none es], st0)
  else
    let args := fun (stat : Bool) (j : Nat) => s.fnArgs o.fn o.tb o.td stat i j
    let st := statRow o.fn c (freshStats o.fn st0) (es.zipIdx.map (fun p => let a := args true p.2; (p.1, a.1, a.2.2)))
    (es.zipIdx.map (fun p => let a := args false p.2; applyElem o.fn c st p.1 a.1 a.2.1 a.2.2), st)

/-- The tags a standalone VOP reads. -/
def VuOp.tags (o : VuOp) : List Tag := o.sources.map (fun q => q.t.tag)

/-- VOP_COMPLETE: the oldest standalone VOP completes: its results are converted into TD, its statistics written, the tags, the slot
and the counts updated (R90, R106, R139, R222, R227). -/
def execVopComplete (c : BitVec 7) (s : State) : Out :=
  if !coreOk c then .fault .noSuchUnit
  else
    let cn := c.toNat
    match (s.core cn).vu with
    | [] => .next s
    | o :: rest =>
      let s := (s.updCore cn (fun q => { q with vu := rest })).count64 0x12 cn 0x40 1
      let fin := fun (s : State) => s.opDone cn o.x o.id
      if o.tags.any poisoned then
        let s := s.orDst cn o.x o.td.r (flagBit fPOISON true)
        .next (fin (o.stats.toList.foldl (fun s t => s.orDst cn o.x t.r (flagBit fPOISON true)) s))
      else
        let d := o.td.t.d
        let ue := s.poisonRects o.rects
        let s := s.noteRects o.rects
        let rows := (List.range o.ta.t.d.rows.toNat).map (fun i => s.vopRow o i)
        let vals := (rows.map (fun r => r.1.map ofF32)).flatten
        let w := if o.fn = 13 || o.fn = 14 then 1 else o.ta.t.d.cols.toNat
        let am := amaxOf vals
        let (sc, s) := if o.prepass then s.choosePrepass cn d am else (o.scale, s)
        let s0 := s
        let (s, st) := rows.zipIdx.foldl (fun (p : State × ConvStat) r =>
          let (s', st) := p.1.convRow d sc o.rnd o.ovf (fun k => s0.draws (s0.core cn).vuSeed (r.2 * w + k)) r.2 0 (r.1.1.map ofF32)
          (if w = d.cols.toNat then s'.padRow d r.2 else s', p.2.join st)) (s, {})
        let s := s.drew (rows.length * w)
        let cf := o.tags.foldl (fun f t => f ||| carriedOf t) (flagBit fPOISON ue)
        let s := (s.slotComplete cn d am st o.prepass).convCounts cn 0x600 (tagLayer o.td.t.tag) st o.prepass
        let s := s.tagWrote cn o.x o.td.r (cf ||| st.flags) d.fmt.toNat sc (!vals.isEmpty)
        let s := match o.stats with
          | some t =>
            let w := rows.zipIdx.foldl (fun (p : State × Conv) r => p.1.writeStats t o.statScale o.fn r.2 r.1.2 p.2) (s, {})
            w.1.convDone cn o.x t w.2 false cf o.statScale (w.2.rows != 0)
          | none => s
        .next (fin s)

end Sys2Proof.Machine
end

