-- ==== Sys2Proof/Machine/Mover.lean ====
section
/-! DEFINITION. MOVE, STASH and FETCH (R110, R256 to R263) and SEND (R111). The mover takes instructions in issue order. -/

namespace Sys2Proof.Machine

/-! ### Issue -/

/-- The arrival bit an instruction asks for. -/
def arrOpt (setarr : Bool) (arr : BitVec 12) : Option Nat := if setarr then some arr.toNat else none

/-- The bit an instruction would set is pending for another (R97). -/
def State.arrBusy (s : State) (c : Nat) (a : Option Nat) : Bool :=
  match a with
  | some b => (s.core c).arrPending b
  | none => false

/-- Clear the bit at issue and make it pending (R97). -/
def State.claimArr (s : State) (c id : Nat) (a : Option Nat) : State :=
  match a with
  | some b => s.updCore c (fun k => k.claimArr b b id)
  | none => s

/-- The larder header of a stash stands 64 bytes before its block scales (R258). -/
def headerAddr (d : TDesc) : Nat := d.base.toNat + d.scaleOff.toNat - 64
def headerAligned (d : TDesc) : Bool := 64 ≤ d.scaleOff.toNat && d.scaleOff.toNat % 64 == 0

/-- The larder header of a stash: its LTAG and the fields of R259. -/
def State.header (s : State) (d : TDesc) : List Byte := s.readMem (headerAddr d) 64
def headerTag (h : List Byte) : Tag := tagOfBytes h
def headerFmt (h : List Byte) : Nat := bitsOf (leField h 16 1) 2 0
def headerBscale (h : List Byte) : Bool := bitAt (leField h 16 1) 3
def headerKind (h : List Byte) : Nat := bitsOf (leField h 16 1) 7 4

/-- Put an instruction before the mover. A MOVE chooses its scale before its source is read-marked (R219, R224); a STASH changes no slot
(R257). -/
def State.moveGo (s : State) (c x : Nat) (kind : MvKind) (f : MoveF) (held : Instr) (checks : Opd → Opd → List Nat) : State :=
  let k := s.ctx c x
  let ta := k.opd f.ta.toNat
  let td := k.opd f.td.toNat
  let arr := arrOpt f.setarr f.arr
  if k.holds [f.td.toNat] [f.ta.toNat] then s.waitOn c x (.held held)
  else
    let r := firstNonzero (checks ta td)
    if r ≠ 0 then s.halt c x r
    else
      let bad := poisoned ta.t.tag
      let pre := kind = .move && !bad && s.wantsPrepass c td.t.d
      let (sc, s) := if kind = .move && !bad && !pre then s.chooseScale c td.t.d else (ta.t.tag.scale.toNat, s)
      let s := if bad || kind = .stash then s else s.markSources c [ta.t]
      let (id, s) := s.newId
      let op : MvOp := { kind := kind, id := id, x := x, no := k.cmdNo, td := td, ta := ta, rnd := f.rnd.toNat, ovf := f.ovf,
                         arr := arr, scale := sc, prepass := pre, poisoned := bad,
                         hdr := if kind = .fetch then s.header ta.t.d else [],
                         hdrBad := kind == .fetch && s.ueIn (headerAddr ta.t.d) 64 }
      let s := if kind = .fetch then s.noteUe (headerAddr ta.t.d) 64 else s
      let s := s.updCtx c x (fun k => k.begin id [f.td.toNat] [f.ta.toNat])
      ((s.claimArr c id arr).updCore c (fun q => { q with mv := q.mv ++ [op] })).advance c x

/-- The checks of a MOVE in the order of R119, each the reason it halts with or 0 (R97, R110, R208). -/
def State.moveReasons (s : State) (c : Nat) (arr : Option Nat) (ta td : Opd) : List Nat :=
  [s.anyAddr [ta.t.d, td.t.d], fmtReason [ta.t.d, td.t.d], chk (!sameShape ta.t.d td.t.d) rsBAD_SHAPE, chk (s.arrBusy c arr) rsARR_BUSY,
   chk (!s.slotOk c ta.t.d || !s.slotOk c td.t.d) rsBAD_OPERAND]

/-- MOVE: copy TA into TD, converting every element (R110, R131, R219). -/
def execMove (i : Iss) (f : MoveF) (s : State) : Out :=
  issueStop i (f.rnd = 3) s (stopWrite f.td.toNat) (fun c x _ =>
    s.moveGo c x .move f (.move i f) (s.moveReasons c (arrOpt f.setarr f.arr)))

/-- The format pairs of R256. -/
def stashPair (a d : TDesc) : Bool :=
  d.bscale && (((a.fmt == 1 || a.fmt == 2) && (d.fmt == 3 || d.fmt == 4)) || ((a.fmt == 3 || a.fmt == 4) && d.fmt == 5))

/-- The checks of a STASH in the order of R119, each the reason it halts with or 0 (R97, R208, R256 to R258). -/
def State.stashReasons (s : State) (c : Nat) (arr : Option Nat) (ta td : Opd) : List Nat :=
  [s.anyAddr [ta.t.d, td.t.d], chk (!headerAligned td.t.d) rsMISALIGNED, s.accessReason (headerAddr td.t.d) 64,
   fmtReason [ta.t.d, td.t.d], chk (!stashPair ta.t.d td.t.d) rsBAD_FORMAT, chk (!sameShape ta.t.d td.t.d) rsBAD_SHAPE,
   chk (s.arrBusy c arr) rsARR_BUSY, chk (!s.slotOk c ta.t.d) rsBAD_OPERAND]

/-- STASH: narrow TA into the larder (R256 to R259). -/
def execStash (i : Iss) (f : MoveF) (s : State) : Out :=
  issueStop i (f.rnd = 3) s (stopWrite f.td.toNat) (fun c x _ =>
    s.moveGo c x .stash f (.stash i f) (s.stashReasons c (arrOpt f.setarr f.arr)))

/-- The checks of R260 that halt; with a wrong TRES there is none, since FETCH then writes nothing and uses no other field. -/
def headerReason (h : List Byte) (a d : TDesc) : Nat :=
  if !tagOk (headerTag h) then 0
  else firstNonzero [chk ((headerTag h).kind ≠ 5) rsBAD_TAG,
    chk (headerFmt h ≠ d.fmt.toNat || headerBscale h ≠ d.bscale) rsBAD_FORMAT,
    chk (leField h 20 4 ≠ a.rows.toNat || leField h 24 4 ≠ a.cols.toNat || leField h 20 4 ≠ d.rows.toNat || leField h 24 4 ≠ d.cols.toNat)
      rsBAD_SHAPE]

/-- The checks of a FETCH in the order of R119, each the reason it halts with or 0 (R97, R208, R260). Those of the header, which FETCH reads
first of its stash, come behind every check of the instruction itself (log 65). -/
def State.fetchReasons (s : State) (c : Nat) (arr : Option Nat) (ta td : Opd) : List Nat :=
  [s.anyAddr [ta.t.d, td.t.d], chk (!headerAligned ta.t.d) rsMISALIGNED, s.accessReason (headerAddr ta.t.d) 64,
   fmtReason [ta.t.d, td.t.d], chk (!sameShape ta.t.d td.t.d) rsBAD_SHAPE, chk (s.arrBusy c arr) rsARR_BUSY,
   chk (!s.slotOk c ta.t.d) rsBAD_OPERAND, headerReason (s.header ta.t.d) ta.t.d td.t.d]

/-- FETCH: the restoring read of a stash (R260, R261). -/
def execFetch (i : Iss) (f : MoveF) (s : State) : Out :=
  issueStop i (f.rnd = 3) s (stopWrite f.td.toNat) (fun c x _ =>
    s.moveGo c x .fetch f (.fetch i f) (s.fetchReasons c (arrOpt f.setarr f.arr)))

/-! ### Completion -/

/-- Convert rows of values into TD with tensor scale `sc` and draws of the generator `seed`. -/
def State.convTensor (s : State) (seed : W64) (d : TDesc) (sc rnd : Nat) (ovf : Bool) (rows : List (List Num)) : State × ConvStat :=
  let s0 := s
  let n := d.cols.toNat
  let p := rows.zipIdx.foldl (fun (p : State × ConvStat) r =>
    let (s', st) := p.1.convRow d sc rnd ovf (fun k => s0.draws seed (r.2 * n + k)) r.2 0 r.1
    (s'.padRow d r.2, p.2.join st)) (s, {})
  (p.1.drew (rows.length * n), p.2)

/-- All elements of a register, by row. -/
def State.allRows (s : State) (o : TReg) : List (List Num) :=
  (List.range o.d.rows.toNat).map (fun i => s.elemRow o i 0 o.d.cols.toNat)

/-- Bytes of a tensor's elements and block scales. -/
def storedBytes (d : TDesc) : Nat :=
  d.rows.toNat * rowBytes d d.cols.toNat + (if d.bscale then d.rows.toNat * cdiv d.cols.toNat 32 else 0)

/-- The first mover instruction of a core, when it is of the given kind. -/
def State.mvHead (s : State) (c : Nat) (kind : MvKind) : Option MvOp :=
  match (s.core c).mv with
  | [] => none
  | o :: _ => if o.kind = kind then some o else none

/-- A mover instruction leaves the mover and sets its arrival bit. -/
def State.mvDone (s : State) (c : Nat) (o : MvOp) : State :=
  ((s.updCore c (fun q => { q with mv := q.mv.filter (fun p => p.id != o.id) })).opDone c o.x o.id).setArrOpt c o.arr

/-- MOVE_COMPLETE (R90, R106, R222, R227). -/
def execMoveComplete (c : BitVec 7) (s : State) : Out :=
  if !coreOk c then .fault .noSuchUnit
  else
    let cn := c.toNat
    match s.mvHead cn .move with
    | none => .next s
    | some o =>
      if o.poisoned then .next ((s.orDst cn o.x o.td.r (flagBit fPOISON true)).mvDone cn o)
      else
        let d := o.td.t.d
        let ue := s.poisonRead o.ta.t.d
        let rows := s.allRows o.ta.t
        let am := amaxOf rows.flatten
        let s := s.noteRead o.ta.t.d
        let (sc, s) := if o.prepass then s.choosePrepass cn d am else (o.scale, s)
        let (s, st) := s.convTensor (s.core cn).mvSeed d sc o.rnd o.ovf rows
        let s := (s.slotComplete cn d am st o.prepass).convCounts cn 0x618 (tagLayer o.td.t.tag) st o.prepass
        let s := s.tagWrote cn o.x o.td.r (carriedOf o.ta.t.tag ||| st.flags ||| flagBit fPOISON ue) d.fmt.toNat sc (!rows.flatten.isEmpty)
        .next (s.mvDone cn o)

/-- The LTAG of a stash (R259). -/
def State.larderTag (s : State) (ta : TReg) (d : TDesc) (fl : BitVec 12) : Tag :=
  let t := readTag ta.tag
  s.stamp { kind := 5, fmt := d.fmt, scale := t.scale, layer := t.layer, group := t.group, op := t.op, flags := carriedOf t ||| fl,
            count := 1 }

/-- The larder header's bytes (R259). -/
def State.larderHeader (s : State) (lt : Tag) (ta : TReg) (rnd flushed : Nat) : List Byte :=
  tagBytes lt ++ leBytes 1 (ta.d.fmt.toNat + 8 * b2n ta.d.bscale + 16 * (readTag ta.tag).kind.toNat) ++ leBytes 1 rnd ++ leBytes 2 0
    ++ leBytes 4 ta.d.rows.toNat ++ leBytes 4 ta.d.cols.toNat ++ leBytes 4 s.cycle.toNat ++ leBytes 4 flushed ++ List.replicate 28 0

/-- Replace a register's tag whole (R90). -/
def State.putTag (s : State) (c x r : Nat) (t : Tag) : State := s.updTag c x r (fun _ => t)

/-- STASH_COMPLETE: elements, block scales and then the header are written (R257 to R259). A source that carries POISON leaves only the
header, with POISON in LTAG. -/
def execStashComplete (c : BitVec 7) (s : State) : Out :=
  if !coreOk c then .fault .noSuchUnit
  else
    let cn := c.toNat
    match s.mvHead cn .stash with
    | none => .next s
    | some o =>
      let d := o.td.t.d
      let ue := s.poisonRead o.ta.t.d
      let rows := s.allRows o.ta.t
      let s := s.noteRead o.ta.t.d
      let (s, st) := if o.poisoned then (s, {}) else s.convTensor (s.core cn).mvSeed d o.scale o.rnd o.ovf rows
      let s := if o.poisoned then s else s.convCounts cn 0x618 (tagLayer o.ta.t.tag) st false
      let lt := s.larderTag o.ta.t d (st.flags ||| flagBit fPOISON (o.poisoned || ue))
      let s := s.writeMem (headerAddr d) (s.larderHeader lt o.ta.t o.rnd st.nUnf)
      let s := (s.count64 0x12 cn 0x58 (64 + (if o.poisoned then 0 else storedBytes d))).count64 0x12 cn 0x68 1
      .next ((s.putTag cn o.x o.td.r lt).mvDone cn o)

/-- FETCH_COMPLETE: the header read at the start decides, and the stash is restored into TD (R260 to R262). -/
def execFetchComplete (c : BitVec 7) (s : State) : Out :=
  if !coreOk c then .fault .noSuchUnit
  else
    let cn := c.toNat
    match s.mvHead cn .fetch with
    | none => .next s
    | some o =>
      let h := o.hdr
      let lt := headerTag h
      let d := o.td.t.d
      let pz := flagBit fPOISON true
      let hd := s.count64 0x12 cn 0x60 64
      if !tagOk lt then .next (((hd.orDst cn o.x o.td.r pz).setFlag 0x12 cn 0x08 1).mvDone cn o)
      else if hasFlag lt fPOISON then .next (((hd.orDst cn o.x o.td.r pz).setFlag 0x12 cn 0x08 2).mvDone cn o)
      else
        let src : TReg := { o.ta.t with tag := lt }
        let ue := s.poisonRead o.ta.t.d || o.hdrBad
        let rows := s.allRows src
        let s := s.noteRead o.ta.t.d
        let (s, st) := s.convTensor (s.core cn).mvSeed d lt.scale.toNat o.rnd o.ovf rows
        let s := s.convCounts cn 0x618 (some lt.layer.toNat) st false
        let t := s.stamp { kind := BitVec.ofNat 4 (headerKind h), fmt := d.fmt, scale := lt.scale, layer := lt.layer, group := lt.group,
                           op := lt.op, flags := carriedOf lt ||| st.flags ||| flagBit fPOISON ue, count := 1 }
        let s := s.count64 0x12 cn 0x60 (64 + storedBytes o.ta.t.d)
        let s := s.setFlagIf (lt.step.toNat != s.step24) 0x12 cn 0x08 0
        .next ((s.putTag cn o.x o.td.r t).mvDone cn o)

/-! ### SEND (R111) -/

/-- Pack element codes of `w` bits into bytes, little-endian. -/
def packBits (w : Nat) (cs : List Nat) : List Byte :=
  leBytes (cdiv (cs.length * w) 8) (cs.reverse.foldl (fun v c => v * 2 ^ w + c) 0)

/-- The bytes of a block: the elements in row order without padding between rows, then the block scales row by row (R111). -/
def State.sendBytes (s : State) (d : TDesc) : List Byte :=
  let n := d.cols.toNat
  let cs := ((List.range d.rows.toNat).map (fun i => (List.range n).map (fun j => s.elemBits d i j))).flatten
  let sc := if d.bscale then
      ((List.range d.rows.toNat).map (fun i => s.readMem (d.base.toNat + d.scaleOff.toNat + i * cdiv n 32) (cdiv n 32))).flatten
    else []
  packBits (fmtBits d.fmt.toNat) cs ++ sc

/-- The checks of a SEND in the order of R119, each the reason it halts with or 0 (R97, R111). -/
def State.sendReasons (s : State) (c : Nat) (arr : Option Nat) (d : TDesc) : List Nat :=
  [s.anyAddr [d], chk (d.bscale && d.fmt.toNat < 3) rsBAD_FORMAT, chk (s.arrBusy c arr) rsARR_BUSY]

/-- The block that a SEND of tensor register TA sends for destination word `sd` (R58, R63, R111). -/
def State.sendBlk (s : State) (ta : TReg) (sd : Nat) : Block :=
  { tag := s.stamp (if s.poisonRead ta.d then orFlags ta.tag (flagBit fPOISON true) else readTag ta.tag),
    desc := { extent := BitVec.ofNat 40 (ta.d.rows.toNat * ta.d.cols.toNat), shard := BitVec.ofNat 16 (bitsOf sd 47 32) },
    payload := s.sendBytes ta.d }

/-- SEND: TA as one tagged block to a context or a hive. A block to a context of this site goes over plane SHARD modulo 16, one to a hive
over that hive's plane (R8, R466; log 13). -/
def execSend (i : Iss) (f : SendF) (s : State) : Out :=
  issueStop i false s stopAlways (fun c x k =>
    let ta := k.opd f.ta.toNat
    let d := ta.t.d
    let sd := (k.sreg f.sdst.toNat).toNat
    let arr := arrOpt f.setarr f.arr
    if k.holds [] [f.ta.toNat] then s.waitOn c x (.held (.send i f))
    else
      let r := firstNonzero (s.sendReasons c arr d)
      if r ≠ 0 then s.halt c x r
      else
        let hive := bitAt sd 31
        let site := bitsOf sd 21 14
        let unit : BitVec 4 := if hive then 1 else 0
        let idx : BitVec 12 := BitVec.ofNat 12 (if hive then bitsOf sd 25 22 else bitsOf sd 28 22 * 4 + bitsOf sd 30 29)
        let plane := if hive then bitsOf sd 25 22 else bitsOf sd 47 32 % 16
        let blk := s.sendBlk ta.t sd
        let (id, s) := s.newId
        let op : SendOp := { id := id, x := x, no := k.cmdNo, left := s.messageCount site blk.payload, arr := arr }
        let s := (s.markSource c ta.t).updCtx c x (fun k => k.begin id [] [])
        let s := (s.claimArr c id arr).updCore c (fun q => { q with sends := q.sends ++ [op] })
        ((s.noteRead d).advance c x).sendBlock plane site (BitVec.ofNat 14 (bitsOf sd 13 0)) unit idx blk (.send c id))

end Sys2Proof.Machine
end

