-- ==== Sys2Proof/Machine/CollOps.lean ====
section
/-! DEFINITION. Operations over a group and its collectives (chapter 11): settings, segments, the two algorithms' places, own
contributions, combining, sending, writing results, late contributions, mismatches and completion. A collective message is what
the transport carries between members; the spec gives no bytes of its head, so it travels whole beside its data (log 15). -/

namespace Sys2Proof.Machine

/-- The index of a module in a member list. -/
def indexIn (x : Nat) (l : List Nat) : Nat := (l.takeWhile (fun y => y != x)).length

def State.group (s : State) (g : Nat) : Group := Tbl.get {} s.groups g
def State.setGroup (s : State) (g : Nat) (k : Group) : State := { s with groups := Tbl.set {} s.groups g k }
def State.updGroup (s : State) (g : Nat) (f : Group → Group) : State := s.setGroup g (f (s.group g))

/-! ### Settings (R354, R355, R382) -/

def State.gPlane (s : State) (g : Nat) : Nat := s.fld 0x23 g 0x10 30 27
def State.gAlg (s : State) (g : Nat) : Nat := s.fld 0x23 g 0x10 26 25
def State.gPolicy (s : State) (g : Nat) : Nat := s.fld 0x23 g 0x10 24 23
def State.gCarry (s : State) (g : Nat) : Bool := s.fld 0x23 g 0x10 22 22 == 1
def State.gTable (s : State) (g : Nat) : Bool := s.fld 0x23 g 0x10 21 21 == 1
def State.gBypass (s : State) (g : Nat) : Nat := s.fld 0x23 g 0x10 20 17
def State.gTopk (s : State) (g : Nat) : Nat := s.fld 0x23 g 0x10 16 13 + 1
def State.gRoot (s : State) (g : Nat) : Nat := s.fld 0x23 g 0x14 27 14
def State.gCount (s : State) (g : Nat) : Nat := s.fld 0x23 g 0x14 13 0
def State.gDeadline (s : State) (g : Nat) : Nat := s.fld 0x23 g 0x20 31 16
def State.gHop (s : State) (g : Nat) : Nat := s.fld 0x23 g 0x20 15 0
def State.gSelf (s : State) (g : Nat) : Nat := s.fld 0x23 g 0x30 27 14
def State.gRunning (s : State) (g : Nat) : Bool := s.fnRunning (.group (BitVec.ofNat 12 g))

/-! ### Segments and the tree (R359, R365) -/

/-- The first element of segment g of E elements among N members. -/
def segLo (e n g : Nat) : Nat := g * e / n
def segLen (e n g : Nat) : Nat := segLo e n (g + 1) - segLo e n g

/-- What `Coll.got` counts once every message of segment g is here: its elements, or the one message of an empty segment (log 15). -/
def segNeed (e n g : Nat) : Nat := max (segLen e n g) 1

/-- Position of a member in the tree, and the member at a position. -/
def treePos (root n i : Nat) : Nat := (i + n - root) % n
def treeMem (root n q : Nat) : Nat := (q + root) % n
def treeParent (q : Nat) : Nat := (q - 1) / 16
def treeKids (n q : Nat) : List Nat := ((List.range 16).map (fun i => 16 * q + 1 + i)).filter (fun r => r < n)

/-- Position r lies under position q. -/
def treeUnder (q : Nat) : Nat → Nat → Bool
  | 0, _ => false
  | fuel + 1, r => r == q || (decide (q < r) && treeUnder q fuel (treeParent r))

/-- Replace the words of a list from position i. -/
def splice {α : Type} (l : List α) (i : Nat) (vs : List α) : List α := l.take i ++ vs ++ l.drop (i + vs.length)

/-! ### Combining (R360, R203 to R205) -/

/-- Two words under OP 1 to 5. -/
def combWord (op : Nat) (a b : W32) : W32 :=
  if op = 3 then fMax a b else if op = 4 then fMin a b else if op = 5 then a ||| b else fAdd a b

/-- Combine two equally long lists of words: element by element, or record by record for OP 8. -/
def combWords (op unit : Nat) : Nat → List W32 → List W32 → List W32
  | 0, _, _ => []
  | fuel + 1, as, bs =>
    if op = 8 then
      if as.isEmpty then []
      else
        let k := unit / 2
        let (es, _) := tkMerge k (tkParse k (as.take unit)) (tkParse k (bs.take unit))
        tkWords k es ++ combWords op unit fuel (as.drop unit) (bs.drop unit)
    else (as.zip bs).map (fun p => combWord op p.1 p.2)

/-- Every record of some words, merged with nothing: at most k entries, NaN candidates out; and whether there was one (R202, R204). -/
def tkClean (unit : Nat) : Nat → List W32 → List W32 × Bool
  | 0, _ => ([], false)
  | fuel + 1, ws =>
    if ws.isEmpty then ([], false)
    else
      let k := unit / 2
      let (es, nan) := tkMerge k [] (tkParse k (ws.take unit))
      let (rest, nan') := tkClean unit fuel (ws.drop unit)
      (tkWords k es ++ rest, nan || nan')

/-- NONFINITE for the NaN candidates among the records of an OP 8 contribution (R200, R205). -/
def Coll.nanFlag (k : Coll) (vs : List W32) : BitVec 12 :=
  flagBit fNONFINITE (k.op == 8 && (tkClean (max k.unit 1) (vs.length + 1) vs).2)

def Coll.comb (k : Coll) (as bs : List W32) : List W32 := combWords k.op k.unit (as.length + 1) as bs

/-- The FP32 addition of two finite values gives a non-finite one somewhere (R381). -/
def Coll.arises (k : Coll) (as bs : List W32) : Bool :=
  (k.op == 1 || k.op == 2)
    && (as.zip bs).any (fun p => (ofF32 p.1).isFinite && (ofF32 p.2).isFinite && !(ofF32 (fAdd p.1 p.2)).isFinite)

/-- Block-scale bytes as bits: ORed pairwise for OP 5 (R359). -/
def orScales (as bs : List Byte) : List Byte := (as.zip bs).map (fun p => p.1 ||| p.2)

/-- The words of an element range. -/
def Coll.slice (k : Coll) (l : List W32) (first n : Nat) : List W32 := (l.drop (first * k.unit)).take (n * k.unit)

/-- Columns and block scales of a row of the tensor whose elements the collective numbers: TA, and of an all-gather TD. -/
def Coll.cols (k : Coll) : Nat := max (if k.ck = 2 then k.td.t.d.cols.toNat else k.ta.t.d.cols.toNat) 1
def Coll.rowBlocks (k : Coll) : Nat := cdiv k.cols 32

/-- The block, in row order, that holds element e, and the first element of block b (R359). -/
def Coll.blockOf (k : Coll) (e : Nat) : Nat := e / k.cols * k.rowBlocks + e % k.cols / 32
def Coll.blockStart (k : Coll) (b : Nat) : Nat := b / k.rowBlocks * k.cols + b % k.rowBlocks * 32

/-- The blocks that n elements from `first` on lie in. -/
def Coll.blocksIn (k : Coll) (first n : Nat) : Nat := if n = 0 then 0 else k.blockOf (first + n - 1) + 1 - k.blockOf first

/-- The block-scale bytes of n elements from `first` on. -/
def Coll.scalesOf (k : Coll) (sc : List Byte) (first n : Nat) : List Byte := (sc.drop (k.blockOf first)).take (k.blocksIn first n)

/-- Elements in a message's words. -/
def Coll.elemsOf (k : Coll) (vs : List W32) : Nat := if k.unit = 0 then 0 else vs.length / k.unit

/-! ### The own contribution (R359, R380) -/

/-- Words by element of a register: FP32 values, element bits, or record words. -/
def State.collWords (s : State) (o : Opd) (op unit : Nat) : List W32 :=
  let d := o.t.d
  let rows := List.range d.rows.toNat
  if op = 8 then
    (rows.map (fun i => (List.range unit).map (fun w => BitVec.ofNat 32 (s.readNat (d.base.toNat + i * d.rstride.toNat + 4 * w) 4)))).flatten
  else if 5 ≤ op then (rows.map (fun i => (List.range d.cols.toNat).map (fun j => BitVec.ofNat 32 (s.elemBits d i j)))).flatten
  else (rows.map (fun i => (List.range d.cols.toNat).map (fun j => s.f32Elem o.t i j))).flatten

/-- Block-scale bytes by 32 elements, for the operations that copy them. -/
def State.collScales (s : State) (o : Opd) (op : Nat) : List Byte :=
  let d := o.t.d
  if d.bscale && 5 ≤ op && op ≠ 8 then
    ((List.range d.rows.toNat).map (fun i => (List.range (cdiv d.cols.toNat 32)).map (fun j => s.byte (scaleAddr d i (32 * j))))).flatten
  else []

/-- NF_POLICY applied to the own contribution: its words and COUNT (R380). -/
def policyWords (policy op : Nat) (nf : Bool) (count : Nat) (vs : List W32) : List W32 × Nat :=
  if !nf || (5 ≤ op && op ≠ 8) then (vs, count)
  else if policy = 0 then (vs.map (fun _ => 0), 0)
  else if policy = 2 then
    (vs.zipIdx.map (fun q => if (op = 8 && q.2 % 2 = 1) || (ofF32 q.1).isFinite then q.1 else 0), count)
  else (vs, count)

/-! ### Sending (R331, R366, R377) -/

/-- Where the message that begins with element `first` ends: 64 KiB, and whole elements, and whole blocks or records where there are any. -/
def Coll.msgEnd (k : Coll) (first : Nat) : Nat :=
  if k.op = 8 then first + 65536 / (4 * max k.unit 1)
  else if k.op ≤ 4 then first + 16384
  else
    let w := fmtBits (if k.ck = 2 then k.td.t.d.fmt.toNat else k.ta.t.d.fmt.toNat)
    if (k.ownSc ++ k.accSc).isEmpty then first + 65536 * 8 / w else k.blockStart (k.blockOf first + 65536 * 8 / (w * 32 + 8))

/-- The messages that elements from..upto−1 are cut into, as their first elements and lengths; no elements are one message (log 15). -/
def Coll.cuts (k : Coll) (upto : Nat) : Nat → Nat → List (Nat × Nat)
  | 0, _ => []
  | fuel + 1, from_ =>
    let e := min upto (max (k.msgEnd from_) (from_ + 1))
    if upto ≤ e then [(from_, upto - from_)] else (from_, e - from_) :: k.cuts upto fuel e

/-- The tag a message of this collective carries. -/
def Coll.msgTag (k : Coll) (flags : BitVec 12) (count : Nat) : Tag :=
  sealTag { k.tag with flags := flags, count := BitVec.ofNat 14 (min count 16383), scale := k.scale }

/-- The messages that carry elements first .. first+n−1 as `role`; an empty segment is one message without elements (log 15). -/
def Coll.msgs (k : Coll) (self : Nat) (role : CollRole) (seg first : Nat) (vs : List W32) (sc : List Byte) (flags : BitVec 12)
    (count : Nat) : List CollMsg :=
  let u := max k.unit 1
  (k.cuts (first + vs.length / u) (vs.length + 1) first).zipIdx.map (fun (q : (Nat × Nat) × Nat) =>
    { cseq := k.cseq, member := BitVec.ofNat 14 self, role := role, ck := BitVec.ofNat 4 k.ck, tag := k.msgTag flags count,
      desc := { extent := BitVec.ofNat 40 k.ext, frag := BitVec.ofNat 18 q.2 }, seg := seg, first := q.1.1,
      vals := (vs.drop ((q.1.1 - first) * u)).take (q.1.2 * u),
      scales := (sc.drop (k.blockOf q.1.1 - k.blockOf first)).take (k.blocksIn q.1.1 q.1.2),
      mismatch := k.mism.map (fun m => BitVec.ofNat 14 m.1) })

/-- A message with the mark of a mismatch that this member knows (R378). -/
def Coll.mark (k : Coll) (m : CollMsg) : CollMsg :=
  if k.mism.isSome then { m with mismatch := k.mism.map (fun q => BitVec.ofNat 14 q.1) } else m

/-- The data bytes of a message: FP32 words or records, element bits packed by their width, then block-scale bytes. -/
def collBytes (m : CollMsg) : List Byte :=
  let w := if m.tag.op.toNat ≤ 4 || m.tag.op = 8 then 32 else fmtBits m.tag.fmt.toNat
  let v := m.vals.foldr (fun a acc => a.toNat % 2 ^ w + 2 ^ w * acc) 0
  leBytes (cdiv (m.vals.length * w) 8) v ++ m.scales

/-- The collective a message between members belongs to. -/
def outCseq : CollOut → W32
  | .msg _ _ m => m.cseq
  | .bypass _ _ q _ => q
  | .hold _ _ q _ => q
  | .notice _ _ q _ _ => q

/-- The member index a message goes to. -/
def outDst : CollOut → Nat
  | .msg _ d _ => d
  | .bypass _ d _ _ => d
  | .hold _ d _ _ => d
  | .notice _ d _ _ _ => d

/-- The tagged block of a message: its data, or 8 bytes where it carries none (log 15). Each is a new message of the member that sends it,
also where it sends on what it received (R63, R331). -/
def outBlock (o : CollOut) (g : Nat) : Block :=
  let short := leBytes 4 (outCseq o).toNat ++ List.replicate 4 0
  match o with
  | .msg _ _ m => { tag := m.tag, desc := { m.desc with srcModule := 0x3FFF, srcSite := 0xFF, seq := 0 }, payload := if (collBytes m).isEmpty then short else collBytes m }
  | _ => { tag := sealTag { group := BitVec.ofNat 12 g }, payload := short }

/-- Offer a message for another member to the group's port (R331, R333, R372, R378). -/
def State.collOffer (s : State) (g : Nat) (o : CollOut) : State :=
  s.offerMsg (s.gPlane g) (BitVec.ofNat 14 ((s.group g).members.getD (outDst o) 0x3FFF)) 2 (BitVec.ofNat 12 g) (outBlock o g) (.coll g (outCseq o))
    none 0 (some o)

/-- Send collective messages to a member, marked when a mismatch is known. -/
def State.collSend (s : State) (g : Nat) (k : Coll) (dst : Nat) (ms : List CollMsg) : State :=
  ms.foldl (fun s m => s.collOffer g (.msg g dst (k.mark m))) s

/-- The successor in the member list, to which copies go (R366). -/
def State.successor (s : State) (g : Nat) : Nat := (s.gSelf g + 1) % s.gCount g

/-- Where partials go: the successor, or the member a bypass put in its place (R366, R373). -/
def State.nextHop (s : State) (g : Nat) (k : Coll) : Nat := k.nextHop.getD (s.successor g)

/-! ### Collectives by number -/

def Group.find (k : Group) (cseq : W32) : Option Coll := (k.outst ++ k.ended).find? (fun c => c.cseq == cseq)

/-- OUTSTANDING of SF_GRP_STATUS follows the list (R382). -/
def State.countOutst (s : State) (g : Nat) : State := s.setFld 0x23 g 0x30 31 28 (s.group g).outst.length

/-- Put a collective back. -/
def State.putColl (s : State) (g : Nat) (c : Coll) : State :=
  s.updGroup g (fun k => { k with outst := k.outst.map (fun d => if d.cseq = c.cseq then c else d),
                                  ended := k.ended.map (fun d => if d.cseq = c.cseq then c else d) })

/-- Add flags and a COUNT to a segment's totals. -/
def Coll.note (k : Coll) (seg : Nat) (flags : BitVec 12) (count : Nat) : Coll :=
  { k with flags := Tbl.set 0 k.flags seg (Tbl.get 0 k.flags seg ||| flags),
           counts := Tbl.set 0 k.counts seg (Tbl.get 0 k.counts seg + count) }

/-- The predecessor has requested credit for the partial of a segment, or sent it. -/
def Coll.ask (k : Coll) (seg : Nat) : Coll := if k.asked.contains seg then k else { k with asked := k.asked ++ [seg] }

def Coll.gotOf (k : Coll) (key : Nat) : Nat := Tbl.get 0 k.got key
def Coll.addGot (k : Coll) (key n : Nat) : Coll := { k with got := Tbl.set 0 k.got key (k.gotOf key + max n 1) }

/-- What `Coll.got` counts once the whole of EXTENT is here. -/
def Coll.extNeed (k : Coll) : Nat := max k.ext 1

/-! ### The lateness table (R376) -/

def State.lateAddr (s : State) (g i : Nat) : Nat := modAddr (s.fld 0x23 g 0x28 25 0 * 32 + 32 * i)

/-- The bin of an arrival time of `us` under deadline `d`. -/
def lateBin (us d : Nat) : Nat :=
  if 16 * us < d then 0 else if 8 * us < d then 1 else if 4 * us < d then 2 else if 2 * us < d then 3
  else if us < d then 4 else if us < 2 * d then 5 else 6

def State.hist16 (s : State) (a : Nat) : State := (s.noteUe a 2).writeNat a 2 (min (s.readNat a 2 + 1) 65535)

/-- One contribution of member i observed at a reducer. -/
def State.noteArrival (s : State) (g : Nat) (k : Coll) (i : Nat) (late : Bool) : State :=
  let s := if late then s.setFld 0x23 g 0x30 13 0 i else s
  if !s.gTable g then s
  else
    let a := s.lateAddr g i
    let us := match k.clock with
      | some c => (s.cycle - c).toNat / 1000
      | none => 0
    let s := if late then s.memCount (a + 4) 1 else s
    let s := s.memCount (a + 8) 1
    let s := s.writeNat (a + 12) 4 (max (s.readNat (a + 12) 4) (min us (2 ^ 32 - 1)))
    s.hist16 (a + 16 + 2 * lateBin us (s.gDeadline g))

/-- A tree child still missing at expiry. -/
def State.noteMissing (s : State) (g i : Nat) : State := if s.gTable g then s.hist16 (s.lateAddr g i + 16 + 14) else s

/-! ### Writing TD (R360, R362) -/

/-- The element codes of TD from element `first` on. -/
def State.putCodes (s : State) (d : TDesc) (first : Nat) (vs : List W32) : State :=
  let n := max d.cols.toNat 1
  vs.zipIdx.foldl (fun s (q : W32 × Nat) => s.putElem d ((first + q.2) / n) ((first + q.2) % n) q.1.toNat) s

/-- The block-scale bytes of TD from the block of element `first` on, row by row. -/
def State.putScales (s : State) (d : TDesc) (first : Nat) (sc : List Byte) : State :=
  let n := max d.cols.toNat 1
  let b := cdiv n 32
  let from_ := first / n * b + first % n / 32
  sc.zipIdx.foldl (fun s (q : Byte × Nat) =>
    let e := from_ + q.2
    s.writeMem (scaleAddr d (e / b) (e % b * 32)) [q.1]) s

/-- Convert FP32 words into TD from element `first` on, with S = 0x7F, RND = 0 and OVF = 0, row by row. -/
def State.putValues (s : State) (d : TDesc) : Nat → Nat → List W32 → State × ConvStat
  | 0, _, _ => (s, {})
  | fuel + 1, first, vs =>
    if vs.isEmpty then (s, {})
    else
      let n := max d.cols.toNat 1
      let j := first % n
      let row := vs.take (n - j)
      let (s1, st) := s.convRow d 0x7F 0 false (fun _ => 0) (first / n) j (row.map ofF32)
      let (s2, st2) := s1.putValues d fuel (first + row.length) (vs.drop (n - j))
      (s2, st.join st2)

/-- Write the records of OP 8 from row `first` on; the rest of each row is left unwritten (R359). -/
def State.putRecords (s : State) (d : TDesc) (unit first : Nat) (vs : List W32) : State :=
  let u := max unit 1
  vs.zipIdx.foldl (fun s (q : W32 × Nat) =>
    s.writeNat (d.base.toNat + (first + q.2 / u) * d.rstride.toNat + 4 * (q.2 % u)) 4 q.1.toNat) s

/-- Write elements `first` on of TD: words of TD's own numbering. -/
def State.writeTD (s : State) (k : Coll) (first : Nat) (vs : List W32) (sc : List Byte) : State × ConvStat :=
  let d := k.td.t.d
  if k.op = 8 then (s.putRecords d k.unit first vs, {})
  else if 5 ≤ k.op then (if d.bscale then (s.putCodes d first vs).putScales d first sc else s.putCodes d first vs, {})
  else s.putValues d (vs.length + 1) first vs

/-- The pieces of TD every element of which is written and whose bits are still pending for this collective (R362). -/
def State.pieceBits (s : State) (k : Coll) : State :=
  let d := k.td.t.d
  let pr := d.pieceRows.toNat
  if pr = 0 || k.ck ≠ 2 then s
  else
    (List.range (cdiv d.rows.toNat pr)).foldl (fun s p =>
      let lo := p * pr * d.cols.toNat
      let hi := min ((p + 1) * pr) d.rows.toNat * d.cols.toNat
      let here := (k.landed.map (fun r => min hi (r.1 + r.2) - max lo r.1)).sum
      let bit := d.arrBase.toNat + p
      if decide (hi - lo ≤ here) && Tbl.get 0 (s.core k.c).arrPend bit == k.id then s.setArr k.c bit else s) s

/-- The core under whose reset the operation ended takes no write (R525). -/
def State.collWrites (k : Coll) : Bool := !k.dead

/-- A copy of a segment lands: kept, and for an all-gather written at once with the arrival bits it completes, unless the result carries
POISON or a mismatch is known (R362, R378). -/
def State.landCopy (s : State) (k : Coll) (seg first : Nat) (vs : List W32) (sc : List Byte) : State × Coll :=
  let k := { k with acc := splice k.acc (first * k.unit) vs, accSc := splice k.accSc (k.blockOf first) sc }
  let k := k.addGot seg (k.elemsOf vs)
  if k.ck ≠ 2 then (s, k)
  else if k.dead then (s.count64 1 0 0x68 1, k)
  else if k.mism.isSome || k.flags.any (fun q => q.2.getLsbD fPOISON) then (s, k)
  else
    let run := (first, k.elemsOf vs)
    let k := { k with landed := if k.landed.contains run then k.landed else k.landed ++ [run] }
    let (s, _) := s.writeTD k first vs sc
    (s.pieceBits k, k)

/-! ### Mismatch (R377 to R379) -/

/-- The first field of R377 in which a message differs from the member's own COLL, 0 when none does. -/
def Coll.differs (k : Coll) (m : CollMsg) : Nat :=
  let t := m.tag
  if m.ck.toNat ≠ k.ck then 1
  else if t.op.toNat ≠ k.op then 2
  else if t.kind ≠ k.tag.kind then 3
  else if t.fmt ≠ k.tag.fmt then 4
  else if t.layer ≠ k.tag.layer then 5
  else if t.step ≠ k.tag.step then 6
  else if hasFlag t fEVAL ≠ hasFlag k.tag fEVAL then 7
  else if m.desc.extent.toNat ≠ k.ext then 8
  else 0

/-- SF_GRP_MISMATCH records the member and the field; the flag is set at once for a member that has completed (R379). -/
def State.recordMismatch (s : State) (g member field : Nat) (done : Bool) : State :=
  let s := (s.setFld 0x23 g 0x34 31 28 field).setFld 0x23 g 0x34 13 0 member
  s.setFlagIf done 0x23 g 0x38 4

/-- A mismatch becomes known; the member that finds it sends a notice to every other member. -/
def State.learnMismatch (s : State) (g : Nat) (k : Coll) (member field : Nat) (tell : Bool) : State × Coll :=
  let s := if !tell then s
    else ((List.range (s.gCount g)).filter (fun i => i != s.gSelf g)).foldl (fun s i => s.collOffer g (.notice g i k.cseq member field)) s
  (s.recordMismatch g member field k.done, if k.mism.isSome then k else { k with mism := some (member, field) })

/-! ### Finishing a segment or the whole (R360, R361, R366, R381) -/

/-- OP 2 divides every sum by its COUNT, or writes +0 (R360). -/
def meanWords (op count : Nat) (vs : List W32) : List W32 :=
  if op ≠ 2 then vs else if count = 0 then vs.map (fun _ => 0) else vs.map (fun v => fDiv v (f32OfNat count))

/-- A reduced range becomes final: the mean is taken (R360). -/
def Coll.finish (k : Coll) (seg first n : Nat) : Coll :=
  let vs := meanWords k.op (Tbl.get 0 k.counts seg) (k.slice k.acc first n)
  { k with acc := splice k.acc (first * k.unit) vs, segDone := true }

/-- Some words of a segment are added to what this member reduces: the values combined, block-scale bytes ORed, the carried flags and COUNT
taken. A non-finite value that arises in the addition of finite ones sets NONFINITE, and the member notes it (R360, R361, R381; log 88). -/
def Coll.addIn (k : Coll) (seg : Nat) (m : CollMsg) (count : Nat) : Coll :=
  let mine := k.slice k.acc m.first (k.elemsOf m.vals)
  let nf := k.arises mine m.vals
  let k := { k with acc := splice k.acc (m.first * k.unit) (k.comb mine m.vals),
                    accSc := splice k.accSc (k.blockOf m.first) (orScales m.scales (k.accSc.drop (k.blockOf m.first))), arose := k.arose || nf }
  k.note seg (carriedOf m.tag ||| k.nanFlag m.vals ||| flagBit fNONFINITE nf) count

/-! ### Carried contributions (R370, R371) -/

/-- A carried contribution may join this collective: LAYER, KIND, CK, EXTENT and EVAL are equal, it ran the same algorithm, and it is at most
one step older (R370, R371). -/
def Carry.joins (c : Carry) (k : Coll) : Bool :=
  let t := c.msg.tag
  t.kind == k.tag.kind && c.msg.ck.toNat == k.ck && c.msg.desc.extent.toNat == k.ext && hasFlag t fEVAL == hasFlag k.tag fEVAL
    && c.tree == k.tree && decide (serialDiff 24 k.tag.step.toNat t.step.toNat ≤ 1)

/-- The contribution a carried message is part of: its collective, member and segment. -/
def contribKey (m : CollMsg) : W32 × Nat × Nat := (m.cseq, m.member.toNat, m.seg)

/-- How many contributions some messages are parts of. -/
def contribs (ms : List CollMsg) : Nat := (ms.map contribKey).eraseDups.length

/-- Late contributions are dropped (R370, R371, R383). -/
def State.countDropped (s : State) (g n : Nat) : State := (s.count64 0x23 g 0x68 n).setFlagIf (n != 0) 0x23 g 0x38 2

/-- Add one carried message to what this member reduces, at the same positions (R370). -/
def Coll.fold (k : Coll) (seg : Nat) (m : CollMsg) : Coll :=
  let k := { k.addIn seg m (if m.desc.frag = 0 then m.tag.count.toNat else 0) with carried := true }
  k.note seg (flagBit fCARRIED true) 0

/-- Every contribution carried for this collective's LAYER joins it, or is dropped (R370, R371). -/
def State.takeCarry (s : State) (g : Nat) (k : Coll) : State × Coll :=
  let mine := (s.group g).carry.filter (fun c => c.msg.tag.layer == k.tag.layer)
  let s := s.updGroup g (fun q => { q with carry := q.carry.filter (fun c => c.msg.tag.layer != k.tag.layer) })
  let parts := fun key => mine.filter (fun c => contribKey c.msg == key)
  let (yes, no) := (mine.map (fun c => contribKey c.msg)).eraseDups.partition (fun key => (parts key).all (fun c => c.joins k))
  (s.countDropped g no.length, { k with folds := k.folds ++ yes.flatMap parts })

/-- The result is formed with every other contribution in it: the carried ones are added, but for one that would raise COUNT past what the
tag holds (R370, R371). -/
def State.foldCarry (s : State) (g : Nat) (k : Coll) (seg : Nat) : State × Coll :=
  (k.folds.map (fun c => contribKey c.msg)).eraseDups.foldl (fun (p : State × Coll) key =>
    let (s, k) := p
    let parts := (k.folds.filter (fun c => contribKey c.msg == key)).map (fun c => c.msg)
    let k : Coll := { k with folds := k.folds.filter (fun c => contribKey c.msg != key) }
    let n : Nat := (parts.map (fun m => if m.desc.frag = 0 then m.tag.count.toNat else 0)).sum
    if Tbl.get 0 k.counts seg + n ≤ 16383 then
      ((s.count64 0x23 g 0x60 1).setFlag 0x23 g 0x38 1, parts.foldl (fun k m => k.fold seg m) k)
    else (s.countDropped g 1, k)) (s, k)

/-! ### The end of a segment (R365, R366) -/

/-- The ring owner completes its own segment, and in an all-reduce starts its copy round the ring (R366). -/
def State.ringFinish (s : State) (g : Nat) (k : Coll) : State × Coll :=
  let self := s.gSelf g
  let n := s.gCount g
  let lo := segLo k.ext n self
  let len := segLen k.ext n self
  let (s, k) := s.foldCarry g k self
  let k : Coll := { k.finish self lo len with hop := none }
  if k.ck = 0 then
    let k := { k with got := Tbl.set 0 k.got self (segNeed k.ext n self) }
    (s.collSend g k (s.successor g) (k.msgs self .copy self lo (k.slice k.acc lo len) (k.scalesOf k.accSc lo len)
      (Tbl.get 0 k.flags self) (Tbl.get 0 k.counts self)), k)
  else (s, k)

/-- Send a result down the tree to every child (R365). -/
def State.treeDown (s : State) (g : Nat) (k : Coll) (ms : List CollMsg) : State :=
  let n := s.gCount g
  let root := s.gRoot g
  (treeKids n (treePos root n (s.gSelf g))).foldl (fun s q => s.collSend g k (treeMem root n q) ms) s

/-- The messages of a whole gathered result: one run per segment that is present. -/
def State.gathered (s : State) (g : Nat) (k : Coll) (role : CollRole) (want : Nat → Bool) : List CollMsg :=
  let n := s.gCount g
  ((List.range n).filter (fun q => want q && k.gotOf q == segNeed k.ext n q)).flatMap (fun q =>
    let lo := segLo k.ext n q
    let len := segLen k.ext n q
    k.msgs (s.gSelf g) role q lo (k.slice k.acc lo len) (k.scalesOf k.accSc lo len) (Tbl.get 0 k.flags q) (Tbl.get 0 k.counts q))

/-- A tree node has what it waits for, or its deadline has passed: it sends upward, or the root completes and sends down (R365). -/
def State.treeReady (s : State) (g : Nat) (k : Coll) : State × Coll :=
  let n := s.gCount g
  let root := s.gRoot g
  let self := s.gSelf g
  let q := treePos root n self
  let up := treeMem root n (treeParent q)
  let k := { k with sentUp := true }
  if k.ck = 2 then
    if q = 0 then (s.treeDown g k (s.gathered g k .down (fun _ => true)), k)
    else (s.collSend g k up (s.gathered g k .up (fun i => treeUnder q n (treePos root n i))), k)
  else if q ≠ 0 then
    (s.collSend g k up (k.msgs self .up 0 0 k.acc k.accSc (Tbl.get 0 k.flags 0) (Tbl.get 0 k.counts 0)), k)
  else
    let (s, k) := s.foldCarry g k 0
    let k := k.finish 0 0 k.ext
    let fl := Tbl.get 0 k.flags 0
    let cn := Tbl.get 0 k.counts 0
    if k.ck = 0 then (s.treeDown g k (k.msgs self .down 0 0 k.acc k.accSc fl cn), k)
    else
      ((List.range n).foldl (fun s i => if i = self then s
        else
          let lo := segLo k.ext n i
          let len := segLen k.ext n i
          s.collSend g k i (k.msgs self .down i lo (k.slice k.acc lo len) (k.scalesOf k.accSc lo len) fl cn)) s, k)

/-- Every child's part has arrived (CK 0 and 1), or every segment below the node (CK 2). -/
def State.kidsHere (s : State) (g : Nat) (k : Coll) : Bool :=
  let n := s.gCount g
  let root := s.gRoot g
  let q := treePos root n (s.gSelf g)
  if k.ck = 2 then (List.range n).all (fun i => !treeUnder q n (treePos root n i) || k.gotOf i == segNeed k.ext n i)
  else (treeKids n q).all (fun r => k.gotOf (2 ^ 14 + r) == k.extNeed)

/-- A tree node that waits for nothing more goes on. -/
def State.treeStep (s : State) (g : Nat) (k : Coll) : State × Coll :=
  if k.ck ≠ 3 && !k.sentUp && s.kidsHere g k then s.treeReady g k else (s, k)

/-! ### Starting (R365, R366, R370, R371, R374) -/

/-- Elements received of a result on its way down the tree. -/
def downKey : Nat := 2 ^ 15

/-- The own contribution of a segment as messages. -/
def Coll.ownMsgs (k : Coll) (n self : Nat) (role : CollRole) (seg : Nat) (flags : BitVec 12) : List CollMsg :=
  let lo := segLo k.ext n seg
  let len := segLen k.ext n seg
  k.msgs self role seg lo (k.slice k.own lo len) (k.scalesOf k.ownSc lo len) flags k.ownCount

/-- The own contribution has gone to these messages. -/
def Coll.noteSent (k : Coll) (ms : List CollMsg) : Coll := { k with sent := k.sent ++ ms.map (fun m => (m.seg, m.first)) }

/-- Send what has not gone yet of the own contribution of a segment straight to its owner (R369, R374). -/
def State.sendDirect (s : State) (g : Nat) (k : Coll) (seg : Nat) : State × Coll :=
  let ms := (k.ownMsgs (s.gCount g) (s.gSelf g) .direct seg k.ownFlags).filter (fun m => !k.sent.contains (m.seg, m.first))
  (s.collSend g k seg ms, k.noteSent ms)

/-- A skipped member sends its own contribution of each segment it has not forwarded to that segment's owner, in table order from its
successor (R374). -/
def State.sendDirects (s : State) (g : Nat) (k : Coll) : State × Coll :=
  let n := s.gCount g
  let self := s.gSelf g
  ((List.range (n - 1)).map (fun i => (self + 1 + i) % n)).foldl (fun (p : State × Coll) seg => p.1.sendDirect g p.2 seg) (s, k)

/-- The member starts a segment of a ring reduce-scatter: its own contribution goes to the next member (R366). -/
def State.startSeg (s : State) (g : Nat) (k : Coll) (seg : Nat) (part : Bool) : State × Coll :=
  let ms := k.ownMsgs (s.gCount g) (s.gSelf g) .ring seg (k.ownFlags ||| flagBit fPARTIAL part)
  (s.collSend g k (s.nextHop g k) ms, k.noteSent ms)

/-- The first sends of a collective as it issues (R365, R366); a copy drops what is carried for its LAYER (R371). -/
def State.startColl (s : State) (g : Nat) (k : Coll) : State × Coll :=
  let n := s.gCount g
  let self := s.gSelf g
  let root := s.gRoot g
  let (s, k) := s.takeCarry g k
  if k.ck = 3 then
    if self ≠ root then (s, k)
    else
      let k := (k.addGot (if k.tree then downKey else 0) k.ext).note 0 k.ownFlags k.ownCount
      let ms := k.msgs self (if k.tree then .down else .copy) 0 0 k.own k.ownSc k.ownFlags k.ownCount
      (if k.tree then s.treeDown g k ms else s.collSend g k (s.successor g) ms, k)
  else if k.ck = 2 then
    let k := k.note self k.ownFlags k.ownCount
    let (s, k) := s.landCopy k self (segLo k.ext n self) k.own k.ownSc
    if k.tree then s.treeStep g k
    else (s.collSend g k (s.successor g) (k.msgs self .copy self (segLo k.ext n self) k.own k.ownSc k.ownFlags k.ownCount), k)
  else
    let k := k.note (if k.tree then 0 else self) k.ownFlags k.ownCount
    if k.tree then s.treeStep g k else s.startSeg g k ((self + n - 1) % n) false

/-! ### Late data (R369 to R371) -/

/-- Bytes of the group's room in use: carried contributions, also those of a collective under way, messages that wait for their COLL, and gradients left in it (R356, R363,
R370, R396). -/
def State.roomUsed (s : State) (g : Nat) : Nat :=
  (((s.group g).carry ++ (s.group g).outst.flatMap (fun k => k.folds)).map (fun c => 4 * c.msg.vals.length)).sum + ((s.group g).early.map (fun m => 4 * m.2.vals.length)).sum
    + (((s.hive (s.gPlane g)).held.filter (fun q => q.room == some g)).map (fun q => 4 * q.vals.length)).sum

def State.roomBytes (s : State) (g : Nat) : Nat := s.fld 0x23 g 0x24 15 0 * 1024

/-- A message of a late contribution at the final reducer: kept when the group's room has space, else its contribution is dropped, once
and whole (R370, R371). -/
def State.lateContribution (s : State) (g : Nat) (k : Coll) (m : CollMsg) : State :=
  let s := if m.desc.frag = 0 then s.noteArrival g k m.member.toNat true else s
  let key := contribKey m
  if (s.group g).gone.contains key then s
  else if s.gCarry g && s.roomUsed g + 4 * m.vals.length ≤ s.roomBytes g then
    s.updGroup g (fun q => { q with carry := q.carry ++ [{ msg := m, tree := k.tree, ends := 0 }] })
  else
    (s.updGroup g (fun q => { q with carry := q.carry.filter (fun c => contribKey c.msg != key), gone := q.gone ++ [key] })).countDropped g 1

/-! ### Receiving (R363 to R374) -/

/-- A member strictly between this one and the one a bypass put in its successor's place. -/
def State.skippedByNext (s : State) (g : Nat) (k : Coll) (i : Nat) : Bool :=
  let n := s.gCount g
  let self := s.gSelf g
  match k.nextHop with
  | none => false
  | some h => i != self && decide ((i + n - self) % n < (h + n - self) % n)

/-- A ring partial of a segment that another member owns: the own contribution is added and the message forwarded, or, after the
forwarding window, sent straight to the owner (R366, R369, R373). A contribution already sent is not added again. The final partial of a
skipped member's own segment goes to that member. -/
def State.ringForward (s : State) (g : Nat) (k : Coll) (m : CollMsg) : State × Coll :=
  let own := !k.sent.contains (m.seg, m.first) && !k.skippedMe
  let mine := k.slice k.own m.first (k.elemsOf m.vals)
  let vs := if own then k.comb m.vals mine else m.vals
  let sc := if own && k.op = 5 then orScales m.scales (k.scalesOf k.ownSc m.first (k.elemsOf m.vals)) else m.scales
  let nf := own && k.arises m.vals mine
  let k := { k with arose := k.arose || nf }
  let fl := carriedOf m.tag ||| k.nanFlag m.vals ||| (if own then k.ownFlags else 0) ||| flagBit fPARTIAL (!k.skips.isEmpty)
    ||| flagBit fNONFINITE nf
  let out : CollMsg := { m with member := BitVec.ofNat 14 (s.gSelf g), vals := vs, scales := sc,
                                tag := k.msgTag fl (m.tag.count.toNat + (if own then k.ownCount else 0)) }
  let k := (if own then k.noteSent [m] else k).ask m.seg
  if k.windowOver then (s.collSend g k m.seg [{ out with role := .direct }], k)
  else (s.collSend g k (if s.skippedByNext g k m.seg then m.seg else s.nextHop g k) [out], k)

/-- The transport has delivered a partial to the successor: it is the partial last delivered to it, with the rest of its segment (R372). -/
def State.collDelivered (s : State) (g dst : Nat) (m : CollMsg) : State :=
  match (s.group g).find m.cseq with
  | none => s
  | some k =>
    if m.role != .ring || dst ≠ s.nextHop g k then s
    else s.putColl g { k with lastSent := (if k.lastSent.any (fun p => p.seg == m.seg) then k.lastSent else []) ++ [m] }

/-- The member has sent the last message of a partial: the hop clock starts, unless nothing more is to come or the next partial, of the
segment before it, has been asked for (R366, R372). -/
def State.collSent (s : State) (g : Nat) (m : CollMsg) : State :=
  match (s.group g).find m.cseq with
  | none => s
  | some k =>
    let n := s.gCount g
    let next := (m.seg + n - 1) % n
    let asked := k.asked.contains next || (s.port (s.gPlane g)).held.any (fun q => match q.1.coll with
      | some (.msg g' _ r) => g' == g && r.cseq == m.cseq && r.role == .ring && r.seg == next
      | _ => false)
    if m.role != .ring || m.first + k.elemsOf m.vals < segLo k.ext n (m.seg + 1) || k.segDone || asked then s
    else s.putColl g { k with hop := some s.cycle }

/-- A contribution to this member's own segment. The partial of a member that has skipped others is PARTIAL (R373). -/
def State.ringOwn (s : State) (g : Nat) (k : Coll) (m : CollMsg) : State × Coll :=
  let self := s.gSelf g
  let n := s.gCount g
  let k := k.addIn self m (if m.first == segLo k.ext n self then m.tag.count.toNat else 0)
  let k := k.note self (flagBit fPARTIAL (m.role == .ring && !k.skips.isEmpty)) 0
  if m.role == .direct then (if m.desc.frag = 0 then s.noteArrival g k m.member.toNat false else s, k)
  else
    let k := { k.addGot self (k.elemsOf m.vals) with hop := none }
    if k.gotOf self == segNeed k.ext n self then s.ringFinish g k else (s, k)

/-- A copy on the ring: kept, and forwarded as far as the member before its origin (R366). -/
def State.ringCopy (s : State) (g : Nat) (k : Coll) (m : CollMsg) : State × Coll :=
  let n := s.gCount g
  let origin := if k.ck = 3 then s.gRoot g else m.seg
  let lo := if k.ck = 3 then 0 else segLo k.ext n m.seg
  let k := k.note m.seg (carriedOf m.tag) (if m.first == lo then m.tag.count.toNat else 0)
  let k := if k.ck = 3 then { k with scale := m.tag.scale } else k
  let (s, k) := s.landCopy k m.seg m.first m.vals m.scales
  let nx := s.successor g
  (if nx = origin then s else s.collSend g k nx [{ m with member := BitVec.ofNat 14 (s.gSelf g) }], k)

/-- A child's message at a tree node that has sent upward is observed there (R376). -/
def State.noteLateChild (s : State) (g : Nat) (k : Coll) (m : CollMsg) : State :=
  let n := s.gCount g
  let root := s.gRoot g
  let child := treePos root n m.member.toNat != 0
    && treeParent (treePos root n m.member.toNat) == treePos root n (s.gSelf g)
  if child && m.desc.frag = 0 then s.noteArrival g k m.member.toNat false else s

/-- Gathered data that comes up the tree: kept and written. After the node has sent upward it goes on by itself, from the root down (R371). -/
def State.gatherUp (s : State) (g : Nat) (k : Coll) (m : CollMsg) : State × Coll :=
  let n := s.gCount g
  let root := s.gRoot g
  let fst := m.first == segLo k.ext n m.seg
  let s := if fst && m.seg == m.member.toNat then s.noteArrival g k m.seg false else s
  let (s, k) :=
    if k.gotOf m.seg == segNeed k.ext n m.seg then (s, k)
    else s.landCopy (k.note m.seg (carriedOf m.tag) (if fst then m.tag.count.toNat else 0)) m.seg m.first m.vals m.scales
  if !k.sentUp then s.treeStep g k
  else if treePos root n (s.gSelf g) = 0 then (s.treeDown g k [{ m with role := .down, member := BitVec.ofNat 14 (s.gSelf g) }], k)
  else (s.collSend g k (treeMem root n (treeParent (treePos root n (s.gSelf g)))) [m], k)

/-- A message going up the tree (R365). A node that has sent upward passes a late partial on to the root (R370). -/
def State.treeUp (s : State) (g : Nat) (k : Coll) (m : CollMsg) : State × Coll :=
  let n := s.gCount g
  let root := s.gRoot g
  if k.ck = 2 then s.gatherUp g k m
  else if k.sentUp then
    if treePos root n (s.gSelf g) = 0 then (s.lateContribution g k m, k)
    else ((s.noteLateChild g k m).collSend g k root [m], k)
  else
    let s := if m.first = 0 then s.noteArrival g k m.member.toNat false else s
    let k := k.addIn 0 m (if m.first = 0 then m.tag.count.toNat else 0)
    s.treeStep g (k.addGot (2 ^ 14 + treePos root n m.member.toNat) (k.elemsOf m.vals))

/-- A result going down the tree (R365). -/
def State.treeDownMsg (s : State) (g : Nat) (k : Coll) (m : CollMsg) : State × Coll :=
  let n := s.gCount g
  let fwd := { m with member := BitVec.ofNat 14 (s.gSelf g) }
  if k.ck = 2 then
    if k.gotOf m.seg == segNeed k.ext n m.seg then (s.treeDown g k [fwd], k)
    else
      let k := k.note m.seg (carriedOf m.tag) (if m.first == segLo k.ext n m.seg then m.tag.count.toNat else 0)
      let (s, k) := s.landCopy k m.seg m.first m.vals m.scales
      (s.treeDown g k [fwd], k)
  else
    let start := if k.ck = 1 then segLo k.ext n (s.gSelf g) else 0
    let k := if m.first == start then { k with flags := Tbl.set 0 k.flags 0 (carriedOf m.tag), counts := Tbl.set 0 k.counts 0 m.tag.count.toNat,
                                               scale := if k.ck = 3 then m.tag.scale else k.scale }
      else k.note 0 (carriedOf m.tag) 0
    let k := { k with acc := splice k.acc (m.first * k.unit) m.vals, accSc := splice k.accSc (k.blockOf m.first) m.scales }
    let k := k.addGot downKey (k.elemsOf m.vals)
    (if k.ck = 1 then s else s.treeDown g k [fwd], k)

/-- A message of a collective that has ended here: late data (R363, R369 to R371). -/
def State.lateMsg (s : State) (g : Nat) (k : Coll) (m : CollMsg) : State × Coll :=
  let self := s.gSelf g
  let n := s.gCount g
  let root := s.gRoot g
  match m.role with
  | .ring => if m.seg = self then (s.lateContribution g k m, k) else s.ringForward g k m
  | .direct => if m.seg = self then (s.lateContribution g k m, k) else (s.collSend g k m.seg [m], k)
  | .up =>
    if k.ck = 2 then
      if k.cseq + 1 = (s.group g).cseq then s.treeUp g k m else (s, k)
    else if treePos root n self = 0 then (s.lateContribution g k m, k)
    else ((s.noteLateChild g k m).collSend g k root [m], k)
  | .copy => if k.cseq + 1 = (s.group g).cseq then s.ringCopy g k m else (s, k)
  | .down => if k.cseq + 1 = (s.group g).cseq then s.treeDownMsg g k m else (s, k)
  | .skipped => s.sendDirects g { k with skippedMe := true }

/-- A message whose TRES is wrong counts as one with POISON, and no other field of its tag is used (R60). -/
def Coll.readTag (k : Coll) (m : CollMsg) : CollMsg :=
  if tagOk m.tag then m else { m with tag := k.msgTag (flagBit fPOISON true) 0 }

/-- A message of an issued collective (R363, R373, R377, R378). -/
def State.collMsg (s : State) (g : Nat) (k : Coll) (m : CollMsg) : State × Coll :=
  let k := if k.clock.isNone then { k with clock := some s.cycle } else k
  let m := k.readTag m
  let self := s.gSelf g
  if k.skips.contains m.member.toNat && m.role == .ring then (s.count64 0x22 (s.gPlane g) 0x80 1, k)
  else
    let f := k.differs m
    if f ≠ 0 then (if m.role == .direct then (s, k) else s.learnMismatch g k m.member.toNat f true)
    else
      match m.mismatch with
      | some i => s.learnMismatch g k i.toNat 0 false
      | none =>
        if m.role == .skipped && k.skippedMe then (s, k)
        else if k.done then s.lateMsg g k m
        else
          match m.role with
          | .ring => if m.seg = self then (if k.segDone then (s.lateContribution g k m, k) else s.ringOwn g k m) else s.ringForward g k m
          | .direct =>
            if m.seg = self then (if k.segDone then (s.lateContribution g k m, k) else s.ringOwn g k m) else (s.collSend g k m.seg [m], k)
          | .copy => s.ringCopy g k m
          | .up => s.treeUp g k m
          | .down => s.treeDownMsg g k m
          | .skipped => s.sendDirects g { k with skippedMe := true }

/-! ### Completing (R361, R362, R368, R378) -/

/-- Every segment is here. -/
def State.allSegs (s : State) (g : Nat) (k : Coll) : Bool :=
  (List.range (s.gCount g)).all (fun q => k.gotOf q == segNeed k.ext (s.gCount g) q)

/-- The collective's result at this member is final. -/
def State.collFinal (s : State) (g : Nat) (k : Coll) : Bool :=
  let n := s.gCount g
  let self := s.gSelf g
  let q := treePos (s.gRoot g) n self
  if k.mism.isSome || k.hiveDead || n = 1 then true
  else if k.ck = 2 then s.allSegs g k || k.closed
  else if !k.tree then
    if k.ck = 3 then k.gotOf 0 == k.extNeed else k.segDone && (k.ck = 1 || s.allSegs g k || k.closed)
  else if k.ck = 3 then k.gotOf downKey == k.extNeed
  else if q = 0 then k.sentUp
  else k.gotOf downKey == (if k.ck = 1 then segNeed k.ext n self else k.extNeed)

/-- The flags and COUNT of the result (R361). -/
def State.collTotals (s : State) (g : Nat) (k : Coll) : BitVec 12 × Nat :=
  let n := s.gCount g
  let have_ := (List.range n).filter (fun q => k.gotOf q == segNeed k.ext n q)
  let orF := fun (qs : List Nat) => qs.foldl (fun a q => a ||| Tbl.get 0 k.flags q) (0 : BitVec 12)
  if n = 1 then (k.ownFlags, k.ownCount)
  else if k.ck = 2 then (orF have_, have_.length)
  else if k.tree || k.ck = 3 then (Tbl.get 0 k.flags 0, Tbl.get 0 k.counts 0)
  else if k.ck = 1 then (Tbl.get 0 k.flags (s.gSelf g), Tbl.get 0 k.counts (s.gSelf g))
  else (orF have_, (have_.map (fun q => Tbl.get 0 k.counts q)).foldl min 16383)

/-- The elements of the result that are here, as runs (first element of TD, words, block-scale bytes). -/
def State.collRuns (s : State) (g : Nat) (k : Coll) : List (Nat × List W32 × List Byte) :=
  let n := s.gCount g
  let self := s.gSelf g
  if k.ck = 1 then
    let lo := segLo k.ext n self
    let len := segLen k.ext n self
    [(0, k.slice k.acc lo len, k.scalesOf k.accSc lo len)]
  else if k.ck = 0 && !k.tree && n ≠ 1 then
    ((List.range n).filter (fun q => k.gotOf q == segNeed k.ext n q)).map (fun q =>
      let lo := segLo k.ext n q
      let len := segLen k.ext n q
      (lo, k.slice k.acc lo len, k.scalesOf k.accSc lo len))
  else [(0, k.acc, k.accSc)]

/-- A hive takes hand-offs of collectives issued while it was RUNNING, unless it is OFF, CONFIGURING or under recovery (R525, R596). -/
def State.hiveTakes (s : State) (h : Nat) : Bool :=
  let st := s.fnState (.hive (BitVec.ofNat 4 h))
  (st == 2 || st == 4) && !(s.sw.recs.any (fun r => r.d.kind == 6 || (r.d.kind == 2 && r.d.num.toNat == h)))

/-- A collective completes at this member. -/
def State.completeColl (s : State) (g : Nat) (k : Coll) : State :=
  let (fl, cnt) := s.collTotals g k
  let d := k.td.t.d
  let toHive := k.ck = 1 && spaceOf d.base.toNat = 4
  let plane := s.gPlane g
  let taken := !toHive || s.hiveTakes plane
  let mm := k.mism.isSome
  let poison := (k.hiveDead && !mm) || (!taken && !mm)
  let part := !mm && (k.part || fl.getLsbD fPARTIAL)
  let fl := fl ||| flagBit fPARTIAL k.part ||| flagBit fCARRIED k.carried ||| flagBit fPOISON poison
  let fl := if mm then flagBit fMISMATCH true else fl
  let cnt := if mm || poison then 0 else cnt
  let bad := mm || fl.getLsbD fPOISON
  let single := s.gCount g = 1
  let k := if single then
      (if k.ck = 2 || k.ck = 3 then { k with acc := k.own, accSc := k.ownSc }
       else (k.note 0 k.ownFlags k.ownCount).finish 0 0 k.ext) else k
  let (s, k) := s.foldCarry g k (if k.tree then 0 else s.gSelf g)
  let (s, st) :=
    if bad || toHive || (k.ck = 2 && !single) || k.dead then (s, ({} : ConvStat))
    else (s.collRuns g k).foldl (fun (p : State × ConvStat) r =>
      let (s', st) := p.1.writeTD k r.1 r.2.1 r.2.2
      (s', p.2.join st)) (s, {})
  let s := if k.ck = 2 && single && !bad && !k.dead then s.pieceBits { k with landed := [(0, k.ext)] } else s
  let base : Tag := { kind := k.tag.kind, fmt := if toHive then 0 else d.fmt, scale := k.scale, layer := k.tag.layer, group := k.tag.group,
                      op := k.tag.op, flags := fl ||| st.flags, count := BitVec.ofNat 14 (min cnt 16383) }
  let t := s.stamp base
  let s := if !toHive || mm then s
    else if !taken then
      (if s.fnState (.hive (BitVec.ofNat 4 plane)) ≤ 1 then (s.count64 0x24 plane 0xB8 1).setFlag 0x24 plane 0x18 6
       else s.count64 1 0 0x68 1)
    else
      let lo := segLo k.ext (s.gCount g) (s.gSelf g)
      s.handOff plane { shard := d.base.toNat % 2 ^ 16, vals := k.slice k.acc lo (segLen k.ext (s.gCount g) (s.gSelf g)),
                        tag := t, room := some g }
  let s := if k.dead then s.count64 1 0 0x68 1 else s.putTag k.c k.x k.td.r t
  let s := if k.dead then s else (s.opDone k.c k.x k.id).setArrOpt k.c k.arr
  let s := s.updGroup g (fun q => { q with outst := q.outst.filter (fun c => c.cseq != k.cseq), ended := q.ended ++ [{ k with done := true }] })
  let s := s.countOutst g
  let s := (s.count64 0x23 g 0x40 1).count64 0x23 g 0x48 (b2n k.tree)
  let s := (s.count64 0x23 g 0x50 (b2n part)).setFlagIf part 0x23 g 0x38 0
  let s := (s.count64 0x23 g 0x70 (b2n mm)).setFlagIf mm 0x23 g 0x38 4
  let nf := (fl ||| st.flags).getLsbD fNONFINITE
  let s := (s.count64 0x23 g 0x78 (b2n nf)).setFlagIf nf 0x23 g 0x38 5
  s.count64 0x23 g 0x80 (b2n k.arose)

end Sys2Proof.Machine
end

