-- ==== Sys2Proof/Machine/Collective.lean ====
section
/-! DEFINITION. COLL and the commands of its collectives (R357 to R381): issue and its checks, the hold of R358, messages and notices that
arrive, deadlines and the hop clock, and completion. -/

namespace Sys2Proof.Machine

/-! ### Checks (R359, R392, R593 to R595) -/

/-- A reduce-scatter into a hive's fast tier (R113). -/
def collToHive (ck : Nat) (td : TDesc) : Bool := ck == 1 && spaceOf td.base.toNat == 4

/-- CK and OP pair (R359). -/
def collPair (ck op : Nat) : Bool :=
  if ck = 0 || ck = 1 then (decide (1 ≤ op) && decide (op ≤ 5)) || op == 8
  else if ck = 2 then op == 6 else if ck = 3 then op == 7 else false

/-- E of a call: elements, or rows for OP 8 under CK 0 and 1. -/
def collExtent (ck op : Nat) (ta td : TDesc) : Nat :=
  if op = 8 && ck < 2 then ta.rows.toNat
  else if ck = 2 then td.rows.toNat * td.cols.toNat else ta.rows.toNat * ta.cols.toNat

/-- BAD_FORMAT of R359 and R128. -/
def collBadFormat (ck op : Nat) (ta td : TDesc) : Bool :=
  let hive := collToHive ck td
  (ta.bscale && ta.fmt.toNat < 3) || (td.bscale && td.fmt.toNat < 3 && !hive)
    || (decide (1 ≤ op) && decide (op ≤ 4) && (decide (2 < ta.fmt.toNat) || (!hive && decide (2 < td.fmt.toNat))))
    || (op == 8 && (ta.fmt != 0 || td.fmt != 0 || ta.bscale || td.bscale))
    || (decide (5 ≤ op) && decide (op ≤ 7) && (td.fmt != ta.fmt || td.bscale != ta.bscale))

/-- BAD_SHAPE of R359; a record row narrower than 2k is one as in R203. -/
def State.collBadShape (s : State) (g ck op : Nat) (ta td : TDesc) : Bool :=
  let n := s.gCount g
  let e := collExtent ck op ta td
  let mine := segLen e n (s.gSelf g)
  let count :=
    if ck = 0 || ck = 3 then !sameShape ta td
    else if ck = 1 then
      !collToHive ck td && (if op = 8 then td.rows.toNat != mine || td.cols != ta.cols else td.rows.toNat * td.cols.toNat != mine)
    else ta.rows.toNat * ta.cols.toNat != mine
  let blocks := ck < 3 && decide (5 ≤ op) && decide (op ≤ 7) && (ta.bscale || td.bscale)
    && (ta.cols.toNat % 32 != 0 || td.cols.toNat % 32 != 0 || (List.range n).any (fun q => segLo e n q % 32 != 0))
  let narrow := op == 8 && (decide (ta.cols.toNat < 2 * s.gTopk g) || decide (td.cols.toNat < 2 * s.gTopk g))
  count || blocks || narrow

/-- The piece arrival bits of an all-gather's TD: the first and the last (R88, R362). -/
def collPieces (ck : Nat) (td : TDesc) : Option (Nat × Nat) :=
  if ck = 2 && td.pieceRows ≠ 0 && td.rows ≠ 0 then
    some (td.arrBase.toNat, td.arrBase.toNat + (td.rows.toNat - 1) / td.pieceRows.toNat)
  else none

/-- What stops a COLL that is not held, in the order of R595: 0 when it issues. -/
def State.collReason (s : State) (c g : Nat) (f : CollF) (op : Nat) (ta td : TDesc) (arr : Option Nat) : Nat :=
  let ck := f.ck.toNat
  let hive := collToHive ck td
  let pieces := collPieces ck td
  firstNonzero [
    chk (4 ≤ ck) rsILLEGAL,
    stateReason (s.fnState (.group (BitVec.ofNat 12 g))),
    if hive then stateReason (s.fnState (.hive (BitVec.ofNat 4 (unitOf td.base.toNat)))) else 0,
    s.anyAddr (if hive then [ta] else [ta, td]),
    chk (collBadFormat ck op ta td) rsBAD_FORMAT,
    chk (s.collBadShape g ck op ta td) rsBAD_SHAPE,
    chk (s.arrBusy c arr || (match pieces with
      | some (a, b) => (s.core c).anyPending a b
      | none => false)) rsARR_BUSY,
    chk ((match pieces with
        | some (_, b) => decide (4095 < b)
        | none => false)
      || (hive && (td.base.toNat % 2 ^ 28 / 2 ^ 16 != 0 || unitOf td.base.toNat != s.gPlane g))) rsBAD_OPERAND,
    chk (!collPair ck op) rsBAD_TAG]

/-- The size of a call in bytes, and with it the algorithm (R364). -/
def State.collTree (s : State) (g ck op : Nat) (ta td : TDesc) : Bool :=
  let w := fmtBits (if ck = 2 then td.fmt.toNat else ta.fmt.toNat)
  let elems := if ck = 2 then td.rows.toNat * td.cols.toNat else ta.rows.toNat * ta.cols.toNat
  let e := if op = 8 then collExtent ck op ta td else elems
  let alg := s.gAlg g
  if alg = 1 then true else if alg = 2 then false else decide (cdiv (e * w) 8 < s.fld 0x23 g 0x1C 31 0)

/-! ### Receiving one message or notice -/

def State.collRecv (s : State) (g : Nat) (m : CollMsg) : State :=
  match (s.group g).find m.cseq with
  | none => s
  | some k =>
    let (s, k) := s.collMsg g k m
    s.putColl g k

/-- A partial of collective `cseq` on its way to member `dst`, other than the final one of that member's own segment (R373). -/
def SfTx.partialTo (t : SfTx) (g dst : Nat) (cseq : W32) : Option CollMsg :=
  match t.coll with
  | some (.msg g' d m) => if g' = g && d = dst && m.cseq = cseq && m.role == .ring && m.seg ≠ dst then some m else none
  | _ => none

/-- A BYPASS (R372, R373): credit requests to the skipped member are cancelled, and the partial last delivered to it and every later one
go to the member that sent the BYPASS. -/
def State.collBypass (s : State) (g : Nat) (cseq : W32) (sender skipped : Nat) : State :=
  match (s.group g).find cseq with
  | none => s
  | some k =>
    if s.nextHop g k ≠ skipped then s
    else
      let p := s.gPlane g
      let wait := (s.port p).tx.filter (fun t => (t.partialTo g skipped cseq).isSome)
      let s := s.updPort p (fun q => { q with tx := q.tx.filter (fun t => !(t.grant.isNone && (t.partialTo g skipped cseq).isSome)) })
      let again := k.lastSent.filter (fun m => m.seg != skipped) ++ wait.filterMap (fun t => t.partialTo g skipped cseq)
      (s.collSend g k sender again).putColl g { k with nextHop := some sender }

/-- A mismatch notice (R378, R379). -/
def State.collNotice (s : State) (g : Nat) (cseq : W32) (index field : Nat) : State :=
  match (s.group g).find cseq with
  | none => s
  | some k =>
    let (s, k) := s.learnMismatch g k index field false
    s.putColl g k

/-- What waited for a COLL to issue: a SKIPPED notice first (R374), then the first sends, then notices and messages in order. -/
def State.collBegin (s : State) (g : Nat) (cseq : W32) : State :=
  let q := s.group g
  let mine := (q.early.filter (fun m => m.2.cseq == cseq)).map (fun m => m.2)
  let s := s.setGroup g { q with early := q.early.filter (fun m => m.2.cseq != cseq),
                                 notices := q.notices.filter (fun n => match n with
                                   | .bypass c _ _ => c != cseq
                                   | .mismatch c _ _ => c != cseq) }
  let s := match (s.group g).find cseq with
    | none => s
    | some k =>
      if mine.any (fun m => m.role == .skipped && m.mismatch.isNone && k.differs (k.readTag m) == 0) && !k.tree && k.ck < 2 then
        let (s, k) := s.takeCarry g (k.note (s.gSelf g) k.ownFlags k.ownCount)
        let (s, k) := s.sendDirects g { k with skippedMe := true }
        s.putColl g k
      else
        let (s, k) := s.startColl g k
        s.putColl g k
  let s := q.notices.foldl (fun s n => match n with
    | .bypass c a b => if c = cseq then s.collBypass g c a b else s
    | .mismatch c a b => if c = cseq then s.collNotice g c a b else s) s
  mine.foldl (fun s m => s.collRecv g m) s

/-! ### COLL -/

/-- The pieces that late data could still have written are no longer pending (R362). -/
def State.endPieces (s : State) (g : Nat) : State := (s.group g).ended.foldl (fun s k => s.dropPending k.c k.id) s

/-- The collective that a COLL begins as its group's next CSEQ: the own contribution read, with NF_POLICY applied (R357, R359, R364, R380).
Its deadline runs from the first message that waited for it (R367). DESIGN CHOICE (log 90): of a TA tag whose TRES is wrong only GROUP and OP
are used, which select the collective. -/
def State.newColl (s : State) (c x : Nat) (f : CollF) (ta td : Opd) (g : Nat) : Coll :=
  let ck := f.ck.toNat
  let op := ta.t.tag.op.toNat
  let n := s.gCount g
  let unit := if op = 8 then 2 * s.gTopk g else 1
  let t := readTag ta.t.tag
  let pz := poisoned t || s.poisonRead ta.t.d
  let own := policyWords (s.gPolicy g) op (hasFlag t fNONFINITE) t.count.toNat (s.collWords ta op unit)
  let tk := tkClean (max unit 1) (own.1.length + 1) own.1
  let nan := op == 8 && tk.2
  let own := if op = 8 then (tk.1, own.2) else own
  let sc := s.collScales ta op
  let e := collExtent ck op ta.t.d td.t.d
  let tag := s.stamp { t with fmt := ta.t.d.fmt, group := ta.t.tag.group, op := ta.t.tag.op }
  let cseq := (s.group g).cseq
  { cseq := cseq, c := c, x := x, id := s.nextId, ck := ck, op := op, ta := ta, td := td, arr := arrOpt f.setarr f.arr, ext := e, unit := unit,
    tag := tag, tree := n ≠ 1 && s.collTree g ck op ta.t.d td.t.d, own := own.1, ownSc := sc,
    ownCount := if n = 1 then t.count.toNat else own.2, ownFlags := (carriedOf tag) ||| flagBit fPOISON pz ||| flagBit fNONFINITE nan,
    clock := some (match (s.group g).early.find? (fun m => m.2.cseq == cseq) with
      | some m => m.1
      | none => s.cycle),
    acc := if ck = 2 then List.replicate (e * unit) (0 : W32) else own.1,
    accSc := if ck = 2 && td.t.d.bscale then List.replicate (td.t.d.rows.toNat * cdiv td.t.d.cols.toNat 32) 0x7F else sc,
    scale := if 5 ≤ op && op ≠ 8 then t.scale else 0x7F }

/-- A COLL joins the outstanding ones of its group: the next CSEQ is taken, TA is read and marked, TD is busy, and the arrival bits of the whole
and of its pieces are cleared and pending (R91, R97, R223, R357, R362, R382). -/
def State.joinColl (s : State) (g : Nat) (k : Coll) : State :=
  let s := ((s.noteRead k.ta.t.d).markSource k.c k.ta.t).newId.2
  let s := s.updCtx k.c k.x (fun q => q.begin k.id [k.td.r] [])
  let s := (s.endPieces g).claimArr k.c k.id k.arr
  let s := match collPieces k.ck k.td.t.d with
    | some (a, b) => s.updCore k.c (fun q => q.claimArr a b k.id)
    | none => s
  let s := (s.updGroup g (fun q => { q with cseq := q.cseq + 1, outst := q.outst ++ [k] })).countOutst g
  s.advance k.c k.x

/-- A COLL issues and the collective starts; in a group of one it is complete (R357, R359, R364). -/
def State.issueColl (s : State) (c x : Nat) (f : CollF) (ta td : Opd) (g : Nat) : State :=
  let k := s.newColl c x f ta td g
  if s.gCount g = 1 then (s.joinColl g k).completeColl g k else (s.joinColl g k).collBegin g k.cseq

/-- COLL. A register hold comes first (R91), then the hold of R358, then the checks of R595. -/
def execColl (i : Iss) (f : CollF) (s : State) : Out :=
  issueStop i false s stopAlways (fun c x k =>
    let ta := k.opd f.ta.toNat
    let td := k.opd f.td.toNat
    let g := ta.t.tag.group.toNat
    if k.holds [f.td.toNat] [f.ta.toNat] then s.waitOn c x (.held (.coll i f))
    else if 8 ≤ (s.group g).outst.length then s.waitOn c x (.coll (.coll i f) (((s.group g).outst.map (fun k => k.cseq)).headD 0))
    else
      let r := (s.endPieces g).collReason c g f ta.t.tag.op.toNat ta.t.d td.t.d (arrOpt f.setarr f.arr)
      if r ≠ 0 then s.halt c x r else s.issueColl c x f ta td g)

/-- COLL_HOLD_RELEASE: a held COLL issues once the collective that was its group's oldest has completed (R358). -/
def execCollHoldRelease (c : BitVec 7) (x : BitVec 2) (s : State) : Out :=
  if !coreOk c then .fault .noSuchUnit
  else
    let k := s.ctx c.toNat x.toNat
    match k.wait with
    | .coll (.coll i f) oldest =>
      if (s.group (k.treg f.ta.toNat).tag.group.toNat).outst.any (fun q => q.cseq == oldest) then .next s
      else execColl i f (s.wake c.toNat x.toNat)
    | _ => .next s

/-! ### Messages, notices, deadlines -/

/-- A group that serves collectives: RUNNING, or DRAINING while its outstanding ones complete (R55). -/
def State.gServes (s : State) (g : Nat) : Bool :=
  let st := s.fnState (.group (BitVec.ofNat 12 g))
  st == 2 || st == 4

/-- A collective message arrives. One of a COLL not yet issued waits for it, when the group's room has space (R335, R363). -/
def State.collTake (s : State) (g : Nat) (m : CollMsg) : State :=
  if !s.gServes g || s.gCount g ≤ m.member.toNat then s
  else if ((s.group g).find m.cseq).isSome then s.collRecv g m
  else if s.roomUsed g + 4 * m.vals.length ≤ s.roomBytes g then s.updGroup g (fun q => { q with early := q.early ++ [(s.cycle, m)] })
  else s

/-- COLL_MESSAGE_RECEIVE. -/
def execCollMessageReceive (g : BitVec 12) (m : CollMsg) (s : State) : Out := .next (s.collTake g.toNat m)

/-- COLL_COMPLETE: the collective's result is final at this member. -/
def execCollComplete (g : BitVec 12) (cseq : W32) (s : State) : Out :=
  match (s.group g.toNat).outst.find? (fun k => k.cseq == cseq) with
  | none => .next s
  | some k => if s.collFinal g.toNat k then .next (s.completeColl g.toNat k) else .next s

/-- `us` µs have passed since `from_`. -/
def State.passedUs (s : State) (from_ : W64) (us : Nat) : Bool := decide (us * 1000 ≤ (s.cycle - from_).toNat)

/-- The children of a tree node that have not come. -/
def State.missingKids (s : State) (g : Nat) (k : Coll) : List Nat :=
  let n := s.gCount g
  let root := s.gRoot g
  let q := treePos root n (s.gSelf g)
  ((treeKids n q).filter (fun r =>
    if k.ck = 2 then !((List.range n).all (fun i => !treeUnder r n (treePos root n i) || k.gotOf i == segNeed k.ext n i))
    else k.gotOf (2 ^ 14 + r) != k.extNeed)).map (treeMem root n)

/-- A reducing member completes its part with the contributions present (R368). -/
def State.expireColl (s : State) (g : Nat) (k : Coll) : State × Coll :=
  let n := s.gCount g
  let miss := fun (k : Coll) => !s.allSegs g k
  if k.tree then
    let late := s.missingKids g k
    let s := late.foldl (fun s i => s.noteMissing g i) s
    let k := if k.ck = 2 then k else k.note 0 (flagBit fPARTIAL (!k.sentUp && !late.isEmpty)) 0
    let (s, k) := if k.sentUp then (s, k) else s.treeReady g k
    (s, if k.ck = 2 then { k with closed := true, part := k.part || miss k } else k)
  else if k.ck = 2 then (s, { k with closed := true, part := k.part || miss k })
  else
    let (s, k) := if k.segDone then (s, k) else s.ringFinish g (k.note (s.gSelf g) (flagBit fPARTIAL (1 < n)) 0)
    if k.ck = 0 then (s, { k with closed := true, part := k.part || miss k }) else (s, k)

/-- A member that keeps a deadline (R367). -/
def State.reduces (s : State) (g : Nat) (k : Coll) : Bool :=
  k.ck != 3 && (!k.tree || k.ck == 2 || !(treeKids (s.gCount g) (treePos (s.gRoot g) (s.gCount g) (s.gSelf g))).isEmpty)

/-- COLL_DEADLINE_EXPIRY: the member completes with what is present, at once where its result is then final. -/
def execCollDeadlineExpiry (g : BitVec 12) (cseq : W32) (s : State) : Out :=
  let gn := g.toNat
  match (s.group gn).outst.find? (fun k => k.cseq == cseq) with
  | none => .next s
  | some k =>
    match k.clock with
    | none => .next s
    | some t =>
      if !(s.reduces gn k && s.passedUs t (s.gDeadline gn)) then .next s
      else
        let (s, k) := s.expireColl gn k
        let s := s.putColl gn k
        if s.collFinal gn k then .next (s.completeColl gn k) else .next s

/-- COLL_FORWARD_WINDOW_EXPIRY: from 2 × DEADLINE_US on, partials go straight to their owners (R369). -/
def execCollForwardWindowExpiry (g : BitVec 12) (cseq : W32) (s : State) : Out :=
  let gn := g.toNat
  match (s.group gn).find cseq with
  | none => .next s
  | some k =>
    match k.clock with
    | none => .next s
    | some t =>
      if !k.tree && k.ck < 2 && s.passedUs t (2 * s.gDeadline gn) then .next (s.putColl gn { k with windowOver := true }) else .next s

/-- The nearest member before i that this member has not skipped. -/
def notSkippedBefore (n : Nat) (skips : List Nat) : Nat → Nat → Nat
  | 0, i => i
  | fuel + 1, i =>
    let j := (i + n - 1) % n
    if skips.contains j then notSkippedBefore n skips fuel j else j

/-- A member bypasses its predecessor (R372). -/
def State.bypassOne (s : State) (g : Nat) (k : Coll) : State × Coll :=
  let n := s.gCount g
  let self := s.gSelf g
  let p := notSkippedBefore n k.skips n self
  let k := { k with skips := k.skips ++ [p] }
  let u := notSkippedBefore n k.skips n p
  let s := ((s.count64 0x23 g 0x58 1).setFlag 0x23 g 0x38 3).setFld 0x23 g 0x30 13 0 p
  let s := if s.gTable g then s.memCount (s.lateAddr g p) 1 else s
  let skip : CollMsg := { cseq := k.cseq, member := BitVec.ofNat 14 self, role := .skipped, ck := BitVec.ofNat 4 k.ck, tag := k.tag,
                          desc := { extent := BitVec.ofNat 40 k.ext } }
  let s := ((if u = self then [] else [CollOut.bypass g u k.cseq p]) ++ [CollOut.msg g p (k.mark skip)]
    ++ [CollOut.hold g (s.nextHop g k) k.cseq self]).foldl (fun s o => s.collOffer g o) s
  let seg := (p + n - 1) % n
  let k := { k with hop := some s.cycle }
  if seg ≠ self && !k.sent.any (fun q => q.1 == seg) then s.startSeg g k seg true else (s, k)

/-- RING_HOP_EXPIRY. -/
def execRingHopExpiry (g : BitVec 12) (cseq : W32) (s : State) : Out :=
  let gn := g.toNat
  match (s.group gn).outst.find? (fun k => k.cseq == cseq) with
  | none => .next s
  | some k =>
    match k.hop with
    | none => .next s
    | some t =>
      if k.tree || !s.passedUs t (s.gHop gn) then .next s
      else if s.gBypass gn ≤ k.skips.length || s.gCount gn ≤ k.skips.length + 1 then .next (s.putColl gn { k with hop := none })
      else
        let (s, k) := s.bypassOne gn k
        .next (s.putColl gn k)

/-- A BYPASS arrives. -/
def State.bypassTake (s : State) (g : Nat) (cseq : W32) (sender skipped : Nat) : State :=
  if !s.gServes g then s
  else if ((s.group g).find cseq).isSome then s.collBypass g cseq sender skipped
  else s.updGroup g (fun q => { q with notices := q.notices ++ [.bypass cseq sender skipped] })

/-- BYPASS_RECEIVE. -/
def execBypassReceive (g : BitVec 12) (cseq : W32) (sender skipped : BitVec 14) (s : State) : Out :=
  .next (s.bypassTake g.toNat cseq sender.toNat skipped.toNat)

/-- A HOLD arrives: the hop clock restarts, and the notice goes on unless this member sent it (R372). -/
def State.holdTake (s : State) (g : Nat) (cseq : W32) (origin : Nat) : State :=
  if !s.gServes g then s
  else
    let k := ((s.group g).find cseq).getD {}
    let s := s.putColl g { k with cseq := cseq, hop := k.hop.map (fun _ => s.cycle) }
    if origin = s.gSelf g then s else s.collOffer g (.hold g (s.nextHop g k) cseq origin)

/-- HOLD_RECEIVE. -/
def execHoldReceive (g : BitVec 12) (cseq : W32) (origin : BitVec 14) (s : State) : Out := .next (s.holdTake g.toNat cseq origin.toNat)

/-- A mismatch notice arrives. -/
def State.noticeTake (s : State) (g : Nat) (cseq : W32) (index field : Nat) : State :=
  if !s.gServes g then s
  else if ((s.group g).find cseq).isSome then s.collNotice g cseq index field
  else s.updGroup g (fun q => { q with notices := q.notices ++ [.mismatch cseq index field] })

/-- MISMATCH_NOTICE_RECEIVE. -/
def execMismatchNoticeReceive (g : BitVec 12) (cseq : W32) (index : BitVec 14) (field : BitVec 4) (s : State) : Out :=
  .next (s.noticeTake g.toNat cseq index.toNat field.toNat)

/-! ### Messages that the transport brings (R333, R363, R372) -/

/-- A member's message is written to its group: its tag and descriptor are the block's, LATE among its flags where the bound was overrun
(R336). -/
def State.collArrive (s : State) (g : Nat) (o : CollOut) (b : Block) : State :=
  match o with
  | .msg _ _ m => s.collTake g { m with tag := b.tag, desc := b.desc }
  | .bypass _ _ q p => s.bypassTake g q (indexIn b.desc.srcModule.toNat (s.group g).members) p
  | .hold _ _ q i => s.holdTake g q i
  | .notice _ _ q i f => s.noticeTake g q i f

/-- The COLL that a message belongs to has been issued here (R357, R363). -/
def State.collIssued (s : State) (g : Nat) (cseq : W32) : Bool :=
  (s.group g).cseq != cseq && !serialLater 32 cseq.toNat (s.group g).cseq.toNat

/-- The credit request for the next partial stops the hop clock (R372). -/
def State.collRequested (s : State) (g : Nat) (o : CollOut) : State :=
  match o with
  | .msg _ _ m =>
    match (s.group g).find m.cseq with
    | some k => if m.role == .ring && !k.skips.contains m.member.toNat then s.putColl g { k.ask m.seg with hop := none } else s
    | none => s
  | _ => s

/-! ### The end of a group's work (R362, R371) -/

/-- A group that stops drops what it carries and forgets its collectives. -/
def State.groupOff (s : State) (g : Nat) : State :=
  let q := s.group g
  let s := s.countDropped g (contribs ((q.carry ++ q.outst.flatMap (fun k => k.folds)).map (fun c => c.msg)))
  (s.endPieces g).setGroup g {}

/-- K2 of a knock-back that advances STEP ends: a carried contribution sees at most one such phase unfolded (R371). -/
def State.carryK2 (s : State) (g : Nat) : State :=
  let q := s.group g
  let gone := (q.carry ++ q.outst.flatMap (fun k => k.folds)).filter (fun c => decide (1 ≤ c.ends))
  let kept := fun (l : List Carry) => (l.filter (fun c => c.ends = 0)).map (fun c => { c with ends := c.ends + 1 })
  let s := s.countDropped g (contribs (gone.map (fun c => c.msg)))
  s.updGroup g (fun q => { q with carry := kept q.carry, outst := q.outst.map (fun k => { k with folds := kept k.folds }) })

end Sys2Proof.Machine
end

