-- ==== Sys2Proof/Decode.lean ====
section
/-! DEFINITION. Reading commands from words. The opcode table gives no row any bits, so no word spells a command. The module's
cores run Staex 2 words, whose encodings R82 to R117 give: their decoder and encoder stand here, and the command
ILLEGAL_INSTRUCTION asks the decoder which words the reference does not define. -/

namespace Sys2Proof

/-- The command a word spells by the table's bits: the table gives no row bits. -/
def decodeTableWord (_nbits _w : Nat) : Option Instr := none

/-! ### Staex 2 words (R82 to R85) -/

def fB (w hi lo : Nat) (n : Nat) : BitVec n := BitVec.ofNat n (bitsOf w hi lo)
def fBool (w i : Nat) : Bool := bitAt w i

/-- PRED and PNEG of a word issued at a core and context (R82). -/
def issOf (core : BitVec 7) (ctx : BitVec 2) (w : Nat) : Iss :=
  { core := core, ctx := ctx, pred := fB w 55 53 3, pneg := fBool w 52 }

/-- The second operand of a scalar word. -/
def srcOf (w : Nat) : SrcB := if fBool w 33 then .imm (fB w 31 0 32) else .reg (fB w 39 34 6)

/-- Bits [hi:lo] are reserved and hold no 1 (R85). -/
def zeroB (w hi lo : Nat) : Bool := bitsOf w hi lo == 0

/-- A word whose reserved bits pass decodes to `i`. -/
def okIf (b : Bool) (i : Instr) : Option Instr := if b then some i else none

/-- CLASS 0, the scalar operations; W is reserved except in LD and ST. -/
def decodeScalar (i : Iss) (op w : Nat) : Option Instr :=
  let sd : BitVec 6 := fB w 51 46 6
  let sa : BitVec 6 := fB w 45 40 6
  let sb := srcOf w
  let imm : W32 := fB w 31 0 32
  let w0 := !fBool w 32
  if op = 0 then okIf w0 (.add i sd sa sb)
  else if op = 1 then okIf w0 (.sub i sd sa sb)
  else if op = 2 then okIf w0 (.mul i sd sa sb)
  else if op = 3 then okIf w0 (.and i sd sa sb)
  else if op = 4 then okIf w0 (.or i sd sa sb)
  else if op = 5 then okIf w0 (.xor i sd sa sb)
  else if op = 6 then okIf w0 (.shl i sd sa sb)
  else if op = 7 then okIf w0 (.shr i sd sa sb)
  else if op = 8 then okIf w0 (.sra i sd sa sb)
  else if op = 9 then okIf w0 (.li i sd imm)
  else if op = 10 then okIf w0 (.lih i sd imm)
  else if op = 11 then okIf w0 (.cmp i (fB w 51 49 3) (fB w 48 46 3) sa sb)
  else if op = 12 then some (.ld i (fBool w 32) sd sa imm)
  else if op = 13 then some (.st i (fBool w 32) (fBool w 33) sa (fB w 39 34 6) imm)
  else if op = 14 then okIf w0 (.getcc i sd)
  else okIf w0 (.getid i sd)

/-- CLASS 1, the branch operations. -/
def decodeBranch (i : Iss) (op w : Nat) : Option Instr :=
  if op = 0 then some (.br i (fB w 31 0 32))
  else if op = 1 then some (.jr i (fB w 45 40 6))
  else if op = 2 then some (.endCmd i)
  else none

/-- CLASS 2, the tensor operations. -/
def decodeTensor (i : Iss) (op w : Nat) : Option Instr :=
  if op = 0 then
    okIf (zeroB w 51 47 && zeroB w 41 37 && zeroB w 7 0)
      (.loads i { tb := fB w 46 42 5, eng := fB w 36 35 2, buf := fB w 34 34 1, so := fB w 33 28 6, kn := fB w 27 19 9,
                  nn := fB w 18 10 9, tr := fBool w 9, sh := fBool w 8 })
  else if op = 1 then
    okIf (zeroB w 46 42 && zeroB w 8 8 && zeroB w 3 0)
      (.stream i { ta := fB w 51 47 5, tc := fB w 41 37 5, eng := fB w 36 35 2, buf := fB w 34 34 1, sm := fB w 33 28 6,
                   sc := fB w 27 22 6, acc := fB w 21 20 2, dstb := fBool w 19, ab := fB w 18 18 1, rnd := fB w 17 16 2,
                   ovf := fBool w 15, tr := fBool w 14, waitp := fBool w 13, rel := fBool w 12, red := fB w 11 9 3,
                   topk := fB w 7 4 4 })
  else if op = 2 then
    okIf (zeroB w 51 42 && zeroB w 34 34 && zeroB w 8 0)
      (.drain i { tc := fB w 41 37 5, eng := fB w 36 35 2, sm := fB w 33 28 6, sc := fB w 27 22 6, nn := fB w 21 13 9,
                  ab := fB w 12 12 1, rnd := fB w 11 10 2, ovf := fBool w 9 })
  else if op = 3 then
    okIf (zeroB w 51 37 && zeroB w 34 34 && zeroB w 27 0) (.engSeed i (fB w 33 28 6) (fB w 36 35 2))
  else none

/-- CLASS 3: VOP. -/
def decodeVector (i : Iss) (op w : Nat) : Option Instr :=
  if op = 0 then
    okIf (zeroB w 18 0)
      (.vop i { td := fB w 51 47 5, ta := fB w 46 42 5, tb := fB w 41 37 5, fn := fB w 36 32 5, ss := fB w 31 26 6,
                rnd := fB w 25 24 2, ovf := fBool w 23, att := fB w 22 21 2, eng := fB w 20 19 2 })
  else none

/-- CLASS 4: MOVE, STASH and FETCH. -/
def decodeMove (i : Iss) (op w : Nat) : Option Instr :=
  let f : MoveF := { td := fB w 51 47 5, ta := fB w 46 42 5, rnd := fB w 41 40 2, ovf := fBool w 39, setarr := fBool w 38,
                     arr := fB w 37 26 12 }
  let z := zeroB w 25 0
  if op = 0 then okIf z (.move i f)
  else if op = 1 then okIf z (.stash i f)
  else if op = 2 then okIf z (.fetch i f)
  else none

/-- CLASS 5: COLL and SEND. -/
def decodeColl (i : Iss) (op w : Nat) : Option Instr :=
  if op = 0 then
    okIf (zeroB w 24 0)
      (.coll i { td := fB w 51 47 5, ta := fB w 46 42 5, ck := fB w 41 38 4, setarr := fBool w 37, arr := fB w 36 25 12 })
  else if op = 1 then
    okIf (zeroB w 51 47 && zeroB w 22 0)
      (.send i { ta := fB w 46 42 5, sdst := fB w 41 36 6, setarr := fBool w 35, arr := fB w 34 23 12 })
  else none

/-- CLASS 6, the synchronisation operations. -/
def decodeSync (i : Iss) (op w : Nat) : Option Instr :=
  if op = 0 then okIf (zeroB w 51 0) (.fenceStep i)
  else if op = 1 then okIf (zeroB w 27 0) (.waitArr i (fB w 51 40 12) (fB w 39 28 12))
  else if op = 2 then okIf (zeroB w 27 0) (.arrClr i (fB w 51 40 12) (fB w 39 28 12))
  else if op = 3 then okIf (zeroB w 45 0) (.waitT i (fB w 51 46 6))
  else if op = 4 then okIf (zeroB w 46 0) (.waitMsg i (fB w 51 47 5))
  else if op = 5 then
    okIf (zeroB w 33 0)
      (.signal i { sa := fB w 51 46 6, core := fB w 45 39 7, ctx := fB w 38 37 2, pd := fB w 36 34 3 })
  else if op = 6 then okIf (zeroB w 51 0) (.nop i)
  else none

/-- CLASS 7, the tag, scale and descriptor operations. -/
def decodeTag (i : Iss) (op w : Nat) : Option Instr :=
  let tn : BitVec 5 := fB w 51 47 5
  let r : BitVec 6 := fB w 46 41 6
  if op = 0 then okIf (zeroB w 35 0) (.tagSet i tn r (fB w 40 37 4) (fBool w 36))
  else if op = 1 then okIf (zeroB w 39 0) (.tagGet i tn r (fBool w 40))
  else if op = 2 then okIf (zeroB w 40 0) (.tdescLd i tn r)
  else if op = 3 then okIf (zeroB w 40 0) (.tdescSt i tn r)
  else if op = 4 then okIf (zeroB w 36 0) (.tdescSetf i tn r (fB w 40 37 4))
  else if op = 5 then okIf (zeroB w 40 0) (.scaleRd i tn r)
  else if op = 6 then okIf (zeroB w 46 0) (.scaleMark i tn)
  else none

/-- CLASS 8, the Staex 1 tile forms. -/
def decodeTile (i : Iss) (op w : Nat) : Option Instr :=
  let f : TileF := { sa := fB w 51 46 6, sb := fB w 45 40 6, sc := fB w 39 34 6, fmt := fB w 33 31 3, accf := fBool w 30,
                     eng := fB w 29 28 2, cf := fB w 27 27 1 }
  let z := zeroB w 26 0
  if op = 0 then okIf z (.tile16Mma i f)
  else if op = 1 then okIf z (.tile32Mma i f)
  else none

/-- The instruction a Staex 2 word names when a context of a core fetches it; `none` for an undefined CLASS or OP or a reserved
bit set (R83, R85). -/
def decodeStaex (core : BitVec 7) (ctx : BitVec 2) (word : W64) : Option Instr :=
  let w := word.toNat
  let i := issOf core ctx w
  let op := bitsOf w 59 56
  let cls := bitsOf w 63 60
  if cls = 0 then decodeScalar i op w
  else if cls = 1 then decodeBranch i op w
  else if cls = 2 then decodeTensor i op w
  else if cls = 3 then decodeVector i op w
  else if cls = 4 then decodeMove i op w
  else if cls = 5 then decodeColl i op w
  else if cls = 6 then decodeSync i op w
  else if cls = 7 then decodeTag i op w
  else if cls = 8 then decodeTile i op w
  else none

/-! ### The encoder -/

/-- The first twelve bits of a word: CLASS, OP, PRED, PNEG (R82). -/
def headBits (cls op : Nat) (i : Iss) : Nat := cls * 2 ^ 60 + op * 2 ^ 56 + i.pred.toNat * 2 ^ 53 + b2n i.pneg * 2 ^ 52

/-- SB, or I and IMM. -/
def srcBits : SrcB → Nat
  | .reg sb => sb.toNat * 2 ^ 34
  | .imm v => 2 ^ 33 + v.toNat

/-- SD, SA and the second operand of a scalar word. -/
def scalarBits (op : Nat) (i : Iss) (sd sa : BitVec 6) (b : SrcB) : Nat :=
  headBits 0 op i + sd.toNat * 2 ^ 46 + sa.toNat * 2 ^ 40 + srcBits b

def moveBits (op : Nat) (i : Iss) (f : MoveF) : Nat :=
  headBits 4 op i + f.td.toNat * 2 ^ 47 + f.ta.toNat * 2 ^ 42 + f.rnd.toNat * 2 ^ 40 + b2n f.ovf * 2 ^ 39 + b2n f.setarr * 2 ^ 38
    + f.arr.toNat * 2 ^ 26

def tileBits (op : Nat) (i : Iss) (f : TileF) : Nat :=
  headBits 8 op i + f.sa.toNat * 2 ^ 46 + f.sb.toNat * 2 ^ 40 + f.sc.toNat * 2 ^ 34 + f.fmt.toNat * 2 ^ 31 + b2n f.accf * 2 ^ 30
    + f.eng.toNat * 2 ^ 28 + f.cf.toNat * 2 ^ 27

/-- The word of a command that is a Staex 2 instruction, from the encoding tables of R82 to R117; `none` for every other
command. -/
def staexBits : Instr → Option Nat
  | .add i sd sa b => some (scalarBits 0 i sd sa b)
  | .sub i sd sa b => some (scalarBits 1 i sd sa b)
  | .mul i sd sa b => some (scalarBits 2 i sd sa b)
  | .and i sd sa b => some (scalarBits 3 i sd sa b)
  | .or i sd sa b => some (scalarBits 4 i sd sa b)
  | .xor i sd sa b => some (scalarBits 5 i sd sa b)
  | .shl i sd sa b => some (scalarBits 6 i sd sa b)
  | .shr i sd sa b => some (scalarBits 7 i sd sa b)
  | .sra i sd sa b => some (scalarBits 8 i sd sa b)
  | .li i sd imm => some (headBits 0 9 i + sd.toNat * 2 ^ 46 + imm.toNat)
  | .lih i sd imm => some (headBits 0 10 i + sd.toNat * 2 ^ 46 + imm.toNat)
  | .cmp i pd cond sa b => some (headBits 0 11 i + pd.toNat * 2 ^ 49 + cond.toNat * 2 ^ 46 + sa.toNat * 2 ^ 40 + srcBits b)
  | .ld i w4 sd sa imm =>
    some (headBits 0 12 i + sd.toNat * 2 ^ 46 + sa.toNat * 2 ^ 40 + b2n w4 * 2 ^ 32 + imm.toNat)
  | .st i w4 im sa sb imm =>
    some (headBits 0 13 i + sa.toNat * 2 ^ 40 + sb.toNat * 2 ^ 34 + b2n im * 2 ^ 33 + b2n w4 * 2 ^ 32 + imm.toNat)
  | .getcc i sd => some (headBits 0 14 i + sd.toNat * 2 ^ 46)
  | .getid i sd => some (headBits 0 15 i + sd.toNat * 2 ^ 46)
  | .br i imm => some (headBits 1 0 i + imm.toNat)
  | .jr i sa => some (headBits 1 1 i + sa.toNat * 2 ^ 40)
  | .endCmd i => some (headBits 1 2 i)
  | .loads i f =>
    some (headBits 2 0 i + f.tb.toNat * 2 ^ 42 + f.eng.toNat * 2 ^ 35 + f.buf.toNat * 2 ^ 34 + f.so.toNat * 2 ^ 28
      + f.kn.toNat * 2 ^ 19 + f.nn.toNat * 2 ^ 10 + b2n f.tr * 2 ^ 9 + b2n f.sh * 2 ^ 8)
  | .stream i f =>
    some (headBits 2 1 i + f.ta.toNat * 2 ^ 47 + f.tc.toNat * 2 ^ 37 + f.eng.toNat * 2 ^ 35 + f.buf.toNat * 2 ^ 34
      + f.sm.toNat * 2 ^ 28 + f.sc.toNat * 2 ^ 22 + f.acc.toNat * 2 ^ 20 + b2n f.dstb * 2 ^ 19 + f.ab.toNat * 2 ^ 18
      + f.rnd.toNat * 2 ^ 16 + b2n f.ovf * 2 ^ 15 + b2n f.tr * 2 ^ 14 + b2n f.waitp * 2 ^ 13 + b2n f.rel * 2 ^ 12
      + f.red.toNat * 2 ^ 9 + f.topk.toNat * 2 ^ 4)
  | .drain i f =>
    some (headBits 2 2 i + f.tc.toNat * 2 ^ 37 + f.eng.toNat * 2 ^ 35 + f.sm.toNat * 2 ^ 28 + f.sc.toNat * 2 ^ 22
      + f.nn.toNat * 2 ^ 13 + f.ab.toNat * 2 ^ 12 + f.rnd.toNat * 2 ^ 10 + b2n f.ovf * 2 ^ 9)
  | .engSeed i sr eng => some (headBits 2 3 i + eng.toNat * 2 ^ 35 + sr.toNat * 2 ^ 28)
  | .vop i f =>
    some (headBits 3 0 i + f.td.toNat * 2 ^ 47 + f.ta.toNat * 2 ^ 42 + f.tb.toNat * 2 ^ 37 + f.fn.toNat * 2 ^ 32
      + f.ss.toNat * 2 ^ 26 + f.rnd.toNat * 2 ^ 24 + b2n f.ovf * 2 ^ 23 + f.att.toNat * 2 ^ 21 + f.eng.toNat * 2 ^ 19)
  | .move i f => some (moveBits 0 i f)
  | .stash i f => some (moveBits 1 i f)
  | .fetch i f => some (moveBits 2 i f)
  | .coll i f =>
    some (headBits 5 0 i + f.td.toNat * 2 ^ 47 + f.ta.toNat * 2 ^ 42 + f.ck.toNat * 2 ^ 38 + b2n f.setarr * 2 ^ 37
      + f.arr.toNat * 2 ^ 25)
  | .send i f =>
    some (headBits 5 1 i + f.ta.toNat * 2 ^ 42 + f.sdst.toNat * 2 ^ 36 + b2n f.setarr * 2 ^ 35 + f.arr.toNat * 2 ^ 23)
  | .fenceStep i => some (headBits 6 0 i)
  | .waitArr i a n => some (headBits 6 1 i + a.toNat * 2 ^ 40 + n.toNat * 2 ^ 28)
  | .arrClr i a n => some (headBits 6 2 i + a.toNat * 2 ^ 40 + n.toNat * 2 ^ 28)
  | .waitT i sa => some (headBits 6 3 i + sa.toNat * 2 ^ 46)
  | .waitMsg i td => some (headBits 6 4 i + td.toNat * 2 ^ 47)
  | .signal i f =>
    some (headBits 6 5 i + f.sa.toNat * 2 ^ 46 + f.core.toNat * 2 ^ 39 + f.ctx.toNat * 2 ^ 37 + f.pd.toNat * 2 ^ 34)
  | .nop i => some (headBits 6 6 i)
  | .tagSet i tn sa m clr =>
    some (headBits 7 0 i + tn.toNat * 2 ^ 47 + sa.toNat * 2 ^ 41 + m.toNat * 2 ^ 37 + b2n clr * 2 ^ 36)
  | .tagGet i tn sd half => some (headBits 7 1 i + tn.toNat * 2 ^ 47 + sd.toNat * 2 ^ 41 + b2n half * 2 ^ 40)
  | .tdescLd i tn sa => some (headBits 7 2 i + tn.toNat * 2 ^ 47 + sa.toNat * 2 ^ 41)
  | .tdescSt i tn sa => some (headBits 7 3 i + tn.toNat * 2 ^ 47 + sa.toNat * 2 ^ 41)
  | .tdescSetf i tn sa fld => some (headBits 7 4 i + tn.toNat * 2 ^ 47 + sa.toNat * 2 ^ 41 + fld.toNat * 2 ^ 37)
  | .scaleRd i tn sd => some (headBits 7 5 i + tn.toNat * 2 ^ 47 + sd.toNat * 2 ^ 41)
  | .scaleMark i tn => some (headBits 7 6 i + tn.toNat * 2 ^ 47)
  | .tile16Mma i f => some (tileBits 0 i f)
  | .tile32Mma i f => some (tileBits 1 i f)
  | _ => none

/-- The 64-bit word. -/
def encodeStaex (i : Instr) : Option W64 := (staexBits i).map (BitVec.ofNat 64)

/-- Where a Staex 2 instruction issues; core 0, context 0 for the other commands. -/
def issuerOf (i : Instr) : Iss :=
  match i with
  | .add i _ _ _ | .sub i _ _ _ | .mul i _ _ _ | .and i _ _ _ | .or i _ _ _ | .xor i _ _ _ | .shl i _ _ _ | .shr i _ _ _
  | .sra i _ _ _ | .li i _ _ | .lih i _ _ | .cmp i _ _ _ _ | .ld i _ _ _ _ | .st i _ _ _ _ _ | .getcc i _ | .getid i _
  | .br i _ | .jr i _ | .endCmd i | .loads i _ | .stream i _ | .drain i _ | .engSeed i _ _ | .vop i _ | .move i _ | .stash i _
  | .fetch i _ | .coll i _ | .send i _ | .fenceStep i | .waitArr i _ _ | .arrClr i _ _ | .waitT i _ | .waitMsg i _ | .signal i _
  | .nop i | .tagSet i _ _ _ _ | .tagGet i _ _ _ | .tdescLd i _ _ | .tdescSt i _ _ | .tdescSetf i _ _ _ | .scaleRd i _ _
  | .scaleMark i _ | .tile16Mma i _ | .tile32Mma i _ => i
  | _ => {}

end Sys2Proof
end

