-- ==== Sys2Proof/Machine/Contexts.lean ====
section
/-! DEFINITION. Commands at a context (R47 to R50, R83, R115): the decision on an offered command, starting an admitted one,
stopping one at MAX_CC, and an instruction word the reference does not define. -/

namespace Sys2Proof.Machine

/-- The place of a source in the order of one cc (R115): host, tagged messages, SIGNALs by ascending core and context, hives. -/
def offerRank : OfferSrc → Nat
  | .host _ => 0
  | .tagged => 1
  | .signal c x _ => 2 + c * 4 + x
  | .hive h => 1000 + h

/-- Whether offer `a` is decided before offer `b`: by arrival cc, then by source. -/
def offerBefore (a b : Offer) : Bool :=
  a.cc.toNat < b.cc.toNat || (a.cc == b.cc && offerRank a.src < offerRank b.src)

/-- The offer a queue decides on next. -/
def nextOffer : List Offer → Option Offer
  | [] => none
  | o :: os =>
    match nextOffer os with
    | none => some o
    | some p => if offerBefore p o then some p else some o

/-- The decision on a SIGNAL of command `no` reaches its context: the waiting instruction takes it, and where its command has ended since, a
refusal still goes to LAST_REASON (R115). -/
def Ctx.told (k : Ctx) (no reason : Nat) : Ctx :=
  match k.wait with
  | .signal _ => if k.cmdNo = no then { k with decision := some reason } else { k with lastReason := (if reason = 0 then k.lastReason else BitVec.ofNat 16 reason) }
  | _ => { k with lastReason := (if reason = 0 then k.lastReason else BitVec.ofNat 16 reason) }

/-- The decision goes back to who offered the command: the DOORBELL's response (R309), the SIGNAL's issuer (R115), the hive's
counters (R418). A tagged message learns nothing. -/
def State.decided (s : State) (o : Offer) (reason : Nat) : State :=
  match o.src with
  | .host m => s.respond m reason [] true
  | .tagged => s
  | .signal c x no => s.updCtx c x (fun k => k.told no reason)
  | .hive h => if reason = 0 then s.count64 0x24 h 0xE8 1 else s.count64 0x24 h 0xF0 1

/-- One decision of a context's queue (R47): the command is admitted, or refused with the first failing reason, which
LAST_REASON of the context takes (R45). -/
def execCommandAdmission (c : BitVec 7) (x : BitVec 2) (s : State) : Out :=
  if !coreOk c then .fault .noSuchUnit
  else
    match nextOffer (s.ctx c.toNat x.toNat).offers with
    | none => .next s
    | some o =>
      let r := s.admitReason c.toNat x.toNat o.cmd
      let s1 := s.updCtx c.toNat x.toNat (fun k =>
        let k := { k with offers := k.offers.erase o }
        if r = 0 then { k with queue := k.queue ++ [{ cmd := o.cmd, cc := s.cycle }] }
        else { k with lastReason := BitVec.ofNat 16 r })
      .next (s1.decided o r)

/-- Start the oldest admitted command of a context on which none runs: ARG0 to ARG3 go to s0 to s3 (R46), and a start more than
5,000 cc after admission is LATE and counts in HP_LATE (R50, R37). A knock-back copy is taken (R529). -/
def State.startCommand (s : State) (c x : Nat) (q : QCmd) (rest : List QCmd) : State :=
  let d := (s.cycle - q.cc).toNat
  let ovr := d - 5000
  let (no, s) := s.newId
  let s := s.updCtx c x (fun k =>
    let k := (((k.setSreg 0 q.cmd.arg0).setSreg 1 q.cmd.arg1).setSreg 2 q.cmd.arg2).setSreg 3 q.cmd.arg3
    Ctx.takeCopy { k with queue := rest, pc := q.cmd.entry, st := .ready, wait := .none, counted := false,
                          run := some { cmd := q.cmd, no := no, startCC := s.cycle, overrun := ovr } })
  if ovr = 0 then s else (s.count64 0x21 0 0x68 1).lateEvent 0 ovr c

/-- An admitted command starts (R48). -/
def execCommandStart (c : BitVec 7) (x : BitVec 2) (s : State) : Out :=
  if !coreOk c then .fault .noSuchUnit
  else
    let k := s.ctx c.toNat x.toNat
    match k.queue with
    | [] => .next s
    | q :: rest =>
      if k.run.isNone && k.st != .isolated && s.coreServes c.toNat then .next (s.startCommand c.toNat x.toNat q rest) else .next s

/-- A command that has issued for MAX_CC cc ends with status OVERRUN_STOPPED; what it issued completes normally (R48). -/
def execOverrunStopped (c : BitVec 7) (x : BitVec 2) (s : State) : Out :=
  if !coreOk c then .fault .noSuchUnit
  else
    let k := s.ctx c.toNat x.toNat
    if k.run.isSome && s.overran k then .next (s.endCommand c.toNat x.toNat rsOVERRUN_STOPPED .idle) else .next s

/-- A word with an undefined CLASS or OP, or with a reserved bit set, halts its context with ILLEGAL whatever its predicate
(R83 to R85). A word the reference defines is issued by its own command, not by this one. -/
def execIllegalInstruction (c : BitVec 7) (x : BitVec 2) (word : W64) (s : State) : Out :=
  if !coreOk c then .fault .noSuchUnit
  else if (decodeStaex c x word).isSome then .next s
  else issueStop { core := c, ctx := x } true s (fun _ _ _ => false) (fun _ _ _ => s)

end Sys2Proof.Machine
end

