-- ==== Sys2Proof/Machine/Codec.lean ====
section
/-! DEFINITION. The delta codec (R431 to R435): block records, their sizes, quantising a block and decoding a record. -/

namespace Sys2Proof.Machine

/-- A block record: first element within the layer, elements covered, mode, entries and payload. -/
structure Rec where
  first : Nat
  count : Nat
  mode : Nat
  k : Nat := 0
  payload : List Byte := []
  deriving DecidableEq, Repr

/-- Bytes up to a multiple of 8. -/
def up8 (n : Nat) : Nat := cdiv n 8 * 8

def padTo8 (bs : List Byte) : List Byte := bs ++ List.replicate (up8 bs.length - bs.length) 0

/-- The payload bytes of a mode, padded (R432). -/
def recPayload (mode count k : Nat) : Nat :=
  up8 (if mode = 0 then 4 * count
    else if mode = 1 then cdiv count 32 + cdiv count 2
    else if mode = 2 then cdiv count 32 + cdiv count 4
    else if mode = 3 then 1 + cdiv (12 * k) 8 + k
    else cdiv (12 * k) 8 + cdiv k 32 + cdiv k 2)

/-- The largest record of a block, header included (R427). -/
def recBytes (mode count kmax : Nat) : Nat := 16 + recPayload mode count (min kmax count)

/-- A record's bytes (R435). -/
def Rec.bytes (r : Rec) : List Byte :=
  leBytes 8 (r.first + (r.count - 1) * 2 ^ 40 + r.mode * 2 ^ 52) ++ leBytes 2 r.k ++ leBytes 2 r.payload.length ++ leBytes 4 0 ++ r.payload

/-- Read records from bytes. -/
def parseRecs : Nat → List Byte → List Rec
  | 0, _ => []
  | fuel + 1, bs =>
    if bs.length < 16 then []
    else
      let w := leField bs 0 8
      let len := leField bs 10 2
      { first := w % 2 ^ 40, count := bitsOf w 51 40 + 1, mode := bitsOf w 54 52, k := leField bs 8 2,
        payload := (bs.drop 16).take len } :: parseRecs fuel (bs.drop (16 + len))

/-! ### Quantising (R433, R434) -/

/-- ⌈log2 (a / lim)⌉ clamped to −127 to 127, for a ≠ 0. -/
def codecExp (lim m : Nat) (e : Int) : Int :=
  let x := leadExp m e - leadExp lim 0
  max (-127) (min 127 (if magLe m e lim x then x else x + 1))

/-- A group of elements in signed codes of magnitude at most `lim`: the scale byte and the integers. -/
def codeGroup (lim : Nat) (dr : Nat → Nat) (xs : List Num) : Nat × List Int :=
  let a := amaxOf xs
  if a.1 = 0 then (0, xs.map (fun _ => 0))
  else
    let x := codecExp lim a.1 a.2
    ((x + 127).toNat, xs.zipIdx.map (fun p => match p.1 with
      | .fin n m e =>
        let (m', e') := roundMag 1 (dr p.2) m (e - x) 0
        let v : Int := Int.ofNat (min lim (m' * 2 ^ e'.toNat))
        if n then -v else v
      | _ => 0))

/-- Groups of 32. -/
def groups32 {α : Type} : Nat → List α → List (List α)
  | 0, _ => []
  | fuel + 1, xs => if xs.isEmpty then [] else xs.take 32 :: groups32 fuel (xs.drop 32)

/-- The value of a signed code under a scale byte. -/
def codeValue (byte : Nat) (v : Int) : Num := if byte = 255 then .nan else numOfInt v ((byte : Int) - 127)

/-- The code of an integer in `w` bits, two's complement. -/
def codeBits (w : Nat) (v : Int) : Nat := (v % 2 ^ w).toNat

/-- The integer of a 4-bit or 2-bit code: 0x8, and 2, decode as 0. -/
def codeInt (w c : Nat) : Int :=
  if c = 2 ^ (w - 1) then 0 else if c < 2 ^ (w - 1) then (c : Int) else (c : Int) - 2 ^ w

/-- Scale bytes and codes of a list of values, by groups of 32. -/
def codeList (w lim : Nat) (dr : Nat → Nat) (xs : List Num) : List Byte × List Nat :=
  let gs := (groups32 (xs.length + 1) xs).zipIdx.map (fun p => codeGroup lim (fun i => dr (32 * p.2 + i)) p.1)
  (gs.map (fun g => BitVec.ofNat 8 g.1), (gs.map (fun g => g.2.map (codeBits w))).flatten)

/-- The entries of TK and TKQ4: at most `k` of largest magnitude, zeros omitted; positions within the 4,096-element range. -/
def codecTop (k first : Nat) (xs : List W32) : List TkEntry :=
  let es := xs.zipIdx.filterMap (fun p => if (ofF32 p.1).isZero then none else some (p.1, first % 4096 + p.2))
  (tkMerge k [] es).1

/-- Encode one block of finite elements; `dr` gives the draw of each element converted. -/
def encodeRec (mode kmax first : Nat) (dr : Nat → Nat) (xs : List W32) : Rec :=
  let n := xs.length
  let base : Rec := { first := first, count := n, mode := mode }
  if mode = 0 then { base with payload := padTo8 ((xs.map (fun x => leBytes 4 x.toNat)).flatten) }
  else if mode = 1 || mode = 2 then
    let w := if mode = 1 then 4 else 2
    let (sc, cs) := codeList w (if mode = 1 then 7 else 1) dr (xs.map ofF32)
    { base with payload := padTo8 (sc ++ packBits w cs) }
  else
    let es := codecTop (min kmax n) first xs
    let pos := packBits 12 (es.map (fun e => e.2))
    let vs := es.map (fun e => ofF32 e.1)
    if mode = 3 then
      let a := amaxOf vs
      let x : Int := if a.1 = 0 then -127 else max (-127) (min 127 (ceilLog2Max 3 a.1 a.2))
      let cs := vs.zipIdx.map (fun p => (convElem 3 true 1 false (dr p.2) (p.1.scale (-x))).1)
      { base with k := es.length, payload := padTo8 (leBytes 1 (x + 127).toNat ++ pos ++ cs.map (fun c => BitVec.ofNat 8 c)) }
    else
      let (sc, cs) := codeList 4 7 dr vs
      { base with k := es.length, payload := padTo8 (pos ++ sc ++ packBits 4 cs) }

/-! ### Decoding (R432, R433) -/

/-- The i-th code of `w` bits in packed bytes. -/
def unpackAt (w : Nat) (bs : List Byte) (i : Nat) : Nat :=
  leField bs (i * w / 8) (cdiv (i * w % 8 + w) 8) / 2 ^ (i * w % 8) % 2 ^ w

/-- The entries of a top-k record: position and value. -/
def Rec.entries (r : Rec) : List (Nat × Num) :=
  let at_ := fun (o : Nat) => r.payload.drop o
  let pb := cdiv (12 * r.k) 8
  if r.mode = 3 then
    let b := leField r.payload 0 1
    (List.range r.k).map (fun i => (unpackAt 12 (at_ 1) i, elemValue 3 127 b (leField (at_ (1 + pb + i)) 0 1)))
  else
    (List.range r.k).map (fun i => (unpackAt 12 r.payload i,
      codeValue (leField (at_ (pb + i / 32)) 0 1) (codeInt 4 (unpackAt 4 (at_ (pb + cdiv r.k 32)) i))))

/-- The values that a record gives the elements it covers, in order. -/
def Rec.decode (r : Rec) : List Num :=
  let idx := List.range r.count
  if r.mode = 0 then idx.map (fun i => ofF32 (BitVec.ofNat 32 (leField r.payload (4 * i) 4)))
  else if r.mode = 1 || r.mode = 2 then
    let w := if r.mode = 1 then 4 else 2
    let g := cdiv r.count 32
    idx.map (fun i => codeValue (leField r.payload (i / 32) 1) (codeInt w (unpackAt w (r.payload.drop g) i)))
  else if r.mode = 3 || r.mode = 4 then
    let es := r.entries
    idx.map (fun i => match es.find? (fun e => e.1 == r.first % 4096 + i) with
      | some e => e.2
      | none => .zero)
  else idx.map (fun _ => Num.zero)

/-- The value that a list of records gives element `i` of the layer, where one covers it. -/
def recsAt (rs : List Rec) (i : Nat) : Option Num :=
  (rs.find? (fun r => decide (r.first ≤ i) && decide (i < r.first + r.count))).map (fun r => r.decode.getD (i - r.first) .zero)

end Sys2Proof.Machine
end

