-- ==== Sys2Proof/Machine/ForagerOps.lean ====
section
/-! DEFINITION. Operations of the forager (chapter 13): spans and their state array, its own state of each shard, sending, distribution
by the ownership table, forming deltas, merging, publishing, installing and joining. -/

namespace Sys2Proof.Machine

/-! ### Registers and spans (R422, R424, R455 to R458) -/

def State.fgPhase (s : State) : Nat := s.fld 0x25 0 0x14 31 30
def State.setFgPhase (s : State) (p : Nat) : State := s.setFld 0x25 0 0x14 31 30 p
def State.selfModule (s : State) (plane : Nat) : Nat := s.moduleId plane

/-- The valid entries of the span table. -/
def State.readSpans (s : State) : List Span :=
  (List.range (s.fld 0x25 0 0x30 16 0)).filterMap (fun p =>
    let a := modAddr (s.fld 0x25 0 0x2C 25 0 * 16 + 32 * p)
    if (s.byte (a + 3)).toNat % 2 = 1 then
      some { id := p, layer := s.readNat a 2, site := s.readNat (a + 2) 1, module := s.readNat (a + 4) 2 % 2 ^ 14,
             hive := s.readNat (a + 6) 1 % 16, first := s.readNat (a + 8) 5, elems := s.readNat (a + 16) 4,
             off4k := s.readNat (a + 20) 4 }
    else none)

def State.span (s : State) (p : Nat) : Option Span := s.fg.spans.find? (fun q => q.id == p)

/-- This module merges the span (R422). -/
def State.mergesHere (s : State) (q : Span) : Bool := q.site == s.siteId.toNat && q.module == s.ownModule

/-- The span state array (R424). -/
def State.spanState (s : State) (p : Nat) : Nat := modAddr (s.fld 0x25 0 0x34 25 0 * 16 + 8 * p)
def State.baseRound (s : State) (p : Nat) : Nat := s.readNat (s.spanState p) 2
def State.setBaseRound (s : State) (p r : Nat) : State := s.writeNat (s.spanState p) 2 r
def State.mergeRound (s : State) (p : Nat) : Nat := s.readNat (s.spanState p + 2) 2
def State.setMergeRound (s : State) (p r : Nat) : State := s.writeNat (s.spanState p + 2) 2 r
def State.gap (s : State) (p : Nat) : Bool := (s.byte (s.spanState p + 4)).toNat % 2 == 1
def State.setGap (s : State) (p : Nat) (b : Bool) : State := s.writeNat (s.spanState p + 4) 1 (b2n b)

/-- The forager writes every entry of the array as zero (R424). -/
def State.clearSpans (s : State) : State := s.clearRange (s.spanState 0) (8 * s.fld 0x25 0 0x30 16 0)

/-- MINBASE: the earliest BASE_ROUND over the valid spans (R450). -/
def State.minBase (s : State) : Nat :=
  match s.fg.spans with
  | [] => 0
  | q :: qs => qs.foldl (fun m p => if serialLater 16 m (s.baseRound p.id) then s.baseRound p.id else m) (s.baseRound q.id)

/-- DRIFT (R450). -/
def State.drift (s : State) : Nat := if s.fg.spans.isEmpty then 0 else serialDiff 16 s.round16 s.minBase
def State.driftA (s : State) : Nat := s.fld 0x25 0 0x1C 27 24

/-! ### The forager's own state of a shard (R427, R431) -/

/-- A shard that a hive of this module owns, and where its arrays stand. -/
structure FgShard where
  hive : Nat
  e : OwnE
  b : Nat
  ref : Nat
  err : Nat
  slot : Nat
  slotBytes : Nat
  deriving DecidableEq, Repr

/-- Insert by a key, rising. -/
def insertBy {α : Type} (key : α → Nat) (x : α) : List α → List α
  | [] => [x]
  | y :: ys => if key x < key y then x :: y :: ys else y :: insertBy key x ys

def sortBy {α : Type} (key : α → Nat) (xs : List α) : List α := xs.foldl (fun l x => insertBy key x l) []

/-- Owned shards of all hives by shard id. -/
def State.ownedAll (s : State) : List (Nat × OwnE) :=
  sortBy (fun q => q.2.shard) ((List.range 16).flatMap (fun h => (s.hive h).own.map (fun e => (h, e))))

/-- The blocks of a shard: span, first element and count (R431). -/
def blocksFrom (spans : List Span) (layer hi : Nat) : Nat → Nat → List (Nat × Nat × Nat)
  | 0, _ => []
  | fuel + 1, lo =>
    if hi ≤ lo then []
    else
      match spans.find? (fun q => q.layer == layer && decide (q.first ≤ lo) && decide (lo < q.first + q.elems)) with
      | none => blocksFrom spans layer hi fuel (lo + 1)
      | some q =>
        let n := min (min hi (q.first + q.elems)) ((lo / 4096 + 1) * 4096)
        (q.id, lo, n - lo) :: blocksFrom spans layer hi fuel n

def State.blocksOf (s : State) (e : OwnE) : List (Nat × Nat × Nat) :=
  blocksFrom s.fg.spans e.layer (e.off + e.elems) e.elems e.off

def State.dmode (s : State) : Nat := s.fld 0x25 0 0x20 2 0
def State.bmode (s : State) : Nat := s.fld 0x25 0 0x20 5 3
def State.codecK (s : State) : Nat := s.fld 0x25 0 0x20 15 6

/-- SLOT_BYTES of a shard. -/
def State.slotBytes (s : State) (e : OwnE) : Nat := ((s.blocksOf e).map (fun b => recBytes s.dmode b.2.2 s.codecK)).sum

/-- The layout of BASECOPY and EFB. -/
def State.fgLayout (s : State) : List FgShard :=
  (s.ownedAll.foldl (fun (p : List FgShard × Nat × Nat) q =>
    let (l, b, x) := p
    let n := up64 (4 * q.2.elems)
    let sb := s.slotBytes q.2
    let f : FgShard := { hive := q.1, e := q.2, b := b, ref := b + n, err := x, slot := x + n, slotBytes := sb }
    (l ++ [f], b + 2 * n, x + n + 16 * up64 sb)) ([], mainAddr (s.regionBase 4), mainAddr (s.regionBase 3))).1

/-- Bytes of the shard area of BASECOPY and of EFB that the layout takes. -/
def State.fgExtent (s : State) : Nat × Nat :=
  s.ownedAll.foldl (fun (p : Nat × Nat) q =>
    let n := up64 (4 * q.2.elems)
    (p.1 + 2 * n, p.2 + n + 16 * up64 (s.slotBytes q.2))) (0, 0)

def FgShard.slotAddr (f : FgShard) (round : Nat) : Nat := f.slot + round % 16 * up64 f.slotBytes

def State.w32At (s : State) (a i : Nat) : W32 := BitVec.ofNat 32 (s.readNat (a + 4 * i) 4)
def State.putW32 (s : State) (a i : Nat) (v : W32) : State := s.writeNat (a + 4 * i) 4 v.toNat

/-- The records of a pending slot. -/
def State.slotRecs (s : State) (f : FgShard) (q : Slot) : List Rec := parseRecs (q.bytes + 1) (s.readMem (f.slotAddr q.round) q.bytes)

/-! ### Merge records (R428) -/

structure MergeRec where
  auth : Nat
  pub : Nat
  acc : Nat
  wsum : Nat
  stream : Nat
  step : Nat
  site : Nat
  deriving DecidableEq, Repr

def State.mergeRec (s : State) (q : Span) (ns : Nat) : MergeRec :=
  let n := up64 (4 * q.elems)
  let a := mainAddr (s.regionBase 4 + q.off4k * 4096)
  { auth := a, pub := a + n, acc := a + 2 * n, wsum := a + 3 * n, stream := a + 4 * n, step := n, site := a + (4 + ns) * n }

/-- Bytes of a merge record. -/
def mergeBytes (q : Span) (ns : Nat) : Nat := (4 + ns) * up64 (4 * q.elems) + 32768

/-- The outer program image of a merge hive (R442). -/
def State.outerImage (s : State) (hive : Nat) : List Byte := s.progImage (fastAddr hive (s.fld 0x25 0 0x38 15 0 * 4096))

/-! ### Sending (R436, R445, R464 to R467) -/

/-- The transport holds a message of this module: on a port, or on its way to the own far link. -/
def State.inTransport (s : State) (b : Block) : Bool :=
  s.ports.any (fun p => p.2.tx.any (fun t => t.owner == .forager && t.blk.desc == b.desc))

/-- A block of another site already delivered, or more than 16 rounds old (R468). -/
def State.farDup (s : State) (b : Block) : Bool :=
  b.desc.srcSite != s.siteId &&
    (s.fg.farSeen.contains (b.desc.srcSite.toNat, b.desc.srcModule.toNat, b.tag.round.toNat, b.desc.shard.toNat, b.desc.frag.toNat,
        b.desc.seq)
      || (serialLater 16 s.round16 b.tag.round.toNat && decide (16 < serialDiff 16 s.round16 b.tag.round.toNat)))

/-- Remember the tuple of a block of another site for 16 rounds. -/
def State.noteFar (s : State) (b : Block) : State :=
  if b.desc.srcSite = s.siteId then s
  else
    let keep := s.fg.farSeen.filter (fun t => !(serialLater 16 s.round16 t.2.2.1 && decide (16 < serialDiff 16 s.round16 t.2.2.1)))
    { s with fg := { s.fg with farSeen := keep ++ [(b.desc.srcSite.toNat, b.desc.srcModule.toNat, b.tag.round.toNat, b.desc.shard.toNat,
        b.desc.frag.toNat, b.desc.seq)] } }

/-- A message reaches the own forager. One of another site is new work, which only a RUNNING forager takes, and takes once (R20, R468). -/
def State.ownForager (s : State) (b : Block) : State :=
  if b.desc.srcSite ≠ s.siteId && !s.fnRunning .forager then s
  else if s.farDup b then s.count64 0x25 0 0x2E8 1
  else
    let s := s.noteFar b
    { s with fg := { s.fg with inbox := s.fg.inbox ++ [b] } }

/-- Send a forager message to the forager of a module, over the site fabric or through a gateway (R436, R465, R466). -/
def State.fgSend (s : State) (o : TxOwner) (plane site dst : Nat) (b : Block) : State :=
  if site = s.siteId.toNat then
    if dst = s.moduleId plane then s.ownForager b
    else s.sendMsg plane (BitVec.ofNat 14 dst) 3 0 b o none 0
  else
    s.sendFar (b.desc.shard.toNat % 16) site { b with payload := tunnelHeader site plane dst 3 0 ++ b.payload } o 0

/-- A delta message goes toward its span's merge module; when no transport takes it, it waits in its pending slot (R437, R464). -/
def State.sendDelta (s : State) (d : DeltaMsg) : State :=
  match s.span d.span with
  | none => s
  | some q =>
    let far := s.selfFar.length
    let s := s.fgSend .forager q.hive q.site q.module d.blk
    let own := q.site = s.siteId.toNat && q.module = s.moduleId q.hive
    if own || s.selfFar.length ≠ far then
      { s with fg := { s.fg with deltas := s.fg.deltas.filter (fun x => x.blk.desc != d.blk.desc) } }
    else if s.inTransport d.blk then s
    else
      { s with fg := { s.fg with deltas := s.fg.deltas.map (fun x => if x = d then { x with failed := some s.cycle } else x) } }

/-- A slot is freed once all its messages are acknowledged and every span that overlaps its shard has a later base (R437). -/
def State.freeSlots (s : State) : State :=
  let keep := fun (q : Slot) =>
    match s.ownedAll.find? (fun o => o.2.shard == q.shard) with
    | none => false
    | some o =>
      let ps := (s.blocksOf o.2).map (fun b => b.1)
      s.fg.deltas.any (fun d => d.round == q.round && ps.contains d.span) || ps.any (fun p => !serialLater 16 (s.baseRound p) q.round)
  { s with fg := { s.fg with slots := s.fg.slots.filter keep } }

/-- The transport has delivered a forager message. -/
def State.fgAcked (s : State) (b : Block) : State :=
  ({ s with fg := { s.fg with deltas := s.fg.deltas.filter (fun x => x.blk.desc != b.desc) } }).freeSlots

/-- A lower level has given up on a forager message: one of a pending slot is sent again (R437), at once within the site, and 100 ms
after every gateway failed (R464). -/
def State.fgFailed (s : State) (b : Block) (far : Bool) : State :=
  match s.fg.deltas.find? (fun x => x.blk.desc == b.desc) with
  | none => s
  | some d =>
    if far then { s with fg := { s.fg with deltas := s.fg.deltas.map (fun x => if x = d then { x with failed := some s.cycle } else x) } }
    else s.sendDelta d

/-! ### Distribution by the ownership table (R445) -/

/-- The ownership table's entries for this site: module, layer, first element and elements. -/
def State.siteOwners (s : State) : List (Nat × Nat × Nat × Nat) :=
  match (List.range 16).find? (fun h => s.fnState (.hive (BitVec.ofNat 4 h)) ≠ 0) with
  | none => []
  | some h =>
    (List.range (s.ownCount h)).filterMap (fun i =>
      let a := modAddr (s.ownBase h + 32 * i)
      if (s.byte a).toNat % 2 = 1 && s.byte (a + 6) == s.siteId then
        some (s.readNat (a + 4) 2 % 2 ^ 14, s.readNat (a + 2) 2, s.readNat (a + 8) 5, s.readNat (a + 16) 4)
      else none)

/-- A read of the ownership table meets an error of its SRAM words (R271). -/
def State.noteOwners (s : State) : State :=
  match (List.range 16).find? (fun h => s.fnState (.hive (BitVec.ofNat 4 h)) ≠ 0) with
  | none => s
  | some h => s.noteUe (modAddr (s.ownBase h)) (32 * s.ownCount h)

def overlaps (a n b m : Nat) : Bool := decide (a < b + m) && decide (b < a + n)

/-- The modules of the site that a port can reach, and this one. -/
def State.siteModules (s : State) (plane : Nat) : List Nat :=
  (List.range (s.fld 0x22 plane 0x28 13 0)).filter (fun d => d = s.moduleId plane || (s.route plane d).isSome)

/-- The base header (R444). -/
def baseHeader (base prev installAt : Nat) (req notice : Bool) (records : Nat) : List Byte :=
  leBytes 2 base ++ leBytes 2 prev ++ leBytes 3 installAt ++ leBytes 1 (b2n req + 2 * b2n notice) ++ leBytes 2 records
    ++ List.replicate 22 0

/-- Distribute one message of a publication, the work of `o`: each module gets the records that touch its elements, and every other module
a NOTICE. -/
def State.distribute (s : State) (plane : Nat) (o : TxOwner) (b : Block) : State :=
  match s.span b.desc.shard.toNat with
  | none => s
  | some q =>
    let h := b.payload.take 32
    let rs := parseRecs (b.payload.length + 1) (b.payload.drop 32)
    let own := s.siteOwners.filter (fun o => o.2.1 == q.layer)
    (s.siteModules plane).foldl (fun s m =>
      let mine := own.filter (fun o => o.1 == m)
      let part := rs.filter (fun r => mine.any (fun o => overlaps r.first r.count o.2.2.1 o.2.2.2))
      if mine.any (fun o => overlaps q.first q.elems o.2.2.1 o.2.2.2) then
        if part.isEmpty then s
        else s.fgSend o plane s.siteId.toNat m
          { b with payload := h.take 8 ++ leBytes 2 part.length ++ h.drop 10 ++ (part.map (fun r => r.bytes)).flatten }
      else if b.desc.frag = 0 then
        s.fgSend o plane s.siteId.toNat m { b with payload := h.take 7 ++ leBytes 1 2 ++ leBytes 2 0 ++ h.drop 10 }
      else s) s.noteOwners

/-- Put INSTALL_AT into a base message: STEP + INSTALL_LEAD, or STEP while drift-held (R445). -/
def State.withInstallAt (s : State) (b : Block) (gateway : Bool) : Block :=
  let at_ := if gateway && s.driftHold then s.step24 else s.step24 + s.fld 0x25 0 0x28 27 24
  { b with payload := b.payload.take 4 ++ leBytes 3 at_ ++ b.payload.drop 7 }

/-! ### Forming a delta (R430 to R436) -/

/-- Group whole records into messages of at most `limit` payload bytes after a header of 32. -/
def packRecs (limit : Nat) : List Rec → List Rec → Nat → List (List Rec)
  | [], cur, _ => if cur.isEmpty then [] else [cur]
  | r :: rs, cur, used =>
    let n := 16 + r.payload.length
    if cur.isEmpty || used + n ≤ limit then packRecs limit rs (cur ++ [r]) (used + n)
    else cur :: packRecs limit rs [r] (32 + n)

def State.payloadLimit (s : State) (site : Nat) : Nat := if site = s.siteId.toNat then 65536 else 65520

/-- A record as encoded: its span, the count of its non-finite elements, and whether a word read for it was uncorrectable. -/
structure EncRec where
  span : Nat
  r : Rec
  bad : Nat
  poison : Bool
  deriving DecidableEq, Repr

/-- The hive serves its masters to the forager, and no die under recovery holds up a shard's words, its pending slots or its working copies (R24, R270, R296, R523). -/
def State.shardServed (s : State) (f : FgShard) : Bool :=
  let st := s.fnState (.hive (BitVec.ofNat 4 f.hive))
  st != 3 && st != 4 && s.storeRefusal (s.homeAddr f.hive f.e) (stateSize f.e.elems 0) == 0
    && [f.b, f.ref, f.err].all (fun a => !s.dieHolds a (4 * f.e.elems)) && !s.dieHolds f.slot (16 * up64 f.slotBytes)
    && [0, 64].all (fun o => !s.dieHolds (s.wcDesc (f.e.wc + o)).base.toNat (spanBytes (s.wcDesc (f.e.wc + o))))

/-- Encode one block: E and REF move, and the record comes back. -/
def State.encodeBlock (s : State) (f : FgShard) (span first count : Nat) : State × EncRec :=
  let i0 := first - f.e.off
  let vs := (List.range count).map (fun k => s.masterVal f.hive f.e (i0 + k))
  let xs := vs.zipIdx.map (fun p => toF32 ((p.1.sub (ofF32 (s.w32At f.ref (i0 + p.2)))).add (ofF32 (s.w32At f.err (i0 + p.2)))))
  let ok := xs.map (fun x => if (ofF32 x).isFinite then x else 0)
  let bad := (xs.filter (fun x => !(ofF32 x).isFinite)).length
  let r := encodeRec s.dmode s.codecK first (fun k => s.draws s.fg.seed k) ok
  let home := s.homeAddr f.hive f.e
  let reads := [(home + 4 * i0, 4 * count), (home + compOff f.e.elems + 2 * i0, 2 * count), (f.ref + 4 * i0, 4 * count),
                (f.err + 4 * i0, 4 * count)]
  let (s, poison) := s.meetUe reads
  let ds := r.decode
  let s := (List.range count).foldl (fun s k =>
    let x := xs.getD k 0
    let e := if (ofF32 x).isFinite then toF32 ((ofF32 x).sub (ds.getD k .zero)) else 0
    (s.putW32 f.err (i0 + k) e).putW32 f.ref (i0 + k) (toF32 (vs.getD k .zero))) s
  (s.drew count, { span := span, r := r, bad := bad, poison := poison })

/-- Encode a shard: its records are appended to the pending slot, and come back. -/
def State.encodeShard (s : State) (f : FgShard) (round : Nat) : State × List EncRec :=
  let (s, rs) := (s.blocksOf f.e).foldl (fun (p : State × List EncRec) b =>
    let (s, r) := p.1.encodeBlock f b.1 b.2.1 b.2.2
    (s, p.2 ++ [r])) (s, [])
  let bs := (rs.map (fun e => e.r.bytes)).flatten
  let s := s.writeMem (f.slotAddr round) bs
  let q : Slot := { shard := f.e.shard, hive := f.hive, round := round, bytes := bs.length }
  ({ s with fg := { s.fg with slots := s.fg.slots.filter (fun x => !(x.shard == q.shard && x.round % 16 == round % 16)) ++ [q] } }, rs)

/-- The messages of a span's records for round `r` (R436). -/
def State.deltaMsgs (s : State) (q : Span) (round : Nat) (samples : W64) (rs : List EncRec) : List Block :=
  let join := s.fg.joined
  let joined := join.isSome
  (packRecs (s.payloadLimit q.site) (rs.map (fun e => e.r)) [] 32).zipIdx.map (fun p =>
    let mine := rs.filter (fun e => p.1.contains e.r)
    let hdr := leBytes 8 samples.toNat ++ leBytes 2 p.1.length ++ leBytes 1 (b2n joined) ++ leBytes 1 0
      ++ leBytes 2 (if joined then join.getD 0 else 0) ++ List.replicate 18 0
    { tag := sealTag { s.now { kind := 6, scale := 0x7F, layer := BitVec.ofNat 16 q.layer, count := 1,
                                 flags := flagBit fNONFINITE (mine.any (fun e => e.bad != 0)) ||| flagBit fPOISON (mine.any (fun e => e.poison)) }
                     with round := BitVec.ofNat 16 round },
      desc := { extent := BitVec.ofNat 40 q.elems, shard := BitVec.ofNat 16 q.id, frag := BitVec.ofNat 18 p.2 },
      payload := hdr ++ (p.1.map (fun r => r.bytes)).flatten })

/-- Number and send the messages of one span, and keep them until they are acknowledged. -/
def State.sendSpan (s : State) (q : Span) (round : Nat) (samples : W64) (rs : List EncRec) : State :=
  (s.deltaMsgs q round samples rs).foldl (fun s b =>
    let (s, b) := s.numbered q.hive (decide (q.site ≠ s.siteId.toNat)) b
    let d : DeltaMsg := { round := round, span := q.id, blk := b }
    ({ s with fg := { s.fg with deltas := s.fg.deltas ++ [d] } }).sendDelta d) s

/-- Encode a closed round (R430). The first that a joining site completes carries JOINED, and no later one (R454). -/
def State.encodeRound (s : State) (round : Nat) (samples : W64) : State :=
  let shards := sortBy (fun f => (s.lotPos f.hive f.e.layer).getD 65536) s.fgLayout
  let (s, rs) := shards.foldl (fun (p : State × List EncRec) f =>
    let (s, r) := p.1.encodeShard f round
    let s := s.updHive f.hive (fun k => { k with unread := k.unread.filter (fun x => x != f.e.shard) })
    (s, p.2 ++ r)) (s, [])
  let bad := (rs.map (fun e => e.bad)).sum
  let s := ((s.count64 0x25 0 0x80 1).count64 0x25 0 0x88 (rs.map (fun e => e.r.count)).sum).count64 0x25 0 0x90
    (rs.map (fun e => e.r.bytes.length)).sum
  let s := (s.count64 0x25 0 0xD8 bad).setFlagN bad 0x25 0 0x18 5
  let s := s.fg.spans.foldl (fun s q =>
    let mine := rs.filter (fun e => e.span == q.id)
    if mine.isEmpty then s else s.sendSpan q round samples mine) s
  ({ s with fg := { s.fg with joined := none } }).freeSlots

/-! ### Merging (R438 to R440) -/

def State.fgDiscard (s : State) : State := s.count64 0x25 0 0x98 1

def State.merge (s : State) (p : Nat) : Merge := (s.fg.merges.find? (fun m => m.span == p)).getD { span := p }
def State.setMerge (s : State) (m : Merge) : State :=
  { s with fg := { s.fg with merges := s.fg.merges.filter (fun x => x.span != m.span) ++ [m] } }

/-- Elements of a span received of a site's round. -/
def Fg.got (f : Fg) (p i r : Nat) : Nat := ((f.recv.find? (fun x => x.span == p && x.site == i && x.round == r)).map (fun x => x.elems)).getD 0

/-- A site is complete for a merge round: its contribution for that round, or for a later one, is complete (R440). -/
def Fg.complete (f : Fg) (q : Span) (i mr : Nat) : Bool :=
  f.recv.any (fun x => x.span == q.id && x.site == i && decide (q.elems ≤ x.elems) && (x.round == mr || serialLater 16 x.round mr))

/-- When the own site became complete for a merge round: with the first of the contributions that make it so (R441). -/
def State.ownSince (s : State) (q : Span) (mr : Nat) : Option W64 :=
  (s.fg.recv.filter (fun x => x.span == q.id && x.site == s.siteId.toNat && (x.round == mr || serialLater 16 x.round mr))).foldl
    (fun (a : Option W64) x => match a, x.doneCC with
      | some t, some u => some (if (s.cycle - t).toNat < (s.cycle - u).toNat then u else t)
      | none, u => u
      | a, none => a) none

/-- A site whose contribution is complete becomes active. -/
def State.activate (s : State) (p i : Nat) : State :=
  match s.fg.sites.find? (fun v => v.span == p && v.site == i) with
  | none => { s with fg := { s.fg with sites := s.fg.sites ++ [{ span := p, site := i }] } }
  | some v =>
    if v.active then s
    else { s with fg := { s.fg with sites := s.fg.sites.map (fun x => if x = v then { x with active := true, missed := 0, again := true } else x) } }

/-- Add one record into ACC and WSUM; the count of non-finite elements comes back. -/
def State.mergeRecord (s : State) (q : Span) (mr : MergeRec) (wt : W32) (r : Rec) : State × Nat :=
  r.decode.zipIdx.foldl (fun (p : State × Nat) d =>
    let i := r.first + d.2
    if !(decide (q.first ≤ i) && decide (i < q.first + q.elems)) then p
    else if !d.1.isFinite then (p.1, p.2 + 1)
    else
      let k := i - q.first
      let s := p.1
      let s := s.putW32 mr.acc k (toF32 (((ofF32 wt).mul d.1).add (ofF32 (s.w32At mr.acc k))))
      (s.putW32 mr.wsum k (fAdd (s.w32At mr.wsum k) wt), p.2)) (s, 0)

/-- merge_message of R439 for an accepted message. -/
def State.mergeMessage (s : State) (q : Span) (b : Block) : State :=
  let r := b.tag.round.toNat
  let i := b.desc.srcSite.toNat
  let mrd := s.mergeRound q.id
  let st0 := if serialLater 16 r mrd then 0 else serialDiff 16 mrd r
  if 7 < st0 && s.fld 0x25 0 0x1C 31 31 = 0 then (s.count64 0x25 0 0xA8 1).setFlag 0x25 0 0x18 2
  else
    let st := min st0 7
    let wt := toF32 ((ofF32 (s.word 0x25 0 (0x40 + 4 * st))).mul (.fin false (leField b.payload 0 8) 0))
    let rs := parseRecs (b.payload.length + 1) (b.payload.drop 32)
    let mr := s.mergeRec q (progNs (s.outerImage q.hive))
    let rs' := if hasFlag b.tag fPOISON then [] else rs
    let (s, ue) := s.meetUe (rs'.flatMap (fun r => [(mr.acc + 4 * (r.first - q.first), 4 * r.count), (mr.wsum + 4 * (r.first - q.first), 4 * r.count)]))
    let (s, bad) := rs'.foldl (fun (p : State × Nat) r =>
      let (s, n) := p.1.mergeRecord q mr wt r
      (s, p.2 + n)) (s, 0)
    let s := s.count64 0x25 0 0xD8 bad
    let before := s.fg.recv.any (fun x => x.site == i)
    let joined := leField b.payload 10 1 % 2 == 1
    let n := (rs.map (fun r => r.count)).sum
    let old := s.fg.recv.find? (fun x => x.span == q.id && x.site == i && x.round == r)
    let e : Received := { span := q.id, site := i, round := r, elems := s.fg.got q.id i r + n, doneCC := old.bind (fun x => x.doneCC) }
    let e := if e.doneCC.isNone && decide (q.elems ≤ e.elems) then { e with doneCC := some s.cycle } else e
    let s : State := { s with fg := { s.fg with
      recv := s.fg.recv.filter (fun x => !(x.span == q.id && x.site == i && x.round == r)) ++ [e] } }
    let s := if q.elems ≤ e.elems then s.activate q.id i else s
    let m := s.merge q.id
    let m := { m with contribs := if m.contribs.contains (i, r) then m.contribs else m.contribs ++ [(i, r)],
                      stale := m.stale || decide (0 < st), flags := m.flags ||| carriedOf b.tag ||| flagBit fPOISON ue,
                      ownCC := if m.ownCC.isNone then s.ownSince q mrd else m.ownCC }
    let s := s.setMerge m
    let s := if 0 < st then (s.count64 0x25 0 0xA0 1).setFlag 0x25 0 0x18 1 else s
    s.setFlagIf (joined && !before) 0x25 0 0x18 7

/-- Sites active for a span, the own site among them always. -/
def State.activeSites (s : State) (p : Nat) : List Nat :=
  s.siteId.toNat :: ((s.fg.sites.filter (fun v => v.span == p && v.active && v.site != s.siteId.toNat)).map (fun v => v.site))

/-- The merge of a span can close: the own site and every active one are complete (R441). -/
def State.mergeReady (s : State) (q : Span) : Bool :=
  (s.activeSites q.id).all (fun i => s.fg.complete q i (s.mergeRound q.id))

/-- The update unit of a hive works on an update, or has one queued: a merge waits (R40, R400). -/
def State.mergeHeld (s : State) (h : Nat) : Bool := (s.hive h).cur.isSome || !(s.hive h).queue.isEmpty

/-- MERGE_WAIT_MS have passed since the own site became complete for a span's open merge (R441). -/
def State.mergeDue (s : State) (q : Span) : Bool :=
  match (s.merge q.id).ownCC with
  | none => false
  | some t => decide (s.fld 0x25 0 0x28 15 0 * 1000000 ≤ (s.cycle - t).toNat)

/-- The forager serves: RUNNING, or DRAINING the work it holds. -/
def State.fgServes (s : State) : Bool :=
  let st := s.fnState .forager
  st == 2 || st == 4

/-- A merge that could close, or is due, waits for the update unit of its hive. -/
def State.mergeWaits (s : State) (h : Nat) : Bool :=
  s.mergeHeld h && s.fgServes && s.fg.spans.any (fun q => q.hive == h && s.mergesHere q && (s.mergeReady q || s.mergeDue q))

/-! ### Closing and publishing (R441 to R446) -/

/-- Run the outer program over a span (R442). -/
def State.runOuter (s : State) (q : Span) (m : Merge) : State :=
  let p := s.outerImage q.hive
  let ns := progNs p
  let mr := s.mergeRec q ns
  let regs := scalarRegs p (s.word 0x25 0 0x3C) (f32OfNat (m.closes + 1)) f32One (f32OfNat m.contribs.length)
  (List.range q.elems).foldl (fun s k =>
    let acc := s.w32At mr.acc k
    let ws := s.w32At mr.wsum k
    let g := if (ofF32 ws).isZero then 0 else hOut ((hIn acc).quot 80 (hIn ws))
    let w := s.w32At mr.auth k
    let ss := (List.range ns).map (fun i => s.w32At (mr.stream + i * mr.step) k)
    let (ss', d, _) := elemPass p regs g w ss
    let s := s.putW32 mr.auth k (fAdd w d)
    ss'.zipIdx.foldl (fun s t => s.putW32 (mr.stream + t.2 * mr.step) k t.1) s) s

/-- The blocks of a span. -/
def spanBlocks (q : Span) : List (Nat × Nat) :=
  (List.range (cdiv q.elems 4096)).map (fun b => (q.first + 4096 * b, min 4096 (q.elems - 4096 * b)))

/-- FP32 records of B_AUTH, each with the count of elements not finite that it leaves out: none. -/
def State.refreshRecs (s : State) (q : Span) (mr : MergeRec) : List (Rec × Nat) :=
  (spanBlocks q).map (fun b => (encodeRec 0 0 b.1 (fun _ => 0) ((List.range b.2).map (fun k => s.w32At mr.auth (b.1 - q.first + k))), 0))

/-- Records of a base delta, each with the count of its elements not finite; B_PUB moves by what they decode to (R443, R434). -/
def State.deltaRecs (s : State) (q : Span) (mr : MergeRec) : State × List (Rec × Nat) :=
  (spanBlocks q).foldl (fun (p : State × List (Rec × Nat)) b =>
    let (s, rs) := p
    let i0 := b.1 - q.first
    let ys := (List.range b.2).map (fun k => fSub (s.w32At mr.auth (i0 + k)) (s.w32At mr.pub (i0 + k)))
    let n := (ys.filter (fun y => !(ofF32 y).isFinite)).length
    let r := encodeRec s.bmode s.codecK b.1 (fun k => s.draws s.fg.seed k) (ys.map (fun y => if (ofF32 y).isFinite then y else 0))
    let s := r.decode.zipIdx.foldl (fun s d => s.putW32 mr.pub (i0 + d.2) (toF32 ((ofF32 (s.w32At mr.pub (i0 + d.2))).add d.1))) s
    (s.drew b.2, rs ++ [(r, n)])) (s, [])

/-- The flags of a publication: STALE when the merge was marked stale (R444), and those carried from the deltas merged (R62). -/
def Merge.tagFlags (m : Merge) : BitVec 12 := m.flags ||| flagBit fSTALE m.stale

/-- The messages of a publication (R444); one with a record that leaves out an element not finite carries NONFINITE (R434). -/
def State.baseMsgs (s : State) (q : Span) (limit base prev count : Nat) (refresh : Bool) (flags : BitVec 12) (rs : List (Rec × Nat)) :
    List Block :=
  (packRecs limit (rs.map (fun e => e.1)) [] 32).zipIdx.map (fun p =>
    { tag := sealTag { s.now { kind := if refresh then 8 else 7, scale := 0x7F, layer := BitVec.ofNat 16 q.layer,
                                 count := BitVec.ofNat 14 (min count 16383),
                                 flags := flags ||| flagBit fNONFINITE (rs.any (fun e => e.2 != 0 && p.1.contains e.1)) } with round := BitVec.ofNat 16 base },
      desc := { extent := BitVec.ofNat 40 q.elems, shard := BitVec.ofNat 16 q.id, frag := BitVec.ofNat 18 p.2 },
      payload := baseHeader base prev 0 false false p.1.length ++ (p.1.map (fun r => r.bytes)).flatten })

/-- Send a publication's messages to a site: distributed in the own one, through a gateway to another. -/
def State.publishTo (s : State) (q : Span) (site : Nat) (bs : List Block) : State :=
  bs.foldl (fun s b =>
    let (s, b) := s.numbered q.hive (decide (site ≠ s.siteId.toNat)) b
    if site = s.siteId.toNat then s.distribute q.hive .forager (s.withInstallAt b false)
    else s.fgSend .forager (q.id % 16) site 0x3FFF b) s

/-- The publication of round `base` is a refresh (R443). -/
def State.refreshDue (s : State) (base : Nat) : Bool :=
  let f := s.fld 0x25 0 0x1C 23 16
  f != 0 && base % f == 0

/-- Publish the base of round `base` to the own site and every other active one (R443, R445). -/
def State.publish (s : State) (q : Span) (m : Merge) (base : Nat) : State :=
  let mr := s.mergeRec q (progNs (s.outerImage q.hive))
  let refresh := s.refreshDue base
  let n := m.contribs.length
  let full := s.refreshRecs q mr
  let (s, rs) :=
    if refresh then ((List.range q.elems).foldl (fun s k => s.putW32 mr.pub k (s.w32At mr.auth k)) s, full) else s.deltaRecs q mr
  let bad := (rs.map (fun e => e.2)).sum
  let s := (s.count64 0x25 0 0xD8 bad).setFlagN bad 0x25 0 0x18 5
  let prev := if refresh then base else m.lastPub
  (s.activeSites q.id).foldl (fun s i =>
    let again := s.fg.sites.any (fun v => v.span == q.id && v.site == i && v.again)
    let bs := if again && !refresh then s.baseMsgs q (s.payloadLimit i) base base n true m.tagFlags full
      else s.baseMsgs q (s.payloadLimit i) base prev n refresh m.tagFlags rs
    let s : State := { s with fg := { s.fg with sites := s.fg.sites.map (fun v =>
      if v.span == q.id && v.site == i then { v with again := false } else v) } }
    s.publishTo q i bs) s

/-- Activity at a close (R440). -/
def State.closeSites (s : State) (q : Span) (mr : Nat) : State :=
  let dead := s.fld 0x25 0 0x28 23 20
  let vs := s.fg.sites.map (fun v =>
    if v.span ≠ q.id || v.site = s.siteId.toNat || !v.active then (v, false)
    else if s.fg.complete q v.site mr then ({ v with missed := 0 }, false)
    else if dead ≤ v.missed + 1 then ({ v with missed := 0, active := false }, true)
    else ({ v with missed := v.missed + 1 }, false))
  let s : State := { s with fg := { s.fg with sites := vs.map (fun v => v.1) } }
  vs.foldl (fun s v => s.setFlagIf v.2 0x25 0 0x18 6) s

/-- The close of a merge (R441). Contributions more than 16 rounds old have no further use (R440, R468). -/
def State.closeMerge (s : State) (q : Span) : State :=
  let mr := s.mergeRound q.id
  let m := s.merge q.id
  let base := (mr + 1) % 65536
  let ns := progNs (s.outerImage q.hive)
  let r := s.mergeRec q ns
  let w := 4 * q.elems
  let reads := [(r.auth, w), (r.acc, w), (r.wsum, w)] ++ (List.range ns).map (fun i => (r.stream + i * r.step, w))
    ++ (if s.refreshDue base then [] else [(r.pub, w)])
  let (s, ue) := s.meetUe reads
  let m := { m with flags := m.flags ||| flagBit fPOISON ue }
  let s := s.runOuter q m
  let s := s.publish q m base
  let s := (List.range q.elems).foldl (fun s k => (s.putW32 r.acc k 0).putW32 r.wsum k 0) s
  let s := (s.closeSites q mr).setMergeRound q.id base
  let s := s.count64 0x25 0 0xB0 1
  let s : State := { s with fg := { s.fg with
    recv := s.fg.recv.filter (fun x => x.span != q.id || !(serialLater 16 base x.round && decide (16 < serialDiff 16 base x.round))) } }
  s.setMerge { span := q.id, closes := m.closes + 1, lastPub := base, lastFlags := m.tagFlags, lastCount := m.contribs.length,
               ownCC := s.ownSince q base }

/-! ### Refresh requests (R446) -/

/-- Ask a span's merge module for a refresh. -/
def State.requestRefresh (s : State) (q : Span) : State :=
  let b : Block :=
    { tag := sealTag { s.now { kind := 8, scale := 0x7F, layer := BitVec.ofNat 16 q.layer, count := 1 } with
                       round := BitVec.ofNat 16 (s.baseRound q.id) },
      desc := { extent := BitVec.ofNat 40 q.elems, shard := BitVec.ofNat 16 q.id },
      payload := baseHeader (s.baseRound q.id) (s.baseRound q.id) 0 true false 0 }
  let (s, b) := s.numbered q.hive (decide (q.site ≠ s.siteId.toNat)) b
  (s.setGap q.id true).fgSend .forager q.hive q.site q.module b

/-- The span has elements in a shard that a hive of this module owns. -/
def State.spanHere (s : State) (q : Span) : Bool :=
  s.ownedAll.any (fun o => o.2.layer == q.layer && overlaps q.first q.elems o.2.off o.2.elems)

/-- Why a write to FG_REFRESH is refused (R457). -/
def State.fgRefreshReason (s : State) (v : Nat) : Nat :=
  if s.fgPhase = 3 && (bitAt v 16 || (s.span (v % 65536)).isSome) then 0 else rsBAD_OPERAND

/-- FG_REFRESH (R446). -/
def State.fgRefresh (s : State) (v : Nat) : State :=
  s.fg.spans.foldl (fun s q => if (bitAt v 16 && s.spanHere q) || (!bitAt v 16 && q.id == v % 65536) then s.requestRefresh q else s) s

/-! ### Installing (R447 to R449) -/

/-- Fields of the base header. -/
def hdrBase (b : Block) : Nat := leField b.payload 0 2
def hdrPrev (b : Block) : Nat := leField b.payload 2 2
def hdrInstallAt (b : Block) : Nat := leField b.payload 4 3
def hdrReq (b : Block) : Bool := leField b.payload 7 1 % 2 == 1
def hdrNotice (b : Block) : Bool := leField b.payload 7 1 / 2 % 2 == 1

def Kept.recs (k : Kept) : List Rec := (k.msgs.map (fun b => parseRecs (b.payload.length + 1) (b.payload.drop 32))).flatten
def Kept.notice (k : Kept) : Bool := k.msgs.any hdrNotice

/-- The elements of a span that this module's hives own, as layer ranges with their shard. -/
def State.ownedIn (s : State) (q : Span) : List (FgShard × Nat × Nat) :=
  s.fgLayout.filterMap (fun f =>
    if f.e.layer = q.layer && overlaps q.first q.elems f.e.off f.e.elems then
      let lo := max q.first f.e.off
      some (f, lo, min (q.first + q.elems) (f.e.off + f.e.elems) - lo)
    else none)

/-- Every record that this module is to get of a kept base is here. -/
def State.keptWhole (s : State) (k : Kept) : Bool :=
  k.notice ||
    match s.span k.span with
    | none => false
    | some q =>
      let rs := k.recs
      (s.ownedIn q).all (fun o => (List.range o.2.2).all (fun i => rs.any (fun r => decide (r.first ≤ o.2.1 + i)
        && decide (o.2.1 + i < r.first + r.count))))

/-- Install a base into the elements of one shard; `fresh` installs a refresh of a site that joins (R448, R453). The working copy is that of
the step after the knock-back's, in a repeated K4 too (R408, R71); for a join, of the step after the present one (log 87). -/
def State.installShard (s : State) (q : Span) (k : Kept) (f : FgShard) (lo n : Nat) (fresh : Bool) : State :=
  let rs := k.recs
  let poison := k.msgs.any (fun b => hasFlag b.tag fPOISON)
  let slots := s.fg.slots.filter (fun x => x.shard == f.e.shard && serialLater 16 k.base x.round && !x.subtracted.contains q.id)
  let prs := slots.map (fun x => s.slotRecs f x)
  let home := s.homeAddr f.hive f.e
  let e0 := lo - f.e.off
  let (s, ue) := if fresh || poison then (s, false) else s.meetUe ([(f.b + 4 * e0, 4 * n), (f.ref + 4 * e0, 4 * n), (home + 4 * e0, 4 * n),
    (home + compOff f.e.elems + 2 * e0, 2 * n)] ++ slots.map (fun x => (f.slotAddr x.round, x.bytes)))
  let s := (if poison then [] else List.range n).foldl (fun s j =>
    let i := lo + j
    let e := i - f.e.off
    let b := s.w32At f.b e
    let nb := if k.refresh then toF32 ((recsAt rs i).getD .zero) else toF32 ((ofF32 b).add ((recsAt rs i).getD .zero))
    if fresh then
      (((s.putMaster f.hive f.e e nb 0).putW32 f.b e nb).putW32 f.ref e nb).putW32 f.err e 0
    else
      let own := sumNum (prs.map (fun p => (recsAt p i).getD .zero))
      let sigma := toF32 (((ofF32 nb).sub (ofF32 b)).sub own)
      let (w', c') := masterAdd (s.master f.hive f.e e) (s.comp f.hive f.e e) (ofF32 sigma)
      let bad := !(ofF32 w').isFinite
      let s := (s.count64 0x24 f.hive 0xD8 (b2n bad)).setFlagIf bad 0x24 f.hive 0x18 5
      ((s.putMaster f.hive f.e e w' c').putW32 f.ref e (fAdd (s.w32At f.ref e) sigma)).putW32 f.b e nb) s
  let s : State := { s with fg := { s.fg with slots := s.fg.slots.map (fun x =>
    if slots.contains x then { x with subtracted := x.subtracted ++ [q.id] } else x) } }
  (s.stateSlot f.hive f.e).deriveWc f.hive f.e (wcRnd (s.lotBytes f.hive f.e.layer)) ((if fresh then s.step24 else s.kbStep) + 1) (poison || ue)

/-- Install a kept base (R448): the masters move, working copies are derived anew (R408), BASE_ROUND advances. -/
def State.installBase (s : State) (k : Kept) (fresh : Bool) : State :=
  match s.span k.span with
  | none => s
  | some q =>
    let s := if k.notice then s else (s.ownedIn q).foldl (fun s o => s.installShard q k o.1 o.2.1 o.2.2 fresh) s
    let s := s.setBaseRound q.id k.base
    let s := if k.refresh && !k.notice then s.setGap q.id false else s
    let s := if k.refresh && !k.notice then s.count64 0x25 0 0xC8 1 else s.count64 0x25 0 0xC0 1
    let s : State := { s with fg := { s.fg with kept := s.fg.kept.filter (fun x => !(x.span == k.span && x.base == k.base)) } }
    s.freeSlots

/-- A kept base may join the installation queue at a K4 now (R448). -/
def State.mayInstall (s : State) (k : Kept) : Bool :=
  s.keptWhole k && (s.driftHold || !serialLater 24 k.installAt s.step24)

/-- Some shard of the base has still to be read for its round (R449). -/
def State.installWaits (s : State) (k : Kept) : Bool :=
  match s.span k.span with
  | none => false
  | some q => !k.notice && (s.ownedIn q).any (fun o => (s.hive o.1.hive).unread.contains o.1.e.shard)

/-- Keep a message of a base, dropping what a refresh replaces (R447). -/
def State.keepBase (s : State) (b : Block) : State :=
  let p := b.desc.shard.toNat
  let base := hdrBase b
  let refresh := b.tag.kind = 8
  let old := s.fg.kept.find? (fun k => k.span == p && k.base == base && k.refresh == refresh)
  let rest := s.fg.kept.filter (fun k => !(k.span == p && k.base == base && k.refresh == refresh))
  let rest := if refresh then rest.filter (fun k => k.span != p || serialLater 16 k.base base) else rest
  let k : Kept := (old.getD { span := p, base := base, prev := hdrPrev b, installAt := hdrInstallAt b, refresh := refresh, msgs := [] })
  { s with fg := { s.fg with kept := rest ++ [{ k with msgs := k.msgs ++ [b] }] } }

/-- The bases of a K4 (R448): each in the order of its round. -/
def State.installQueued (s : State) : State :=
  let ks := sortBy (fun k => serialDiff 16 k.base s.minBase) (s.fg.kept.filter (fun k => k.queued))
  ks.foldl (fun s k => s.installBase k false) s

/-! ### START and joining (R429, R453) -/

/-- What a START that is not a join sets (R429); uncorrectable words among the masters are met as any read meets them (R290). -/
def State.fgInit (s : State) : State :=
  let s := s.fgLayout.foldl (fun s f => s.noteUe (s.homeAddr f.hive f.e) (stateSize f.e.elems 0)) s
  let s := s.fgLayout.foldl (fun s f => (List.range f.e.elems).foldl (fun s i =>
    let v := toF32 (s.masterVal f.hive f.e i)
    ((s.putW32 f.b i v).putW32 f.ref i v).putW32 f.err i 0) s) s
  let r := s.round16
  s.fg.spans.foldl (fun s q =>
    let here := s.mergesHere q
    let s := ((s.setBaseRound q.id r).setMergeRound q.id (if here then r else 0)).setGap q.id false
    if !here then s
    else
      let mr := s.mergeRec q (progNs (s.outerImage q.hive))
      let s := (List.range q.elems).foldl (fun s k => (s.putW32 mr.acc k 0).putW32 mr.wsum k 0) s
      s.setMerge { span := q.id, lastPub := r }) s

/-- Two valid spans of one layer overlap, or a span breaks R423. -/
def spansBad (qs : List Span) : Bool :=
  qs.any (fun q => q.first % 4096 != 0 || q.elems == 0 || q.site == 0xFF
    || qs.any (fun p => p.id != q.id && p.layer == q.layer && overlaps p.first p.elems q.first q.elems))

/-- An element of an owned shard lies in no valid span. -/
def State.uncovered (s : State) (qs : List Span) : Bool :=
  s.ownedAll.any (fun o => ((blocksFrom qs o.2.layer (o.2.off + o.2.elems) o.2.elems o.2.off).map (fun b => b.2.2)).sum != o.2.elems)

/-- SPAN_TABLE (R423): the checks of the table's extent, and those that read it. -/
def State.spanExtentBad (s : State) : Bool :=
  let n := s.fld 0x25 0 0x30 16 0
  n == 0 || decide (65536 < n) || decide (Config.moduleStoreBytes < s.fld 0x25 0 0x2C 25 0 * 16 + 32 * n)
def State.spanTableBad (s : State) : Bool := spansBad s.readSpans || s.uncovered s.readSpans

def rsSPAN_TABLE : Nat := 0xA501
def rsJOIN_FAILED : Nat := 0xA502
def rsBAD_OUTER : Nat := 0xA503

/-- The forager goes to OFF with a reason. -/
def State.fgStop (s : State) (r : Nat) : State :=
  let s := ((s.setFnState .forager 0).setFnReason .forager r).setFgPhase 0
  (s.setFld 0x25 0 0x14 15 0 0).setFld 0x25 0 0x14 29 29 0 |> fun s => { s with fg := {} }

/-- A joining site enters ROUNDS once every valid span has a BASE_ROUND. -/
def State.joinDone (s : State) : State :=
  if s.fgPhase = 2 && s.fg.spans.all (fun q => s.fg.based.contains q.id) then
    (s.setFgPhase 3).setFld 0x25 0 0x14 15 0 0
  else s

/-! ### Merge records under R423 -/

/-- Two byte ranges that share a byte. -/
def meets (a n b m : Nat) : Bool := n != 0 && m != 0 && overlaps a n b m

/-- Two of a list of byte ranges share a byte. -/
def anyMeet : List (Nat × Nat) → Bool
  | [] => false
  | x :: xs => xs.any (fun y => meets x.1 x.2 y.1 y.2) || anyMeet xs

/-- The merge records of this module reach beyond BASECOPY, or overlap another or the shard area (R423); `s` holds the spans. -/
def State.mergeRecsBad (s : State) : Bool :=
  let ms := (s.fg.spans.filter s.mergesHere).map (fun q => (q.off4k * 4096, mergeBytes q (progNs (s.outerImage q.hive))))
  ms.any (fun m => decide (s.regionSize 4 < m.1 + m.2)) || anyMeet ((0, s.fgExtent.1) :: ms)

/-- A hive that merges here is not RUNNING (R423). -/
def State.mergeHiveDown (s : State) : Bool := s.fg.spans.any (fun q => s.mergesHere q && !s.fnRunning (.hive (BitVec.ofNat 4 q.hive)))

end Sys2Proof.Machine
end

