-- ==== Sys2Proof/Machine/FarOps.lean ====
section
/-! DEFINITION. Operations of the far link (chapter 14): the shard code, fragments and their frames, sealing and opening, keys, round-trip
times, acknowledgements and the key exchange. -/

namespace Sys2Proof.Machine

/-! ### The shard code (R471, R472) -/

/-- Multiply in GF(2^8) with the polynomial x^8 + x^4 + x^3 + x^2 + 1. -/
def gfMulGo : Nat → Nat → Nat → Nat → Nat
  | 0, _, _, r => r
  | n + 1, a, b, r =>
    let r := if b % 2 = 1 then r ^^^ a else r
    let a := if 128 ≤ a then (2 * a) ^^^ 0x11D else 2 * a
    gfMulGo n a (b / 2) r
def gfMul (a b : Nat) : Nat := gfMulGo 8 a b 0

/-- 1 / a, for a ≠ 0: a^254. -/
def gfPow : Nat → Nat → Nat
  | 0, _ => 1
  | n + 1, a => gfMul a (gfPow n a)
def gfInv (a : Nat) : Nat := gfPow 254 a

/-- C[j][m] of parity shard j and data shard m. -/
def rsCoef (j m : Nat) : Nat := gfInv ((0x10 + j) ^^^ m)

def gfAddRow (a b : List Nat) : List Nat := List.zipWith (fun x y => x ^^^ y) a b
def gfScale (c : Nat) (a : List Nat) : List Nat := a.map (gfMul c)

/-- Data shards k and bytes S per shard of a fragment of L bytes. -/
def rsK (l : Nat) : Nat := min 16 (cdiv l 4096)
def rsS (l : Nat) : Nat := cdiv l (64 * max (rsK l) 1) * 64

/-- The bytes of a fragment: tag, descriptor, payload. -/
def fragBytes (b : Block) : List Byte := tagBytes b.tag ++ descBytes b.desc ++ b.payload

/-- The data shards of a fragment, padded with zeros. -/
def dataShards (bs : List Byte) : List (List Byte) :=
  let l := bs.length
  let s := rsS l
  (List.range (rsK l)).map (fun m => let d := (bs.drop (m * s)).take s; d ++ List.replicate (s - d.length) 0)

/-- Parity shard j of data shards. -/
def parityShard (ds : List (List Byte)) (j : Nat) : List Byte :=
  let n := (ds.head?.getD []).length
  (ds.zipIdx.foldl (fun a d => gfAddRow a (gfScale (rsCoef j d.2) (d.1.map (fun b => b.toNat)))) (List.replicate n 0)).map
    (fun v => BitVec.ofNat 8 v)

/-- Shard `i` of a fragment. -/
def shardOf (bs : List Byte) (i : Nat) : List Byte :=
  let ds := dataShards bs
  if i < ds.length then ds.getD i [] else parityShard ds i

/-- Solve for the unknowns of an augmented matrix over GF(2^8), column by column. -/
def gfSolve : Nat → Nat → List (List Nat × List Nat) → List (List Nat × List Nat)
  | 0, _, rows => rows
  | n + 1, c, rows =>
    match rows.zipIdx.find? (fun r => decide (c ≤ r.2) && r.1.1.getD c 0 != 0) with
    | none => gfSolve n (c + 1) rows
    | some (p, i) =>
      let inv := gfInv (p.1.getD c 0)
      let p := (gfScale inv p.1, gfScale inv p.2)
      let rest := rows.eraseIdx i
      let elim := fun (r : List Nat × List Nat) =>
        let f := r.1.getD c 0
        if f = 0 then r else (gfAddRow r.1 (gfScale f p.1), gfAddRow r.2 (gfScale f p.2))
      let rest := rest.map elim
      gfSolve n (c + 1) (rest.take c ++ [p] ++ rest.drop c)

/-- The fragment that k distinct shards give: its bytes before the padding is cut, and whether a parity shard stood in. -/
def decodeShards (k : Nat) (sh : Tbl (List Byte)) : List Byte × Bool :=
  let data := sh.filter (fun p => p.1 < k)
  let miss := (List.range k).filter (fun m => !(data.any (fun p => p.1 == m)))
  if miss.isEmpty then ((data.map (fun p => p.2)).flatten, false)
  else
    let par := (sh.filter (fun p => k ≤ p.1)).take miss.length
    let rows := par.map (fun p =>
      let rhs := data.foldl (fun a d => gfAddRow a (gfScale (rsCoef p.1 d.1) (d.2.map (fun b => b.toNat)))) (p.2.map (fun b => b.toNat))
      (miss.map (fun m => rsCoef p.1 m), rhs))
    let sol := gfSolve miss.length 0 rows
    let got := miss.zipIdx.map (fun m => (m.1, ((sol.getD m.2 ([], [])).2).map (fun v => BitVec.ofNat 8 v)))
    (((List.range k).map (fun m => match data.find? (fun p => p.1 == m) with
      | some p => p.2
      | none => ((got.find? (fun p => p.1 == m)).map (fun p => p.2)).getD [])).flatten, true)

/-! ### Registers -/

def State.flWord (s : State) (off hi lo : Nat) : Nat := s.fld 0x25 0 off hi lo
def State.flParity (s : State) : Nat := s.flWord 0x210 28 26
def State.flPeer (s : State) : Nat := s.flWord 0x214 7 0
def State.flSession (s : State) : Nat := s.flWord 0x224 31 30
def State.flDead (s : State) : Bool := s.flWord 0x224 27 27 == 1
def State.srtt (s : State) : Nat := s.flWord 0x230 31 0
def State.flRto (s : State) : Nat := s.flWord 0x238 31 0
def State.updFl (s : State) (f : Fl → Fl) : State := { s with fl := f s.fl }

/-- Nanoseconds since a CT_CYCLE value; one cc lasts 1 ns. -/
def State.since (s : State) (t : W64) : Nat := (s.cycle - t).toNat

/-- The highest receive key derived. -/
def Fl.rxTop (l : Fl) : Nat := l.rxKeys.foldl (fun m k => max m k.no) 0

/-- The key in use for sending. -/
def Fl.txKey (l : Fl) : LinkKey := (l.txKeys.find? (fun k => k.no == l.txNo)).getD {}

/-- Write the key numbers and the sending slot into FL_STATUS. -/
def State.showKeys (s : State) : State :=
  ((s.setFld 0x25 0 0x224 29 29 (s.fl.txNo % 2)).setFld 0x25 0 0x224 23 12 (s.fl.txNo % 4096)).setFld 0x25 0 0x224 11 0 (s.fl.rxTop % 4096)

/-! ### The transmit part (R480) -/

def up4k (n : Nat) : Nat := cdiv n 4096 * 4096

/-- Size of LONGHAUL and of its two parts. -/
def State.rxPart (s : State) : Nat := s.flWord 0x21C 15 0 * 2 ^ 20
def State.txPart (s : State) : Nat := s.regionSize 5 - s.rxPart

/-- Bytes of the transmit part in use: the fragments stored, and those of messages granted and not yet stored. -/
def State.txUsed (s : State) : Nat :=
  (s.fl.tx.map (fun q => up4k (fragBytes q.blk).length)).sum
    + (s.ports.map (fun p => ((p.2.grants.filter (fun g => g.far)).map (fun g => up4k (g.req.length.toNat + 32))).sum)).sum

def State.rxUsed (s : State) : Nat := ((s.fl.rx ++ s.fl.fwd).map (fun q => (q.shards.map (fun p => p.2.length)).sum)).sum

/-! ### Frames and the transmit queue (R470, R481) -/

/-- The class of a message on FL's egress (R40); what the row does not name goes with the blocks forwarded to a gateway (log 18). -/
def farClass (kind : Nat) : Nat := if kind = 9 then 1 else if kind = 11 then 3 else if kind = 10 then 4 else 2

/-- The header bytes of a frame (R470). -/
def cdxHeader (f : CdxFrame) : List Byte :=
  leBytes 1 (f.ver.toNat * 16 + f.typ.toNat) ++ leBytes 1 (f.epoch.toNat + 2 * b2n f.retx + 4 * b2n f.parity) ++ [f.part]
    ++ leBytes 1 (f.kM1.toNat + f.nPar.toNat * 16) ++ leBytes 4 f.session.toNat ++ beBytes 8 f.frameNo.toNat ++ leBytes 4 f.fseq.toNat
    ++ leBytes 2 f.shardLen.toNat ++ leBytes 2 0 ++ leBytes 4 f.txCC.toNat ++ leBytes 4 f.fragLen.toNat

/-- Wire bytes of a frame with preamble and gap. -/
def State.wireBytes (s : State) (f : CdxFrame) : Nat :=
  let body := if f.typ = 2 then 48 else if f.typ = 5 then 8 else f.body.length
  14 + 32 + body + (if f.typ = 6 && s.flSession ≠ 2 then 0 else 16) + 4 + 20 + (if s.flWord 0x210 29 29 = 1 then 48 else 0)

/-- A frame waits for admission. -/
def State.flQueue (s : State) (f : CdxFrame) (cls : Nat) : State :=
  s.updFl (fun l => { l with waiting := l.waiting ++ [{ f := f, cls := cls, since := s.cycle }] })

/-- Frames of a fragment's shards `is`. -/
def State.shardFrames (s : State) (q : FragTx) (is : List Nat) (retx : Bool) : List CdxFrame :=
  let bs := fragBytes q.blk
  let k := rsK bs.length
  is.map (fun i =>
    { typ := 1, retx := retx, parity := decide (k ≤ i), part := BitVec.ofNat 8 i, kM1 := BitVec.ofNat 4 (k - 1),
      nPar := BitVec.ofNat 3 s.flParity, fseq := q.fseq, shardLen := BitVec.ofNat 16 (rsS bs.length),
      fragLen := BitVec.ofNat 17 bs.length, body := shardOf bs i })

/-- Queue shards of a fragment. -/
def State.sendShards (s : State) (q : FragTx) (is : List Nat) (retx : Bool) : State :=
  let cls := if retx then 0 else farClass q.blk.tag.kind.toNat
  let s := (s.shardFrames q is retx).foldl (fun s f => s.flQueue f cls) s
  if retx then s.count64 0x25 0 0x2A0 is.length else s

/-- A fragment's timer restarts (R477). -/
def State.restartTimer (s : State) (fseq : W32) : State :=
  s.updFl (fun l => { l with tx := l.tx.map (fun x => if x.fseq = fseq then { x with timed := true, timer := s.cycle } else x) })

/-- All shards of a fragment for the first time. -/
def State.sendFragment (s : State) (q : FragTx) : State :=
  s.sendShards q (List.range (rsK (fragBytes q.blk).length + s.flParity)) false

/-- Store a far-bound message in the transmit part; it goes out while the session is up (R471, R480). -/
def State.farStore (s : State) (b : Block) : State :=
  let q : FragTx := { fseq := s.fl.nextFseq, blk := b }
  let s := s.updFl (fun l => { l with nextFseq := l.nextFseq + 1, tx := l.tx ++ [q] })
  if s.flSession = 2 then s.sendFragment q else s

/-- The first frame of the lowest class. -/
def firstOf : List FlFrame → Option FlFrame
  | [] => none
  | f :: fs =>
    match firstOf fs with
    | none => some f
    | some g => if g.cls < f.cls then some g else some f

/-- A waiting frame can be admitted: it, and each queued frame it would overtake, can start within 20 µs of its own admission (R481). -/
def State.canAdmit (s : State) (f : FlFrame) : Bool :=
  let ahead := fun (c : Nat) (q : List FlFrame) => ((q.filter (fun x => x.cls ≤ c)).map (fun x => s.wireBytes x.f)).sum
  let own := cdiv (ahead f.cls s.fl.txq) 100
  let before := fun (y : FlFrame) =>
    let q := s.fl.txq.takeWhile (fun x => x != y)
    ((s.fl.txq.filter (fun x => x.cls < y.cls)).map (fun x => s.wireBytes x.f)).sum
      + ((q.filter (fun x => x.cls = y.cls)).map (fun x => s.wireBytes x.f)).sum
  decide (own ≤ 20000) && (s.fl.txq.filter (fun y => f.cls < y.cls)).all (fun y =>
    decide (s.since y.cc + cdiv (before y + s.wireBytes f.f) 100 ≤ 20000))

/-! ### Keys (R484 to R487) -/

def asciiBytes (t : String) : List Byte := t.toList.map (fun c => BitVec.ofNat 8 c.toNat)
def tsKey (ts : List Byte) : List Byte := Config.hkdfExpand ts (asciiBytes "CDX1 key") 32
def tsSalt (ts : List Byte) : List Byte := Config.hkdfExpand ts (asciiBytes "CDX1 iv") 4
def tsNext (ts : List Byte) : List Byte := Config.hkdfExpand ts (asciiBytes "CDX1 next") 64

/-- The key of a number that a secret gives (R484). -/
def mkKey (n : Nat) (ts : List Byte) : LinkKey := { no := n, key := tsKey ts, salt := tsSalt ts }

/-- A body under the key stream of AES-256-GCM: sealing and opening are the same. -/
def gcmXor (key nonce body : List Byte) : List Byte := body.zipIdx.map (fun p => p.1 ^^^ Config.gcmStream key nonce p.2)

/-- Seal a body under additional data: the sealed body and its tag (R485). -/
def gcmSeal (key nonce aad body : List Byte) : List Byte × List Byte :=
  let c := gcmXor key nonce body
  (c, Config.gcmTagOf key nonce aad c)

/-- Open a sealed body: `none` when its tag does not verify (R485). -/
def gcmOpen (key nonce aad sealed tag : List Byte) : Option (List Byte) :=
  if Config.gcmTagOf key nonce aad sealed = tag then some (gcmXor key nonce sealed) else none

/-- Move to the next sending key, when it is due and the receiver has reported it; the key after it takes the slot left, and the secret it
is derived from replaces the one before (R484, R486). A frame sent before that counts as overdue. -/
def State.rollKey (s : State) (frame : Bool) : State :=
  let l := s.fl
  if !(decide (2 ^ 32 ≤ l.txUnder) || l.moveAsked) then s
  else if l.txNo + 1 ≤ l.peerRxNo then
    let ts := tsNext l.txTs
    ((s.updFl (fun l => { l with txKeys := l.txKeys.filter (fun k => k.no == l.txNo + 1) ++ [mkKey (l.txNo + 2) ts], txTs := ts,
                                 txNo := l.txNo + 1, txUnder := 0, moveAsked := false })).setFlag 0x25 0 0x228 4).showKeys
  else if frame then s.count64 0x25 0 0x2F0 1 else s

/-- The frame that carries FL's frames (R469). -/
def State.flEth (s : State) : FlEth :=
  if s.flWord 0x210 29 29 = 0 then
    { ether := some (BitVec.ofNat 16 (s.flWord 0x248 31 16)), dst := BitVec.ofNat 48 (s.word64 0x25 0 0x250), src := Config.flMac }
  else
    { udp := some (BitVec.ofNat 16 (s.flWord 0x248 15 0)), dst := BitVec.ofNat 48 (s.word64 0x25 0 0x258), src := Config.flMac,
      dstIp := BitVec.ofNat 128 (s.word64 0x25 0 0x270 + 2 ^ 64 * s.word64 0x25 0 0x278),
      srcIp := BitVec.ofNat 128 (s.word64 0x25 0 0x260 + 2 ^ 64 * s.word64 0x25 0 0x268) }

/-- Seal and send a frame (R485). With a fragment's shard its timer restarts (R477). The session's frames are numbered from 0; a HELLO outside a session has no key. -/
def State.flEmit (s : State) (q : FlFrame) : State :=
  let keyed := !(q.f.typ = 6 && s.flSession ≠ 2)
  let s := if keyed then s.rollKey true else s
  let l := s.fl
  let echo := match l.echo with
    | some (c, t) => (c, BitVec.ofNat 32 (s.since t))
    | none => (Config.freeW32 s.freeCtr, Config.freeW32 (s.freeCtr + 1))
  let body :=
    if q.f.typ = 2 then
      leBytes 4 l.cum.toNat ++ leBytes 32 (l.stored.foldl (fun v n =>
        let b := serialDiff 32 n (l.cum.toNat + 1)
        if b < 256 then v + 2 ^ b else v) 0) ++ leBytes 4 echo.1.toNat ++ leBytes 4 echo.2.toNat ++ leBytes 4 l.rxTop
    else if q.f.typ = 5 then leBytes 4 q.f.txCC.toNat ++ leBytes 4 (s.since q.since)
    else q.f.body
  let s := if q.f.typ = 2 && l.echo.isNone then { s with freeCtr := s.freeCtr + 2 } else s
  let f : CdxFrame := { q.f with eth := s.flEth, epoch := if keyed then BitVec.ofNat 1 l.txNo else 0, session := l.sess,
                                 frameNo := if keyed then l.frameNo else 0, txCC := s.cycle.setWidth 32 }
  let f : CdxFrame :=
    if keyed then
      let nonce := l.txKey.salt ++ beBytes 8 f.frameNo.toNat
      let (c, t) := gcmSeal l.txKey.key nonce (cdxHeader f) body
      { f with body := c, gcmTag := t }
    else { f with body := body }
  let s := if keyed then s.updFl (fun l => { l with frameNo := l.frameNo + 1, txUnder := l.txUnder + 1 }) else s
  let s := if q.f.typ = 1 then s.restartTimer q.f.fseq else s
  { (s.count64 0x25 0 0x280 1) with flOut := s.flOut ++ [f] }

/-- Authenticate a received frame (R485): the plaintext, with what its acceptance records. A frame under no held key, of another
session, seen before or too old is discarded and counted. -/
def State.flOpen (s : State) (f : CdxFrame) : State × Option (List Byte) :=
  let l := s.fl
  let no := f.frameNo.toNat
  if f.session ≠ l.sess || l.rxKeys.isEmpty then ((s.count64 0x25 0 0x2B8 1).setFlag 0x25 0 0x228 3, none)
  else
    match l.rxKeys.find? (fun k => k.no % 2 == f.epoch.toNat) with
    | none => ((s.count64 0x25 0 0x2B8 1).setFlag 0x25 0 0x228 3, none)
    | some k =>
      match gcmOpen k.key (k.salt ++ beBytes 8 no) (cdxHeader f) f.body f.gcmTag with
      | none => ((s.count64 0x25 0 0x2B8 1).setFlag 0x25 0 0x228 3, none)
      | some body =>
        if l.seenNo.contains no || no + 65536 < l.highNo then (s.count64 0x25 0 0x2B8 1, none)
        else
          let high := max l.highNo no
          let dead := s.flDead
          let low := l.rxKeys.foldl (fun m q => min m q.no) k.no
          let s := s.updFl (fun l => { l with
            seenNo := (l.seenNo ++ [no]).filter (fun x => high ≤ x + 65536), highNo := high, lastAuth := s.cycle,
            rxSwitch := if low < k.no && l.rxSwitch.isNone then some s.cycle else l.rxSwitch,
            tx := if dead then l.tx.map (fun q => { q with timer := s.cycle }) else l.tx })
          (((s.setFld 0x25 0 0x224 27 27 0).setFld 0x25 0 0x224 28 28 (k.no % 2)).count64 0x25 0 0x288 1, some body)

/-! ### Acknowledgements and round trips (R473, R476) -/

def State.queueAck (s : State) : State :=
  (s.updFl (fun l => { l with sinceAck := 0, storeCC := none })).flQueue { typ := 2 } 1

/-- A round-trip sample (R476); fractions of a nanosecond are dropped (log 19). -/
def State.rttSample (s : State) (r : Nat) : State :=
  let srtt := s.srtt
  let var := s.flWord 0x234 31 0
  let (srtt', var') :=
    if srtt = 0 then (r, r / 2)
    else ((7 * srtt + r) / 8, (3 * var + (if srtt ≤ r then r - srtt else srtt - r)) / 4)
  let rto := max (s.flWord 0x218 15 0 * 1000) (srtt' + 4 * var')
  let s := ((s.setFld 0x25 0 0x230 31 0 (min srtt' (2 ^ 32 - 1))).setFld 0x25 0 0x234 31 0 (min var' (2 ^ 32 - 1))).setFld 0x25 0 0x238 31 0
    (min rto (2 ^ 32 - 1))
  s.updFl (fun l => { l with tx := l.tx.map (fun q => { q with rto := none }) })

/-- The sample that ECHO_CC and HOLD_CC give. -/
def State.echoSample (s : State) (echo hold : Nat) : State :=
  s.rttSample ((s.cycle.toNat + 2 ^ 33 - echo - hold) % 2 ^ 32)

/-! ### Storing received fragments (R472, R478) -/

def Fl.isStored (l : Fl) (q : W32) : Bool := l.stored.contains q.toNat || serialLater 32 l.cum.toNat q.toNat

/-- Mark a fragment stored, and advance CUM_FSEQ past what is stored. -/
def Fl.advance (l : Fl) : Nat → Fl
  | 0 => l
  | n + 1 =>
    if l.stored.contains l.cum.toNat then
      Fl.advance { l with stored := l.stored.filter (fun x => x != l.cum.toNat), cum := l.cum + 1 } n
    else l

/-- The fragments between the highest seen and this one count as seen now (R474). -/
def Fl.noteGap (l : Fl) (q : W32) (now : W64) : Fl :=
  let top := l.rx.foldl (fun m (x : FragRx) => if serialLater 32 x.fseq.toNat m then x.fseq.toNat else m)
    (l.stored.foldl (fun m x => if serialLater 32 x m then x else m) (l.cum - 1).toNat)
  let n := serialDiff 32 q.toNat (top + 1)
  if !serialLater 32 q.toNat top then l
  else
    let new := (List.range n).map (fun i => BitVec.ofNat 32 (top + 1 + i))
    { l with rx := l.rx ++ ((new.filter (fun x => !l.isStored x && !l.rx.any (fun y => y.fseq == x))).map
        (fun x => { fseq := x, firstCC := now })) }

/-! ### The key exchange (R482 to R484) -/

/-- The HELLO body without its signature. -/
def State.helloBody (s : State) (nonce eph : List Byte) : List Byte :=
  let chain := Config.identityChain s.store.gen
  nonce ++ [s.siteId, 0] ++ leBytes 2 (s.ownModule) ++ leBytes 4 (leField s.boot.image 4 4) ++ eph ++ leBytes 2 chain.length ++ chain

def helloSite (b : List Byte) : Nat := leField b 32 1
def helloSec (b : List Byte) : Nat := leField b 36 4
def helloEph (b : List Byte) : List Byte := (b.drop 40).take 133
def helloChain (b : List Byte) : List Byte := (b.drop 175).take (leField b 173 2)
def helloSigned (b : List Byte) : List Byte := b.take (175 + leField b 173 2)
def helloSig (b : List Byte) : List Byte := (b.drop (175 + leField b 173 2)).take 132

/-- Cut a HELLO body into at most four frames. -/
def helloFrames (b : List Byte) : List CdxFrame :=
  let ps := cutBytes 9000 b.length b
  ps.zipIdx.map (fun p => { typ := 6, part := BitVec.ofNat 8 p.2, kM1 := BitVec.ofNat 4 (ps.length - 1), body := p.1 })

/-- This side's HELLO: nonce and ephemeral key from the entropy source; the responder also signs the initiator's body (R482). -/
def State.makeHello (s : State) (h : Hello) : State × Hello :=
  let (d, s) := s.nextFree
  let own := s.helloBody (Config.freeBytes d 32) (Config.ephPub d)
  let msg := if h.starter then own else h.peer ++ own
  (s, { h with draw := d, own := own ++ Config.identitySign s.store.gen msg })

/-- A read of the allow list meets an error of its SRAM words (R271, R483). -/
def State.noteAllow (s : State) : State := s.noteUe (modAddr (s.flWord 0x240 25 0 * 16)) (64 * s.flWord 0x244 6 0)

/-- The peer's HELLO may be accepted (R483). -/
def State.helloOk (s : State) (h : Hello) (b : List Byte) : Bool :=
  let chain := helloChain b
  let dig := Config.sha512 (Config.chainKey chain)
  let allow := modAddr (s.flWord 0x240 25 0 * 16)
  let msg := if h.starter then h.own ++ helloSigned b else helloSigned b
  Config.chainVerifies chain && (List.range (s.flWord 0x244 6 0)).any (fun i => s.readMem (allow + 64 * i) 64 == dig)
    && helloSite b == s.flPeer && decide (s.store.floor.toNat ≤ helloSec b)
    && Config.ecdsaVerify (Config.chainKey chain) msg (helloSig b)

/-- The secrets of an exchange (R484). -/
def deriveHello (h : Hello) : Hello :=
  let a := if h.starter then h.own else h.peer
  let b := if h.starter then h.peer else h.own
  let prk := Config.hkdfExtract (a.take 32 ++ b.take 32) (Config.ecdhX h.draw (helloEph h.peer))
  let ts := fun (dir : String) => Config.hkdfExpand prk (asciiBytes "CDX1 ts " ++ asciiBytes dir) 64
  let fin := fun (dir : String) => Config.hkdfExpand prk (asciiBytes "CDX1 fin " ++ asciiBytes dir) 64
  if h.starter then { h with tsTx := ts "a2b", tsRx := ts "b2a", finTx := fin "a2b", finRx := fin "b2a" }
  else { h with tsTx := ts "b2a", tsRx := ts "a2b", finTx := fin "b2a", finRx := fin "a2b" }

/-- The FINISH body under a secret. -/
def finishBody (h : Hello) (fin : List Byte) : List Byte :=
  let a := if h.starter then h.own else h.peer
  let b := if h.starter then h.peer else h.own
  Config.hmacSha512 fin (Config.sha512 (a ++ b))

/-- Set up the keys of a new session: keys 0 and 1 in the slots of each direction (R486, R487). -/
def State.newKeys (s : State) (h : Hello) : State :=
  let tx := tsNext h.tsTx
  let rx := tsNext h.tsRx
  (s.updFl (fun l => { l with txKeys := [mkKey 0 h.tsTx, mkKey 1 tx], txTs := tx, txNo := 0, txUnder := 0, moveAsked := false,
                              peerRxNo := 0, rxKeys := [mkKey 0 h.tsRx, mkKey 1 rx], rxTs := rx, rxFresh := none, rxSwitch := none,
                              frameNo := 0, seenNo := [], highNo := 0 })).showKeys

/-- Send FINISH. -/
def State.sendFinish (s : State) (h : Hello) : State := s.flQueue { typ := 7, body := finishBody h h.finTx } 1

/-- The session is up: fragments kept are sent under new FSEQs (R479, R484). -/
def State.sessionUp (s : State) : State :=
  let s := (s.setFld 0x25 0 0x224 31 30 2).setFlag 0x25 0 0x228 0
  let tx := s.fl.tx.zipIdx.map (fun p => { p.1 with fseq := BitVec.ofNat 32 p.2, timed := false, rto := none })
  let s := s.updFl (fun l => { l with hello := none, tx := tx, nextFseq := BitVec.ofNat 32 tx.length, cum := 0, stored := [], rx := [],
                                      sinceAck := 0, storeCC := none, echo := none, lastAuth := s.cycle })
  tx.foldl (fun s q => s.sendFragment q) s

/-- End a link session: everything of it but the transmit part goes (R479). -/
def State.sessionDown (s : State) : State :=
  let s := (s.setFld 0x25 0 0x224 31 30 0).updFl (fun l => { l with
    hello := none, rekey := none, txKeys := [], txTs := [], txNo := 0, txUnder := 0, moveAsked := false, peerRxNo := 0, rxKeys := [],
    rxTs := [], rxFresh := none, rxSwitch := none, rx := [], stored := [], cum := 0, waiting := [], txq := [], sess := 0, sinceAck := 0, storeCC := none,
    echo := none })
  (s.setFld 0x25 0 0x224 28 28 0).showKeys

def rsFL_DOWN : Nat := 0xA504
def rsNO_GATEWAY : Nat := 0xA505
def rsPEER_REJECTED : Nat := 0xA506
def rsGW_TABLE : Nat := 0xA507

end Sys2Proof.Machine
end

