-- ==== Sys2Proof/Machine/FabricOps.lean ====
section
/-! DEFINITION. The receiver's side of the site-fabric transport (R331 to R342) and what becomes of a delivered message at its unit; the
sender's handling of a message that ends. -/

namespace Sys2Proof.Machine

/-! ### Delivery to a unit (R274, R332, R393, R438, R467, R468) -/

/-- A message for the forager is for another site: it begins with a tunnel header, which names another site and has zeros in its reserved
bytes, and one of a KIND that the forager never takes for itself comes from this site (R332, R465; log 20). -/
def State.tunnelled (s : State) (b : Block) : Bool :=
  let k := b.tag.kind.toNat
  leField b.payload 0 1 != s.siteId.toNat && decide (16 ≤ b.payload.length) && leField b.payload 6 10 == 0
    && (k == 6 || k == 7 || k == 8 || b.desc.srcSite == s.siteId)

/-- The receive area of a core in bytes. -/
def State.rxArea (s : State) (c : Nat) : Nat := s.fld 0x10 c 0x700 11 0 * 4096

/-- The places of a core's receive area in use, by first byte and length: of blocks held, and those kept for granted messages. -/
def State.rxTaken (s : State) (c : Nat) : List (Nat × Nat) :=
  (s.core c).rx.filterMap (fun b => b.pos.map (fun o => (o, b.blk.payload.length)))
    ++ (s.ports.map (fun q => q.2.grants.filterMap (fun g =>
      if g.req.unit = 0 ∧ g.req.index.toNat / 4 = c then g.pos.map (fun o => (o, g.req.length.toNat)) else none))).flatten

/-- The first place in a receive area where `n` bytes lie clear of those in use, `none` when the area has no room (R274; log 71). -/
def State.rxPlace (s : State) (c n : Nat) : Option Nat :=
  let ps := s.rxTaken c
  let free := fun (o : Nat) => decide (o + n ≤ s.rxArea c) && ps.all (fun p => decide (o + n ≤ p.1) || decide (p.1 + p.2 ≤ o))
  (0 :: ps.map (fun p => p.1 + p.2)).find? free

/-- A block is written to its place in a core's receive area, for a context (R274). -/
def State.landRx (s : State) (c x : Nat) (pos : Option Nat) (b : Block) : State :=
  let s := match pos with
    | some o => s.writeMem (coreAddr c (s.fld 0x10 c 0x700 24 12 * 4096 + o)) b.payload
    | none => s
  s.updCore c (fun k => { k with rx := k.rx ++ [{ x := x, pos := pos, blk := b }] })

/-- A message at the unit it is addressed to. Of a tag whose TRES is wrong no other field is read: a context holds the block as one with
POISON, and a hive, the forager and the front end discard it (R60). `pos` is its place in a core's receive area. -/
def State.deliver (s : State) (bad : Bool) (unit index : Nat) (pos : Option Nat) (b : Block) : State :=
  if bad then
    if unit = 0 then s.landRx (index / 4) (index % 4) pos b
    else if unit = 1 then s.count64 0x24 index 0xC8 1
    else if unit = 3 then s.fgDiscard
    else s.count64 0x21 0 0x48 1
  else if unit = 3 && s.tunnelled b then s.farStore b
  else if s.farDup b then s.count64 0x25 0 0x2E8 1
  else
    let s := s.noteFar b
    if unit = 0 then
      if b.tag.kind = 9 then s.offer (index / 4) (index % 4) .tagged (cmdOfBytes b.payload)
      else s.landRx (index / 4) (index % 4) pos b
    else if unit = 1 then s.hiveMessage index b
    else if unit = 3 then
      if b.tag.kind = 6 || b.tag.kind = 7 || b.tag.kind = 8 then { s with fg := { s.fg with inbox := s.fg.inbox ++ [b] } }
      else s.fgDiscard
    else { s with frontIn := s.frontIn ++ [b] }

/-! ### The sender: a message ends -/

/-- The transport gives a message up (R342, R464): one for another site goes on to the next gateway, and the forager sends its own again. -/
def State.txFailed (s : State) (p : Nat) (t : SfTx) : State :=
  match t.far with
  | some (site, _) =>
    let n := s.selfFar.length
    let s := s.sendFar p site.toNat t.blk t.owner (t.tried + 1)
    if t.owner ≠ .forager then s
    else if s.selfFar.length ≠ n then s.fgAcked t.blk
    else if s.inTransport t.blk then s else s.fgFailed t.blk true
  | none => if t.owner = .forager then s.fgFailed t.blk false else s.msgFinished t.owner

/-- The message is delivered. -/
def State.txDone (s : State) (t : SfTx) : State :=
  match t.coll with
  | some (.msg g d m) => s.collDelivered g d m
  | some _ => s
  | none => if t.owner = .forager then s.fgAcked t.blk else s.msgFinished t.owner

def State.findTx (s : State) (p : Nat) (reqId : W32) : Option SfTx := (s.port p).tx.find? (fun t => t.reqId == reqId)
def State.dropTx (s : State) (p : Nat) (reqId : W32) : State := s.updPort p (fun k => { k with tx := k.tx.filter (fun t => t.reqId != reqId) })
def State.putTx (s : State) (p : Nat) (t : SfTx) : State :=
  s.updPort p (fun k => { k with tx := k.tx.map (fun q => if q.reqId = t.reqId then t else q) })

/-- The DATA frames of a granted message from an offset on (R330, R333). -/
def State.dataFrames (s : State) (p : Nat) (t : SfTx) (grant : W32) (from_ : Nat) : List SfFrame :=
  ((cutBytes 4096 t.blk.payload.length t.blk.payload).zipIdx.filter (fun q => from_ ≤ 4096 * q.2)).map (fun q =>
    { typ := 4, srcModule := BitVec.ofNat 14 (s.moduleId p), srcSite := s.siteId, dstModule := t.dst, unit := t.unit, index := t.index,
      reqId := t.reqId, grantId := grant, length := BitVec.ofNat 32 t.blk.payload.length, offset := BitVec.ofNat 32 (4096 * q.2),
      blk := { t.blk with payload := q.1 }, coll := t.coll })

/-- Send a message's DATA frames; the last becomes the frame to resend. -/
def State.sendData (s : State) (p : Nat) (t : SfTx) (grant : W32) (from_ : Nat) (retx : Bool) : State :=
  let fs := s.dataFrames p t grant from_
  let s := fs.foldl (fun s f => if retx then s.reemit p f else s.emit p f) s
  s.putTx p { t with grant := some grant, last := (fs.getLast?).getD t.last, lastCC := s.cycle }

/-! ### The receiver: refusals, room and grants (R334 to R336) -/

/-- An answer to a frame. -/
def State.answer (s : State) (p : Nat) (f : SfFrame) (typ : BitVec 4) (grant : W32) (reason offset : Nat) : State :=
  s.emit p { typ := typ, srcModule := BitVec.ofNat 14 (s.moduleId p), srcSite := s.siteId, dstModule := f.srcModule, unit := f.unit,
             index := f.index, reqId := f.reqId, grantId := grant, length := f.length, reason := BitVec.ofNat 16 reason,
             offset := BitVec.ofNat 32 offset }

/-- DST_UNIT names an existing unit. -/
def unitOk (unit index : Nat) : Bool :=
  if unit = 0 then decide (index < 384) else if unit = 1 then decide (index < 16) else if unit = 2 then true
  else (unit == 3 || unit == 4) && index == 0

/-- The function behind a unit. -/
def unitFn (unit index : Nat) : Fn :=
  if unit = 0 then .core (BitVec.ofNat 7 (index / 4)) else if unit = 1 then .hive (BitVec.ofNat 4 index)
  else if unit = 2 then .group (BitVec.ofNat 12 index) else if unit = 3 then .forager else .hp

/-- Why a credit request is refused, 0 when it is not (R334); a far-bound one also while the far link cannot forward (R479). -/
def State.creqReason (s : State) (p : Nat) (f : SfFrame) (far : Bool) : Nat :=
  let u := f.unit.toNat
  let i := f.index.toNat
  firstReason [
    (!s.fnRunning (.sf (BitVec.ofNat 4 p)), stateReason (s.fnState (.sf (BitVec.ofNat 4 p)))),
    (!unitOk u i, rsBAD_OPERAND),
    (!s.fnRunning (unitFn u i), stateReason (s.fnState (unitFn u i))),
    ((s.route p f.srcModule.toNat).isNone, 0xA201),
    (f.length = 0 || 65536 < f.length.toNat, rsBAD_SHAPE),
    (u = 0 && s.rxArea (i / 4) < f.length.toNat, rsBAD_SHAPE),
    (u = 3 && far && s.flDown, rsFL_DOWN)]

/-- The destination unit has room for a request (R274, R318, R335, R356, R363, R393). A collective's request waits for its COLL (R363). Whether a
request to the forager is for another site does not show in it, so `far` says it (log 17). -/
def State.roomFor (s : State) (f : SfFrame) (far : Bool) : Bool :=
  let u := f.unit.toNat
  let i := f.index.toNat
  let n := f.length.toNat
  if u = 0 then
    (s.rxPlace (i / 4) n).isSome
  else if u = 1 then decide (s.parkUsed i + s.parkReserved i + 2 * n ≤ s.parkBytes i)
  else if u = 2 then
    (match f.coll with
      | some o => s.collIssued i (outCseq o)
      | none => (s.group i).cseq != 0) && decide (s.roomUsed i + s.grantedTo (fun r => r.unit == 2 && r.index == f.index) + n ≤ s.roomBytes i)
  else if u = 3 then !far || decide (s.txUsed + up4k (n + 32) ≤ s.txPart)
  else decide ((s.frontIn.map (fun b => b.payload.length)).sum + s.grantedTo (fun r => r.unit == 4) + n ≤ 65536)

/-- A message's bound T in ns (R335). -/
def State.boundOf (s : State) (p : Nat) (f : SfFrame) : Nat := 1200 + ((s.route p f.srcModule.toNat).getD 0) + f.pathNs.toNat

/-- The byte account of R335: 10.5 ps for each byte. -/
def State.accountOk (s : State) (p : Nat) (f : SfFrame) : Bool :=
  let b := ((s.port p).grants.map (fun g => up4k g.req.length.toNat)).sum + up4k f.length.toNat
  decide (21 * b + 400000 ≤ 2000 * s.boundOf p f)

/-- Grant a withheld request: CGNT goes out, the bound clock starts, and a place is kept for a message to a core. -/
def State.grant (s : State) (p : Nat) (q : SfFrame × Bool) : State :=
  let f := q.1
  let g := (s.port p).nextGrant
  let t := s.boundOf p f
  let pos := if f.unit = 0 then s.rxPlace (f.index.toNat / 4) f.length.toNat else none
  let s := s.updPort p (fun k => { k with held := k.held.erase q, nextGrant := g + 1,
                                          grants := k.grants ++ [{ grantId := g, req := f, tNs := t, cc := s.cycle, pos := pos, far := q.2 }] })
  s.answer p f 2 g 0 0

/-- Withheld requests whose destination no longer takes them are refused (R36, R479). -/
def State.refuseHeld (s : State) (p : Nat) : State :=
  let bad := (s.port p).held.filter (fun q => s.creqReason p q.1 q.2 != 0)
  bad.foldl (fun s q => (s.updPort p (fun k => { k with held := k.held.erase q })).answer p q.1 3 0 (s.creqReason p q.1 q.2) 0) s

/-- The same at every port that withholds some. -/
def State.refuseAll (s : State) : State :=
  ((List.range 16).filter (fun p => !(s.port p).held.isEmpty)).foldl (fun s p => s.refuseHeld p) s

/-- Grant the oldest withheld request whose destination takes it and has room (R36, R335). -/
def State.grantOldest (s : State) (p : Nat) : State :=
  match (s.port p).held.find? (fun q => s.creqReason p q.1 q.2 == 0 && s.roomFor q.1 q.2 && s.accountOk p q.1) with
  | none => s
  | some q => s.grant p q

/-- A grant ends, and a hive's reservation with it. -/
def State.endGrant (s : State) (p : Nat) (g : SfGrant) : State :=
  s.updPort p (fun k => { k with grants := k.grants.filter (fun q => q.grantId != g.grantId) })

/-- Put a part at its place among parts sorted by offset. -/
def insertPart (ps : List (Nat × List Byte)) (off : Nat) (bs : List Byte) : List (Nat × List Byte) :=
  ps.takeWhile (fun q => q.1 ≤ off) ++ (off, bs) :: ps.dropWhile (fun q => q.1 ≤ off)

/-- How far bytes are held without a gap from a position on. -/
def heldFrom (ps : List (Nat × List Byte)) (pos : Nat) : Nat :=
  ps.foldl (fun e q => if q.1 ≤ e && e < q.1 + q.2.length then q.1 + q.2.length else e) pos

/-- The bytes of a complete message; where parts overlap, the first written stands. -/
def joinParts (ps : List (Nat × List Byte)) : List Byte := ps.foldl (fun acc q => acc ++ q.2.drop (acc.length - q.1)) []

/-- The last byte is written: the message is delivered, unless it is a duplicate, and DACK is sent (R64, R333, R336). One of another site
is a duplicate by R468 instead, and of a tag whose TRES is wrong no field tells one (R60). -/
def State.finishGrant (s : State) (p : Nat) (g : SfGrant) : State :=
  let ovr := (s.cycle - g.cc).toNat - g.tNs
  let late := g.tNs < (s.cycle - g.cc).toNat
  let bad := !tagOk g.tag
  let tag := if late && (!bad || g.req.unit = 0) then orFlags g.tag (flagBit fLATE true) else g.tag
  let b : Block := { tag := tag, desc := g.desc, payload := joinParts g.parts }
  let key := (g.desc.srcModule.toNat, g.desc.srcSite.toNat, g.tag.group.toNat, g.desc.seq.toNat, g.desc.frag.toNat)
  let known := bad || g.desc.srcSite != s.siteId
  let dup := !known && (s.port p).dups.contains key
  let s := (s.endGrant p g).updPort p (fun k => { k with
    delivered := k.delivered ++ [(g.req.srcModule.toNat, g.req.reqId.toNat, g.grantId)],
    dups := if dup || known then k.dups else k.dups ++ [key] })
  let s := if late && !dup then (((s.count64 0x22 p 0x90 1).setFlag 0x22 p 0x1C 0).lateEvent 1 ovr p) else s
  let s := if dup then s.count64 0x22 p 0x80 1
    else match g.coll with
      | some o => if g.req.unit = 2 then s.collArrive g.req.index.toNat o b else s
      | none => if g.req.unit = 2 then s else s.deliver bad g.req.unit.toNat g.req.index.toNat g.pos b
  s.answer p g.req 5 g.grantId 0 0

/-- Send a decoded far-link message on: to its unit here, over the site fabric, or by the ownership table (R467). A unit here that does
not exist or is not RUNNING takes nothing (R20; log 70); a command to a core that is not goes to its context, which refuses it with the
core's state (R47). -/
def State.forwardFar (s : State) (b : Block) (fseq : W32) : State :=
  let h := b.payload.take 16
  let b := { b with payload := b.payload.drop 16 }
  if leField h 0 1 ≠ s.siteId.toNat then (s.count64 0x25 0 0x2C8 1).setFlag 0x25 0 0x228 5
  else
    let plane := leField h 1 1 % 16
    let dst := leField h 2 2 % 2 ^ 14
    let u := leField h 4 2
    if dst = 0x3FFF then s.distribute plane (.far fseq) (s.withInstallAt b true)
    else if dst = s.moduleId plane then
      let unit := u / 4096
      let i := u % 4096
      let bad := !tagOk b.tag
      let cmd := unit = 0 && !bad && b.tag.kind == 9
      let pos := if unit = 0 then s.rxPlace (i / 4) b.payload.length else none
      if unit ≠ 2 && unitOk unit i && (cmd || s.fnRunning (unitFn unit i)) then s.deliver bad unit i pos b else s
    else s.sendMsg plane (BitVec.ofNat 14 dst) (BitVec.ofNat 4 (u / 4096)) (BitVec.ofNat 12 u) b (.far fseq) none 0

end Sys2Proof.Machine
end

