-- ==== Sys2Proof/Machine/FarLink.lean ====
section
/-! DEFINITION. The far link's commands (R469 to R488): admission and transmission, frames received, timers, the link's death and its
sessions, and keys. -/

namespace Sys2Proof.Machine

/-- The transmit part takes what the own forager sends this way, while there is room (R464, R480). -/
def State.takeSelfFar (s : State) : Nat → State
  | 0 => s
  | n + 1 =>
    match s.selfFar with
    | [] => s
    | b :: bs =>
      if s.txUsed + up4k (fragBytes b).length ≤ s.txPart then ({ s with selfFar := bs }.farStore b).takeSelfFar n else s

/-- FL takes new work. -/
def State.flUp (s : State) : Bool := s.fnRunning .fl

/-- FL serves the work it holds: RUNNING, or DRAINING what was admitted before (R55). -/
def State.flServes (s : State) : Bool := s.flUp || s.fnState .fl == 4

/-- FL_EGRESS_ADMIT: what the own forager sends by this link is stored first; then the first waiting frame, in class order, is admitted
when it and the frames it would overtake can start in time (R481). -/
def execFlEgressAdmit (s : State) : Out :=
  if !s.flServes then .next s
  else
    let s := if s.flUp then s.takeSelfFar s.selfFar.length else s
    match firstOf s.fl.waiting with
    | none => .next s
    | some f =>
      if !s.canAdmit f then .next s
      else .next (s.updFl (fun l => { l with waiting := l.waiting.erase f, txq := l.txq ++ [{ f with cc := s.cycle }] }))

/-- FL_FRAME_TRANSMIT: the queue's first frame in class order leaves; those of a lower class behind it have waited (R40, R481). -/
def execFlFrameTransmit (s : State) : Out :=
  match firstOf s.fl.txq with
  | none => .next s
  | some f =>
    if s.fnState .fl < 2 || s.fld 0x25 0 0x24 0 0 = 0 then .next s
    else
      let late := s.since f.cc - 20000
      let rest := s.fl.txq.erase f
      let n := (rest.filter (fun x => f.cls < x.cls && !x.waited)).length
      let s := s.updFl (fun l => { l with txq := rest.map (fun x => if f.cls < x.cls then { x with waited := true } else x) })
      let s := (s.count64 0x25 0 0x2D0 n).flEmit f
      .next (if late = 0 then s else (s.count64 0x25 0 0x2D8 1).lateEvent 2 late 0)

/-! ### Frames received -/

/-- An authenticated frame does `body`; any other changes only what `flOpen` says, and one of another version is foreign (R469). -/
def State.onFrame (s : State) (f : CdxFrame) (typ : Nat) (body : State → List Byte → State) : Out :=
  if !(s.flServes && f.typ.toNat == typ) then .next s
  else if f.ver ≠ 1 then .next (s.count64 0x25 0 0x290 1)
  else
    match s.flOpen f with
    | (s, none) => .next s
    | (s, some b) => .next (body s b)

/-- A message that holds coded elements holds no more than the EXTENT of its descriptor: their codes, and a block scale for each at the
most (R63; log 86). A tag whose TRES is wrong tells nothing. -/
def extentFits (b : Block) : Bool :=
  !tagOk b.tag || !(b.tag.kind == 0 || b.tag.kind == 10)
    || decide (b.payload.length ≤ 16 + cdiv (b.desc.extent.toNat * fmtBits b.tag.fmt.toNat) 8 + b.desc.extent.toNat)

/-- A fragment is decoded, stored and sent on (R472, R473). -/
def State.storeFragment (s : State) (q : FragRx) : State :=
  let (bs, rep) := decodeShards q.k q.shards
  let bs := bs.take q.len
  let cum := s.fl.cum
  let s := s.updFl (fun l => { l with rx := l.rx.filter (fun x => x.fseq != q.fseq) })
  let b : Block := { tag := tagOfBytes bs, desc := descOfBytes (bs.drop 16), payload := bs.drop 32 }
  if q.differs || q.len < 32 || rsK q.len ≠ q.k || rsS q.len ≠ q.shard || !extentFits b then s.count64 0x25 0 0x290 1
  else
    let s := s.count64 0x25 0 0x298 (b2n rep)
    let s := s.updFl (fun l =>
      let l := { l with stored := l.stored ++ [q.fseq.toNat], fwd := l.fwd ++ [q], sinceAck := l.sinceAck + 1,
                        storeCC := if l.storeCC.isNone then some s.cycle else l.storeCC }
      l.advance (l.stored.length + 1))
    let s := s.forwardFar b q.fseq
    let busy := s.ports.any (fun p => p.2.tx.any (fun t => t.owner == .far q.fseq))
    let s := s.updFl (fun l => { l with fwd := l.fwd.filter (fun x => x.fseq != q.fseq) ++ (if busy then [q] else []) })
    if s.fl.cum ≠ cum || 16 ≤ s.fl.sinceAck then s.queueAck else s

/-- The shards of a fragment with the shard of a frame, whose fields give the fragment's size when none has given it, or may show another. -/
def keepShard (f : CdxFrame) (old : Option FragRx) (held : Bool) (now : W64) (body : List Byte) : FragRx :=
  let q := old.getD { fseq := f.fseq, firstCC := now }
  let q := if q.known then q
    else { q with known := true, k := f.kM1.toNat + 1, p := f.nPar.toNat, shard := f.shardLen.toNat, len := f.fragLen.toNat,
                  firstCC := if held || old.isSome then q.firstCC else now }
  { q with shards := q.shards.put f.part.toNat body,
           differs := q.differs || f.kM1.toNat + 1 != q.k || f.nPar.toNat != q.p || f.shardLen.toNat != q.shard || f.fragLen.toNat != q.len }

/-- CDX_DATA_RECEIVE. -/
def execCdxDataReceive (f : CdxFrame) (s : State) : Out :=
  s.onFrame f 1 (fun s body =>
    let s := if f.retx then s else s.updFl (fun l => { l with echo := some (f.txCC, s.cycle) })
    let k := f.kM1.toNat + 1
    if s.fl.isStored f.fseq then s.count64 0x25 0 0x2B0 1
    else if !s.flUp then s
    else if k + f.nPar.toNat ≤ f.part.toNat || f.shardLen.toNat ≠ body.length then s.count64 0x25 0 0x290 1
    else
      let s := s.updFl (fun l => l.noteGap f.fseq s.cycle)
      let old := s.fl.rx.find? (fun x => x.fseq == f.fseq)
      let held := old.any (fun x => !x.shards.isEmpty)
      if !held && s.rxPart < s.rxUsed + body.length then (s.count64 0x25 0 0x2C0 1).setFlag 0x25 0 0x228 6
      else
        let q := keepShard f old held s.cycle body
        let s := s.updFl (fun l => { l with rx := l.rx.filter (fun x => x.fseq != f.fseq) ++ [q] })
        if q.k ≤ q.shards.length then s.storeFragment q else s)

/-- CDX_ACK_RECEIVE: fragments it shows stored are freed, and it gives a sample (R473, R476). An RX_KEY_NO once reported stays reported
(R486). -/
def execCdxAckReceive (f : CdxFrame) (s : State) : Out :=
  s.onFrame f 2 (fun s b =>
    let cum := leField b 0 4
    let sack := leField b 4 32
    let gone := fun (q : FragTx) =>
      serialLater 32 cum q.fseq.toNat || (serialLater 32 q.fseq.toNat cum && bitAt sack (serialDiff 32 q.fseq.toNat (cum + 1)))
    let s := s.updFl (fun l => { l with tx := l.tx.filter (fun q => !gone q), peerRxNo := max l.peerRxNo (leField b 44 4) })
    s.echoSample (leField b 36 4) (leField b 40 4))

/-- One NAK entry: the NEED lowest-numbered missing shards, and one more when another is missing, go again (R475, R477). -/
def State.nakEntry (s : State) (e : List Byte) : State :=
  match s.fl.tx.find? (fun q => q.fseq.toNat == leField e 0 4) with
  | none => s
  | some q =>
    let v := leField e 4 4
    let n := rsK (fragBytes q.blk).length + s.flParity
    let miss := (List.range n).filter (fun i => bitAt v i)
    (s.restartTimer q.fseq).sendShards q (miss.take (bitsOf v 23 20 + 1)) true

/-- CDX_NAK_RECEIVE. -/
def execCdxNakReceive (f : CdxFrame) (s : State) : Out :=
  s.onFrame f 3 (fun s b => (List.range (leField b 0 1)).foldl (fun s i => s.nakEntry ((b.drop (1 + 8 * i)).take 8)) s)

/-- CDX_PROBE_RECEIVE: a PROBE_ECHO answers (R470, R472). -/
def execCdxProbeReceive (f : CdxFrame) (s : State) : Out :=
  s.onFrame f 4 (fun s _ => s.flQueue { typ := 5, txCC := f.txCC } 1)

/-- CDX_PROBE_ECHO_RECEIVE. -/
def execCdxProbeEchoReceive (f : CdxFrame) (s : State) : Out :=
  s.onFrame f 5 (fun s b => s.echoSample (leField b 0 4) (leField b 4 4))

/-- CDX_FOREIGN_FRAME (R469, R485). FL has no counter of bad FCS or of codewords. -/
def execCdxForeignFrame (why : ForeignWhy) (s : State) : Out :=
  if !s.flUp then .next s
  else
    match why with
    | .authFail => .next ((s.count64 0x25 0 0x2B8 1).setFlag 0x25 0 0x228 3)
    | .foreign => .next (s.count64 0x25 0 0x290 1)
    | _ => .next s

/-! ### Timers (R473, R474, R477) -/

/-- ACK_TIMER. -/
def execAckTimer (s : State) : Out :=
  match s.fl.storeCC with
  | some t => if s.flServes && decide (100000 ≤ s.since t) then .next s.queueAck else .next s
  | none => .next s

/-- A fragment is overdue at the receiver, and no NAK entry has named it for SRTT (R474). -/
def State.overdue (s : State) (q : FragRx) : Bool :=
  let higher := ((s.fl.rx.filter (fun x => !x.shards.isEmpty && serialLater 32 x.fseq.toNat q.fseq.toNat)).length)
    + (s.fl.stored.filter (fun x => serialLater 32 x q.fseq.toNat)).length
  (4 ≤ higher || max (s.srtt / 8) 50000 ≤ s.since q.firstCC) && (match q.nakCC with
    | some t => decide (s.srtt ≤ s.since t)
    | none => true)

/-- FRAGMENT_OVERDUE: a NAK entry names the missing shards. NEED holds at 15 for a fragment of which nothing has arrived. -/
def execFragmentOverdue (fseq : W32) (s : State) : Out :=
  match s.fl.rx.find? (fun x => x.fseq == fseq) with
  | none => .next s
  | some q =>
    if !(s.flServes && s.overdue q) then .next s
    else
      let n := if q.known then q.k + q.p else 20
      let miss := ((List.range n).filter (fun i => !(q.shards.any (fun p => p.1 == i)))).foldl (fun v i => v + 2 ^ i) 0
      let need := min 15 (q.k - q.shards.length)
      let s := s.updFl (fun l => { l with rx := l.rx.map (fun x => if x.fseq = fseq then { x with nakCC := some s.cycle } else x) })
      .next (s.flQueue { typ := 3, body := leBytes 1 1 ++ leBytes 4 fseq.toNat ++ leBytes 4 (miss + need * 2 ^ 20) } 0)

/-- FRAGMENT_RTO_EXPIRY: all data shards go again, and the fragment's timeout doubles up to 2 s (R477, R479). The timer runs again once they
are sent. -/
def execFragmentRtoExpiry (fseq : W32) (s : State) : Out :=
  match s.fl.tx.find? (fun q => q.fseq == fseq) with
  | none => .next s
  | some q =>
    let rto := q.rto.getD s.flRto
    if !(s.flServes && q.timed && !s.flDead && s.flSession == 2 && decide (rto ≤ s.since q.timer)) then .next s
    else
      let s := (s.count64 0x25 0 0x2A8 1).sendShards q (List.range (rsK (fragBytes q.blk).length)) true
      .next (s.updFl (fun l => { l with tx := l.tx.map (fun x =>
        if x.fseq = fseq then { x with timed := false, rto := some (min (2 * rto) 2000000000) } else x) }))

/-! ### A dead link (R479) -/

/-- LINK_DEAD: no authenticated frame for LINK_DEAD_MS. -/
def execLinkDead (s : State) : Out :=
  if s.flServes && s.flSession == 2 && !s.flDead && decide (s.flWord 0x218 31 16 * 1000000 ≤ s.since s.fl.lastAuth) then
    .next (((s.setFlag 0x25 0 0x228 2).setFld 0x25 0 0x224 27 27 1).updFl (fun l => { l with deadCC := s.cycle, probeCC := s.cycle - 100000000 }))
  else .next s

/-- PROBE_TIMER: every 100 ms while DEAD. -/
def execProbeTimer (s : State) : Out :=
  if s.flServes && s.flDead && decide (100000000 ≤ s.since s.fl.probeCC) then
    .next ((s.updFl (fun l => { l with probeCC := s.cycle })).flQueue { typ := 4 } 1)
  else .next s

/-- SESSION_DEAD: DEAD has lasted SESSION_DEAD_S; the session ends and a new one begins. -/
def execSessionDead (s : State) : Out :=
  if s.flServes && s.flDead && s.flSession == 2 && decide (s.flWord 0x21C 31 16 * 1000000000 ≤ s.since s.fl.deadCC) then
    .next s.sessionDown
  else .next s

/-! ### Sessions (R482 to R484) -/

/-- HELLO_TIMER: the side with the lower site id, without a session, sends HELLO every 50 ms, and 1 s after it has refused one. -/
def execHelloTimer (s : State) : Out :=
  let refused := match s.fl.refusedCC with
    | some t => decide (s.since t < 1000000000)
    | none => false
  if !(s.flUp && s.flSession != 2 && decide (s.siteId.toNat < s.flPeer) && decide (50000000 ≤ s.since s.fl.helloCC) && !refused) then .next s
  else
    let (s, h) := match s.fl.hello with
      | some h => (s, h)
      | none => s.makeHello { starter := true }
    let (n, s) := s.nextFree
    let s := (s.setFld 0x25 0 0x224 31 30 1).updFl (fun l => { l with
      hello := some h, initiator := true, helloCC := s.cycle, sessionNo := if l.hello.isSome then l.sessionNo else Config.freeW32 n })
    .next ((helloFrames h.own).foldl (fun s f => s.flQueue f 1) s)

/-- The peer's whole HELLO outside a session: refused, or answered. The initiator chooses the SESSION and sends its FINISH in it; the
responder learns it there, and its FINISH follows (R470, R484; log 91). -/
def State.helloWhole (s : State) (h : Hello) (b : List Byte) : State :=
  let s := s.noteAllow
  if !s.helloOk h b then
    ((s.setFlag 0x25 0 0x228 1).setFnReason .fl rsPEER_REJECTED).updFl (fun l => { l with hello := none, refusedCC := some s.cycle })
  else
    let h := { h with peer := b, parts := [] }
    let s := s.setFld 0x25 0 0x224 31 30 1
    let (s, h) := if h.starter then (s, h) else s.makeHello h
    let s := if h.starter then s else (helloFrames h.own).foldl (fun s f => s.flQueue f 1) s
    let h := deriveHello h
    let s := (s.newKeys h).updFl (fun l => { l with hello := some { h with sentFin := h.starter }, sess := if h.starter then l.sessionNo else 0 })
    if h.starter then s.sendFinish h else s

/-- The peer's whole HELLO of an exchange inside the session (R488). -/
def State.rekeyWhole (s : State) (h : Hello) (b : List Byte) : State :=
  let s := s.noteAllow
  if !s.helloOk h b then (s.setFlag 0x25 0 0x228 1).setFnReason .fl rsPEER_REJECTED |>.updFl (fun l => { l with rekey := none })
  else
    let h := { h with peer := b, parts := [] }
    let (s, h) := if h.starter then (s, h) else s.makeHello h
    let s := if h.starter then s else (helloFrames h.own).foldl (fun s f => s.flQueue f 1) s
    let h := deriveHello h
    (s.updFl (fun l => { l with rekey := some { h with sentFin := true } })).sendFinish h

/-- Every part of a HELLO is here. -/
def helloAll (n : Nat) (parts : Tbl (List Byte)) : Option (List Byte) :=
  if (List.range n).all (fun i => parts.any (fun p => p.1 == i)) then some ((parts.map (fun p => p.2)).flatten) else none

/-- HELLO_RECEIVE. Outside a session a HELLO is in clear; inside one it is sealed and starts, or answers, a new exchange. -/
def execHelloReceive (f : CdxFrame) (s : State) : Out :=
  if !(s.flUp && f.typ == 6) then .next s
  else if f.ver ≠ 1 then .next (s.count64 0x25 0 0x290 1)
  else
    let n := f.kM1.toNat % 4 + 1
    if s.flSession ≠ 2 then
      let refused := match s.fl.refusedCC with
        | some t => decide (s.since t < 1000000000)
        | none => false
      let mine := decide (s.siteId.toNat < s.flPeer)
      let h := s.fl.hello.getD {}
      if refused || (mine && !h.starter) || !h.tsTx.isEmpty then .next s
      else
        let h := { h with parts := h.parts.put f.part.toNat f.body }
        match helloAll n h.parts with
        | none => .next (s.updFl (fun l => { l with hello := some h }))
        | some b => .next (s.helloWhole h b)
    else
      s.onFrame f 6 (fun s body =>
        let h := s.fl.rekey.getD {}
        let h := { h with parts := h.parts.put f.part.toNat body }
        match helloAll n h.parts with
        | none => s.updFl (fun l => { l with rekey := some h })
        | some b => s.rekeyWhole h b)

/-- FINISH_RECEIVE: a verified FINISH brings the session up, or ends an exchange inside it (R484, R488). The exchange's secrets replace those
of the keys that come next, whose receipt must then be reported anew; while the highest receive key is in use already, the one after it
comes from them. -/
def execFinishReceive (f : CdxFrame) (s : State) : Out :=
  if s.flSession ≠ 2 then
    match s.fl.hello with
    | none => .next s
    | some h =>
      if h.tsTx.isEmpty then .next s
      else
        let s := if h.starter then s else s.updFl (fun l => { l with sess := f.session })
        s.onFrame f 7 (fun s b =>
          if b ≠ finishBody h h.finRx then s
          else (if h.sentFin then s else s.sendFinish h).sessionUp)
  else
    s.onFrame f 7 (fun s b =>
      match s.fl.rekey with
      | none => s
      | some h =>
        if h.tsTx.isEmpty || b ≠ finishBody h h.finRx then s
        else
          s.updFl (fun l =>
            let l : Fl := { l with rekey := none, txTs := h.tsTx, peerRxNo := min l.peerRxNo l.txNo,
                                   txKeys := l.txKeys.filter (fun k => k.no == l.txNo) ++ [mkKey (l.txNo + 1) h.tsTx] }
            if l.rxSwitch.isSome then { l with rxFresh := some h.tsRx }
            else { l with rxTs := h.tsRx, rxKeys := l.rxKeys.map (fun k => if k.no = l.rxTop then mkKey k.no h.tsRx else k) }))

/-! ### Keys (R486 to R488) -/

/-- KEY_ROLLOVER: the sender moves to the next key once the receiver has reported it. -/
def execKeyRollover (s : State) : Out := if s.flServes && s.flSession == 2 then .next (s.rollKey false) else .next s

/-- RX_KEY_DERIVE: max(2 × SRTT, 1 ms) after the first frame under key n + 1, key n + 2 replaces key n, and its secret that of n + 1 (R484,
R487). -/
def execRxKeyDerive (s : State) : Out :=
  match s.fl.rxSwitch with
  | none => .next s
  | some t =>
    if !(s.flServes && decide (max (2 * s.srtt) 1000000 ≤ s.since t)) then .next s
    else
      let ts := s.fl.rxFresh.getD (tsNext s.fl.rxTs)
      .next (s.updFl (fun l => { l with
        rxKeys := l.rxKeys.filter (fun k => k.no == l.rxTop) ++ [mkKey (l.rxTop + 1) ts], rxTs := ts, rxFresh := none, rxSwitch := none })).showKeys

/-- FL_KEYCTL.ACTION 1 acts while FL is RUNNING. -/
def State.nextKey (s : State) : State := if s.flUp then s.updFl (fun l => { l with moveAsked := true }) else s

/-- FL_KEYCTL.ACTION 2 runs a new exchange inside the session. -/
def State.startRekey (s : State) : State :=
  if !(s.flUp && s.flSession == 2 && s.fl.rekey.isNone) then s
  else
    let (s, h) := s.makeHello { starter := true }
    let s := s.updFl (fun l => { l with rekey := some h })
    (helloFrames h.own).foldl (fun s f => s.flQueue f 1) s

/-- KEYCTL_NEXT_KEY. -/
def execKeyctlNextKey (_w : Writer) (s : State) : Out := .next s.nextKey

/-- KEYCTL_REKEY. -/
def execKeyctlRekey (_w : Writer) (s : State) : Out := .next s.startRekey

end Sys2Proof.Machine
end

