-- ==== Sys2Proof/Machine/Forager.lean ====
section
/-! DEFINITION. The forager's commands (R430 to R464): encoding a closed round, merging, closing a merge, bases, refreshes, joining, and
the retry of messages that no gateway took. A message is acted on when it stands among those that have reached the forager. -/

namespace Sys2Proof.Machine

/-- Take a message out of those that have reached the forager. -/
def State.takeInbox (s : State) (b : Block) : State := { s with fg := { s.fg with inbox := s.fg.inbox.erase b } }

/-- ROUND_ENCODE: the oldest closed round that is still to be encoded. -/
def execRoundEncode (s : State) : Out :=
  match s.fg.encode with
  | [] => .next s
  | (r, n) :: rest =>
    if !s.fgServes || !s.fgLayout.all s.shardServed then .next s
    else
      let s : State := { s with fg := { s.fg with encode := rest } }
      .next ((s.encodeRound r n).setFld 0x25 0 0x14 29 29 (b2n !rest.isEmpty))

/-- DELTA_MERGE (R438, R439). -/
def execDeltaMerge (b : Block) (s : State) : Out :=
  if !(s.fgServes && s.fg.inbox.contains b && b.tag.kind == 6) then .next s
  else
    let s := s.takeInbox b
    match s.span b.desc.shard.toNat with
    | none => .next s.fgDiscard
    | some q => if hasFlag b.tag fEVAL || !s.mergesHere q then .next s.fgDiscard else .next (s.mergeMessage q b)

/-- MERGE_CLOSE: the own site and every active site are complete, and no update of the hive goes before (R40, R441). -/
def execMergeClose (span : W16) (s : State) : Out :=
  match s.span span.toNat with
  | none => .next s
  | some q => if s.fgServes && s.mergesHere q && s.mergeReady q && !s.mergeHeld q.hive then .next (s.closeMerge q) else .next s

/-- MERGE_WAIT_EXPIRY: MERGE_WAIT_MS have passed since the own site became complete. -/
def execMergeWaitExpiry (span : W16) (s : State) : Out :=
  match s.span span.toNat with
  | none => .next s
  | some q =>
    if s.fgServes && s.mergesHere q && !s.mergeHeld q.hive && s.mergeDue q then .next ((s.closeMerge q).count64 0x25 0 0xB8 1)
    else .next s

/-- A refresh or a NOTICE for a span, while the site joins: a refresh is installed once it is whole, and a NOTICE sets BASE_ROUND (R453,
R459). -/
def State.joinBase (s : State) (q : Span) (b : Block) : State :=
  if hdrNotice b then
    ((({ s with fg := { s.fg with based := s.fg.based ++ [q.id] } }).setBaseRound q.id (hdrBase b)).count64 0x25 0 0xC0 1).joinDone
  else
    let s := s.keepBase b
    match s.fg.kept.find? (fun k => k.span == q.id && k.base == hdrBase b && k.refresh) with
    | none => s
    | some k =>
      if !s.keptWhole k then s
      else
        let s := s.installBase k true
        ({ s with fg := { s.fg with based := s.fg.based ++ [q.id] } }).joinDone

/-- BASE_MESSAGE_RECEIVE (R438, R447, R453). While a site joins, a span without a BASE_ROUND takes no base delta. -/
def execBaseMessageReceive (b : Block) (s : State) : Out :=
  if !(s.fgServes && s.fg.inbox.contains b && (b.tag.kind == 7 || b.tag.kind == 8) && !hdrReq b) then .next s
  else
    let s0 := s
    let s := s.takeInbox b
    match s.span b.desc.shard.toNat with
    | none => .next s
    | some q =>
      let joining := s.fgPhase == 2
      let based := !joining || s.fg.based.contains q.id
      if hasFlag b.tag fEVAL then .next s.fgDiscard
      else if based && !serialLater 16 (hdrBase b) (s.baseRound q.id) then .next s
      else if b.tag.kind = 7 && !(joining && hdrNotice b) && (!based || hdrPrev b ≠ s.baseRound q.id) then
        let s := (s.count64 0x25 0 0xD0 1).setFlag 0x25 0 0x18 0
        .next (if s.gap q.id then s else s.requestRefresh q)
      else if joining && (b.tag.kind == 8 || hdrNotice b) then
        (if (s.ownedIn q).all (fun o => s.shardServed o.1) then .next (s.joinBase q b) else .next s0)
      else .next (s.keepBase b)

/-- REFRESH_REQUEST_RECEIVE: a refresh of B_AUTH at the round of the latest publication goes to the asking site (R446). -/
def execRefreshRequestReceive (b : Block) (s : State) : Out :=
  if !(s.fgServes && s.fg.inbox.contains b && (b.tag.kind == 7 || b.tag.kind == 8) && hdrReq b) then .next s
  else
    let s := s.takeInbox b
    match s.span b.desc.shard.toNat with
    | none => .next s
    | some q =>
      if hasFlag b.tag fEVAL then .next s.fgDiscard
      else if !s.mergesHere q then .next s
      else
        let m := s.merge q.id
        let mr := s.mergeRec q (progNs (s.outerImage q.hive))
        let site := b.desc.srcSite.toNat
        let (s, ue) := s.meetUe [(mr.auth, 4 * q.elems)]
        .next (s.publishTo q site (s.baseMsgs q (s.payloadLimit site) m.lastPub m.lastPub m.lastCount true (m.lastFlags ||| flagBit fPOISON ue)
          (s.refreshRecs q mr)))

/-- FG_REFRESH: a refused write changes nothing (R457). -/
def execFgRefresh (_w : Writer) (val : W32) (s : State) : Out :=
  if s.fgRefreshReason val.toNat = 0 then .next (s.fgRefresh val.toNat) else .next s

/-- Why a forager that joins does not take the span table: it breaks R423, its layout exceeds a region (R427), or this module merges under an
outer program that breaks R409 (R442); 0 when it does. `s` holds the table's bytes, and `t` its spans. -/
def State.joinReason (s t : State) : Nat :=
  firstReason [(s.spanExtentBad || s.spanTableBad || t.mergeRecsBad || t.mergeHiveDown, rsSPAN_TABLE),
    (decide (s.regionSize 4 < t.fgExtent.1) || decide (s.regionSize 3 < t.fgExtent.2), rsOVERCOMMIT),
    (t.fg.spans.any (fun q => t.mergesHere q && badProgram (t.outerImage q.hive)), rsBAD_OUTER)]

/-- The span table and JOIN_ROUND as the gateways write them (R453). -/
def State.joinWritten (s : State) (entries : List Byte) (round : W16) : State :=
  (s.writeMem (modAddr (s.fld 0x25 0 0x2C 25 0 * 16)) entries).setFld 0 0 0x208 15 0 round.toNat

/-- The spans of the table are taken (R453, R454). -/
def State.joinSpans (s : State) (round : W16) : State :=
  { s with fg := { s.fg with spans := s.readSpans, joined := some round.toNat } }

/-- PHASE becomes JOIN_BASES: a span that this module merges opens its merge at JOIN_ROUND (R424; log 87), and a refresh of every span with
elements here is requested (R453). -/
def State.joinBegins (s : State) (round : W16) : State :=
  let s := s.setFgPhase 2
  let s := (s.fg.spans.filter s.mergesHere).foldl (fun s q => (s.setMergeRound q.id round.toNat).setMerge { span := q.id, lastPub := round.toNat }) s
  s.fg.spans.foldl (fun s q => if s.spanHere q then s.requestRefresh q else s) s

/-- JOIN_TABLE_RECEIVE (R453). -/
def execJoinTableReceive (r : JoinReply) (s : State) : Out :=
  if !(s.fgServes && s.fgPhase == 1) then .next s
  else
    match r with
    | .refused => .next (s.fgStop rsJOIN_FAILED)
    | .table entries round =>
      let s := s.joinWritten entries round
      let t := s.joinSpans round
      if s.joinReason t ≠ 0 then .next (s.fgStop (s.joinReason t)) else .next (t.joinBegins round).joinDone

/-- GATEWAY_RETRY_TIMER: 100 ms after every gateway failed, a message of a pending slot is tried again (R464). -/
def execGatewayRetryTimer (s : State) : Out :=
  let due := s.fg.deltas.filter (fun d => match d.failed with
    | some t => decide (100000000 ≤ (s.cycle - t).toNat)
    | none => false)
  .next (due.foldl (fun s d =>
    let d' := { d with failed := none }
    ({ s with fg := { s.fg with deltas := s.fg.deltas.map (fun x => if x = d then d' else x) } }).sendDelta d') s)

end Sys2Proof.Machine
end

