-- ==== Sys2Proof/Machine/Fabric.lean ====
section
/-! DEFINITION. The commands of the site-fabric ports (R305, R306, R329 to R344): frames, grants, timers, pauses, links and
Neighbour Solicitations. -/

namespace Sys2Proof.Machine

/-- The port takes frames: it is neither OFF nor CONFIGURING, and its link is up (R305, R344). -/
def State.sfServes (s : State) (p : Nat) : Bool := decide (2 ≤ s.fnState (.sf (BitVec.ofNat 4 p))) && s.sfLinkUp p

/-- A transport frame of a TYPE arrives (R330), in codewords of which FEC corrected some (R349): one of another version is foreign; others
are counted and handled by `body`. -/
def sfFrame (p : BitVec 4) (f : SfFrame) (typ : BitVec 4) (s : State) (body : Nat → State → State) : Out :=
  if !s.sfServes p.toNat || f.typ ≠ typ then .next s
  else
    let s := s.count64 0x22 p.toNat 0x60 f.fecCorr.toNat
    if f.ver ≠ 1 then .next (s.count64 0x22 p.toNat 0x50 1) else .next (body p.toNat (s.count64 0x22 p.toNat 0x48 1))

/-- SF_CREQ_RECEIVE (R334, R335, R341): a repeat gets its grant or its DACK again; otherwise the request is refused, or waits behind those
withheld before it and the oldest with room is granted. The request for a ring's next partial stops the hop clock (R372). -/
def execSfCreqReceive (p : BitVec 4) (f : SfFrame) (s : State) : Out :=
  sfFrame p f 1 s (fun p s =>
    let k := s.port p
    match k.grants.find? (fun g => g.req.srcModule == f.srcModule && g.req.reqId == f.reqId) with
    | some g => s.answer p f 2 g.grantId 0 0
    | none =>
      match k.delivered.find? (fun d => d.1 == f.srcModule.toNat && d.2.1 == f.reqId.toNat) with
      | some d => s.answer p f 5 d.2.2 0 0
      | none =>
        if k.held.any (fun q => q.1.srcModule == f.srcModule && q.1.reqId == f.reqId) then s
        else
          let far := f.unit == 3 && Config.freeBool s.freeCtr
          let s := if f.unit = 3 then { s with freeCtr := s.freeCtr + 1 } else s
          let why := s.creqReason p f far
          if why ≠ 0 then s.answer p f 3 0 why 0
          else
           let s := match f.coll with
             | some o => if f.unit = 2 then s.collRequested f.index.toNat o else s
             | none => s
           (s.updPort p (fun k => { k with held := k.held ++ [(f, far)] })).grantOldest p)

/-- SF_GRANT (R335): the receiver decides on its withheld requests. -/
def execSfGrant (p : BitVec 4) (s : State) : Out := .next ((s.refuseHeld p.toNat).grantOldest p.toNat)

/-- The message that an answer belongs to: its request number, from the module it was sent to. -/
def State.answered (s : State) (p : Nat) (f : SfFrame) : Option SfTx :=
  match s.findTx p f.reqId with
  | some t => if t.dst = f.srcModule then some t else none
  | none => none

/-- SF_CGNT_RECEIVE (R333): the message's DATA frames go out in offset order. The same grant again changes nothing. -/
def execSfCgntReceive (p : BitVec 4) (f : SfFrame) (s : State) : Out :=
  sfFrame p f 2 s (fun p s =>
    match s.answered p f with
    | none => s
    | some t =>
      if t.grant.isSome then s
      else
        let s := s.sendData p t f.grantId 0 false
        match t.coll with
        | some (.msg g _ m) => s.collSent g m
        | _ => s)

/-- SF_CREF_RECEIVE (R333): the transport has finished with the message. -/
def execSfCrefReceive (p : BitVec 4) (f : SfFrame) (s : State) : Out :=
  sfFrame p f 3 s (fun p s =>
    match s.answered p f with
    | none => s
    | some t => (s.dropTx p t.reqId).txFailed p t)

/-- A DATA frame begins at `off`, beyond the next byte expected under a grant: DNAK names the first missing offset, once in each RTO_NS
(R341). -/
def State.dnak (s : State) (p : Nat) (g : SfGrant) (off : Nat) : State :=
  let first := heldFrom g.parts 0
  let due := match g.nak with
    | none => true
    | some (o, c) => o != first || decide (s.fld 0x22 p 0x18 31 16 ≤ (s.cycle - c).toNat)
  let put := fun (s : State) (g : SfGrant) => s.updPort p (fun k => { k with grants := k.grants.map (fun q => if q.grantId = g.grantId then g else q) })
  if decide (first < off) && due then (put s { g with nak := some (first, s.cycle) }).answer p g.req 6 g.grantId 0 first else put s g

/-- SF_DATA_RECEIVE (R333, R336, R341): bytes under an active grant are written at their offset; bytes all held already, or under no active
grant, are a duplicate; a gap is answered with a DNAK; the last byte delivers the message. -/
def execSfDataReceive (p : BitVec 4) (f : SfFrame) (s : State) : Out :=
  sfFrame p f 4 s (fun p s =>
    match (s.port p).grants.find? (fun g => g.grantId == f.grantId) with
    | none => s.count64 0x22 p 0x80 1
    | some g =>
      let n := g.req.length.toNat
      let off := f.offset.toNat
      let bs := f.blk.payload.take (n - off)
      if off + bs.length ≤ heldFrom g.parts off then (s.count64 0x22 p 0x80 1).dnak p g off
      else
        let u : SfGrant := { g with parts := insertPart g.parts off bs, tag := f.blk.tag, desc := f.blk.desc, coll := f.coll }
        if n ≤ heldFrom u.parts 0 then s.finishGrant p u else s.dnak p u off)

/-- SF_DACK_RECEIVE (R333): the message is delivered. -/
def execSfDackReceive (p : BitVec 4) (f : SfFrame) (s : State) : Out :=
  sfFrame p f 5 s (fun p s =>
    match s.answered p f with
    | none => s
    | some t => (s.dropTx p t.reqId).txDone t)

/-- SF_DNAK_RECEIVE (R341): every frame from the named offset on is sent again, which counts as a resend of the message's frames (log 23). -/
def execSfDnakReceive (p : BitVec 4) (f : SfFrame) (s : State) : Out :=
  sfFrame p f 6 s (fun p s =>
    match s.answered p f with
    | none => s
    | some t =>
      if t.grant = some f.grantId then
        s.sendData p { t with resends := t.resends + 1 } f.grantId (f.offset.toNat / 4096 * 4096) true
      else s)

/-- SF_FOREIGN_FRAME (R329, R330, R349): a frame discarded and counted, or codewords that FEC could not correct. -/
def execSfForeignFrame (p : BitVec 4) (why : ForeignWhy) (s : State) : Out :=
  match why with
  | .badFcs => .next (s.count64 0x22 p.toNat 0x58 1)
  | .fecLost n => .next (s.count64 0x22 p.toNat 0x68 n.toNat)
  | _ => .next (s.count64 0x22 p.toNat 0x50 1)

/-- SF_RETRANSMIT_TIMEOUT (R341, R342): RTO_NS without an answer; the last frame is sent again, or, after RETRY_MAX resends, the message is
abandoned. A CREQ reads the route entry anew (R338). -/
def execSfRetransmitTimeout (p : BitVec 4) (reqId : W32) (s : State) : Out :=
  let p := p.toNat
  match s.findTx p reqId with
  | none => .next s
  | some t =>
    if (s.cycle - t.lastCC).toNat < s.fld 0x22 p 0x18 31 16 then .next s
    else if s.fld 0x22 p 0x18 3 0 ≤ t.resends then
      .next (((((s.count64 0x22 p 0x78 1).setFlag 0x22 p 0x1C 1).addTrail 0xA202 3 p 0).dropTx p reqId).txFailed p t)
    else
      let path := match s.route p t.dst.toNat with
        | some n => BitVec.ofNat 32 n
        | none => t.last.pathNs
      let f : SfFrame := if t.last.typ = 1 then { t.last with pathNs := path } else t.last
      .next ((s.putTx p { t with resends := t.resends + 1, last := f, lastCC := s.cycle }).reemit p f)

/-- GRANT_RECLAIMED (R336): a grant T plus the retry budget old ends and delivers nothing. -/
def execGrantReclaimed (p : BitVec 4) (grantId : W32) (s : State) : Out :=
  let p := p.toNat
  match (s.port p).grants.find? (fun g => g.grantId == grantId) with
  | none => .next s
  | some g =>
    if (s.cycle - g.cc).toNat < g.tNs + s.retryBudget p then .next s
    else .next (((s.endGrant p g).count64 0x22 p 0x88 1).setFlag 0x22 p 0x1C 2)

/-- PFC_PAUSE_RECEIVE (R340): frames of the priority wait. -/
def execPfcPauseReceive (p : BitVec 4) (s : State) : Out := .next (s.updPort p.toNat (fun k => { k with paused := true }))

/-- The class of a frame on site-fabric egress (R40). -/
def sfClass (f : SfFrame) : Nat :=
  let k := f.blk.tag.kind.toNat
  let notice := match f.coll with
    | some (.msg _ _ m) => m.role == .skipped
    | some _ => true
    | none => false
  if f.typ ≠ 4 || k = 9 || k = 11 || notice then 0
  else if k = 10 then 4
  else if f.unit = 3 || k = 6 || k = 7 || k = 8 then 2
  else if f.unit = 1 || f.unit = 2 then 1
  else 3

/-- Waiting frames that a later one of a higher class overtakes (SF_EGRESS_WAIT). -/
def overtaken : List SfFrame → Nat
  | [] => 0
  | f :: fs => b2n (fs.any (fun g => decide (sfClass g < sfClass f))) + overtaken fs

/-- PFC_PAUSE_EXPIRY (R340): the frames that waited go out, higher classes first and each class in order (R40). -/
def execPfcPauseExpiry (p : BitVec 4) (s : State) : Out :=
  let p := p.toNat
  let fs := (s.port p).unsent
  let s := (s.updPort p (fun k => { k with paused := false, unsent := [] })).count64 0x22 p 0xA0 (overtaken fs)
  .next ((((List.range 5).map (fun c => fs.filter (fun f => sfClass f == c))).flatten).foldl (fun s f => s.emit p f) s)

/-! ### Links (R306, R344) -/

/-- The link register of a port; FL's is FG_LINK (R455). -/
def State.linkWord (s : State) (p : Port) : W32 :=
  match p with
  | .hp => s.word 0x21 0 0x24
  | .sf p => s.word 0x22 p.toNat 0x24
  | .fl => s.word 0x25 0 0x24

def State.setLinkWord (s : State) (p : Port) (v : W32) : State :=
  match p with
  | .hp => s.setWord 0x21 0 0x24 v
  | .sf p => s.setWord 0x22 p.toNat 0x24 v
  | .fl => s.setWord 0x25 0 0x24 v

/-- The MEDIUM setting of a port's configuration register. -/
def State.mediumOf (s : State) (p : Port) : Nat :=
  match p with
  | .hp => s.fld 0x21 0 0x10 28 28
  | .sf p => s.fld 0x22 p.toNat 0x10 30 30
  | .fl => s.fld 0x25 0 0x210 30 30

/-- The transmitter of a port is squelched or not (TX_EN). -/
def State.setTx (s : State) (p : Port) (on : Bool) : State :=
  s.setLinkWord p (BitVec.ofNat 32 (setBits (s.linkWord p).toNat 0 0 (b2n on)))

/-- PORT_LINK_UP (R306): lane lock, FEC lock, auto-negotiation (which 800GAUI-4 has not) and LINK_UP show in xx_LINK. -/
def execPortLinkUp (p : Port) (lanes : BitVec 4) (anDone : Bool) (s : State) : Out :=
  let med := s.mediumOf p
  let tx := (s.linkWord p).toNat % 2
  .next (s.setLinkWord p (BitVec.ofNat 32 (med * 2 ^ 8 + lanes.toNat * 2 ^ 4 + 2 ^ 3 + med * b2n anDone * 2 ^ 2 + 2 + tx)))

/-- PORT_LINK_DOWN (R344): LINK_UP falls, which an SF port records in LINK_DOWN. -/
def execPortLinkDown (p : Port) (lanes : BitVec 4) (s : State) : Out :=
  let med := s.mediumOf p
  let was := (s.linkWord p).toNat / 2 % 2 = 1
  let tx := (s.linkWord p).toNat % 2
  let s := s.setLinkWord p (BitVec.ofNat 32 (med * 2 ^ 8 + lanes.toNat * 2 ^ 4 + tx))
  match p with
  | .sf q => .next (s.setFlagIf was 0x22 q.toNat 0x1C 4)
  | _ => .next s

/-! ### Neighbour Solicitations (R307, R329, R469) -/

/-- A port's own IPv6 address. -/
def State.ipv6Of (s : State) (p : Port) : Nat :=
  match p with
  | .hp => s.word128 0x21 0 0x30
  | .sf q => s.word64 0x22 q.toNat 0xC0 * 2 ^ 64 + s.siteId.toNat * 2 ^ 16 + s.moduleId q.toNat
  | .fl => s.word128 0x25 0 0x260

/-- ENCAP of a port. -/
def State.encapOf (s : State) (p : Port) : Bool :=
  match p with
  | .hp => s.fld 0x21 0 0x10 27 27 == 1
  | .sf q => s.fld 0x22 q.toNat 0x10 29 29 == 1
  | .fl => s.fld 0x25 0 0x210 29 29 == 1

/-- A port can transmit: its transmitter is on and its link is up. -/
def State.portSends (s : State) (p : Port) : Bool := (s.linkWord p).toNat % 4 == 3

/-- NEIGHBOUR_SOLICITATION: in UDP encapsulation the port answers for its own address. -/
def execNeighbourSolicitation (p : Port) (target : BitVec 128) (s : State) : Out :=
  if s.encapOf p && s.portSends p && s.ipv6Of p == target.toNat then .next { s with advOut := s.advOut ++ [(p, target)] }
  else .next s

end Sys2Proof.Machine
end

