-- ==== Sys2Proof/Machine/Knockback.lean ====
section
/-! DEFINITION. FENCE.STEP and the step knock-back (R65 to R78, R397, R426, R448 to R451, R527, R529): K0 begins with the first FENCE.STEP
of a member, and one command begins each later phase once the one before it has ended. -/

namespace Sys2Proof.Machine

def State.setPhase (s : State) (p : Nat) : State := s.setFld 0 0 0x204 29 27 p

def State.coreRunning (s : State) (c : Nat) : Bool := s.fnRunning (.core (BitVec.ofNat 7 c))
def State.hiveRunning (s : State) (h : Nat) : Bool := s.fnRunning (.hive (BitVec.ofNat 4 h))

def runningCores (s : State) : List Nat := (List.range 96).filter s.coreRunning
def runningHives (s : State) : List Nat := (List.range 16).filter s.hiveRunning

/-! ### K0 -/

/-- K0 begins: the members of this knock-back are the contexts of RUNNING cores with STEP_MEMBER = 1 now, and the one that issued (R44,
R66). -/
def State.beginK0 (s : State) (c x : Nat) : State :=
  let ms := (runningCores s).flatMap (fun d => ((List.range 4).filter (fun y => s.stepMember d y)).map (fun y => (d, y)))
  let s := (c, x) :: ms |>.foldl (fun s p => s.updCtx p.1 p.2 (fun k => { k with member := true, counted := false })) s
  { (s.setPhase 0) with kbStep := s.step24 }

/-- FENCE.STEP (R65): a member counts for K0 and waits; a context that has become a member since K0 began waits without counting; any
other context is not held. -/
def execFenceStep (i : Iss) (s : State) : Out :=
  issueStop i false s stopAlways (fun c x k =>
    let fence := fun (s : State) (counts : Bool) =>
      (s.updCtx c x (fun k => { k with fenced := true, counted := counts })).waitOn c x .fence
    if s.phase = 7 then
      if s.stepMember c x then fence (s.beginK0 c x) true else s.advance c x
    else if k.member then fence s (s.phase == 0)
    else if s.stepMember c x then fence s false
    else s.advance c x)

/-- Every member of every RUNNING core has issued FENCE.STEP (R66, R527). -/
def State.k0Ends (s : State) : Bool :=
  (runningCores s).all (fun c => (List.range 4).all (fun x => !(s.ctx c x).member || (s.ctx c x).counted))

/-- KNOCKBACK_K1_CORE_DRAIN: K1 begins when K0 ends. -/
def execKnockbackK1CoreDrain (s : State) : Out :=
  if s.phase = 0 && s.k0Ends then .next (s.setPhase 1) else .next s

/-! ### K1 and K2 -/

/-- No issued tensor, vector or move instruction of a core is outstanding, and every sample of its tasters is compared (R66, R69, R240). -/
def State.coreEmpty (s : State) (c : Nat) : Bool :=
  (List.range 4).all (fun m => (s.eng c m).q.isEmpty && (s.eng c m).samples.isEmpty) && (s.core c).vu.isEmpty && (s.core c).mv.isEmpty

/-- KNOCKBACK_K2_FABRIC_DRAIN: an empty core raises CORE_DRAINED, and K2 begins when every RUNNING core has (R69). -/
def execKnockbackK2FabricDrain (s : State) : Out :=
  if s.phase ≠ 1 then .next s
  else
    let s := (runningCores s).foldl (fun s c => if s.coreEmpty c then s.updCore c (fun k => { k with drained := true }) else s) s
    if (runningCores s).all s.coreEmpty then .next (s.setPhase 2) else .next s

/-- No collective of step n is outstanding. -/
def State.collsDone (s : State) (n : Nat) : Bool := s.groups.all (fun q => q.2.outst.all (fun k => k.tag.step.toNat != n))

/-- The hives that are RUNNING do what they can of their part of K3 (R397, R413). -/
def State.hivesK3 (s : State) : State := (runningHives s).foldl (fun s h => s.hiveK3 h s.kbStep) s

/-- The evaluation window as it stands (R70). -/
def State.evalWindow (s : State) : Bool := s.fld 0 0 0x200 1 1 == 1

/-- KNOCKBACK_K3_HIVE_DRAIN: K3 begins when K2 ends; a knock-back that ends evaluation mode goes straight to K6, and EVAL returns to 0
(R66, R77); the evaluation window is evaluated there, as at a K5 (log 14). While K3 runs, the hives go on. -/
def execKnockbackK3HiveDrain (s : State) : Out :=
  if s.phase = 3 then .next s.hivesK3
  else if s.phase ≠ 2 || !s.collsDone s.kbStep then .next s
  else if s.evalOn then .next ((({ s with kbEval := s.evalWindow }).setFld 0 0 0x204 31 31 0).setPhase 5)
  else
    let s := s.groups.foldl (fun s q => s.carryK2 q.1) s
    .next (s.setPhase 3).hivesK3

/-! ### K4 -/

/-- The forager takes part: it is RUNNING and in ROUNDS (R527, R453). -/
def State.foragerRounds (s : State) : Bool := s.fnRunning .forager && s.fgPhase == 3

/-- Kept bases that are due join the installation queue; each whose INSTALL_AT has passed sets LATE_INSTALL (R448). -/
def State.queueBases (s : State) : State :=
  if !s.foragerRounds then s
  else
    let due := s.fg.kept.filter (fun k => !k.queued && s.mayInstall k)
    let late := if s.driftHold then 0 else due.countP (fun k => serialLater 24 s.step24 k.installAt)
    let s : State := { s with fg := { s.fg with kept := s.fg.kept.map (fun k => if due.contains k then { k with queued := true } else k) } }
    s.setFlagN late 0x25 0 0x18 4

/-- The words of every shard that a queued base moves are served now (R24, R296). -/
def State.installServed (s : State) : Bool :=
  s.fg.kept.all (fun k => !k.queued || ((s.span k.span).toList.all (fun q => (s.ownedIn q).all (fun o => s.shardServed o.1))))

/-- Install the queued bases unless one waits for a round read (R449); DRIFT_HOLD clears when DRIFT is back at DRIFT_A or below (R451). -/
def State.installK4 (s : State) : State :=
  if !s.foragerRounds || !s.installServed || s.fg.kept.any (fun k => k.queued && s.installWaits k) then s
  else
    let s := s.installQueued
    if s.drift ≤ s.driftA then s.setFld 0 0 0x204 30 30 0 else s

/-- Every hive that is RUNNING has ended its part of K3. -/
def State.k3Ends (s : State) : Bool := (runningHives s).all (fun h => (s.hive h).told)

/-- KNOCKBACK_K4_BASE_INSTALL: K4 begins when K3 ends. -/
def execKnockbackK4BaseInstall (s : State) : Out :=
  if s.phase = 4 then .next s.installK4
  else if s.phase ≠ 3 then .next s
  else
    let s := s.hivesK3
    if s.k3Ends then .next ((s.setPhase 4).queueBases).installK4 else .next s

/-! ### K5 -/

/-- The round knock-back of R72 and R73: ROUND advances with STEP, and the forager has the masters of each owned shard to read. -/
def State.roundKnockback (s : State) : State :=
  let r := s.round16
  let n := BitVec.ofNat 64 (s.word64 0x25 0 0x60)
  let s := (s.setFld 0x25 0 0x14 15 0 0).setFld 0 0 0x208 15 0 (r + 1)
  let s := (List.range 16).foldl (fun s h =>
    let own := (s.hive h).own
    if own.isEmpty then s else s.updHive h (fun k => { k with unread := own.map (fun e => e.shard) })) s
  ({ s with fg := { s.fg with encode := s.fg.encode ++ [(r, n)] } }).setFld 0x25 0 0x14 29 29 1

/-- STEP advances, and the round is counted while the forager is RUNNING (R66, R426). -/
def State.advanceStep (s : State) : State :=
  let s := s.setFld 0 0 0x204 23 0 (s.step24 + 1)
  if !s.fnRunning .forager then s
  else
    let n := s.fld 0x25 0 0x14 15 0 + 1
    if n = s.fld 0x25 0 0x1C 15 0 then s.roundKnockback else s.setFld 0x25 0 0x14 15 0 n

/-- KNOCKBACK_K5_ADVANCE: STEP and the round advance, but not in a repeat under a drift hold, and DRIFT_HOLD and the evaluation window are
evaluated (R66, R75, R76, R451). -/
def execKnockbackK5Advance (s : State) : Out :=
  if s.phase ≠ 4 || s.fg.kept.any (fun k => k.queued) then .next s
  else
    let s := if s.kbRepeat then s else s.advanceStep
    let hold := s.fnRunning .forager && decide (s.driftA < s.drift)
    let s := if hold then (s.setFld 0 0 0x204 30 30 1).setFlag 0x25 0 0x18 3 else s
    .next { (s.setPhase 5) with kbEval := s.evalWindow, kbRepeat := false }

/-! ### K6 -/

/-- The fence opens for one context: it resumes after FENCE.STEP, and a member's copy is taken (R66, R529). -/
def State.openCtx (s : State) (c x : Nat) : State :=
  let k := s.ctx c x
  let s := if k.wait = .fence then (s.wake c x).advance c x else s
  s.updCtx c x (fun k =>
    let k' := { k with member := false, counted := false, fenced := false }
    if k.member then k'.takeCopy else k')

/-- KNOCKBACK_K6_OPEN: with HOLD = 0, and DRIFT_HOLD = 0 or the fence opening in evaluation mode, member contexts resume; evaluation mode
begins where the window was 1 at K5 (R66, R76). After a knock-back that ended evaluation mode, DRIFT_HOLD holds this fence as any other
(log 14). -/
def execKnockbackK6Open (s : State) : Out :=
  if s.phase ≠ 5 || s.fld 0 0 0x200 0 0 = 1 || (s.driftHold && !s.kbEval) then .next s
  else
    let advanced := s.step24 != s.kbStep
    let s := if s.kbEval then (s.setFld 0 0 0x200 1 1 0).setFld 0 0 0x204 31 31 1 else s
    let s : State := { (s.setPhase 7) with kbEval := false }
    let s := s.ctxs.foldl (fun s q => s.openCtx (q.1 / 4) (q.1 % 4)) s
    let s := s.cores.foldl (fun s q => s.updCore q.1 (fun k => { k with drained := false })) s
    .next ((runningHives s).foldl (fun s h => s.hiveOpen h advanced) s)

/-- K4 begins again: the bases now due are queued. -/
def State.againK4 (s : State) : State := (s.setPhase 4).queueBases

/-- A repeated K4 installs, and K5 will find it. -/
def State.repeatK4 (s : State) : State :=
  let s := s.installK4
  { s with kbRepeat := true }

/-- DRIFT_HOLD_REPEAT: while the drift holds the fence, K4 begins again for bases that the forager queues; K5 and K6 follow, without a new
step (R71, R75). -/
def execDriftHoldRepeat (s : State) : Out :=
  if s.phase ≠ 5 then .next s
  else if s.driftHold && s.againK4.fg.kept.any (fun k => k.queued) then .next s.againK4.repeatK4
  else .next s

end Sys2Proof.Machine
end

