-- ==== Sys2Proof/Machine/FnOps.lean ====
section
/-! DEFINITION. The control header's commands (R16 to R21, R54 to R57, R119): which function a register word belongs to, the
dependencies between functions, the checks of every START, and what an accepted START and STOP do. -/

namespace Sys2Proof.Machine

/-! ### Functions and their words -/

/-- The function whose settings a word holds (R19, R211, R268, R490, R511); `none` in the CT, SW and PM blocks. -/
def wordFn (b i o : Nat) : Option Fn :=
  if b = 0x10 || b = 0x12 then some (.core (BitVec.ofNat 7 i))
  else if b = 0x11 || b = 0x13 then some (.engine (BitVec.ofNat 7 (i / 4)) (BitVec.ofNat 2 i))
  else if b = 0x20 then some .ms
  else if b = 0x21 then some .hp
  else if b = 0x22 then some (.sf (BitVec.ofNat 4 i))
  else if b = 0x23 then some (.group (BitVec.ofNat 12 i))
  else if b = 0x24 then some (.hive (BitVec.ofNat 4 i))
  else if b = 0x25 then some (if 0x200 ≤ o && o < 0x3F0 then .fl else .forager)
  else none

def keyBlk (k : Nat) : Nat := k / 2 ^ 28
def keyInst (k : Nat) : Nat := k / 2 ^ 16 % 4096
def keyOff (k : Nat) : Nat := k % 65536

/-- A reserved bit of the function's words was last written as 1 (R18). -/
def State.rsvSet (s : State) (f : Fn) : Bool := s.rsv.any (fun k => wordFn (keyBlk k) (keyInst k) (keyOff k) == some f)

/-- The module has the core that a function belongs to. -/
def fnExists (f : Fn) : Bool :=
  match f with
  | .core c => coreOk c
  | .engine c _ => coreOk c
  | _ => true

/-- The groups that are not OFF. -/
def State.liveGroups (s : State) : List Nat :=
  (s.ctl.filter (fun e => keyBlk e.1 == 0x23 && keyOff e.1 == 0 && e.2.toNat % 8 != 0)).map (fun e => keyInst e.1)

/-- A byte range of module store shares a byte with the WATCH region (R281). -/
def State.meetsWatch (s : State) (a n : Nat) : Bool := s.regionOn 0 && meets a n (s.regionBase 0) (s.regionSize 0)

/-! ### Dependencies (R56, R461) -/

/-- The ownership table of the module: that of a hive that is not OFF, else of a hive that has one set (R385). -/
def State.ownTableHive (s : State) : Option Nat :=
  match (List.range 16).find? (fun h => s.fld 0x24 h 0 2 0 != 0) with
  | some h => some h
  | none => (List.range 16).find? (fun h => s.ownCount h != 0)

/-- The hives of this module that the ownership table names as owners (R56, R386). -/
def State.ownerHives (s : State) : List Nat :=
  match s.ownTableHive with
  | none => []
  | some t =>
    let a := modAddr (s.ownBase t)
    let hs := (List.range (s.ownCount t)).filterMap (fun i =>
      let e := a + 32 * i
      let h := (s.byte (e + 1)).toNat % 16
      if (s.byte e).toNat % 2 = 1 && s.byte (e + 6) == s.siteId && s.readNat (e + 4) 2 % 2 ^ 14 == s.moduleId h then some h else none)
    (List.range 16).filter (fun h => hs.contains h)

/-- The hives that the forager needs: owners, and those that run a merge here (R56, R423). -/
def State.foragerHives (s : State) : List Nat :=
  let ms := (s.fg.spans.filter s.mergesHere).map (fun q => q.hive)
  (List.range 16).filter (fun h => s.ownerHives.contains h || ms.contains h)

/-- FARLINK_GATEWAY as committed. -/
def State.gatewayOn (s : State) : Bool := s.store.gateway

/-- A function that START of `f` needs is not RUNNING. -/
def State.depMissing (s : State) (f : Fn) : Bool :=
  match f with
  | .engine c _ => !s.fnRunning (.core c)
  | .sf _ => !s.fnRunning .ms
  | .group g => !s.fnRunning (.sf (BitVec.ofNat 4 (s.gPlane g.toNat)))
  | .hive h => !s.fnRunning (.sf h) || !s.fnRunning .ms
  | .forager => !s.fnRunning .ms || s.ownerHives.any (fun h => !s.hiveRunning h) || (s.gatewayOn && !s.fnRunning .fl)
  | .fl => !s.fnRunning .ms
  | _ => false

def allEngines (c : BitVec 7) : List Fn := [.engine c 0, .engine c 1, .engine c 2, .engine c 3]
def allHives : List Fn := (List.range 16).map (fun h => Fn.hive (BitVec.ofNat 4 h))
def allPorts : List Fn := (List.range 16).map (fun p => Fn.sf (BitVec.ofNat 4 p))
def State.groupFns (s : State) (plane : Option Nat) : List Fn :=
  (s.liveGroups.filter (fun g => match plane with
    | none => true
    | some p => s.gPlane g == p)).map (fun g => Fn.group (BitVec.ofNat 12 g))

/-- The functions that depend on `f`, directly or not, in reverse order of dependency (R56). -/
def State.dependents (s : State) (f : Fn) : List Fn :=
  match f with
  | .core c => allEngines c
  | .ms => [.forager, .fl] ++ s.groupFns none ++ allHives ++ allPorts
  | .sf p =>
    (if s.foragerHives.contains p.toNat then [Fn.forager] else []) ++ s.groupFns (some p.toNat) ++ [Fn.hive p]
  | .hive h => if s.foragerHives.contains h.toNat then [.forager] else []
  | .fl => if s.gatewayOn then [.forager] else []
  | _ => []

/-! ### START checks by function -/

/-- Core (R208, R213, R275). -/
def State.coreStage2 (s : State) (c : Nat) : Nat :=
  chk (decide (Config.coreStoreBytes < s.slotOff c 0 + 64 * s.slotCount c)) rsBAD_SETTING

def State.rxOff (s : State) (c : Nat) : Nat := s.fld 0x10 c 0x700 24 12 * 4096
def State.rxSize (s : State) (c : Nat) : Nat := s.fld 0x10 c 0x700 11 0 * 4096

def State.coreStage3 (s : State) (c : Nat) : Nat :=
  firstReason [(meets (s.rxOff c) (s.rxSize c) (s.slotOff c 0) (64 * s.slotCount c), rsOVERCOMMIT),
    (s.rxSize c == 0 || decide (Config.coreStoreBytes < s.rxOff c + s.rxSize c), rsBAD_SETTING)]

/-- Engine (R177, R179, R504, R509). A retired engine is refused before the settings are judged (log 24). -/
def State.engineStage3 (s : State) (c m : Nat) : Nat :=
  let w := (s.word 0x11 (c * 4 + m) 0x18).toNat
  let en0 := bitAt w 7
  let en1 := bitAt w 15
  firstReason [((s.eng c m).retired, 0x9302), ((en0 && bitAt w 16) || (en1 && bitAt w 17), 0x9101),
    ((en0 && decide (63 < bitsOf w 6 0)) || (en1 && decide (63 < bitsOf w 14 8)), rsBAD_SETTING),
    (en0 && en1 && bitsOf w 6 0 == bitsOf w 14 8, rsBAD_SETTING), (s.spareUse c m == 3, rsBAD_SETTING)]

def State.pairStage3 (s : State) (c m : Nat) : Nat :=
  if s.twinOn c m && m % 2 = 0 then
    firstNonzero [s.engineStage3 c m, chk (s.eng c (m + 1)).retired rsBAD_SETTING, s.engineStage3 c (m + 1)]
  else s.engineStage3 c m

/-- The capacity of a region's space. -/
def regionCap (i : Nat) : Nat := if i = 0 then Config.moduleStoreBytes else Config.mainBytes

/-- LT of R231 is allowed: a power of two from 64 to 65,536. -/
def ltOk (lt : Nat) : Bool := (List.range 11).any (fun k => lt == 2 ^ (6 + k))

/-- MS (R231, R283). -/
def State.msStage3 (s : State) : Nat :=
  let on := (List.range 16).filter s.regionOn
  let w := fun i => s.fld 0x20 0 (0x200 + 16 * i) 27 24
  firstReason [
    (on.any (fun i => on.any (fun j => decide (0 < i) && decide (i < j)
      && meets (s.regionBase i) (s.regionSize i) (s.regionBase j) (s.regionSize j))), rsOVERCOMMIT),
    (on.any (fun i => decide (regionCap i < s.regionBase i + s.regionSize i) || s.regionSize i == 0
      || (decide (0 < i) && w i == 0)), rsBAD_SETTING),
    (s.regionOn 2 && s.regionSize 2 / 4096 % 16 != 0, rsBAD_SETTING),
    (s.regionOn 5 && decide (2 ^ 32 < s.regionSize 5), rsBAD_SETTING),
    (s.regionOn 0 && !ltOk (s.regionSize 0 / 128), rsBAD_SETTING),
    (decide (Config.mainGib < s.fld 0x20 0 0x10 15 0 * 32) || s.fld 0x20 0 0x10 27 24 == 0, rsBAD_SETTING)]

/-- Site-fabric port (R328, R337, R338, R347, R348). -/
def State.routeBase (s : State) (p : Nat) : Nat := s.fld 0x22 p 0x20 25 0 * 16
def State.routeCount (s : State) (p : Nat) : Nat := s.fld 0x22 p 0x28 13 0

def State.sfStage2 (s : State) (p : Nat) : Nat :=
  let n := s.routeCount p
  chk (n == 0 || decide (16383 < n) || decide (Config.moduleStoreBytes < s.routeBase p + 16 * n)) rsBAD_SETTING

def State.sfStage3 (s : State) (p : Nat) : Nat :=
  let id := s.moduleId p
  let pre := s.fld 0x22 p 0x30 31 24 + 256 * s.fld 0x22 p 0x34 15 0
  let nextHop := s.word64 0x22 p 0x38 % 2 ^ 48
  let encap := s.fld 0x22 p 0x10 29 29 == 1
  firstReason [
    (s.meetsWatch (s.routeBase p) (16 * s.routeCount p), rsOVERCOMMIT),
    ((List.range 16).any (fun q => q != p && s.fld 0x22 q 0 2 0 != 0 && s.moduleId q != id), rsBAD_SETTING),
    (id == 0x3FFF || decide (s.routeCount p ≤ id), rsBAD_SETTING),
    ((List.range (s.routeCount p)).any (fun d =>
      let a := modAddr (s.routeBase p + 16 * d)
      (s.byte a).toNat % 2 == 1 && decide (6 < (s.byte (a + 1)).toNat)), rsBAD_SETTING),
    (decide (s.fld 0x22 p 0x18 31 16 < 2000), rsBAD_SETTING),
    (!encap && (pre == 0 || bitAt pre 16), rsBAD_SETTING),
    (encap && (s.word64 0x22 p 0xC0 == 0 || nextHop == 0), rsBAD_SETTING)]

/-- Group (R343, R356). -/
def State.listBase (s : State) (g : Nat) : Nat := s.fld 0x23 g 0x18 25 0 * 16
def State.listAt (s : State) (g i : Nat) : Nat := s.readNat (modAddr (s.listBase g + 2 * i)) 2 % 2 ^ 14
def State.listOf (s : State) (g : Nat) : List Nat := (List.range (s.gCount g)).map (s.listAt g)
def State.lateBase (s : State) (g : Nat) : Nat := s.fld 0x23 g 0x28 25 0 * 32
def State.lateBytes (s : State) (g : Nat) : Nat := if s.gTable g then 32 * s.gCount g else 0

def hasDup : List Nat → Bool
  | [] => false
  | x :: xs => xs.contains x || hasDup xs

def State.groupStage2 (s : State) (g : Nat) : Nat :=
  chk (s.gCount g == 0 || decide (Config.moduleStoreBytes < s.listBase g + 2 * s.gCount g)
    || (s.gTable g && decide (Config.moduleStoreBytes < s.lateBase g + s.lateBytes g))) rsBAD_SETTING

/-- RX_KIB in bytes of the RUNNING groups on a plane and of `g`. -/
def State.roomWanted (s : State) (g : Nat) : Nat :=
  s.roomBytes g + ((s.liveGroups.filter (fun q => q != g && s.gRunning q && s.gPlane q == s.gPlane g)).map s.roomBytes).sum

def State.groupStage3 (s : State) (g : Nat) : Nat :=
  let p := s.gPlane g
  let l := s.listOf g
  let n := 2 * s.gCount g
  let lb := s.lateBytes g
  firstReason [
    (s.meetsWatch (s.listBase g) n || s.meetsWatch (s.lateBase g) lb || meets (s.listBase g) n (s.lateBase g) lb, rsOVERCOMMIT),
    (decide (s.collBytes p < s.roomWanted g), rsOVERCOMMIT),
    (decide (s.gCount g ≤ s.gRoot g) || s.gAlg g == 3 || s.gPolicy g == 3, rsBAD_SETTING),
    (s.gBypass g != 0 && (s.gHop g == 0 || decide (s.gDeadline g ≤ s.gHop g)), rsBAD_SETTING),
    (s.gDeadline g == 0 || l.contains 0x3FFF, rsBAD_SETTING),
    (decide (s.gDeadline g * 1000 < 4 * s.retryBudget p), rsBAD_SETTING),
    (!l.contains (s.moduleId p), 0xA301),
    (hasDup l, 0xA302),
    (l.any (fun d => d != s.moduleId p && (s.route p d).isNone), 0xA201)]

/-- Hive (R285, R385, R388, R390, R398, R405, R409, R415, R417, R421). -/
def State.pinnedBase (s : State) (h : Nat) : Nat := s.parkBytes h + s.collBytes h + s.stageBytes h

def State.hiveStage2 (s : State) (h : Nat) : Nat :=
  chk (s.ownCount h == 0 || decide (65536 < s.ownCount h)
    || decide (Config.moduleStoreBytes < s.ownBase h + 32 * s.ownCount h)
    || s.lotCount h == 0 || decide (Config.moduleStoreBytes < s.lotBase h + 16 * s.lotCount h)) rsBAD_SETTING

/-- The hive's program image as it stands in the fast tier. -/
def State.hiveImage (s : State) (h : Nat) : List Byte := s.progImage (fastAddr h (s.fld 0x24 h 0x30 15 0 * 4096))

/-- What lies in the pinned area: the program image, the norm table and the pinned homes, as offset and bytes. -/
def State.pinnedParts (s : State) (h : Nat) (own : List OwnE) (img : List Byte) : List (Nat × Nat) :=
  [(s.fld 0x24 h 0x30 15 0 * 4096, img.length), (s.fld 0x24 h 0x34 15 0 * 4096, 128 * s.lotCount h)]
    ++ (own.filter (fun e => e.pinned)).map (fun e => (e.home * 4096, stateSize e.elems (progNs img)))

/-- A working-copy record's descriptor breaks R388. -/
def wcBad (elems : Nat) (d : TDesc) : Bool :=
  d.rows.toNat * d.cols.toNat != elems || d.slot != 0xFFF || !alignedD d || !formatD d

/-- An owned entry breaks R388. -/
def State.ownBad (s : State) (h ns : Nat) (e : OwnE) : Bool :=
  e.elems == 0 || e.off % 32 != 0 || (s.lotPos h e.layer).isNone
    || (!e.pinned && decide (s.regionSize 2 / 16 < e.home * 4096 + stateSize e.elems ns))
    || e.wc % 64 != 0 || !inStore e.wc 128
    || (List.range 2).any (fun p => wcBad e.elems (s.wcDesc (e.wc + 64 * p)))

/-- State bytes of each owned layer's shards that are not pinned, the largest over the layers (R390). -/
def stageNeed (own : List OwnE) (ns : Nat) : Nat :=
  own.foldl (fun m e => max m (((own.filter (fun x => x.layer == e.layer && !x.pinned)).map (fun x => stateSize x.elems ns)).sum)) 0

/-- The completion trigger's settings break R417. -/
def State.trigBad (s : State) (h : Nat) : Bool :=
  let src := s.word64 0x24 h 0x50
  let c := s.fld 0x24 h 0x48 28 22
  s.fld 0x24 h 0x48 31 31 == 1 && (decide (2 ≤ s.fld 0x24 h 0x48 30 29) || decide (95 < c) || src % 64 != 0 || !inStore src 64
    || !(spaceOf src == 2 || (spaceOf src == 1 && unitOf src == c)))

def State.hiveStage3 (s : State) (h : Nat) : Nat :=
  let own := s.ownedOf h
  let img := s.hiveImage h
  let ns := progNs img
  let parts := s.pinnedParts h own img
  let slow := (own.filter (fun e => !e.pinned)).map (fun e => (e.home * 4096, stateSize e.elems ns))
  let depth := s.fld 0x24 h 0x10 25 22
  firstReason [
    (decide (256 * 2 ^ 20 < s.pinnedBase h), rsOVERCOMMIT),
    (parts.any (fun x => decide (x.1 < s.pinnedBase h) || decide (Config.fastTierBytes < x.1 + x.2)) || anyMeet parts, rsOVERCOMMIT),
    (anyMeet slow, rsOVERCOMMIT),
    (decide (s.stageBytes h < (depth + 1) * stageNeed own ns), rsOVERCOMMIT),
    (!s.regionOn 2, rsBAD_SETTING),
    ((List.range 16).any (fun q => q != h && s.fld 0x24 q 0 2 0 != 0 && (s.ownBase q != s.ownBase h || s.ownCount q != s.ownCount h)),
      rsBAD_SETTING),
    (s.parkBytes h == 0 || depth == 0 || s.fld 0x24 h 0x10 21 20 == 3, rsBAD_SETTING),
    (own.any (s.ownBad h ns), rsBAD_SETTING),
    (hasDup ((List.range (s.lotCount h)).map (s.lotLayer h)), rsBAD_SETTING),
    ((List.range (s.lotCount h)).any (fun j => (s.byte (modAddr (s.lotBase h + 16 * j + 3))).toNat % 4 == 3), rsBAD_SETTING),
    (s.trigBad h, rsBAD_SETTING),
    (badProgram img, 0xA401)]

/-- Forager (R285, R423, R427, R442, R457, R463). -/
def State.gwBase (s : State) : Nat := s.fld 0x25 0 0x3F0 25 0 * 16
def State.gwBytesBad (s : State) : Bool := decide (Config.moduleStoreBytes < s.gwBase + 32 * 256)
def State.gwId (s : State) (site k : Nat) : Nat := s.readNat (modAddr (s.gwBase + 32 * site + 2 + 2 * k)) 2 % 2 ^ 14
def State.gwCount (s : State) (site : Nat) : Nat := (s.byte (modAddr (s.gwBase + 32 * site))).toNat

/-- The gateway table breaks R463. -/
def State.gwTableBad (s : State) : Bool :=
  (List.range 256).any (fun d => decide (8 < s.gwCount d) || (List.range (min 8 (s.gwCount d))).any (fun k => s.gwId d k == 0x3FFF))
    || s.gwCount s.siteId.toNat != 0

def State.spanBase (s : State) : Nat := s.fld 0x25 0 0x2C 25 0 * 16
def State.spanCount (s : State) : Nat := s.fld 0x25 0 0x30 16 0
def State.spanStateBase (s : State) : Nat := s.fld 0x25 0 0x34 25 0 * 16

def State.fgJoin (s : State) : Bool := s.fld 0x25 0 0x10 30 30 == 1

def State.foragerStage2 (s : State) : Nat :=
  firstReason [(decide (Config.moduleStoreBytes < s.spanStateBase + 8 * s.spanCount), rsBAD_SETTING),
    (!s.fgJoin && s.spanExtentBad, rsSPAN_TABLE), (s.gwBytesBad, 0xA507)]

/-- The checks that read the span table; a join makes them when the table has come (R453). DESIGN CHOICE (log 73): R423's dependency on
MERGE_HIVE is among them, since the table says whether this module merges; it comes after SITE_UNSET and the second stage's checks. -/
def State.foragerTables (s : State) : Nat :=
  let t : State := { s with fg := { s.fg with spans := s.readSpans } }
  firstReason [
    (t.mergeHiveDown, rsDEPENDENCY),
    (decide (s.regionSize 4 < t.fgExtent.1) || decide (s.regionSize 3 < t.fgExtent.2) || t.mergeRecsBad, rsOVERCOMMIT)]

def State.foragerStage3 (s : State) : Nat :=
  let t : State := { s with fg := { s.fg with spans := s.readSpans } }
  let sponsor := s.fld 0x25 0 0x10 29 22
  firstNonzero [
    if s.fgJoin then chk (decide (s.regionSize 4 < s.fgExtent.1)) rsOVERCOMMIT else s.foragerTables,
    firstReason [
      (meets s.spanStateBase (8 * s.spanCount) s.spanBase (32 * s.spanCount) || s.meetsWatch s.spanStateBase (8 * s.spanCount),
        rsOVERCOMMIT),
      (!s.regionOn 3 || !s.regionOn 4 || (s.gatewayOn && !s.regionOn 5), rsBAD_SETTING),
      (s.fld 0x25 0 0x1C 15 0 == 0 || s.driftA == 0, rsBAD_SETTING),
      (decide (s.codecK < 32) || decide (512 < s.codecK) || decide (4 < s.dmode) || decide (4 < s.bmode), rsBAD_SETTING),
      (s.fgJoin && (sponsor == 0xFF || sponsor == s.siteId.toNat), rsBAD_SETTING),
      (!s.fgJoin && s.spanTableBad, rsSPAN_TABLE),
      (s.gwTableBad, 0xA507),
      (!s.fgJoin && t.fg.spans.any (fun q => t.mergesHere q && badProgram (t.outerImage q.hive)), rsBAD_OUTER)]]

/-- Far link (R461). -/
def State.flStage3 (s : State) : Nat :=
  let peer := s.fld 0x25 0 0x214 7 0
  let rx := s.fld 0x25 0 0x21C 15 0
  let lh := s.regionSize 5
  let encap := s.fld 0x25 0 0x210 29 29 == 1
  let par := s.fld 0x25 0 0x210 28 26
  let n := s.fld 0x25 0 0x244 6 0
  let pm := s.word64 0x25 0 0x250 % 2 ^ 48
  firstReason [
    (!s.gatewayOn || !s.regionOn 5, rsBAD_SETTING),
    (decide (par < 2) || decide (4 < par) || peer == 0xFF || peer == s.siteId.toNat, rsBAD_SETTING),
    (decide (rx < 16) || decide (lh < (rx + 16) * 2 ^ 20), rsBAD_SETTING),
    (s.fld 0x25 0 0x218 31 16 == 0 || decide (s.fld 0x25 0 0x218 15 0 < 100), rsBAD_SETTING),
    (n == 0 || decide (64 < n), rsBAD_SETTING),
    (!encap && (pm == 0 || bitAt pm 40), rsBAD_SETTING),
    (encap && (s.word128 0x25 0 0x260 == 0 || s.word128 0x25 0 0x270 == 0 || s.word64 0x25 0 0x258 % 2 ^ 48 == 0), rsBAD_SETTING),
    (!(List.range (min 8 (s.gwCount peer))).any (fun k => s.gwId peer k == s.ownModule), 0xA507)]

/-! ### START (R21, R119) -/

/-- The follower of a twin leader acts with it (R504). -/
def State.withFollower (s : State) (f : Fn) : List Fn :=
  match f with
  | .engine c m => if s.twinOn c.toNat m.toNat && m.toNat % 2 = 0 then [f, .engine c (m + 1)] else [f]
  | _ => [f]

def needsSite (f : Fn) : Bool :=
  match f with
  | .sf _ => true
  | .forager => true
  | .fl => true
  | _ => false

def State.startStage1 (s : State) (f : Fn) : Nat :=
  firstReason [((s.withFollower f).any s.rsvSet, rsRESERVED_SET), (s.depMissing f, rsDEPENDENCY),
    (needsSite f && s.siteId == 0xFF, rsSITE_UNSET)]

def State.startStage2 (s : State) (f : Fn) : Nat :=
  match f with
  | .core c => s.coreStage2 c.toNat
  | .sf p => s.sfStage2 p.toNat
  | .group g => s.groupStage2 g.toNat
  | .hive h => s.hiveStage2 h.toNat
  | .forager => s.foragerStage2
  | _ => 0

def State.startStage3 (s : State) (f : Fn) : Nat :=
  match f with
  | .core c => s.coreStage3 c.toNat
  | .engine c m => s.pairStage3 c.toNat m.toNat
  | .ms => s.msStage3
  | .hp => 0
  | .sf p => s.sfStage3 p.toNat
  | .group g => s.groupStage3 g.toNat
  | .hive h => s.hiveStage3 h.toNat
  | .forager => s.foragerStage3
  | .fl => s.flStage3

/-- The reason START refuses with, 0 when it accepts: each stage only when the one before passes. -/
def State.startReason (s : State) (f : Fn) : Nat :=
  if s.startStage1 f ≠ 0 then s.startStage1 f
  else if s.startStage2 f ≠ 0 then s.startStage2 f
  else s.startStage3 f

/-- Enable a port's transmitter, unless the module keeps every one squelched (R29, R305). -/
def State.enableTx (s : State) (p : Port) : State := if s.boot.squelch then s else s.setTx p true

/-- What an accepted START does beside the state; the taster's and the forager's generators are seeded then (R213, R234, R305, R352, R353, R376,
R386, R409, R429, R433, R453). -/
def State.startEffect (s : State) (f : Fn) : State :=
  match f with
  | .core c => s.resetSlots c.toNat (s.slotCount c.toNat)
  | .engine c m =>
    let (n, s) := s.nextFree
    s.updEng c.toNat m.toNat (fun e => { e with tasteSeed := Config.freeW64 n, tasteDraws := 0, tasteWin := none, tasteCnt := 0 })
  | .hp => s.enableTx .hp
  | .sf p => s.enableTx (.sf p)
  | .fl => s.enableTx .fl
  | .group g =>
    let l := s.listOf g.toNat
    let s := (s.setGroup g.toNat { members := l }).clearRange (modAddr (s.lateBase g.toNat)) (s.lateBytes g.toNat)
    (s.setFld 0x23 g.toNat 0x30 27 14 (indexIn (s.moduleId (s.gPlane g.toNat)) l)).setFld 0x23 g.toNat 0x30 31 28 0
  | .hive h =>
    let own := s.ownedOf h.toNat
    let img := s.hiveImage h.toNat
    (s.setHive h.toNat { own := own, prog := img, seed := (s.hive h.toNat).seed }).setFld 0x24 h.toNat 0x14 15 0 0xFFFF
  | .forager =>
    let (n, s) := s.nextFree
    let s := s.clearSpans
    if s.fgJoin then ({ s with fg := { seed := Config.freeW64 n } }).setFgPhase 1 |>.setFld 0x25 0 0x14 15 0 0
    else
      let s : State := { s with fg := { spans := s.readSpans, seed := Config.freeW64 n } }
      (s.fgInit.setFgPhase 3).setFld 0x25 0 0x14 15 0 0
  | _ => s

/-- MS takes up the training of its channels, from kept values when it holds valid ones (R293 to R295). -/
def State.beginTraining (s : State) : State :=
  let s : State := { s with ms := { s.ms with training := true, full := s.fld 0x20 0 0x14 6 6 == 0 } }
  s.setFld 0x20 0 0x14 5 5 1

/-- The tables and images in module store and fast tier that a START copies: their SRAM words are read (R271, R343, R386, R409, R423, R463). -/
def State.startReads (s : State) (f : Fn) : List (Nat × Nat) :=
  match f with
  | .sf p => [(s.routeAddr p.toNat 0, 16 * s.fld 0x22 p.toNat 0x28 13 0)]
  | .group g => [(modAddr (s.listBase g.toNat), 2 * s.gCount g.toNat)]
  | .hive h => [(modAddr (s.ownBase h.toNat), 32 * s.ownCount h.toNat), (modAddr (s.lotBase h.toNat), 16 * s.lotCount h.toNat),
                (fastAddr h.toNat (s.fld 0x24 h.toNat 0x30 15 0 * 4096), (s.hiveImage h.toNat).length)]
  | .forager => [(modAddr s.spanBase, 32 * s.spanCount), (modAddr s.gwBase, 32 * 256)]
  | _ => []

def State.noteStart (s : State) (f : Fn) : State := (s.startReads f).foldl (fun s r => s.noteUe r.1 r.2) s

/-- A START that is not a join reads the masters and writes the forager's words: a memory-port die under recovery refuses it with its state
(R296, R429). -/
def State.fgStartHeld (s : State) : Nat :=
  if s.fgJoin then 0
  else firstNonzero (s.fgLayout.flatMap (fun f => [s.storeRefusal (s.homeAddr f.hive f.e) (stateSize f.e.elems 0)]
    ++ [f.b, f.ref, f.err].map (fun a => s.storeRefusal a (4 * f.e.elems))))

/-- Move a function and, for a twin leader, its follower to a state. -/
def State.setFnStates (s : State) (f : Fn) (st : Nat) : State := (s.withFollower f).foldl (fun s g => s.setFnState g st) s

/-- START of a function that is OFF or CONFIGURING: the reason, and the state after. -/
def State.startFn (s : State) (f : Fn) : Nat × State :=
  let r := s.startReason f
  let s := s.noteStart f
  let r := if r = 0 && f = .forager then s.fgStartHeld else r
  if r ≠ 0 then (r, s.setFnReason f r)
  else if f = .ms then (0, s.beginTraining)
  else (0, ((s.setFnStates f fnRUNNING).setFnReason f 0 |> fun s => (s.withFollower f).foldl State.startEffect s))

/-! ### STOP (R55, R56) -/

/-- A RUNNING function begins to drain. The ports refuse the requests they have withheld from it (R36, R334). -/
def State.beginDrain (s : State) (f : Fn) : State := (s.setFnStates f fnDRAINING).refuseAll

/-- STOP of a RUNNING function: every RUNNING function that depends on it begins to drain first. -/
def State.stopFn (s : State) (f : Fn) : State :=
  ((s.dependents f).foldl (fun s g => if s.fnRunning g then s.beginDrain g else s) s).beginDrain f

/-! ### The commands of xx_CMD (R53 to R55) -/

/-- A writer may write the xx_CMD of a function: the host and the service processors any, an instruction its own core's (R53). -/
def mayCommand (w : Writer) (f : Fn) : Bool :=
  match w, f with
  | .ctx c _, .core d => c == d
  | .ctx c _, .engine d _ => c == d
  | .ctx _ _, _ => false
  | _, _ => true

/-- A function under a twin leader's command, a training MS and the host port from outside refuse every command (R293, R322, R504). -/
def State.cmdBarred (s : State) (w : Writer) (f : Fn) : Nat :=
  match f with
  | .engine c m => if s.isFollower c.toNat m.toNat then 0x9301 else 0
  | .ms => if s.ms.training then rsBAD_STATE else 0
  | .hp => if w = .service then 0 else rsBAD_STATE
  | _ => 0

/-- Every die but the control dies is held in reset: start-up has stopped, the input is outside its limits, or the module has tripped
(R549, R582, R586). -/
def State.heldInReset (s : State) : Bool := decide (1 ≤ s.boot.cause) && decide (s.boot.cause ≤ 5)

/-- CMD 1 CONFIG, 2 START, 3 STOP in the function's present state (R55): the reason, and the state after. A function held in reset takes
no command. -/
def State.fnCommand (s : State) (w : Writer) (f : Fn) (cmd : Nat) : Nat × State :=
  let st := s.fnState f
  let bar := if s.heldInReset then rsBAD_STATE else s.cmdBarred w f
  if cmd = 0 then (0, s)
  else if bar ≠ 0 then (bar, s.setFnReason f bar)
  else if cmd = 1 && st = 0 then (0, s.setFnStates f fnCONFIGURING)
  else if cmd = 2 && st ≤ 1 then s.startFn f
  else if cmd = 3 && st = 1 then (0, s.setFnStates f fnOFF)
  else if cmd = 3 && st = 2 then (0, s.stopFn f)
  else (rsBAD_STATE, s.setFnReason f rsBAD_STATE)

end Sys2Proof.Machine
end

