-- ==== Sys2Proof/Machine/Functions.lean ====
section
/-! DEFINITION. The function commands (R54 to R56), the end of a stop, and the end of memory training (R293). -/

namespace Sys2Proof.Machine

/-- A write of xx_CMD as a command of its own; one that its writer may not make changes nothing (R53). -/
def fnRow (w : Writer) (f : Fn) (cmd : Nat) (s : State) : Out :=
  if !fnExists f then .fault .noSuchUnit
  else if mayCommand w f then .next (s.fnCommand w f cmd).2
  else .next s

/-- CONFIG (R55). -/
def execConfig (w : Writer) (f : Fn) (s : State) : Out := fnRow w f 1 s

/-- START (R21, R55, R56, R119). -/
def execStart (w : Writer) (f : Fn) (s : State) : Out := fnRow w f 2 s

/-- STOP (R55, R56). -/
def execStop (w : Writer) (f : Fn) (s : State) : Out := fnRow w f 3 s

/-! ### The end of a stop -/

/-- No context of the core runs or holds a command. -/
def State.noCommands (s : State) (c : Nat) : Bool :=
  (List.range 4).all (fun x => (s.ctx c x).run.isNone && (s.ctx c x).queue.isEmpty && (s.ctx c x).offers.isEmpty)

/-- Nothing outstanding is left in an engine. -/
def State.engineEmpty (s : State) (c m : Nat) : Bool := (s.eng c m).q.isEmpty && (s.eng c m).holds.isEmpty

/-- A register's elements lie in module store or main memory. -/
def Opd.inMs (o : Opd) : Bool := decide (0 < o.t.d.rows.toNat) && (spaceOf o.t.d.base.toNat == 2 || spaceOf o.t.d.base.toNat == 3)

/-- The registers whose elements an engine instruction reads or writes. -/
def EngKind.opds : EngKind → List Opd
  | .loads o => [o.tb]
  | .stream o => [o.ta, o.tc] ++ (o.atts.map (fun a => [a.td, a.tb] ++ a.stats.toList)).flatten
  | .drain o => [o.tc]
  | .seed _ => []

/-- A unit of a core has an access to module store or main memory outstanding (R294). -/
def State.msOutstanding (s : State) : Bool :=
  s.cores.any (fun q => q.2.vu.any (fun o => ([o.td, o.ta, o.tb] ++ o.stats.toList).any Opd.inMs)
    || q.2.mv.any (fun o => o.td.inMs || o.ta.inMs))
  || s.engines.any (fun q => q.2.q.any (fun o => o.kind.opds.any Opd.inMs))

/-- The work that a stopping function had admitted has completed (R55). -/
def State.workDone (s : State) (f : Fn) : Bool :=
  match f with
  | .core c =>
    let k := s.core c.toNat
    s.noCommands c.toNat && (List.range 4).all (fun x => (s.ctx c.toNat x).outst.isEmpty) && k.vu.isEmpty && k.mv.isEmpty
      && k.sends.isEmpty
  | .engine _ _ => (s.withFollower f).all (fun g => match g with
      | .engine c m => s.engineEmpty c.toNat m.toNat
      | _ => true)
  | .ms => !s.msOutstanding
  | .hp => s.hp.inProg.isEmpty
  | .sf p =>
    let k := s.port p.toNat
    k.tx.isEmpty && k.grants.isEmpty && k.held.isEmpty && k.unsent.isEmpty
  | .group g => (s.group g.toNat).outst.isEmpty
  | .hive h =>
    let k := s.hive h.toNat
    k.cur.isNone && k.queue.isEmpty && k.parked.isEmpty && k.held.isEmpty && k.fetching.isEmpty && s.parkReserved h.toNat == 0
      && !s.groups.any (fun q => q.2.outst.any (fun o => o.ck == 1 && spaceOf o.td.t.d.base.toNat == 4
        && unitOf o.td.t.d.base.toNat == h.toNat))
  | .forager => s.fg.encode.isEmpty && s.fg.inbox.isEmpty && !s.ports.any (fun q => q.2.tx.any (fun t => t.owner == .forager))
  | .fl => s.fl.tx.isEmpty && s.fl.fwd.isEmpty

/-- What a function leaves as it comes to rest in OFF (R294, R305, R310, R371, R376, R462). HP's transmitter stays as it is: R305 squelches
only the ports SF for being OFF. -/
def State.restEffect (s : State) (f : Fn) : State :=
  match f with
  | .ms =>
    let s := s.setFld 0x20 0 0x14 4 4 1
    { s with ms := { s.ms with kept := true } }
  | .sf p => s.setTx (.sf p) false
  | .group g => s.groupOff g.toNat
  | .hive h => s.setHive h.toNat { seed := (s.hive h.toNat).seed }
  | .forager => s.fgStop (s.fnReason .forager)
  | .fl => s.sessionDown.setTx .fl false
  | _ => s

/-- A recovery holds the function. -/
def State.inRecovery (s : State) (f : Fn) : Bool := s.sw.recs.any (fun r => r.fns.contains f)

/-- STOP_DRAIN_COMPLETE: a stopping function whose dependents are at rest and whose admitted work has completed comes to OFF. -/
def execStopDrainComplete (f : Fn) (s : State) : Out :=
  if !fnExists f then .fault .noSuchUnit
  else if s.fnState f ≠ 4 || s.inRecovery f || (s.dependents f).any (fun g => decide (2 ≤ s.fnState g)) || !s.workDone f then .next s
  else .next ((s.restEffect f).setFnStates f fnOFF)

/-! ### Memory training (R232, R293 to R295, R301, R303) -/

/-- The layer watch table is written as zero (R232). -/
def State.zeroWatch (s : State) : State :=
  if s.regionOn 0 then s.clearRange (modAddr (s.regionBase 0)) (s.regionSize 0) else s

/-- Every channel trains: MS is RUNNING. After a full training, and where SPREAD_UNITS has moved every byte, the contents of main memory
are undefined (R280, R295, log 2); a scrub pass begins. -/
def State.msTrained (s : State) (ms : Nat) : State :=
  let units := s.fld 0x20 0 0x10 15 0
  let kept := !s.ms.full && s.ms.kept
  let s := if kept && s.ms.spread == units then s else s.clearRange (mainAddr 0) Config.mainBytes
  let w := setBits (setBits (setBits (setBits (s.word 0x20 0 0x14).toNat 23 8 ms) 7 7 (b2n kept)) 6 6 1) 5 3 0
  let s := s.setWord 0x20 0 0x14 (BitVec.ofNat 32 w)
  let s : State := { s with ms := { spread := units, scrub := s.fld 0x20 0 0x10 23 16 } }
  ((s.setFnState .ms fnRUNNING).setFnReason .ms 0).zeroWatch

/-- A channel fails: START refuses with TRAIN_FAILED and MS stays where it was. -/
def State.msFailed (s : State) (ch : Nat) : State :=
  let s := ((s.setFld 0x20 0 0x14 5 5 0).setFld 0x20 0 0x14 6 6 0).setFld 0x20 0 0x14 3 3 0
  let s := (s.setWord64 0x20 0 0x20 0).setWord 0x20 0 0x28 (BitVec.ofNat 32 (2 * 2 ^ 24 + ch))
  ({ s with ms := {} }).setFnReason .ms 0xA001

end Sys2Proof.Machine
end

