-- ==== Sys2Proof/Machine/SwarmOps.lean ====
section
/-! DEFINITION. Reset domains and their recovery (R520 to R531), and the crumb record (R536 to R543): fence, drain, poison, reset and
internal START as operations that the swarm watch's commands share. -/

namespace Sys2Proof.Machine

/-! ### Domains (R520, R522) -/

/-- The domain exists on this module; a permanently retired engine is absent (R510, R541). -/
def State.domainExists (s : State) (d : Domain) : Bool :=
  let k := d.kind.toNat
  let i := d.num.toNat
  if k = 0 then decide (i < 384) && !(s.eng (i / 4) (i % 4)).permanent
  else if k = 1 then decide (i < 96) else if k = 2 then decide (i < 16) else if k = 4 then decide (i < 32)
  else decide (k ≤ 6) && i == 0

/-- Domain `a` is `b` or holds it. -/
def domHolds (a b : Domain) : Bool :=
  a == b || a.kind == 6 || (a.kind == 1 && b.kind == 0 && b.num.toNat / 4 == a.num.toNat)

def allCores : List Fn := (List.range 96).map (fun c => Fn.core (BitVec.ofNat 7 c))

/-- The functions of a domain, in an order of dependency (R56, R520). An engine of a twin pair brings its partner (R504). -/
def State.domainFns (s : State) (d : Domain) : List Fn :=
  let i := d.num.toNat
  match d.kind.toNat with
  | 0 =>
    let c := BitVec.ofNat 7 (i / 4)
    let m := BitVec.ofNat 2 (i % 4 / 2 * 2)
    if s.twinOn (i / 4) (i % 4) then [.engine c m, .engine c (m + 1)] else [.engine c (BitVec.ofNat 2 i)]
  | 1 => .core (BitVec.ofNat 7 i) :: allEngines (BitVec.ofNat 7 i)
  | 2 => [.hive (BitVec.ofNat 4 i)]
  | 3 => [.fl, .forager]
  | 4 => []
  | 5 => [.hp]
  | 6 => allCores ++ (List.range 96).flatMap (fun c => allEngines (BitVec.ofNat 7 c)) ++ [.ms, .hp] ++ allPorts ++ [.fl] ++ allHives
      ++ s.groupFns none ++ [.forager]
  | _ => []

/-- DRAIN_US of a kind in cc. -/
def State.drainCc (s : State) (kind : Nat) : Nat := (s.word 1 0 (0x10 + 4 * kind)).toNat * 1000

/-! ### The crumb record (R536, R537, R539) -/

/-- The 551 shadow blocks in the order of their kinds. -/
def crumbBlocks : List (Nat × Nat) :=
  let r := fun k n => (List.range n).map (fun i => (k, i))
  r 0 96 ++ r 1 384 ++ r 2 16 ++ r 3 16 ++ r 4 32 ++ r 5 4 ++ r 6 1 ++ r 7 1 ++ r 8 1

/-- The blocks of a domain, which are read first. -/
def crumbFirst (kind inst : Nat) : List (Nat × Nat) :=
  if kind = 0 then [(1, inst)] else if kind = 1 then (0, inst) :: (List.range 4).map (fun m => (1, 4 * inst + m))
  else if kind = 2 then [(2, inst)] else if kind = 3 then [(7, 0)] else if kind = 4 then [(4, inst)]
  else if kind = 5 then [(6, 0)] else []

def State.crumbLocked (s : State) (i : Nat) : Bool := s.fld 1 0 (0x1000 + 16 * i) 30 30 == 1
def State.crumbAt (s : State) (i : Nat) : Option CrumbRec := Tbl.get none s.sw.crumbs i

/-- The directory entry that a new record takes: an empty one, else the oldest that is not locked (R539). -/
def State.crumbSlot (s : State) : Option Nat :=
  let free := (List.range 4).filter (fun i => !s.crumbLocked i)
  match free.find? (fun i => (s.crumbAt i).isNone) with
  | some i => some i
  | none => free.foldl (fun b i => match b with
      | none => some i
      | some j => match s.crumbAt i, s.crumbAt j with
        | some x, some y => if x.number < y.number then some i else some j
        | _, _ => some j) none

/-- Trigger a record: its number, or none when every record is locked, which sets UNREADABLE (R537, R539, R542). -/
def State.takeCrumb (s : State) (cause kind inst : Nat) : State × Nat :=
  if s.crumbSlot.isNone then (s.setFlag 1 0 8 4, noRecord)
  else
    let first := crumbFirst kind inst
    let j : CrumbJob := { number := s.sw.crumbNo, cause := cause, domKind := kind, inst := inst, cc := s.cycle,
                          todo := first ++ crumbBlocks.filter (fun b => !first.contains b) }
    let w := s.sw
    let w : Sw := if w.job.isNone then { w with job := some j } else { w with jobs := w.jobs ++ [j] }
    ({ s with sw := { w with crumbNo := w.crumbNo + 1 } }, j.number)

def State.crumbAuto (s : State) : Bool := s.fld 1 0 0 29 29 == 1

/-! ### Trail sources (R539) -/

/-- The source kind and instance of a domain in the trail; for the module, the module itself has no code and the host port's stands. -/
def domSource (d : Domain) : Nat × Nat :=
  let k := d.kind.toNat
  if k = 0 then (1, d.num.toNat) else if k = 1 then (0, d.num.toNat) else if k = 2 then (2, d.num.toNat)
  else if k = 3 then (7, 0) else if k = 4 then (4, d.num.toNat) else (6, 0)

/-- A state change of a domain under recovery: a DOMAIN event and a trail entry (R538, R546). -/
def State.domainChange (s : State) (r : Recovery) (st reason : Nat) : State :=
  let (k, i) := domSource r.d
  (s.addTrail reason k i 0).domainEvent r.d.kind.toNat r.d.num.toNat st r.cause reason r.record r.named

/-! ### The fence (R523, R528, R529) -/

/-- The instruction whose issuer an engine recovery names: the oldest started and not completed, else the head of the queue (R528). -/
def Engine.suspect (e : Engine) : Option EngOp :=
  match e.q.find? (fun o => o.started) with
  | some o => some o
  | none => e.q.head?

/-- The context number that a recovery of a domain names at its fence. -/
def State.namedAtFence (s : State) (d : Domain) : Nat :=
  if d.kind = 0 then
    match (s.eng (d.num.toNat / 4) (d.num.toNat % 4)).suspect with
    | some o => d.num.toNat / 4 * 4 + o.x
    | none => noContext
  else noContext

/-- The named context of an engine recovery becomes HALTED with HUNG (R528). -/
def State.haltHung (s : State) (n : Nat) : State :=
  if n = noContext then s
  else
    let c := n / 4
    let x := n % 4
    let s := (s.setLastReason c x 0x8101).addTrail 0x8101 0 c x
    if (s.ctx c x).run.isSome then s.endCommand c x 0x8101 .halted
    else s.updCtx c x (fun k => { k with st := .halted, wait := .none })

/-- Suspects of a core's recovery leave the step fences (R529). -/
def State.dropMember (s : State) (c x : Nat) : State :=
  (s.setFld 0x10 c (0x100 + 0x40 * x) 0 0 0).updCtx c x (fun k => { k with member := false })

/-- Start the recovery of a domain, unless one that holds it is under way; recoveries inside it end where they stand (R522, R523). -/
def State.beginRecovery (s : State) (d : Domain) (cause : Nat) (hangRecord : Option Nat) : State :=
  if s.sw.recs.any (fun r => domHolds r.d d) then s
  else
    let inner := s.sw.recs.filter (fun r => domHolds d r.d)
    let all := (s.domainFns d).filter (fun f => cause != causeCLOCK_LOST || f != .hp)
    let fs := all.filter (fun f => s.fnRunning f)
    let fns := all.filter (fun f => s.fnRunning f || inner.any (fun r => r.fns.contains f))
    let i := d.num.toNat
    let suspects := if d.kind = 1 then (List.range 4).filter (fun x => (s.ctx i x).st != .idle) else []
    let named := s.namedAtFence d
    let s := fs.foldl (fun s f => s.setFnState f fnFENCED) s
    let s : State := if d.kind = 4 then { s with dieSt := s.dieSt.put i fnFENCED } else s
    let (s, n) := match hangRecord with
      | some n => (s, n)
      | none => if s.crumbAuto || cause = causeCLOCK_LOST then
          s.takeCrumb (if cause = causeCLOCK_LOST then 2 else 1) d.kind.toNat i
        else (s, noRecord)
    let r : Recovery := { d := d, cause := cause, record := n, fns := fns, suspects := suspects, named := named,
                          keep := cause != causeCLOCK_LOST }
    let s : State := { s with sw := { s.sw with recs := s.sw.recs.filter (fun r => !domHolds d r.d) ++ [r] } }
    let s := (s.count64 1 0 0x50 1).setFlag 1 0 8 1
    let s := s.domainChange r fnFENCED (if cause = causeCLOCK_LOST then rsCLOCK_LOST else 0)
    let s := suspects.foldl (fun s x => s.dropMember i x) s
    (s.haltHung named).refuseAll

/-- Change the recovery of a domain. -/
def State.updRec (s : State) (d : Domain) (f : Recovery → Recovery) : State :=
  { s with sw := { s.sw with recs := s.sw.recs.map (fun r => if r.d == d then f r else r) } }

/-- CLOCK_LOST while a recovery of the module is under way: no second one begins (R522), but the loss takes its record and its trail entry,
and the reset will keep no claim (R29, R520, R537, R538). -/
def State.clockLostAgain (s : State) (d : Domain) : State :=
  let s := (s.takeCrumb 2 d.kind.toNat d.num.toNat).1
  (s.addTrail rsCLOCK_LOST (domSource d).1 (domSource d).2 0).updRec d (fun r => { r with keep := false })

def State.recOf (s : State) (d : Domain) : Option Recovery := s.sw.recs.find? (fun r => r.d == d)

/-- Every admission point has taken the fence: the functions drain (R523). -/
def State.beginDrainClock (s : State) (r : Recovery) : State :=
  let s := r.fns.foldl (fun s f => s.setFnState f fnDRAINING) s
  let s : State := if r.d.kind = 4 then { s with dieSt := s.dieSt.put r.d.num.toNat fnDRAINING } else s
  let s := s.updRec r.d (fun r => { r with phase := 2, clock := s.cycle })
  (s.domainChange r fnDRAINING 0).refuseAll

/-! ### Poison and reset (R524, R525) -/

/-- Requests answered with POISON. -/
def State.countPoisoned (s : State) (n : Nat) : State := (s.count64 1 0 0x60 n).setFlagIf (n != 0) 1 0 8 2

/-- The destination registers of an engine instruction, its attachments' among them. -/
def EngOp.dests (o : EngOp) : List Nat :=
  match o.kind with
  | .stream q =>
    let a := fun (x : Option Attach) => match x with
      | some y => (y.td.r :: (match y.stats with
        | some t => [t.r]
        | none => []))
      | none => []
    q.tc.r :: (a q.pro ++ a q.epi)
  | .drain q => [q.tc.r]
  | _ => []

/-- An instruction that its engine's recovery ends: POISON in its destination tags, and RECOVERED for a context not named (R528). -/
def State.poisonOp (s : State) (c named : Nat) (o : EngOp) : State :=
  let s := o.dests.foldl (fun s r => s.orDst c o.x r (flagBit fPOISON true)) s
  let s := if c * 4 + o.x = named then s else s.setLastReason c o.x 0x8102
  s.opDone c o.x o.id

/-- An engine after a reset: its generator takes a value the spec does not give, retirement stays (R141, R520). -/
def State.resetEngine (s : State) (c m : Nat) : State :=
  let e := s.eng c m
  let (n, s) := s.nextFree
  s.setEng c m { seed := Config.freeW64 n, retiring := e.retiring, resting := e.resting, permanent := e.permanent }

def State.drainEngine (s : State) (c m named : Nat) : State :=
  let q := (s.eng c m).q
  let s := q.foldl (fun s o => s.poisonOp c named o) s
  (s.countPoisoned q.length).resetEngine c m

/-- Every command running or admitted in a context ends with RECOVERED (R524). -/
def State.endAll (s : State) (c x : Nat) : State :=
  let q := (s.ctx c x).queue
  let s := s.endCommand c x 0x8102 .idle
  let s := s.updCtx c x (fun k => { k with queue := [] })
  q.foldl (fun s a =>
    (s.updCtx c x (fun k => { k with run := some { cmd := a.cmd, no := 0, startCC := s.cycle, overrun := 0 } })).endCommand c x 0x8102
      .idle) s

/-- Offers not yet decided on are answered with DRAIN_EXPIRED. -/
def State.expireOffers (s : State) (c x : Nat) : State :=
  let os := (s.ctx c x).offers
  let s := s.updCtx c x (fun k => { k with offers := [] })
  (os.foldl (fun s o => s.decided o 0x8103) s).countPoisoned os.length

/-- A core after a reset: contexts, arrival bits and units are new, their generators take values the spec does not give; the knock-back
copies stay (R141, R520, R530). -/
def State.resetCoreUnits (s : State) (c : Nat) : State :=
  let s := (List.range 4).foldl (fun s m => s.resetEngine c m) s
  let (n, s) := s.nextFree
  let (n', s) := s.nextFree
  s.updCore c (fun k => { ({} : Core) with rx := k.rx, vuSeed := Config.freeW64 n, mvSeed := Config.freeW64 n' })

/-- Collectives of a core under recovery complete without writing into its store (R525). -/
def State.deadColls (s : State) (p : Coll → Bool) (f : Coll → Coll) : State :=
  { s with groups := s.groups.map (fun q => (q.1, { q.2 with outst := q.2.outst.map (fun k => if p k then f k else k) })) }

def State.drainCore (s : State) (c : Nat) (suspects : List Nat) : State :=
  let k := s.core c
  let n := k.vu.length + k.mv.length + k.sends.length + ((List.range 4).map (fun m => (s.eng c m).q.length)).sum
  let s := (List.range 4).foldl (fun s x => (s.expireOffers c x).endAll c x) s
  let s := s.deadColls (fun q => q.c == c) (fun q => { q with dead := true })
  let s := (List.range 4).foldl (fun s x =>
    s.updCtx c x (fun k => { ({} : Ctx) with copy := k.copy, st := if suspects.contains x then .halted else .idle })) s
  ((s.setCore c {}).resetCoreUnits c).countPoisoned n

def State.drainHive (s : State) (h : Nat) : State :=
  let k := s.hive h
  let on := fun (q : Nat × Group) => s.gPlane q.1 == h
  let n := k.queue.length + k.parked.length + k.held.length + k.direct.length + b2n k.cur.isSome
    + ((s.groups.filter on).map (fun q => q.2.outst.length)).sum
  let s : State := { s with groups := s.groups.map (fun q =>
    if on q then (q.1, { q.2 with outst := q.2.outst.map (fun c => { c with hiveDead := true }), carry := [] }) else q) }
  (((s.setHive h { own := k.own, prog := k.prog, seed := k.seed }).setFld 0x24 h 0x14 31 30 0).countPoisoned n)

/-- The forager's and the far link's reset: EFB, BASECOPY and LONGHAUL keep the pending slots, the kept bases and the fragments (R520). -/
def State.drainForager (s : State) : State :=
  let n := s.fg.inbox.length
  ({ s with fg := { s.fg with inbox := [] } }).sessionDown.countPoisoned n

/-- Requests that the host port has not answered complete with DRAIN_EXPIRED (R524). -/
def State.drainHp (s : State) : State :=
  let ms := s.hp.inProg
  (ms.foldl (fun s m => s.respond m 0x8103 [] false) s).countPoisoned ms.length

/-- Grants into the domain end (R524). -/
def State.endGrants (s : State) (fns : List Fn) : State :=
  { s with ports := s.ports.map (fun q =>
    (q.1, { q.2 with grants := q.2.grants.filter (fun g => !fns.contains (unitFn g.req.unit.toNat g.req.index.toNat)) })) }

/-- The module's reset: every unit is new, on-package SRAM is zero, Q_OPEN and STEP_MEMBER of every context are 0, no knock-back is in
progress, and main memory stays in self-refresh unless the reset began without it; its contents are kept where they were held up to
now (R295, R520, R526). DESIGN CHOICE (log 5): the generators of the hives begin at 1 again, as before bring-up. -/
def State.resetModule (s : State) (keep : Bool) : State :=
  let kept := keep && (s.ms.kept || decide (2 ≤ s.fnState .ms))
  let s := (List.range 96).foldl (fun s c => (s.drainCore c [])) s
  let s := (List.range 96).foldl (fun s c => (List.range 4).foldl (fun s x =>
    (s.setFld 0x10 c (0x100 + 0x40 * x) 1 0 0).setCtx c x {}) s) s
  let s := (List.range 16).foldl (fun s h => s.drainHive h) s
  let s := s.drainForager.drainHp
  let s : State := { s with ports := [], groups := [], hives := [], fg := {}, kbStep := 0, kbEval := false, kbRepeat := false,
                            dieSt := [], selfFar := [],
                            mem := s.mem.filter (fun e => spaceOf e.1 == 3), ue := s.ue.filter (fun g => spaceOf g == 3), sce := [],
                            ms := { s.ms with kept := kept } }
  let s := if keep then s else s.setFld 0x20 0 0x14 7 7 0
  (s.setFld 0x20 0 0x14 4 4 (b2n keep)).setFld 0 0 0x204 30 27 7

/-- The drain ends: what is still outstanding is poisoned, commands end, grants end, and the domain is reset (R524). -/
def State.drainEnds (s : State) (r : Recovery) : State :=
  let i := r.d.num.toNat
  let before := s.word64 1 0 0x60
  let s := match r.d.kind.toNat with
    | 0 => r.fns.foldl (fun (s : State) (f : Fn) => match f with
        | .engine c m => s.drainEngine c.toNat m.toNat r.named
        | _ => s) s
    | 1 => s.drainCore i r.suspects
    | 2 => s.drainHive i
    | 3 => s.drainForager
    | 5 => s.drainHp
    | 6 => s.resetModule r.keep
    | _ => s
  let s := s.endGrants r.fns
  let s := if s.word64 1 0 0x60 = before then s else s.addTrail 0x8103 (domSource r.d).1 (domSource r.d).2 0
  s.updRec r.d (fun r => { r with phase := 3 })

/-- Work is outstanding in the domain. -/
def State.workLeft (s : State) (r : Recovery) : Bool := r.fns.any (fun f => !s.workDone f)

/-! ### Takeover (R534) -/

/-- A crumb record in progress starts again. -/
def CrumbJob.again (j : CrumbJob) : CrumbJob :=
  let first := crumbFirst j.domKind j.inst
  { j with todo := first ++ crumbBlocks.filter (fun b => !first.contains b), got := [], entries := 0, bad := 0 }

/-- The standby takes over, provided it is ready: no function is fenced, and CT_CYCLE goes on. -/
def State.takeover (s : State) : State :=
  if s.fld 0 0 0x80 6 6 = 0 then s
  else
    let die := 1 - s.fld 0 0 0x80 5 5
    let s := ((s.setFld 0 0 0x80 6 6 0).setFld 0 0 0x80 5 5 die).setFld 0 0 0x80 4 4 1
    let s : State := { s with sw := { s.sw with
      recs := s.sw.recs.map (fun r => if r.phase = 2 then { r with clock := s.cycle } else r),
      job := s.sw.job.map CrumbJob.again, quiet := 2 } }
    let (s, n) := s.takeCrumb 3 15 0
    ((s.setFlag 1 0 8 5).addTrail 0 8 die 0).domainEvent 7 die fnRUNNING causeTAKEOVER 0 n noContext

/-! ### The internal START (R55, R526) -/

/-- A restarted hive takes its owned entries and program anew and derives every working copy for the current step. -/
def State.restartHive (s : State) (h : Nat) : State :=
  let s := (s.noteStart (.hive (BitVec.ofNat 4 h))).startEffect (.hive (BitVec.ofNat 4 h))
  (s.hive h).own.foldl (fun s e => s.deriveWc h e (wcRnd (s.lotBytes h e.layer)) s.step24 false) s

/-- A memory-port die under recovery holds up the working copies that a restarted hive derives (R296, log 66). -/
def State.hiveRestartHeld (s : State) (h : Nat) : Bool := (s.ownedOf h).any (fun e => s.shardHeld h e s.step24)

/-- A restarted forager sends its pending slots again (R437). -/
def State.restartForager (s : State) : State :=
  (s.fg.deltas.filter (fun d => !s.inTransport d.blk)).foldl (fun s d =>
    let d' := { d with failed := none }
    ({ s with fg := { s.fg with deltas := s.fg.deltas.map (fun x => if x = d then d' else x) } }).sendDelta d') s

/-- The internal START of one function of a recovered domain. In a module restart the forager starts as new. -/
def State.internalStart (s : State) (module_ : Bool) (f : Fn) : State :=
  if (match f with
    | .engine c m => (s.eng c.toNat m.toNat).retired || s.isFollower c.toNat m.toNat
    | _ => false) then s
  else
    let r := s.startReason f
    if r ≠ 0 then
      let s := (s.setFnStates f fnOFF).setFnReason f r
      match f with
      | .forager => s.fgStop r
      | .sf p => s.setTx (.sf p) false
      | .fl => s.setTx .fl false
      | _ => s
    else
      let s := (s.setFnStates f fnRUNNING).setFnReason f 0
      match f with
      | .hive h => s.restartHive h.toNat
      | .forager => if module_ then s.startEffect .forager else s.restartForager
      | _ => (s.withFollower f).foldl State.startEffect s

/-- The function whose state a domain's event reports. -/
def domMain (d : Domain) : Option Fn :=
  let i := d.num.toNat
  match d.kind.toNat with
  | 0 => some (.engine (BitVec.ofNat 7 (i / 4)) (BitVec.ofNat 2 i))
  | 1 => some (.core (BitVec.ofNat 7 i))
  | 2 => some (.hive (BitVec.ofNat 4 i))
  | 3 => some .forager
  | 5 => some .hp
  | _ => none

/-- A recovery ends: it counts in CT_HEALTH, and the event carries the new state (R544, R546). -/
def State.recoveryOver (s : State) (r : Recovery) : State :=
  let s : State := { s with sw := { s.sw with recs := s.sw.recs.filter (fun q => q.d != r.d) },
                            dieSt := if r.d.kind = 4 then s.dieSt.erase r.d.num.toNat else s.dieSt }
  let s := s.countFld 0 0 0x80 31 16 1
  let (st, why) := match domMain r.d with
    | some f => (s.fnState f, if s.fnState f = 2 then 0 else s.fnReason f)
    | none => (2, 0)
  s.domainChange r st why

/-- The reasons that end a core's recovery: every suspect is HALTED with its outcome's reason (R531, R545). -/
def replayReason (outcome last : Nat) : Nat :=
  if outcome = 2 then 0x8101 else if outcome = 3 then last else if outcome = 4 then 0x8104 else 0x8102

/-- Replays are over: SQ_REPLAY, the suspects' states, and the named context. -/
def State.replaysOver (s : State) (r : Recovery) : State :=
  let c := r.d.num.toNat
  let out := fun x => Tbl.get 0 r.outcomes x
  let w := ((List.range 4).map (fun x => out x * 2 ^ (8 * x))).sum
  let s := s.setWord 0x10 c 0x28 (BitVec.ofNat 32 w)
  let s := r.suspects.foldl (fun s x =>
    s.updCtx c x (fun k => { k with st := .halted, wait := .none, run := none,
                                    lastReason := BitVec.ofNat 16 (replayReason (out x) k.lastReason.toNat) })) s
  let named := match (List.range 4).find? (fun x => out x == 2 || out x == 4) with
    | some x => c * 4 + x
    | none => noContext
  let s := r.suspects.foldl (fun s x => if out x = 2 then s.addTrail 0x8101 0 c x else s) s
  let stops := (List.range 4).map (fun x => Tbl.get 0 r.ends x)
  let put := fun (j : CrumbJob) => if j.number = r.record then { j with replay := BitVec.ofNat 32 w, stops := stops } else j
  let s : State := { s with sw := { s.sw with job := s.sw.job.map put, jobs := s.sw.jobs.map put } }
  s.recoveryOver { r with named := named }

/-- Start every function of the domain but MS, and end the recovery, or begin its replays (R526, R530). -/
def State.restartDomain (s : State) (r : Recovery) : State :=
  let s := (r.fns.filter (fun f => f != .ms)).foldl (fun s f => s.internalStart (r.d.kind == 6) f) s
  if r.d.kind = 1 && !r.suspects.isEmpty then
    let c := r.d.num.toNat
    if s.coreRunning c then
      let s := r.suspects.foldl (fun s x => s.updCtx c x (fun k => { k with st := .isolated })) s
      s.updRec r.d (fun r => { r with phase := 4, replaying := none })
    else s.replaysOver { r with outcomes := [] }
  else s.recoveryOver r

/-- The reset of a domain ends; a hive's restart waits for the memory it derives from (R296). A module restart first retrains main memory, and the rest follows the training (R293, R295). -/
def State.resetEnds (s : State) (r : Recovery) : State :=
  if r.d.kind = 6 && r.fns.contains .ms then
    if s.ms.training then s
    else
      let why := s.startReason .ms
      if why ≠ 0 then ((s.setFnState .ms fnOFF).setFnReason .ms why).restartDomain r else s.beginTraining
  else if r.d.kind = 2 && s.hiveRestartHeld r.d.num.toNat then s
  else s.restartDomain r

end Sys2Proof.Machine
end

