-- ==== Sys2Proof/Machine/StartOps.lean ====
section
/-! DEFINITION. Firmware images (R551 to R554), counted settings and their commit (R566 to R570), the change journal (R571, R572) and
owner keys (R563). -/

namespace Sys2Proof.Machine

/-! ### Firmware images (R551, R552) -/

def imgSec (img : List Byte) : Nat := leField img 4 4
def imgBuild (img : List Byte) : Nat := leField img 8 4
def imgLength (img : List Byte) : Nat := leField img 12 4
def imgDigest (img : List Byte) : List Byte := (img.drop 16).take 64

def allZero (bs : List Byte) : Bool := bs.all (fun b => b == 0)

/-- SEC_VERSION and BUILD of the running image (R553). -/
def State.runSec (s : State) : Nat := imgSec s.boot.image

/-- The manifest is well formed: IMG_VER, reserved bytes, LENGTH. -/
def imgShape (img : List Byte) : Bool :=
  leField img 0 4 == 1 && allZero ((img.drop 81).take 3) && allZero ((img.drop 217).take 7) && allZero ((img.drop 356).take 156)
    && decide (512 ≤ img.length) && decide (1 ≤ imgLength img) && decide (imgLength img ≤ 2 ^ 26 - 512)
    && decide (512 + imgLength img ≤ img.length)

/-- SIGNER_PUB is a fused key, and SIG verifies under it. -/
def imgSigned (img : List Byte) : Bool :=
  let pub := (img.drop 84).take 133
  let i := leField img 80 1
  decide (i < 4) && Config.sha512 pub == Config.fusedSigner i && Config.ecdsaVerify pub (img.take 224) ((img.drop 224).take 132)

/-- The outcome of verifying a slot's image against a floor: 1 verified, 2 signature or signer, 3 below the floor, 4 manifest or digest,
5 empty (R552, R574). The checks are made in the order of R552. -/
def imgResult (img : List Byte) (floor : Nat) : Nat :=
  if img.isEmpty then 5
  else if !imgShape img then 4
  else if !imgSigned img then 2
  else if Config.sha512 ((img.drop 512).take (imgLength img)) != imgDigest img then 4
  else if imgSec img < floor then 3
  else 1

/-- An install is refused with ROLLBACK for an image below the floor, and with BAD_IMAGE for any other failure (R554). -/
def installReason (img : List Byte) (floor : Nat) : Nat :=
  if imgResult img floor = 1 then 0 else if imgResult img floor = 3 then 0x8002 else 0x8003

/-- A trail entry of the control dies (R538, R575). R539 gives the active control die no source code, so that byte is free. -/
def State.trailControl (s : State) (reason : Nat) : State :=
  let (n, s) := s.nextFree
  s.addTrail reason ((Config.freeW32 n).toNat % 256) 0 0

/-- The image that CT_FW_SRC and CT_FW_LEN name in module store; `none` when it cannot be read (R270, R554). -/
def State.fwImage (s : State) : Option (List Byte) :=
  let a := s.word64 0 0 0x310
  let n := (s.word 0 0 0x318).toNat
  if n = 0 || spaceOf a ≠ 2 || s.accessReason a n ≠ 0 then none else some (s.readMem a n)

/-- CT_FW_CMD (R554): BUSY while an action is in progress; ACTION 1 verifies and installs into the slot that is not running, ACTION 2 sets
PREFERRED. ACTION 3 is reserved and does nothing. -/
def State.fwCommand (s : State) (action slot : Nat) : Nat × State :=
  if action = 0 || action = 3 then (0, s)
  else if s.fwJob.isSome then (rsBUSY, s)
  else if action = 1 then
    let img := s.fwImage
    let s := if img.isSome then s.noteUe (s.word64 0 0 0x310) (s.word 0 0 0x318).toNat else s
    let why := match img with
      | some b => installReason b s.store.floor.toNat
      | none => 0x8003
    (0, { s with fwJob := some { action := 1, slot := 1 - s.boot.slotRun, image := if why = 0 then img else none, reason := why } })
  else (0, { s with fwJob := some { action := 2, slot := slot, image := none } })

/-- The action ends: the slot or PREFERRED is written, or the refusal is shown. -/
def State.fwEnds (s : State) (j : FwJob) : State :=
  let s : State := { s with fwJob := none }
  let s := s.setFld 0 0 0x320 15 0 j.reason
  let s := if j.reason = 0x8002 then s.trailControl 0x8002 else s
  if j.reason ≠ 0 then s
  else if j.action = 2 then { s with store := { s.store with preferred := j.slot } }
  else
    match j.image with
    | none => s
    | some b => if j.slot = 0 then { s with store := { s.store with slotA := b } } else { s with store := { s.store with slotB := b } }

/-! ### Counted settings (R566, R567) -/

/-- The committed value. -/
def State.csValue (s : State) (k : Counted) : Nat :=
  match k with
  | .siteId => s.store.siteId.toNat
  | .gateway => b2n s.store.gateway
  | .secFloor => s.store.floor.toNat
  | .identityGen => s.store.gen
  | .hostMac => s.store.hostMac.toNat
  | .retire => s.store.retire.toNat

/-- A function is OFF or CONFIGURING. -/
def State.atRest (s : State) (f : Fn) : Bool := decide (s.fnState f ≤ 1)

/-- The state in which a changing write is made. -/
def State.csWritable (s : State) (k : Counted) : Bool :=
  match k with
  | .siteId => allPorts.all s.atRest && allHives.all s.atRest && (s.groupFns none).all s.atRest && s.atRest .forager
  | .gateway => s.atRest .fl && s.atRest .forager
  | _ => true

/-- The engines whose bit a new CT_CS_RETIRE value sets, ascending. -/
def newEngines (old new : Nat) : List Nat := (List.range 384).filter (fun e => bitAt new e && !bitAt old e)

/-- The value lies in the range of R566. -/
def State.csInRange (s : State) (k : Counted) (v : Nat) : Bool :=
  match k with
  | .siteId => decide (v ≤ 254)
  | .gateway => decide (v ≤ 1)
  | .secFloor => decide (s.store.floor.toNat < v) && decide (v ≤ s.runSec)
  | .identityGen => v == s.store.gen + 1
  | .hostMac => decide (v < 2 ^ 48) && !bitAt v 40
  | .retire => decide (v < 2 ^ 384) && (List.range 384).all (fun e => bitAt v e || !bitAt s.store.retire.toNat e)

def csLimit (k : Counted) : Nat :=
  match k with
  | .siteId => 8
  | .gateway => 16
  | .secFloor => 64
  | .identityGen => 4
  | .hostMac => 8
  | .retire => 1

/-- Changes used; a set retire bit cannot be written again, so its one change is never found used (R567). -/
def State.csUsed (s : State) (k : Counted) : Nat :=
  match k with
  | .siteId => s.store.siteUsed
  | .gateway => s.store.gatewayUsed
  | .secFloor => s.store.floorUsed
  | .identityGen => s.store.genUsed
  | .hostMac => s.store.macUsed
  | .retire => 0

def csNumber (k : Counted) : Nat :=
  match k with
  | .siteId => 1
  | .gateway => 2
  | .secFloor => 3
  | .identityGen => 4
  | .hostMac => 5
  | .retire => 6

/-- Why a changing write is refused, 0 when it is accepted (R566 to R568). -/
def State.csReason (s : State) (k : Counted) (v : Nat) : Nat :=
  firstReason [(s.csJob.isSome, rsBUSY), (!s.csWritable k, rsBAD_STATE), (!s.csInRange k v, rsBAD_SETTING),
    (decide (csLimit k ≤ s.csUsed k), rsLIMIT_USED)]

/-- The MAC address that the journal names as the writer's (R572). -/
def State.writerMac (s : State) (w : Writer) : BitVec 48 :=
  match w, s.hp.claimant with
  | .host, some c => c.mac
  | _, _ => 0

/-- The value that a setting holds before its first change and that no write may give it: 255 as a SITE_ID (R566, log 59). -/
def csNever (k : Counted) (v : Nat) : Bool := k == .siteId && decide (254 < v)

/-- A write to a counted setting: the present value consumes nothing; a change is accepted and waits for its commit, or is refused, which
CT_CS_STATUS.LAST_REASON takes (R16, R566 to R568). -/
def State.csWrite (s : State) (w : Writer) (k : Counted) (v : Nat) : Nat × State :=
  if v = s.csValue k then (if csNever k v then (rsBAD_SETTING, s.setFld 0 0 0x450 15 0 rsBAD_SETTING) else (0, s))
  else
    let r := s.csReason k v
    if r ≠ 0 then
      let s := s.setFld 0 0 0x450 15 0 r
      (r, if r = rsLIMIT_USED then s.trailControl r else s)
    else
      let old := s.csValue k
      (0, { s with csJob := some { setting := csNumber k, insts := if k = .retire then newEngines old v else [0], old := old, new := v,
                                   epoch := s.hp.epoch, mac := s.writerMac w, cc := s.cycle } })

/-! ### Owner keys (R563, R571) -/

/-- The slot holds a digest. -/
def State.ownerDigest (s : State) (i : Nat) : List Byte := Tbl.get [] s.store.owners i
def State.ownerValid (s : State) (i : Nat) : Bool := !(s.ownerDigest i).isEmpty

/-- CT_OWNER_STAGE. -/
def State.ownerStage (s : State) : List Byte := (List.range 16).flatMap (fun j => leBytes 4 (s.word 0 0 (0x500 + 4 * j)).toNat)

/-- Owner-key entries in the journal. -/
def State.ownerEntries (s : State) : Nat := (s.store.journal.filter (fun e => leField e 4 1 == 7)).length

/-- CT_OWNER_CMD. -/
def State.ownerCommand (s : State) (w : Writer) (slot : Nat) (clear : Bool) : Nat × State :=
  if s.csJob.isSome then (rsBUSY, s)
  else if 1564 ≤ s.ownerEntries then (0x8004, s)
  else
    (0, { s with csJob := some { setting := 7, insts := [slot], old := b2n (s.ownerValid slot), new := b2n (!clear),
                                 detail := if clear then List.replicate 64 0 else s.ownerStage, epoch := s.hp.epoch,
                                 mac := s.writerMac w, cc := s.cycle } })

/-! ### The journal (R571, R572) -/

/-- Entry number `index` after the entry `prev`, for instance `inst` of a job. -/
def State.journalEntry (s : State) (j : CsJob) (inst used limit old new : Nat) (detail : List Byte) : List Byte :=
  let prev := match s.store.journal.getLast? with
    | some e => Config.sha512 e
    | none => List.replicate 64 0
  let b := leBytes 4 s.store.journal.length ++ leBytes 1 j.setting ++ leBytes 1 s.store.gen ++ leBytes 2 inst ++ leBytes 8 old
    ++ leBytes 8 new ++ leBytes 1 used ++ leBytes 1 limit ++ leBytes 2 0 ++ leBytes 4 s.runSec ++ leBytes 4 j.epoch.toNat
    ++ leBytes 6 j.mac.toNat ++ leBytes 2 0 ++ leBytes 8 j.cc.toNat ++ leBytes 4 s.store.boots.toNat ++ List.replicate 8 0 ++ prev ++ detail
  b ++ Config.identitySign s.store.gen b ++ List.replicate 12 0

def State.addJournal (s : State) (e : List Byte) : State := { s with store := { s.store with journal := s.store.journal ++ [e] } }

/-- A job of a counted setting that is not ENGINE_RETIRE: its journal entry with the changes used after this one. -/
def State.journalOne (s : State) (j : CsJob) (used limit : Nat) (detail : List Byte) : State :=
  s.addJournal (s.journalEntry j 0 used limit j.old j.new detail)

/-- Retire the engines of a job: one entry each, and every one still in service is retired at once (R510, R567). -/
def State.commitRetire (s : State) (j : CsJob) : State :=
  let s := j.insts.foldl (fun s e => s.addJournal (s.journalEntry j e 1 1 0 1 (List.replicate 64 0))) s
  let s : State := { s with store := { s.store with retire := BitVec.ofNat 384 j.new } }
  j.insts.foldl (fun s e => if (s.eng (e / 4) (e % 4)).retired then s else s.beginRetire (e / 4) (e % 4)) s

/-- The commit of a job: journal entry, use count and value together (R568, R570). A rekey's entry is signed with the key before it. -/
def State.commitJob (s : State) (j : CsJob) : State :=
  let z : List Byte := List.replicate 64 0
  let st := s.store
  match j.setting with
  | 1 =>
    let s := s.journalOne j (st.siteUsed + 1) 8 z
    { s with store := { s.store with siteId := BitVec.ofNat 8 j.new, siteUsed := st.siteUsed + 1 } }
  | 2 =>
    let s := s.journalOne j (st.gatewayUsed + 1) 16 z
    { s with store := { s.store with gateway := j.new == 1, gatewayUsed := st.gatewayUsed + 1 } }
  | 3 =>
    let s := s.journalOne j (st.floorUsed + 1) 64 z
    { s with store := { s.store with floor := BitVec.ofNat 32 j.new, floorUsed := st.floorUsed + 1 } }
  | 4 =>
    let s := s.journalOne j (st.genUsed + 1) 4 (Config.sha512 (Config.identityPub j.new))
    { s with store := { s.store with gen := j.new, genUsed := st.genUsed + 1 } }
  | 5 =>
    let s := s.journalOne j (st.macUsed + 1) 8 z
    { s with store := { s.store with hostMac := BitVec.ofNat 48 j.new, macUsed := st.macUsed + 1 } }
  | 6 => s.commitRetire j
  | _ =>
    let i := j.insts.headD 0
    let s := s.addJournal (s.journalEntry j i 0 0 j.old j.new j.detail)
    { s with store := { s.store with owners := Tbl.set [] s.store.owners i (if j.new = 1 then j.detail else []) } }

/-- COUNTED_SETTING_COMMIT: the commit is written to both dies, or to neither (R568, R569). -/
def execCountedSettingCommit (ok : Bool) (s : State) : Out :=
  match s.csJob with
  | none => .next s
  | some j =>
    let s : State := { s with csJob := none }
    if ok then .next ((s.commitJob j).setFld 0 0 0x450 15 0 0)
    else .next ((s.setFld 0 0 0x450 15 0 0x8005).trailControl 0x8005)

/-- FW_ACTION_COMPLETE (R554). -/
def execFwActionComplete (s : State) : Out :=
  match s.fwJob with
  | none => .next s
  | some j => .next (s.fwEnds j)

end Sys2Proof.Machine
end

