-- ==== Sys2Proof/Machine/CtlWrite.lean ====
section
/-! DEFINITION. Writing control space (R16 to R19, R51 to R57): the checks that refuse a write whole, and what an accepted write does,
word by word. -/

namespace Sys2Proof.Machine

/-! ### Fields of a word under a write -/

/-- The words of an access: block, instance, offset and value of each. -/
def ctlWords (a n v : Nat) : List (Nat × Nat × Nat × Nat) :=
  let (b, i, o) := ctlParts a
  if n = 8 then [(b, i, o, v % 2 ^ 32), (b, i, o + 4, v / 2 ^ 32 % 2 ^ 32)] else [(b, i, o, v % 2 ^ 32)]

def wordFlds (b i o : Nat) : List Fld := (regWord b i o).getD []

/-- Some field of the word meets `p`. -/
def anyFld (b i o : Nat) (p : Fld → Bool) : Bool := (wordFlds b i o).any p

/-- A field keeps its stored value under a write of `v`. -/
def State.keepsFld (s : State) (b i o v : Nat) (f : Fld) : Bool := bitsOf v f.hi f.lo == s.fld b i o f.hi f.lo

/-- A write of `v` changes a field that is RW and not LIVE (R19). -/
def State.changesSetting (s : State) (b i o v : Nat) : Bool :=
  anyFld b i o (fun f => f.acc == .rw && !s.keepsFld b i o v f)

/-- A word with a LIVE field. -/
def hasLive (b i o : Nat) : Bool := anyFld b i o (fun f => f.acc == .rwl || f.acc == .wol)

/-- A write of `v` acts on a WO or W1C field that is not LIVE. -/
def actsPlain (b i o v : Nat) : Bool :=
  anyFld b i o (fun f => (f.acc == .wo || f.acc == .w1c || f.acc == .lc) && bitsOf v f.hi f.lo != 0)

/-! ### Permission (R53, R573) -/

/-- A word of a block of the writer's own core. -/
def ownBlock (c b i : Nat) : Bool := ((b == 0x10 || b == 0x12) && i == c) || ((b == 0x11 || b == 0x13) && i / 4 == c)

/-- The start-up, identity and settings registers of the CT block (R573). -/
def ctGuarded (b o : Nat) : Bool := b == 0 && decide (0x300 ≤ o) && decide (o < 0x1000)

/-- Those of them that a host may write. -/
def ctHostWritable (o : Nat) : Bool :=
  inWords o 0x310 0x31C || inWords o 0x400 0x414 || inWords o 0x420 0x44C || inWords o 0x500 0x540 || o == 0x704

/-- Why a writer may not write a word, 0 when it may. -/
def State.permReason (s : State) (w : Writer) (q : Nat × Nat × Nat × Nat) : Nat :=
  let (b, i, o, v) := q
  match w with
  | .service => 0
  | .host => if ctGuarded b o && !ctHostWritable o then rsNOT_PERMITTED else 0
  | .ctx c _ =>
    if ownBlock c.toNat b i then 0
    else if ctGuarded b o || !hasLive b i o || s.changesSetting b i o v || actsPlain b i o v then rsNOT_PERMITTED
    else 0

/-! ### State (R19, R293, R504) -/

/-- The settings of a function may change. -/
def State.settingsOpen (s : State) (f : Fn) : Bool := s.atRest f && !(f == .ms && s.ms.training)

/-- The word is an ED_CFG with a TWIN field. -/
def isTwinWord (b i o : Nat) : Bool := b == 0x13 && o == 0 && i % 2 == 0

/-- TWIN changes only while both engines of the pair are OFF or CONFIGURING; else the state of the engine that is neither refuses it, and
BAD_STATE for RUNNING, which is no refusing state (R504, log 25). -/
def State.twinReason (s : State) (i : Nat) : Nat :=
  let st := fun e => s.fld 0x11 e 0 2 0
  let why := fun e => if st e ≤ 1 then 0 else if st e = 2 then rsBAD_STATE else st e
  if why i ≠ 0 then why i else why (i + 1)

/-- A non-LIVE field changes while its function is neither OFF nor CONFIGURING (R19). A LIVE field is also written while its function is
FENCED or DRAINING, on which R19 is silent (log 68). -/
def State.stateReasonW (s : State) (q : Nat × Nat × Nat × Nat) : Nat :=
  let (b, i, o, v) := q
  let twin := isTwinWord b i o && bitAt v 1 != (s.fld b i o 1 1 == 1)
  let v' := if isTwinWord b i o then setBits v 1 1 (s.fld b i o 1 1) else v
  match wordFn b i o with
  | none => 0
  | some f =>
    if s.changesSetting b i o v' && !s.settingsOpen f then rsBAD_STATE
    else if twin then s.twinReason i else 0

/-! ### Values -/

/-- A negative or non-finite FP32 value (R457). -/
def badWeight (v : Nat) : Bool := noClip (BitVec.ofNat 32 v)

/-- The drain time limits of R520 in µs. -/
def drainLimit (k : Nat) : Nat :=
  if k = 0 then 10000 else if k = 1 then 200000 else if k = 2 then 100000 else if k = 3 then 200000 else if k = 4 then 10000
  else if k = 5 then 10000 else 500000

/-- TASTE_N values that are refused (R211). -/
def badTaste (n : Nat) : Bool := (decide (1 ≤ n) && decide (n ≤ 3)) || decide (17 ≤ n)

/-- The domain a write of SW_CMD names. -/
def swDomain (v : Nat) : Domain := { kind := BitVec.ofNat 4 (v / 2 ^ 12), num := BitVec.ofNat 12 v }

def State.standbyReady (s : State) : Bool := s.fld 0 0 0x80 6 6 == 1

/-- SW_CMD (R541, R547). -/
def State.swReason (s : State) (v : Nat) : Nat :=
  let act := bitsOf v 31 30
  if (act = 1 || act = 2) && !s.domainExists (swDomain v) then 0x8105
  else if act = 3 && !s.standbyReady then 0x8105 else 0

/-- A value out of its range (R211, R218, R323, R324, R457, R541, R589). -/
def State.valueReason (s : State) (q : Nat × Nat × Nat × Nat) : Nat :=
  let (b, i, o, v) := q
  if b = 0x10 && o = 0x400 then chk (badTaste (bitsOf v 20 16)) rsBAD_SETTING
  else if b = 0x10 && o = 0x408 then
    chk (decide (s.slotCount i ≤ bitsOf v 11 0) || bitsOf v 28 27 == 3) rsBAD_OPERAND
  else if b = 0x21 && o = 0x10 then
    chk (decide (bitsOf v 26 16 < 10) || (bitAt v 27 && s.word128 0x21 0 0x30 == 0)) rsBAD_SETTING
  else if b = 0x25 && (o = 0x3C || inWords o 0x40 0x5C) then chk (badWeight v) rsBAD_SETTING
  else if b = 0x25 && o = 0x6C then s.fgRefreshReason v
  else if b = 1 && o = 0 then chk (decide (bitsOf v 23 16 < 2)) rsBAD_SETTING
  else if b = 1 && inWords o 0x10 0x28 then chk (v == 0 || decide (drainLimit ((o - 0x10) / 4) < v)) rsBAD_SETTING
  else if b = 1 && o = 0x30 then chk (v == 0 || decide (400 < v)) rsBAD_SETTING
  else if b = 1 && o = 0xC then s.swReason v
  else if b = 2 && o = 0 then
    let l := bitsOf v 11 0
    let k := bitsOf v 27 16
    chk (decide (l < 1500) || decide (4000 < l) || decide (k < 1000) || decide (l < k)) rsBAD_SETTING
  else 0

/-! ### Counted settings and CT commands among the words (R566, R574) -/

/-- The counted settings that an access names, with the whole value each would take. -/
def State.csTargets (s : State) (n : Nat) (q : Nat × Nat × Nat × Nat) : List (Counted × Nat) :=
  let (b, _, o, v) := q
  if b ≠ 0 then []
  else if o = 0x400 then [(.siteId, v % 256)]
  else if o = 0x404 then [(.gateway, v % 2)]
  else if o = 0x408 then [(.secFloor, v)]
  else if o = 0x40C then [(.identityGen, v % 8)]
  else if o = 0x410 && n = 4 then [(.hostMac, setBits s.store.hostMac.toNat 31 0 v)]
  else if o = 0x414 && n = 4 then [(.hostMac, setBits s.store.hostMac.toNat 47 32 v)]
  else if inWords o 0x420 0x44C && n = 4 then [(.retire, setBits s.store.retire.toNat (8 * (o - 0x420) + 31) (8 * (o - 0x420)) v)]
  else []

/-- The counted settings that an access of `n` bytes would change, or give a value that they never take. -/
def State.csOf (s : State) (a n v : Nat) : List (Counted × Nat) :=
  let ws := ctlWords a n v
  let o := a % 65536
  let l :=
    if n = 8 && a / 65536 = 0 && o = 0x410 then [(Counted.hostMac, v % 2 ^ 48)]
    else if n = 8 && a / 65536 = 0 && inWords o 0x420 0x448 then
      [(Counted.retire, setBits s.store.retire.toNat (8 * (o - 0x420) + 63) (8 * (o - 0x420)) v)]
    else ws.flatMap (s.csTargets 4)
  l.filter (fun p => p.2 != s.csValue p.1 || csNever p.1 p.2)

/-! ### Counter resets (R57, R179, R210, R265, R298, R323, R490, R512, R541, R589) -/

/-- The counter and event-counter words that CTR_RESET at a word clears, as ranges of offsets; `none` where the word has no such field. -/
def ctrRanges (b o : Nat) : Option (List (Nat × Nat)) :=
  if b = 0x10 && o = 0x400 then some [(0x18, 0x18), (0x20, 0x24), (0x440, 0x4FC), (0x50C, 0x520), (0x600, 0x62C)]
  else if b = 0x11 && o = 0x10 then some [(0x40, 0x84)]
  else if b = 0x12 && o = 0 then some [(0x40, 0x6C), (0x108, 0x110)]
  else if b = 0x13 && o = 0 then some [(0x40, 0x84), (0x108, 0x11C)]
  else if b = 0x20 && o = 0x10 then some [(0x40, 0x7C), (0x118, 0x130), (0x1000, 0x17FC)]
  else if b = 0x21 && o = 0x10 then some [(0x40, 0x6C), (0x118, 0x11C)]
  else if b = 0x22 && o = 0x10 then some [(0x40, 0xB4), (0x11C, 0x12C)]
  else if b = 0x23 && o = 0x10 then some [(0x40, 0x84), (0x138, 0x14C)]
  else if b = 0x24 && o = 0x10 then some [(0x80, 0xF4), (0x118, 0x134)]
  else if b = 0x25 && o = 0x10 then some [(0x80, 0xE4), (0x118, 0x134)]
  else if b = 0x25 && o = 0x210 then some [(0x280, 0x2FC), (0x328, 0x340)]
  else if b = 1 && o = 0 then some [(0x40, 0x74), (0x108, 0x11C)]
  else if b = 2 && o = 0 then some [(0x40, 0x5C), (0x108, 0x118)]
  else none

/-- CTR_RESET acts: the block's function is OFF, or the block has none that stops for settings. -/
def State.ctrOpen (s : State) (b i o : Nat) : Bool :=
  match wordFn b i o with
  | none => true
  | some .hp => true
  | some f => s.fnState f == 0

def State.resetCounters (s : State) (b i o : Nat) : State :=
  match ctrRanges b o with
  | none => s
  | some rs =>
    if s.ctrOpen b i o then
      { s with ctl := s.ctl.filter (fun e => !(keyBlk e.1 == b && keyInst e.1 == i && rs.any (fun r => inWords (keyOff e.1) r.1 r.2))) }
    else s

/-! ### What an accepted write does -/

/-- Store the RW fields, clear the W1C flags written as 1, and keep note of reserved bits written as 1 (R16, R18): the note stands, and
refuses every START, until the word is written again with those bits 0 (log 67). -/
def State.storeWord (s : State) (b i o v : Nat) : State :=
  let fs := wordFlds b i o
  let old := (s.word b i o).toNat
  let new := fs.foldl (fun w f =>
    if f.acc == .rw || f.acc == .rwl then setBits w f.hi f.lo (bitsOf v f.hi f.lo)
    else if f.acc == .w1c then setBits w f.hi f.lo (bitsOf w f.hi f.lo &&& (2 ^ (f.hi + 1 - f.lo) - 1 - bitsOf v f.hi f.lo))
    else w) old
  let s := if new = old then s else s.setWord b i o (BitVec.ofNat 32 new)
  let k := ctlKey b i o
  if (wordFn b i o).isNone then s
  else if v &&& (2 ^ 32 - 1 - fieldMask fs) = 0 then { s with rsv := s.rsv.filter (fun x => x != k) }
  else if s.rsv.contains k then s else { s with rsv := s.rsv ++ [k] }

/-- SQ_ENGINE_MAP (R255): the attachments of a context to an engine that it no longer owns are dropped. -/
def State.mapEngines (s : State) (c : Nat) (old new : Nat) : State :=
  (List.range 4).foldl (fun s m =>
    let was := bitsOf old (2 * m + 1) (2 * m)
    if bitsOf new (2 * m + 1) (2 * m) = was then s else s.disown c m was) s

/-- ED_CFG.TWIN has been written: a follower's ME_STATE follows its leader's from now on, and one that is released keeps the buffers and banks
it has worked with (R504, R505). -/
def State.twinEffect (s : State) (i old v : Nat) : State :=
  if bitAt v 1 then s.setFld 0x11 (i + 1) 0 2 0 (s.fld 0x11 i 0 2 0)
  else if bitAt old 1 then s.partTwin (i / 4) (i % 4)
  else s

/-- SW_CMD (R534, R537, R541): a recovery with cause software, a record, or a takeover. -/
def State.swCommand (s : State) (v : Nat) : State :=
  let act := bitsOf v 31 30
  let d := swDomain v
  if act = 1 then s.beginRecovery d causeSOFTWARE none
  else if act = 2 then (s.takeCrumb 4 d.kind.toNat d.num.toNat).1
  else if act = 3 then s.takeover
  else s

/-- A write to TASTE_N: every engine of the core starts a new window at its next result tile (R234). -/
def State.newWindows (s : State) (c : Nat) : State :=
  (List.range 4).foldl (fun s m => s.updEng c m (fun e => { e with tasteWin := none, tasteCnt := 0 })) s

/-- What a write does beside storing. -/
def State.wordEffect (s : State) (b i o old v : Nat) : State :=
  if b = 0x10 && o = 0x10 then s.mapEngines i old v
  else if b = 0x10 && o = 0x408 then s.resetSlot i (bitsOf v 11 0) (bitsOf v 28 27) (bitsOf v 26 25) (bitsOf v 24 21)
  else if b = 0x10 && o = 0x400 then s.newWindows i
  else if isTwinWord b i o then s.twinEffect i old v
  else if b = 0x24 && o = 0x40 then s.updHive i (fun k => { k with gWritten := true })
  else if b = 0x25 && o = 0x6C then s.fgRefresh v
  else if b = 0x25 && o = 0x220 then
    if v % 4 = 1 then s.nextKey else if v % 4 = 2 then s.startRekey else s
  else if b = 1 && o = 0xC then s.swCommand v
  else s

/-- The function whose xx_CMD stands at a word (R54, R489). -/
def cmdFn (b i o : Nat) : Option Fn :=
  if (hasHeader b && o = 4) || (b = 0x25 && o = 0x204) then wordFn b i o else none

/-- Carry out one word of an accepted write: the reason a command in it was refused with, and the state after. -/
def State.applyWord (s : State) (w : Writer) (q : Nat × Nat × Nat × Nat) : Nat × State :=
  let (b, i, o, v) := q
  let old := (s.word b i o).toNat
  let s := s.storeWord b i o v
  let s := if bitAt v 31 then s.resetCounters b i o else s
  let s := s.wordEffect b i o old v
  match cmdFn b i o with
  | some f => s.fnCommand w f (v % 4)
  | none =>
    if b = 0 && o = 0x31C then s.fwCommand (v % 4) (bitsOf v 2 2)
    else if b = 0 && o = 0x540 then s.ownerCommand w (v % 4) (bitAt v 2)
    else (0, s)

/-- The reason that refuses a write of `n` bytes whole, 0 when it is accepted. -/
def State.ctlRefusal (s : State) (w : Writer) (a n v : Nat) : Nat :=
  if ctlReason a n ≠ 0 then ctlReason a n
  else
    let ws := ctlWords a n v
    firstNonzero [firstNonzero (ws.map (s.permReason w)), firstNonzero (ws.map s.stateReasonW), firstNonzero (ws.map s.valueReason),
      chk (decide (1 < (s.csOf a n v).length)) rsBUSY]

/-- An accepted write: its words in ascending order, and the counted setting it changes. -/
def State.ctlApply (s : State) (w : Writer) (a n v : Nat) : Nat × State :=
  let (r, s') := (ctlWords a n v).foldl (fun (p : Nat × State) q =>
    let (r, t) := p.2.applyWord w q
    (if p.1 = 0 then r else p.1, t)) (0, s)
  match (s.csOf a n v).head? with
  | none => (r, s')
  | some (k, x) =>
    let (r', t) := s'.csWrite w k x
    (if r = 0 then r' else r, t)

/-- A write to control space by any writer: the reason of a refusal, and the state after. -/
def State.ctlWrite (s : State) (w : Writer) (a n v : Nat) : Nat × State :=
  let r := s.ctlRefusal w a n v
  if r = 0 then s.ctlApply w a n v else (r, s)

/-- The global address of a register word (R51). -/
def ctlAddr (b i o : Nat) : Nat := ctlKey b i o

end Sys2Proof.Machine
end

