-- ==== Sys2Proof/Machine/Control.lean ====
section
/-! DEFINITION. Writes of control registers as commands (R16 to R19, R53, R57), and the writes that have a command of their own. A
refused write changes nothing but the REASON or LAST_REASON that its rule names. -/

namespace Sys2Proof.Machine

/-- REGISTER_WRITE: a write of 4 or 8 bytes. -/
def execRegisterWrite (w : Writer) (addr : W64) (wide : Bool) (val : W64) (s : State) : Out :=
  .next (s.ctlWrite w addr.toNat (if wide then 8 else 4) val.toNat).2

/-- The bits of W1C fields of a word. -/
def w1cBits (b i o : Nat) : List Nat := (List.range 32).filter (fun k => anyFld b i o (fun f => f.acc == .w1c && f.lo ≤ k && k ≤ f.hi))

/-- W1C_FLAG_CLEAR: a write of 1s to a W1C register; a flag that the hardware sets in the same cc stays set, and the event counts
(R16, R17). -/
def execW1cFlagClear (w : Writer) (addr : W64) (val setNow : W32) (s : State) : Out :=
  if ctlReason addr.toNat 4 ≠ 0 then .next s
  else
    let (b, i, o) := ctlParts addr.toNat
    let bits := w1cBits b i o
    if bits.isEmpty then .next s
    else
      let s := (s.ctlWrite w addr.toNat 4 val.toNat).2
      .next ((bits.filter (fun k => setNow.getLsbD k)).foldl (fun s k => s.setFlag b i o k) s)

/-- CTR_RESET: a write of 1 to a block's CTR_RESET field that leaves its settings as they stand (R57). -/
def execCtrReset (w : Writer) (addr : W64) (s : State) : Out :=
  if ctlReason addr.toNat 4 ≠ 0 then .next s
  else
    let (b, i, o) := ctlParts addr.toNat
    if (ctrRanges b o).isNone then .next s
    else .next (s.ctlWrite w addr.toNat 4 (setBits (s.word b i o).toNat 31 31 1)).2

/-- ENGINE_MAP_WRITE: SQ_ENGINE_MAP (R93, R255). -/
def execEngineMapWrite (w : Writer) (c : BitVec 7) (val : W32) (s : State) : Out :=
  if !coreOk c then .fault .noSuchUnit
  else .next (s.ctlWrite w (ctlAddr 0x10 c.toNat 0x10) 4 val.toNat).2

/-- SQ_SLOT_INIT (R217, R218). -/
def execSqSlotInit (w : Writer) (c : BitVec 7) (val : W32) (s : State) : Out :=
  if !coreOk c then .fault .noSuchUnit
  else .next (s.ctlWrite w (ctlAddr 0x10 c.toNat 0x408) 4 val.toNat).2

/-- TASTE_N_WRITE: SQ_WATCH_CFG.TASTE_N, the other settings as they stand (R210, R211). -/
def execTasteNWrite (w : Writer) (c : BitVec 7) (n : BitVec 5) (s : State) : Out :=
  if !coreOk c then .fault .noSuchUnit
  else .next (s.ctlWrite w (ctlAddr 0x10 c.toNat 0x400) 4 (setBits (s.word 0x10 c.toNat 0x400).toNat 20 16 n.toNat)).2

/-- TWIN_WRITE: ED_CFG.TWIN of a leader (R504). -/
def execTwinWrite (w : Writer) (c : BitVec 7) (m : BitVec 2) (on : Bool) (s : State) : Out :=
  if !coreOk c then .fault .noSuchUnit
  else
    let i := c.toNat * 4 + m.toNat
    .next (s.ctlWrite w (ctlAddr 0x13 i 0) 4 (setBits (s.word 0x13 i 0).toNat 1 1 (b2n on))).2

/-- The value of SW_CMD for an action on a domain. -/
def swValue (act : Nat) (d : Domain) : Nat := act * 2 ^ 30 + d.kind.toNat * 2 ^ 12 + d.num.toNat

/-- SW_CMD_RECOVER (R541). -/
def execSwCmdRecover (w : Writer) (d : Domain) (s : State) : Out := .next (s.ctlWrite w (ctlAddr 1 0 0xC) 4 (swValue 1 d)).2

/-- SW_CMD_RECORD (R537, R541). -/
def execSwCmdRecord (w : Writer) (d : Domain) (s : State) : Out := .next (s.ctlWrite w (ctlAddr 1 0 0xC) 4 (swValue 2 d)).2

/-- SW_CMD_TAKEOVER (R534, R541). -/
def execSwCmdTakeover (w : Writer) (s : State) : Out := .next (s.ctlWrite w (ctlAddr 1 0 0xC) 4 (3 * 2 ^ 30)).2

/-- FW_INSTALL: CT_FW_CMD with ACTION 1 (R554). -/
def execFwInstall (w : Writer) (s : State) : Out := .next (s.ctlWrite w (ctlAddr 0 0 0x31C) 4 1).2

/-- SET_PREFERRED: CT_FW_CMD with ACTION 2 (R554). -/
def execSetPreferred (w : Writer) (slot : BitVec 1) (s : State) : Out :=
  .next (s.ctlWrite w (ctlAddr 0 0 0x31C) 4 (2 + 4 * slot.toNat)).2

/-- A writer that may write the counted settings and owner keys: no instruction (R573). -/
def notContext (w : Writer) : Bool :=
  match w with
  | .ctx _ _ => false
  | _ => true

/-- COUNTED_SETTING_WRITE: a write of the whole value of a counted setting (R566 to R568). -/
def execCountedSettingWrite (w : Writer) (k : Counted) (val : Nat) (s : State) : Out :=
  if notContext w then .next (s.csWrite w k val).2 else .next s

/-- OWNER_KEY_CHANGE: CT_OWNER_CMD (R563). -/
def execOwnerKeyChange (w : Writer) (slot : BitVec 2) (clear : Bool) (s : State) : Out :=
  .next (s.ctlWrite w (ctlAddr 0 0 0x540) 4 (slot.toNat + 4 * b2n clear)).2

end Sys2Proof.Machine
end

