-- ==== Sys2Proof/Machine/Hive.lean ====
section
/-! DEFINITION. The hive's commands (R395, R399 to R402, R411): a state fetch that ends, a parked gradient that is queued, and the start
and the end of a shard update. -/

namespace Sys2Proof.Machine

/-- STATE_FETCH_COMPLETE: the staging of a shard's state ends, unless a die under recovery holds it up (R296, log 66) or the ring has no place
for it, before a slot is reused (R399). -/
def execStateFetchComplete (h : BitVec 4) (shard : W16) (s : State) : Out :=
  let k := s.hive h.toNat
  if (k.entry shard.toNat).any (fun e => s.dieHolds (s.homeAddr h.toNat e) (s.homeBytes h.toNat e)) then .next s
  else if k.fetching.contains shard.toNat then
    let landed := fun (s : State) => s.updHive h.toNat (fun k =>
      { k with fetching := k.fetching.filter (fun x => x != shard.toNat), staged := k.staged ++ [shard.toNat] })
    match k.entry shard.toNat with
    | none => .next (landed s)
    | some e =>
      match s.stageRoom h.toNat (s.homeBytes h.toNat e) with
      | none => .next s
      | some o => .next (landed (s.stageIn h.toNat e o))
  else .next s

/-- PARKED_GRADIENT_QUEUE: a parked or held gradient is queued once no condition of R395 holds. -/
def execParkedGradientQueue (h : BitVec 4) (shard : W16) (s : State) : Out :=
  let k := s.hive h.toNat
  match k.entry shard.toNat, (k.parked ++ k.held).find? (fun g => g.shard == shard.toNat) with
  | some e, some g =>
    if s.mustPark h.toNat e g.tag then .next s
    else .next (s.setHive h.toNat { k with parked := k.parked.erase g, held := k.held.erase g,
                                           queue := k.queue ++ [{ g with room := none }] })
  | _, _ => .next s

/-- The queued gradient whose layer stands first in the layer-order table, in queue order within a layer (R400). -/
def State.nextUpdate (s : State) (h : Nat) : Option (HiveG × Nat) :=
  let k := s.hive h
  let ps := k.queue.map (fun g => (g, (((k.entry g.shard).bind (fun e => s.lotPos h e.layer)).getD (s.lotCount h))))
  ps.foldl (fun b p => match b with
    | none => some p
    | some q => if p.2 < q.2 then some p else some q) none

/-- HIVE_UPDATE: the update unit takes the next queued shard; HV_LR and the layer's bytes are read, and the layers PREFETCH_DEPTH ahead are
staged (R398 to R400, R404). -/
def execHiveUpdate (h : BitVec 4) (s : State) : Out :=
  let k := s.hive h.toNat
  if k.cur.isSome then .next s
  else
    match s.nextUpdate h.toNat with
    | none => .next s
    | some (g, j) =>
      let layer := ((k.entry g.shard).map (fun e => e.layer)).getD 0
      let s := s.noteUe (modAddr (s.lotBase h.toNat + 16 * j)) 16
      let run : HiveRun := { g := g, lr := s.word 0x24 h.toNat 0x38, lotBytes := s.lotBytes h.toNat layer, pos := j }
      let s := s.setHive h.toNat { k with queue := k.queue.erase g, cur := some run }
      let s := (s.setFld 0x24 h.toNat 0x14 31 31 1).setFld 0x24 h.toNat 0x14 15 0 j
      .next (s.stagePos h.toNat (j + s.fld 0x24 h.toNat 0x10 25 22))

/-- The status of a queued shard (R401). -/
def State.updateStatus (s : State) (g : HiveG) (lot : List Byte) : Nat :=
  if poisoned g.tag then 3
  else if hasFlag g.tag fMISMATCH || g.tag.count = 0 then 4
  else if bitAt (leField lot 1 1) 2 then 1
  else if g.vals.any (fun v => !(ofF32 v).isFinite)
      || (hasFlag g.tag fNONFINITE && s.fld 0x23 g.tag.group.toNat 0x10 24 23 == 1) then 2
  else 0

/-- The cc that a shard's update takes (R411). -/
def updateCc (p : List Byte) (elems width : Nat) (bscale skipped : Bool) : Nat :=
  let sc := if bscale then 256 / 32 else 0
  let groups := cdiv elems 256
  if skipped then groups * max (cdiv (256 * 6) 512) (cdiv (256 * width / 8 + sc) 512) + 24
  else
    let is := progInstrs p
    let el := is.filter (fun i => !i.scalar)
    let special := (el.filter (fun i => decide (10 ≤ i.op))).length
    let ns := progNs p
    let g := max (el.length - special + 4 * special)
      (max (cdiv (256 * (10 + 4 * ns)) 512) (cdiv (256 * (6 + 4 * ns) + 256 * width / 8 + sc) 512))
    (is.length - el.length) + groups * g + 24

/-- What the element pass has written and gathered. -/
structure PassSum where
  d2 : W64 := 0
  dmax : W32 := 0
  flushed : Nat := 0
  bad : Nat := 0
  deriving DecidableEq, Repr

/-- Update every element of a shard (R401, R403). -/
def State.updateElems (s : State) (h : Nat) (e : OwnE) (p : List Byte) (regs : HRegs) (f : W32) (lrExp : Int) (g : List W32) :
    State × PassSum :=
  let ns := progNs p
  g.zipIdx.foldl (fun (q : State × PassSum) (v : W32 × Nat) =>
    let (s, a) := q
    let i := v.2
    let home := s.homeAddr h e
    let w := s.master h e i
    let ss := (List.range ns).map (fun k => BitVec.ofNat 32 (s.readNat (home + streamOff e.elems k + 4 * i) 4))
    let (ss', d, fl) := elemPass p regs (hOut ((hIn v.1).mul (hIn f))) w ss
    let dn := (ofF32 d).scale (-lrExp)
    let (w', c') := masterAdd w (s.comp h e i) dn
    let s := s.putMaster h e i w' c'
    let s := ss'.zipIdx.foldl (fun s (t : W32 × Nat) => s.writeNat (home + streamOff e.elems t.2 + 4 * i) 4 t.1.toNat) s
    let abs := BitVec.ofNat 32 (d.toNat % 2 ^ 31)
    (s, { d2 := f64Add a.d2 (toF64 (dn.mul dn)), dmax := if a.dmax.toNat < abs.toNat then abs else a.dmax,
          flushed := a.flushed + b2n fl, bad := a.bad + b2n (!(ofF32 w').isFinite) })) (s, {})

/-- Add the masters of a treated shard to W2, and its status, COUNT and shard to the layer's sums (R412). -/
def State.treated (s : State) (h : Nat) (e : OwnE) (g : HiveG) (status : Nat) (a : LayerSum) : LayerSum :=
  let w2 := sumSq ((List.range e.elems).map (s.master h e))
  { a with w2 := f64Add a.w2 w2, status := max a.status status, count := g.tag.count.toNat,
           treated := if a.treated.contains e.shard then a.treated else a.treated ++ [e.shard] }

/-- The smaller of two clip factors. -/
def minCf (a : Option W32) (f : W32) : Option W32 :=
  match a with
  | none => some f
  | some b => if (ofF32 f).lt (ofF32 b) then some f else some b

/-- A shard whose status lets it be updated. -/
def State.applyUpdate (s : State) (h : Nat) (e : OwnE) (r : HiveRun) (a : LayerSum) : State × LayerSum :=
  let k := s.hive h
  let n := r.g.tag.count.toNat
  let inv := hOut ((Num.fin false 1 0).quot 80 (ofF32 (f32OfNat n)))
  let g := if r.g.tag.op = 1 then r.g.vals.map (fun v => hOut ((hIn v).mul (hIn inv))) else r.g.vals
  let g2 := sumSq g
  let lrExp := (BitVec.ofNat 8 (leField r.lotBytes 0 1)).toInt
  let clipT := BitVec.ofNat 32 (leField r.lotBytes 2 4)
  let layerElems := s.readNat (modAddr (s.lotBase h + 16 * r.pos + 8)) 5
  let f := s.clipFactor h e.elems layerElems clipT g2
  let t := s.layerT h r.pos + 1
  let lrs := hOut ((hIn r.lr).scale lrExp)
  let regs := scalarRegs k.prog lrs (f32OfNat t) f (f32OfNat n)
  let (s, p) := s.updateElems h e k.prog regs f lrExp g
  let s := (s.count64 0x24 h 0xD0 p.flushed).setFlagN p.flushed 0x24 h 0x18 4
  let s := (s.count64 0x24 h 0xD8 p.bad).setFlagN p.bad 0x24 h 0x18 5
  (s.count64 0x24 h 0x80 1,
   { a with g2 := f64Add a.g2 g2, d2 := f64Add a.d2 p.d2, cf := minCf a.cf f,
            dmax := if a.dmax.toNat < p.dmax.toNat then p.dmax else a.dmax, flushed := a.flushed + p.flushed, updated := true })

/-- HIVE_UPDATE_COMPLETE (R399, R401, R402, R407, R413): the state is written back to its home, and its slot is free again. It stays staged
while another gradient of the shard waits (log 55); one that a die under recovery holds up goes on later (log 66). -/
def execHiveUpdateComplete (h : BitVec 4) (s : State) : Out :=
  let hn := h.toNat
  let k := s.hive hn
  match k.cur with
  | none => .next s
  | some r =>
    let n := r.g.tag.step.toNat
    let kept := k.wants r.g.shard
    let done := fun (s : State) => (s.updHive hn (fun k => { k with
      cur := none, staged := if kept then k.staged else k.staged.filter (fun x => x != r.g.shard),
      slots := if kept then k.slots else k.slots.filter (fun q => q.shard != r.g.shard) })).setFld 0x24 hn 0x14 31 31 0
    match k.entry r.g.shard with
    | none => .next (done s)
    | some e =>
     if s.shardHeld hn e (n + 1) then .next s
     else
      let st := s.updateStatus r.g r.lotBytes
      let a := k.sumOf e.layer n
      let (s, ue) := if st = 0 || (k.slotOf e.shard).isSome then s.stateHome hn e else (s, false)
      let (s, a) := if st = 0 then s.applyUpdate hn e r a
        else ((s.count64 0x24 hn 0x88 1).setFlagIf (st == 2) 0x24 hn 0x18 2, a)
      let d := s.wcDesc (e.wc + 64 * ((n + 1) % 2))
      let s := s.count64 0x24 hn 0xE0 (updateCc k.prog e.elems (fmtBits d.fmt.toNat) d.bscale (st != 0))
      let s := (s.stateSlot hn e).deriveWc hn e (wcRnd r.lotBytes) (n + 1) ue
      .next ((done s).putSum hn (s.treated hn e r.g st a))

end Sys2Proof.Machine
end

