-- ==== Sys2Proof/Machine/Status.lean ====
section
/-! DEFINITION. Reading control space (R51 to R54): the value of every word, stored or computed from the units it reports on. A read
has no effect. -/

namespace Sys2Proof.Machine

/-! ### Core blocks -/

/-- The state code of R43 that SQ_CTXn_STATUS reports. -/
def ctxStCode (st : CtxSt) : Nat :=
  match st with
  | .idle => 0
  | .ready => 1
  | .waiting => 2
  | .halted => 3
  | .isolated => 4

/-- WAIT_ON of R45; a fence under DRIFT_HOLD is the round fence (R75). -/
def waitCode (w : Wait) (drift : Bool) : Nat :=
  match w with
  | .none => 0
  | .arr _ _ => 1
  | .tregs _ => 1
  | .held _ => 1
  | .endW => 1
  | .coll _ _ => 2
  | .msg _ => 3
  | .signal _ => 3
  | .fence => if drift then 5 else 4

/-- SQ_CTXn_STATUS (R45). -/
def State.ctxStatus (s : State) (c x : Nat) : Nat :=
  let k := s.ctx c x
  k.lastReason.toNat * 2 ^ 16 + waitCode k.wait s.driftHold * 2 ^ 10 + k.queue.length % 128 * 2 ^ 3 + ctxStCode k.st

/-- A stationary buffer shows as loaded: it holds a complete tile, or one that REL = 1 would have released and from which a replay has still to
copy, unless the next tile is on its way into it (R181, R501). -/
def Engine.showsLoaded (e : Engine) (b : Nat) : Bool :=
  (e.bufN b).loaded ||
    (e.q.any (fun p => p.kind.readsBuf b && p.fin.isSome && e.uncopied p.id) && !e.q.any (fun p => p.started && p.kind.loadsTo b))

/-- ME_STATUS (R181). A twin follower shows the stages, buffers and banks of the work it shares with its leader, and its own queue (R505);
rows of a replay are rows of the engine that runs it (R499). -/
def State.meStatus (s : State) (c m : Nat) : Nat :=
  let l := s.leadOf c m
  let e := s.eng c l
  b2n (s.eng c m).resting * 2 ^ 14 + (s.eng c m).q.length * 2 ^ 10 + b2n (s.gated c m) * 2 ^ 9 + b2n (s.frozen c l) * 2 ^ 8
    + b2n (e.q.any (s.hasRows c) || s.runsReplay c m) * 2 ^ 7 + b2n (e.q.any (fun o => o.started && isLoads o.kind)) * 2 ^ 6
    + b2n e.bank1.sh * 2 ^ 5 + b2n e.bank0.sh * 2 ^ 4 + b2n e.buf1.sh * 2 ^ 3 + b2n (e.showsLoaded 1) * 2 ^ 2 + b2n e.buf0.sh * 2
    + b2n (e.showsLoaded 0)

/-- An attachment of core `c` to engine `m`, pending or taken by a STREAM that has not completed (R266). -/
def State.attached (s : State) (c m : Nat) (epi : Bool) : Bool :=
  (s.core c).attach.any (fun a => a.eng == m && a.epi == epi) ||
    (s.eng c m).q.any (fun o => match o.kind with
      | .stream o => if epi then o.epi.isSome else o.pro.isSome
      | _ => false)

/-- VU_STATUS (R266). The lane slots of a cc are not modelled, so SHORT reads 0. -/
def State.vuStatus (s : State) (c : Nat) : Nat :=
  b2n (!(s.core c).vu.isEmpty) * 2 ^ 8
    + ((List.range 4).map (fun m => b2n (s.attached c m true) * 2 ^ (4 + m) + b2n (s.attached c m false) * 2 ^ m)).sum

/-- Strikes within the last 2^20 tiles (R507, R512). -/
def State.recentStrikes (s : State) (i : Nat) : Nat :=
  let n := s.word64 0x13 i 0x40
  (([0x10, 0x18].map (fun o => s.word64 0x13 i o)).filter (fun t => t != 2 ^ 64 - 1 && decide (n - t < 2 ^ 20))).length

/-- The hold buffer of an engine holds replay rows: those of the pair's work stand in the buffer of each engine of the pair whose check
failed, and in both where their results differed (R495, R506, R512). -/
def State.holdBusy (s : State) (c m : Nat) : Bool :=
  (s.eng c (s.leadOf c m)).holds.any (fun h => !h.retire && (!s.twinOn c m ||
    (match h.kind with
      | .own => m % 2 == 0
      | .partner => m % 2 == 1
      | _ => true)))

/-- ED_STATUS (R512). -/
def State.edStatus (s : State) (c m : Nat) : Nat :=
  let twin := s.twinOn c m && s.fnRunning (.engine (BitVec.ofNat 7 c) (BitVec.ofNat 2 (m / 2 * 2)))
  b2n (s.holdBusy c m) * 2 ^ 6 + b2n (s.replayingOn c m) * 2 ^ 5 + b2n twin * 2 ^ 4 + b2n (s.isFollower c m) * 2 ^ 3
    + b2n (s.eng c m).permanent * 2 ^ 2 + s.recentStrikes (c * 4 + m)

/-! ### Hive, forager and links -/

/-- HV_STATUS (R419): FETCHING and PARK_USED from the hive's own state; a part of a park unit in use counts as a unit (log 26). -/
def State.hvStatus (s : State) (h : Nat) : Nat :=
  let w := (s.word 0x24 h 0x14).toNat
  setBits (setBits w 30 30 (b2n (!(s.hive h).fetching.isEmpty))) 27 16 (min 0xFFF (cdiv (s.parkUsed h) 65536))

/-- FG_STATUS (R458): PHASE reads 0 while the forager is not RUNNING. -/
def State.fgStatus (s : State) : Nat :=
  let w := (s.word 0x25 0 0x14).toNat
  if s.fnRunning .forager then w else setBits w 31 30 0

/-- A link register (R306): MEDIUM follows the port's setting, and AN_DONE reads 0 on 800GAUI-4. -/
def State.linkValue (s : State) (p : Port) : Nat :=
  let w := setBits (s.linkWord p).toNat 8 8 (s.mediumOf p)
  if s.mediumOf p = 0 then setBits w 2 2 0 else w

/-! ### Swarm watch (R541, R543, R544) -/

/-- SW_STATUS: the most recently started recovery in progress, and whether a record is being taken. -/
def State.swStatus (s : State) : Nat :=
  let busy := b2n s.sw.job.isSome * 2 ^ 12
  match s.sw.recs.getLast? with
  | none => 15 * 2 ^ 28 + busy
  | some r => r.d.kind.toNat * 2 ^ 28 + r.d.num.toNat * 2 ^ 16 + r.phase % 8 * 2 ^ 13 + busy

/-- A word of the crumb directory. -/
def State.crumbDir (s : State) (i j : Nat) : Nat :=
  let lock := b2n (s.crumbLocked i) * 2 ^ 30
  match s.crumbAt i with
  | none => if j = 0 then lock else 0
  | some r =>
    if j = 0 then 2 ^ 31 + lock + r.bytes.length % 2 ^ 20
    else if j = 1 then r.number % 2 ^ 32
    else if j = 2 then r.cc.toNat % 2 ^ 32
    else r.cc.toNat / 2 ^ 32

/-- A word of the crumb window: the selected page of the selected record, 0 beyond its end. -/
def State.crumbWindow (s : State) (off : Nat) : Nat :=
  match s.crumbAt (s.fld 1 0 0x34 1 0) with
  | none => 0
  | some r => leField r.bytes (s.fld 1 0 0x34 31 8 * 32768 + off) 4

/-- The low word of CT_HEALTH. -/
def State.healthWord (s : State) : Nat := setBits (s.word 0 0 0x80).toNat 7 7 (b2n (!s.sw.recs.isEmpty))

/-! ### Start-up, identity and settings (R573, R574) -/

/-- CT_BOOT. -/
def State.bootWord (s : State) : Nat :=
  s.boot.slotRun % 2 * 2 ^ 31 + b2n s.boot.fallback * 2 ^ 30 + s.store.preferred % 2 * 2 ^ 29 + s.boot.resB % 256 * 2 ^ 8
    + s.boot.resA % 256

/-- CT_CS_USED. -/
def State.usedWord (s : State) : Nat :=
  let st := s.store
  st.macUsed % 16 * 2 ^ 19 + st.genUsed % 8 * 2 ^ 16 + st.floorUsed % 128 * 2 ^ 9 + st.gatewayUsed % 32 * 2 ^ 4 + st.siteUsed % 16

/-- Word `k` of a number of several words. -/
def wordOf (v k : Nat) : Nat := v / 2 ^ (32 * k) % 2 ^ 32

/-- The words of CT between 0x0300 and 0x0FFF that report on the stores; `none` for a word that only holds what was written. -/
def State.startWord (s : State) (o : Nat) : Option Nat :=
  if o = 0x300 then some s.bootWord
  else if o = 0x308 then some s.runSec
  else if o = 0x30C then some (imgBuild s.boot.image)
  else if o = 0x320 then some (setBits (s.word 0 0 o).toNat 31 31 (b2n s.fwJob.isSome))
  else if o = 0x400 then some (s.csValue .siteId)
  else if o = 0x404 then some (s.csValue .gateway)
  else if o = 0x408 then some (s.csValue .secFloor)
  else if o = 0x40C then some (s.csValue .identityGen)
  else if o = 0x410 || o = 0x414 then some (wordOf (s.csValue .hostMac) ((o - 0x410) / 4))
  else if o = 0x418 then some s.usedWord
  else if inWords o 0x420 0x44C then some (wordOf (s.csValue .retire) ((o - 0x420) / 4))
  else if o = 0x450 then some (setBits (s.word 0 0 o).toNat 31 31 (b2n s.csJob.isSome))
  else if inWords o 0x580 0x67C then some (leField (s.ownerDigest ((o - 0x580) / 64)) ((o - 0x580) % 64) 4)
  else if o = 0x680 then some (((List.range 4).map (fun i => b2n (s.ownerValid i) * 2 ^ i)).sum)
  else if o = 0x700 then some s.store.journal.length
  else if inWords o 0x800 0x94C then some (leField (s.store.journal.getD (s.fld 0 0 0x704 10 0) []) (o - 0x800) 4)
  else if o = 0xA00 || o = 0xA04 then some (wordOf Config.serial.toNat ((o - 0xA00) / 4))
  else if o = 0xA08 || o = 0xA0C then some (wordOf Config.hpMac.toNat ((o - 0xA08) / 4))
  else if o = 0xA10 || o = 0xA14 then some (wordOf Config.flMac.toNat ((o - 0xA10) / 4))
  else none

/-! ### Every word -/

/-- The words of CT that are computed. -/
def State.ctValue (s : State) (o : Nat) : Option Nat :=
  if o = 0x40 then some (s.cycle.toNat % 2 ^ 32)
  else if o = 0x44 then some (s.cycle.toNat / 2 ^ 32)
  else if o = 0x80 then some s.healthWord
  else if inWords o 0x1000 0x3FFC then some (localityWord ((o - 0x1000) / 4 / 32) ((o - 0x1000) / 4 % 32))
  else s.startWord o

/-- The words of SW that are computed. -/
def State.swValue (s : State) (o : Nat) : Option Nat :=
  if o = 4 then some s.swStatus
  else if inWords o 0x1000 0x103C then some (s.crumbDir ((o - 0x1000) / 16) ((o - 0x1000) % 16 / 4))
  else if inWords o 0x8000 0xFFFC then some (s.crumbWindow (o - 0x8000))
  else none

/-- The words of SQ that are computed. -/
def State.sqValue (s : State) (i o : Nat) : Option Nat :=
  if inWords o 0x100 0x1C4 && o % 0x40 = 4 then some (s.ctxStatus i ((o - 0x100) / 0x40))
  else if inWords o 0x1000 0x11FC then
    some (bitsOf (s.core i).arr.toNat (32 * ((o - 0x1000) / 4) + 31) (32 * ((o - 0x1000) / 4)))
  else none

/-- The words of HP that are computed (R325). -/
def State.hpValue (s : State) (o : Nat) : Option Nat :=
  if o = 0x14 then some (b2n s.hp.claimant.isSome * 2 ^ 31 + s.hp.events.length)
  else if o = 0x20 then some s.hp.epoch.toNat
  else if o = 0x24 then some (s.linkValue .hp)
  else none

/-- The words of FG that are computed (R455, R458). -/
def State.fgValue (s : State) (o : Nat) : Option Nat :=
  if o = 0x14 then some s.fgStatus
  else if o = 0x24 then some (s.linkValue .fl)
  else if o = 0x68 then some (s.drift * 2 ^ 16 + s.minBase)
  else none

/-- What a word shows when the unit it reports on holds it; `none` for a word that is stored. -/
def State.shownWord (s : State) (b i o : Nat) : Option Nat :=
  if b = 0 then s.ctValue o
  else if b = 1 then s.swValue o
  else if b = 0x10 then s.sqValue i o
  else if b = 0x11 && o = 0x14 then some (s.meStatus (i / 4) (i % 4))
  else if b = 0x12 && o = 4 then some (s.vuStatus i)
  else if b = 0x13 && o = 4 then some (s.edStatus (i / 4) (i % 4))
  else if b = 0x21 then s.hpValue o
  else if b = 0x22 && o = 0x24 then some (s.linkValue (.sf (BitVec.ofNat 4 i)))
  else if b = 0x24 && o = 0x14 then some (s.hvStatus i)
  else if b = 0x25 then s.fgValue o
  else none

/-- The value of a control-space word. -/
def State.readWord (s : State) (b i o : Nat) : Nat := (s.shownWord b i o).getD (s.word b i o).toNat

/-- An accepted read of 4 or 8 bytes of space 0. -/
def State.ctlRead (s : State) (a n : Nat) : Nat :=
  let (b, i, o) := ctlParts a
  if n = 8 then s.readWord b i o + 2 ^ 32 * s.readWord b i (o + 4) else s.readWord b i o

end Sys2Proof.Machine
end

