-- ==== Sys2Proof/Machine/Scalar.lean ====
section
/-! DEFINITION. Scalar and branch instructions (R98 to R100), except ST, which writes control space and stands in
Machine/Stores.lean. -/

namespace Sys2Proof.Machine

/-- The second operand: SB, or IMM sign-extended when I = 1. -/
def srcVal (k : Ctx) : SrcB → W64
  | .reg sb => k.sreg sb.toNat
  | .imm v => v.signExtend 64

/-- A scalar instruction writes its result at issue (R99). -/
def scalar (i : Iss) (sd : BitVec 6) (f : Ctx → W64) (s : State) : Out :=
  issue i false s (fun c x k => (s.updCtx c x (fun k' => k'.setSreg sd.toNat (f k))).advance c x)

/-- ADD: SD ← SA + SB, modulo 2^64 (R99). -/
def execAdd (i : Iss) (sd sa : BitVec 6) (b : SrcB) (s : State) : Out :=
  scalar i sd (fun k => k.sreg sa.toNat + srcVal k b) s

/-- SUB: SD ← SA − SB. -/
def execSub (i : Iss) (sd sa : BitVec 6) (b : SrcB) (s : State) : Out :=
  scalar i sd (fun k => k.sreg sa.toNat - srcVal k b) s

/-- MUL: SD ← low 64 bits of SA × SB. -/
def execMul (i : Iss) (sd sa : BitVec 6) (b : SrcB) (s : State) : Out :=
  scalar i sd (fun k => k.sreg sa.toNat * srcVal k b) s

/-- AND. -/
def execAnd (i : Iss) (sd sa : BitVec 6) (b : SrcB) (s : State) : Out :=
  scalar i sd (fun k => k.sreg sa.toNat &&& srcVal k b) s

/-- OR. -/
def execOr (i : Iss) (sd sa : BitVec 6) (b : SrcB) (s : State) : Out :=
  scalar i sd (fun k => k.sreg sa.toNat ||| srcVal k b) s

/-- XOR. -/
def execXor (i : Iss) (sd sa : BitVec 6) (b : SrcB) (s : State) : Out :=
  scalar i sd (fun k => k.sreg sa.toNat ^^^ srcVal k b) s

/-- The shift count SB[5:0]. -/
def shiftOf (k : Ctx) (b : SrcB) : Nat := (srcVal k b).toNat % 64

/-- SHL. -/
def execShl (i : Iss) (sd sa : BitVec 6) (b : SrcB) (s : State) : Out :=
  scalar i sd (fun k => k.sreg sa.toNat <<< shiftOf k b) s

/-- SHR: zero fill. -/
def execShr (i : Iss) (sd sa : BitVec 6) (b : SrcB) (s : State) : Out :=
  scalar i sd (fun k => k.sreg sa.toNat >>> shiftOf k b) s

/-- SRA: sign fill. -/
def execSra (i : Iss) (sd sa : BitVec 6) (b : SrcB) (s : State) : Out :=
  scalar i sd (fun k => (k.sreg sa.toNat).sshiftRight (shiftOf k b)) s

/-- LI: SD ← IMM, sign-extended. -/
def execLi (i : Iss) (sd : BitVec 6) (imm : W32) (s : State) : Out := scalar i sd (fun _ => imm.signExtend 64) s

/-- LIH: SD[63:32] ← IMM, SD[31:0] kept. -/
def execLih (i : Iss) (sd : BitVec 6) (imm : W32) (s : State) : Out :=
  scalar i sd (fun k => BitVec.ofNat 64 (imm.toNat * 2 ^ 32 + (k.sreg sd.toNat).toNat % 2 ^ 32)) s

/-- SA COND SB: 0 EQ, 1 NE, 2 LT, 3 GE signed, 4 LTU, 5 GEU unsigned. -/
def compare (cond : Nat) (a b : W64) : Bool :=
  if cond = 0 then a == b
  else if cond = 1 then a != b
  else if cond = 2 then a.slt b
  else if cond = 3 then !a.slt b
  else if cond = 4 then a.ult b
  else !a.ult b

/-- CMP: PD ← (SA COND SB); COND 6 and 7 are ILLEGAL. -/
def execCmp (i : Iss) (pd cond : BitVec 3) (sa : BitVec 6) (b : SrcB) (s : State) : Out :=
  issue i (6 ≤ cond.toNat) s (fun c x k =>
    (s.updCtx c x (fun k' => k'.setPred pd.toNat (compare cond.toNat (k.sreg sa.toNat) (srcVal k b)))).advance c x)

/-- The address of LD and ST: SA + IMM modulo 2^64. -/
def lsAddr (k : Ctx) (sa : BitVec 6) (imm : W32) : Nat := (k.sreg sa.toNat + imm.signExtend 64).toNat

/-- The width of LD and ST. -/
def lsWidth (w4 : Bool) : Nat := if w4 then 4 else 8

/-- Why LD refuses its address: alignment, then the map and the serving function (R98, R52, R53, R270). -/
def State.ldReason (s : State) (a n : Nat) : Nat :=
  if a % n ≠ 0 then rsMISALIGNED
  else if spaceOf a = 0 then ctlReason a n
  else s.accessReason a n

/-- What LD reads. -/
def State.ldValue (s : State) (a n : Nat) : W64 :=
  BitVec.ofNat 64 (if spaceOf a = 0 then s.ctlRead a n else s.readNat a n)

/-- LD: 8 bytes, or 4 zero-extended, at SA + IMM (R98). -/
def execLd (i : Iss) (w4 : Bool) (sd sa : BitVec 6) (imm : W32) (s : State) : Out :=
  issue i false s (fun c x k =>
    let a := lsAddr k sa imm
    let n := lsWidth w4
    let r := s.ldReason a n
    if r ≠ 0 then s.halt c x r
    else ((s.updCtx c x (fun k' => k'.setSreg sd.toNat (s.ldValue a n))).noteUe a n).advance c x)

/-- GETCC: SD ← CT_CYCLE. -/
def execGetcc (i : Iss) (sd : BitVec 6) (s : State) : Out := scalar i sd (fun _ => s.cycle) s

/-- GETID: SD ← core id × 4 + context id. -/
def execGetid (i : Iss) (sd : BitVec 6) (s : State) : Out :=
  scalar i sd (fun _ => BitVec.ofNat 64 (i.core.toNat * 4 + i.ctx.toNat)) s

/-- A branch to `t`: UNMAPPED outside the own core's store and space 2, or when not 8-byte aligned (R100). -/
def State.branchTo (s : State) (c x t : Nat) : State :=
  if entryOk c t then s.updCtx c x (fun k => { k with pc := BitVec.ofNat 64 t, progress := k.progress + 1 }) else s.halt c x rsUNMAPPED

/-- BR: jump by IMM words relative to the branch itself. -/
def execBr (i : Iss) (imm : W32) (s : State) : Out :=
  issue i false s (fun c x k => s.branchTo c x (k.pc + 8 * imm.signExtend 64).toNat)

/-- JR: jump to the address in SA. -/
def execJr (i : Iss) (sa : BitVec 6) (s : State) : Out :=
  issue i false s (fun c x k => s.branchTo c x (k.sreg sa.toNat).toNat)

/-- END: the command ends with STATUS OK once every instruction it issued has completed; until then the context waits with
WAIT_ON = 1 (R100). -/
def execEnd (i : Iss) (s : State) : Out :=
  issueStop i false s stopAlways (fun c x k => if k.pendingOps then s.waitOn c x .endW else s.endCommand c x rsOK .idle)

/-- END's wait ends: the command ends with STATUS OK and its completion record is written (R100). -/
def execEndComplete (c : BitVec 7) (x : BitVec 2) (s : State) : Out :=
  if !coreOk c then .fault .noSuchUnit
  else
    let k := s.ctx c.toNat x.toNat
    if k.wait = .endW && !k.pendingOps then .next (s.endCommand c.toNat x.toNat rsOK .idle) else .next s

end Sys2Proof.Machine
end

