-- ==== Sys2Proof/Machine/HostPort.lean ====
section
/-! DEFINITION. The host port's command front end (R307 to R320, R558 to R565): receiving a message, the operations of R309, relayed
messages, the lapse of a claim and the resending of events. -/

namespace Sys2Proof.Machine

def rsMEM_UE : Nat := 0xA002
def rsNO_ROUTE : Nat := 0xA201
def rsNOT_CLAIMANT : Nat := 0xA101
def rsSTALE_SEQ : Nat := 0xA102
def rsCLAIM_HELD : Nat := 0xA103
def rsBAD_CREDENTIAL : Nat := 0x8001

/-! ### Receiving a message (R307, R308, R312, R314, R315, R320) -/

/-- A raw frame identifies its sender by MAC address alone, and so does a relayed message besides the relaying module (R312, R319). -/
def State.hostNormal (s : State) (m : HostMsg) : HostMsg :=
  if m.src.relay.isSome || !s.encapOf .hp then { m with src := { m.src with ip := 0, udp := 0 } } else m

/-- The header disagrees with the frame (R308). -/
def State.hostBad (s : State) (m : HostMsg) : Bool :=
  m.ver != 1 || m.len.toNat != m.payload.length || decide ((if s.encapOf .hp then 9118 else 9152) < m.payload.length)

/-- The frame is one for HP: of its EtherType, or for its address and port (R307). A relayed message is in no frame of its own. -/
def State.hostForMe (s : State) (m : HostMsg) : Bool :=
  m.src.relay.isSome ||
    (if s.encapOf .hp then m.own.ip == s.hpEnd.ip && m.own.udp == s.hpEnd.udp else m.own.ether == s.hpEnd.ether)

/-- The operations of R309. -/
def hostOpKnown (op : Nat) : Bool := decide (1 ≤ op) && decide (op ≤ 8)

/-- Operations accepted from the claimant only. -/
def claimantOnly (op : Nat) : Bool := op == 2 || op == 3 || op == 4 || op == 5 || op == 8

/-- EACK removes the events it covers: those before it, since it counts the events received in order (R320, log 27). Room that it makes
takes the EVENTS_LOST event. -/
def State.takeEack (s : State) (m : HostMsg) : State :=
  let left := s.hp.events.filter (fun e => !serialLater 32 m.eack.toNat e.seq.toNat)
  if left.length = s.hp.events.length then s
  else ({ s with hp := { s.hp with events := left, lastEack := s.cycle } }).reportLost m.src

/-- A message from the claimant restarts the lease and acknowledges events. -/
def State.noteClaimant (s : State) (m : HostMsg) : State :=
  if !s.fromClaimant m then s
  else
    let s : State := { s with hp := { s.hp with lastMsg := s.cycle } }
    if m.epoch = s.hp.epoch then s.takeEack m else s

/-- The request is earlier than every kept one of its sender once 256 are kept (R315, log 35). -/
def State.staleSeq (s : State) (m : HostMsg) : Bool :=
  let mine := s.hp.kept.filter (fun k => k.src == m.src)
  decide (256 ≤ s.hp.kept.length) && !mine.isEmpty && mine.all (fun k => serialLater 32 k.hseq.toNat m.hseq.toNat)

/-- A CLAIM or ATTEST is in progress (R561). -/
def State.credBusy (s : State) : Bool := s.hp.inProg.any (fun q => q.op == 1 || q.op == 7)

/-- A request that the front end takes on. -/
def State.takeRequest (s : State) (m : HostMsg) : State :=
  if (m.op == 1 || m.op == 7) && s.credBusy then s.respond m rsBUSY [] false
  else { s with hp := { s.hp with inProg := s.hp.inProg ++ [m], admitted := s.hp.admitted ++ [(m, s.cycle)] } }

/-- The sequence window of requests: HSEQ is its sender's (R315, log 35). -/
def State.windowed (s : State) (m : HostMsg) : State :=
  match s.hp.kept.find? (fun k => k.src == m.src && k.hseq == m.hseq) with
  | some k => (s.count64 0x21 0 0x50 1).hpSend m.src k
  | none =>
    if s.hp.inProg.any (fun q => q.src == m.src && q.hseq == m.hseq) then s
    else if s.staleSeq m then s.respond m rsSTALE_SEQ [] false
    else s.takeRequest m

/-- A message arrives at the front end. While HP is OFF or CONFIGURING it takes none; while it is fenced or drains, its state is the
answer (R20, R35). -/
def State.hostAdmit (s : State) (m : HostMsg) : State :=
  let st := s.fnState .hp
  let op := m.op.toNat
  if st ≤ 1 || !s.hostForMe m then s
  else if s.hostBad m then s.count64 0x21 0 0x48 1
  else
    let s := (s.count64 0x21 0 0x40 1).noteClaimant m
    if st ≠ 2 then s.respond m st [] false
    else if !hostOpKnown op then s.respond m rsILLEGAL [] false
    else if claimantOnly op && (!s.fromClaimant m || m.epoch != s.hp.epoch) then s.respond m rsNOT_CLAIMANT [] false
    else s.windowed m

/-- HOST_FRAME_RECEIVE: a frame arrives and its header is checked; a request then waits for its operation (R308, R309, R315). -/
def execHostFrameReceive (m : HostMsg) (s : State) : Out := .next (s.hostAdmit (s.hostNormal m))

/-- Carry out a request of operation `op`: one that has not been received yet is received first; one that the front end did not take on
is not carried out. -/
def hostOp (op : Nat) (m : HostMsg) (s : State) (f : HostMsg → State → State) : Out :=
  if m.op.toNat ≠ op then .next s
  else
    let n := s.hostNormal m
    let t := if s.hp.inProg.contains n then s else s.hostAdmit n
    if t.hp.inProg.contains n then .next (f n t) else .next t

/-! ### Ending a claim (R312, R313) -/

/-- The module becomes unclaimed; queued events and the sequence window are discarded. -/
def State.endClaim (s : State) : State := { s with hp := { s.hp with claimant := none, kept := [], events := [], lost := 0 } }

/-- The lease has run out (R313). -/
def State.leaseOut (s : State) : Bool :=
  let l := s.fld 0x21 0 0x10 15 0
  s.hp.claimant.isSome && l != 0 && decide (l * 10 ^ 9 ≤ (s.cycle - s.hp.lastMsg).toNat)

/-- A claim whose lease has run out lapses. -/
def State.lapse (s : State) : State := if s.leaseOut then s.endClaim.setFlag 0x21 0 0x18 0 else s

/-- CLAIM_LAPSED. -/
def execClaimLapsed (s : State) : Out := .next s.lapse

/-- RELEASE ends the claim. -/
def execRelease (m : HostMsg) (s : State) : Out := hostOp 2 m s (fun m s => (s.respond m rsOK [] false).endClaim)

/-! ### CLAIM (R558 to R562) -/

/-- What SIG of a credential signs. -/
def State.claimMessage (s : State) (mac : BitVec 48) : List Byte :=
  [0x45, 0x46, 0x54, 0x4F, 0x52, 0x20, 0x43, 0x4C, 0x4D, 0x31] ++ Config.sha512 (Config.identityPub s.store.gen)
    ++ beBytes 4 (s.hp.epoch.toNat + 1) ++ beBytes 6 mac.toNat

/-- The credential fails: TYPE and owner slots, then the owner key and its signature. -/
def State.badCredential (s : State) (m : HostMsg) : Bool :=
  let p := m.payload
  let typ := leField p 0 1
  let slot := leField p 1 1
  let pub := (p.drop 4).take 133
  if typ = 0 then (List.range 4).any (fun i => s.ownerValid i)
  else
    typ != 1 || 4 ≤ slot || !s.ownerValid slot || Config.sha512 pub != s.ownerDigest slot
      || !Config.ecdsaVerify pub (s.claimMessage m.src.mac) ((p.drop 140).take 132)

/-- Why a CLAIM is refused, 0 when it is accepted. -/
def State.claimReason (s : State) (m : HostMsg) : Nat :=
  firstReason [(m.payload.length != 272, rsBAD_OPERAND), (s.hp.claimant.isSome && !s.fromClaimant m, rsCLAIM_HELD),
    (s.badCredential m, rsBAD_CREDENTIAL)]

/-- Every transmitter that an enabling event has enabled transmits again (R305). -/
def State.unsquelch (s : State) : State :=
  let s : State := { s with boot := { s.boot with squelch := false, claimWait := false } }
  let s := s.setTx .hp true
  let s := allPorts.foldl (fun (s : State) (f : Fn) => match f with
    | .sf p => if 2 ≤ s.fnState f then s.setTx (.sf p) true else s
    | _ => s) s
  if 2 ≤ s.fnState .fl then s.setTx .fl true else s

/-- An accepted CLAIM: a new epoch, the sender as claimant, an empty window and event queue; after a loss of the root PLL's lock it lifts
the squelch (R312, R562). -/
def State.acceptClaim (s : State) (m : HostMsg) : State :=
  let h := s.hp
  let s : State := { s with hp := { h with claimant := some m.src, epoch := h.epoch + 1, kept := [], events := [], nextSeq := 0,
                                           lost := 0, lastMsg := s.cycle, lastEack := s.cycle } }
  if s.boot.claimWait && s.boot.pllLocked then s.unsquelch else s

/-- CLAIM. A failed credential is recorded in the crumb trail (R575). -/
def execClaim (m : HostMsg) (s : State) : Out :=
  hostOp 1 m s (fun m s =>
    let s := s.lapse
    let r := s.claimReason m
    if r = 0 then (s.acceptClaim m).respond m rsOK [] true
    else
      let s := if r = rsBAD_CREDENTIAL then s.addTrail r 6 0 0 else s
      s.respond m r [] true)

/-! ### WRITE and READ (R310) -/

/-- The reason of the first failing byte of `n` from `a`, 0 when every byte is served. -/
def State.firstFailing (s : State) (a n : Nat) : Nat := firstNonzero ((List.range n).map (fun i => s.accessReason (a + i) 1))

/-- Carry out a WRITE: the reason of its refusal, and the state after. -/
def State.hostStore (s : State) (a : Nat) (bs : List Byte) : Nat × State :=
  if spaceOf a = 0 then s.ctlWrite .host a bs.length (leNat bs)
  else
    let r := s.firstFailing a bs.length
    (r, if r = 0 then s.writeMem a bs else s)

/-- WRITE of 1 to 8,192 bytes. -/
def execHostWrite (m : HostMsg) (s : State) : Out :=
  hostOp 3 m s (fun m s =>
    if m.payload.isEmpty || 8192 < m.payload.length then s.respond m rsBAD_OPERAND [] true
    else
      let (r, s) := s.hostStore m.addr.toNat m.payload
      s.respond m r [] true)

/-- READ of 1 to 8,192 bytes; one that meets an uncorrectable granule completes with MEM_UE and no data (R271, R290, log 28). -/
def execHostRead (m : HostMsg) (s : State) : Out :=
  hostOp 4 m s (fun m s =>
    let a := m.addr.toNat
    let n := leField m.payload 0 4
    if m.payload.length ≠ 4 || n = 0 || 8192 < n then s.respond m rsBAD_OPERAND [] true
    else if spaceOf a = 0 then
      let r := ctlReason a n
      s.respond m r (if r = 0 then leBytes n (s.ctlRead a n) else []) true
    else
      let r := s.firstFailing a n
      if r ≠ 0 then s.respond m r [] true
      else if s.ueIn a n then (s.noteUe a n).respond m rsMEM_UE [] true
      else (s.noteUe a n).respond m rsOK (s.readMem a n) true)

/-! ### DOORBELL (R309, R46) -/

/-- The command of a DOORBELL waits at the context's queue, once; the queue's decision answers the request. -/
def execDoorbell (m : HostMsg) (s : State) : Out :=
  hostOp 5 m s (fun m s =>
    let d := leField m.payload 0 4
    let c := bitsOf d 8 2
    let x := d % 4
    if m.payload.length ≠ 68 || 96 ≤ c then s.respond m rsBAD_OPERAND [] true
    else if (s.ctx c x).offers.any (fun o => o.src == .host m) then s
    else s.offer c x (.host m) (cmdOfBytes (m.payload.drop 4)))

/-! ### QUERY (R311) -/

/-- Function states, two to a byte, the lower-numbered function in the low nibble. -/
def nibbles : List Nat → List Byte
  | [] => []
  | [a] => [BitVec.ofNat 8 a]
  | a :: b :: t => BitVec.ofNat 8 (a + 16 * b) :: nibbles t

/-- The 576-byte state summary. -/
def State.summary (s : State) : List Byte :=
  let st := fun (l : List Fn) => nibbles (l.map s.fnState)
  st allCores ++ st ((List.range 96).flatMap (fun c => allEngines (BitVec.ofNat 7 c))) ++ st [.ms, .hp] ++ st allPorts ++ st allHives
    ++ st [.forager] ++ List.replicate 6 0 ++ leBytes 8 s.cycle.toNat ++ leBytes 4 (s.word 0 0 0x204).toNat
    ++ leBytes 4 (s.word 0 0 0x208).toNat ++ leBytes 4 (s.word 0 0 0x104).toNat ++ leBytes 8 (s.ctlRead 0x80 8)
    ++ List.replicate 284 0

/-- QUERY. -/
def execQuery (m : HostMsg) (s : State) : Out :=
  hostOp 6 m s (fun m s => if m.payload.isEmpty then s.respond m rsOK s.summary true else s.respond m rsBAD_OPERAND [] true)

/-! ### ATTEST (R564, R565) -/

/-- The owner-key slots, each as VALID byte and digest. -/
def State.ownerImage (s : State) : List Byte :=
  (List.range 4).flatMap (fun i =>
    leBytes 1 (b2n (s.ownerValid i)) ++ (if s.ownerValid i then s.ownerDigest i else List.replicate 64 0))

/-- CT offsets 0x0400 to 0x044F as a READ returns them. -/
def State.settingsImage (s : State) : List Byte := (List.range 20).flatMap (fun j => leBytes 4 (s.readWord 0 0 (0x400 + 4 * j)))

/-- Bytes 0 to 431 of the quote. -/
def State.quoteBody (s : State) (nonce : List Byte) (chain : Bool) : List Byte :=
  let st := s.store
  let mac := match s.hp.claimant with
    | some c => c.mac.toNat
    | none => 0
  let head := match st.journal.getLast? with
    | some e => Config.sha512 e
    | none => List.replicate 64 0
  leBytes 2 1 ++ leBytes 1 st.gen ++ leBytes 1 (b2n chain + 2 * b2n s.hp.claimant.isSome) ++ leBytes 4 s.runSec
    ++ leBytes 4 st.floor.toNat ++ leBytes 4 st.boots.toNat ++ leBytes 4 (s.word 0 0 0x104).toNat ++ leBytes 4 s.hp.epoch.toNat
    ++ leBytes 6 mac ++ leBytes 2 0 ++ leBytes 4 st.journal.length ++ leBytes 4 0 ++ leBytes 8 s.cycle.toNat ++ nonce
    ++ imgDigest s.boot.image ++ head ++ Config.sha512 s.settingsImage ++ Config.sha512 s.ownerImage ++ leBytes 8 Config.serial.toNat
    ++ leBytes 6 Config.hpMac.toNat ++ leBytes 6 Config.flMac.toNat ++ List.replicate 44 0

/-- ATTEST. -/
def execAttest (m : HostMsg) (s : State) : Out :=
  hostOp 7 m s (fun m s =>
    let chain := leField m.payload 64 1 % 2 == 1
    let sel := leField m.payload 65 1
    let gen := if sel = 0xFF then s.store.gen else sel
    if m.payload.length ≠ 68 || s.store.gen < gen then s.respond m rsBAD_OPERAND [] true
    else
      let body := s.quoteBody (m.payload.take 64) chain
      let certs := if chain then Config.identityChain gen else []
      s.respond m rsOK (body ++ Config.identitySign s.store.gen body ++ leBytes 2 certs.length ++ certs) true)

/-! ### RELAY (R318, R319) -/

/-- The refusal that stops a relayed block, 0 when it is handed to the transport. -/
def State.relayReason (s : State) (site dst : Nat) : Nat :=
  let port := fun (d : Nat) =>
    if !s.fnRunning (.sf 0) then stateReason (s.fnState (.sf 0)) else chk (s.route 0 d).isNone rsNO_ROUTE
  if site = s.siteId.toNat then port dst
  else
    let gs := s.gateways site
    let gw := fun (t : Nat) => gs.getD ((s.moduleId 0 + t) % gs.length) 0x3FFF
    if gs.isEmpty then rsNO_GATEWAY
    else
      let ts := List.range gs.length
      match ts.find? (fun t => if gw t = s.moduleId 0 then !s.flDown else port (gw t) == 0) with
      | none => if ts.all (fun t => gw t == s.moduleId 0) then rsFL_DOWN else port (gw ((ts.find? (fun t => gw t != s.moduleId 0)).getD 0))
      | some _ => 0

/-- RELAY: the inner message goes to another module's front end as a KIND 11 block. -/
def execRelay (m : HostMsg) (s : State) : Out :=
  hostOp 8 m s (fun m s =>
    let site := leField m.payload 0 1
    let dst := leField m.payload 2 2 % 2 ^ 14
    if m.payload.length < 48 || 8240 < m.payload.length then s.respond m rsBAD_OPERAND [] true
    else
      let r := s.relayReason site dst
      let b := s.relayBlock site dst m.src.mac (m.payload.drop 16)
      (s.sendBlock 0 site (BitVec.ofNat 14 dst) 4 0 b .relay).respond m r [] true)

/-- Take a delivered block from the front end. -/
def State.takeFront (s : State) (b : Block) : State := { s with frontIn := s.frontIn.erase b }

/-- ORIGIN_MAC of a relayed block. -/
def originMac (b : Block) : BitVec 48 := BitVec.ofNat 48 (leField b.payload 4 6)

/-- The inner message of a KIND 11 block is a request rather than a response or event (log 20). -/
def innerRequest (b : Block) : Bool := b.tag.kind == 11 && decide (leField b.payload 17 1 < 0x40)

/-- The inner message is a response or an event. -/
def innerReply (b : Block) : Bool := b.tag.kind == 11 && !innerRequest b

/-- TUNNELLED_HOST_MESSAGE: the inner message is received as from a host named by the block's source and ORIGIN_MAC. -/
def execTunnelledHostMessage (b : Block) (s : State) : Out :=
  if !s.frontIn.contains b || !innerRequest b then .next s
  else
    let src : HostSrc := { mac := originMac b, relay := some (b.desc.srcSite, b.desc.srcModule) }
    .next ((s.takeFront b).hostAdmit (hostOfBytes src (b.payload.drop 16)))

/-- RELAY_RESPONSE_FORWARD: a response or event for the claimant goes to it with OP 0x48; one for a host that is no longer the claimant is
discarded and counted. -/
def execRelayResponseForward (b : Block) (s : State) : Out :=
  if !s.frontIn.contains b || !innerReply b then .next s
  else
    let s := s.takeFront b
    match s.hp.claimant with
    | none => .next (s.count64 0x21 0 0x48 1)
    | some c =>
      if c.mac ≠ originMac b then .next (s.count64 0x21 0 0x48 1)
      else
        .next (s.hpSend c { own := s.hpEnd, op := 0x48, len := BitVec.ofNat 16 b.payload.length, epoch := s.hp.epoch, payload := b.payload })

/-! ### Resending events (R320) -/

/-- EVENT_RESEND. -/
def execEventResend (s : State) : Out :=
  match s.hp.claimant with
  | none => .next s
  | some c =>
    if s.hp.events.isEmpty || (s.cycle - s.hp.lastEack).toNat < s.fld 0x21 0 0x10 26 16 * 1000 then .next s
    else
      let s : State := { s with hp := { s.hp with lastEack := s.cycle } }
      .next (s.hp.events.foldl (fun s e => s.hpSend c (s.eventMsg e)) s)

end Sys2Proof.Machine
end

