-- ==== Sys2Proof/Machine/MemoryEvents.lean ====
section
/-! DEFINITION. What the memory-port dies do of their own accord (R286 to R292): serving bursts, scrub reads and refresh. -/

namespace Sys2Proof.Machine

/-- The granule of a main-memory address, when the address exists. -/
def granuleOf (a : Nat) : Option Nat := if spaceOf a = 3 && inStore a 1 then some (a / 16 * 16) else none

/-- A granule becomes uncorrectable; it stays so until it is written again (R290). -/
def State.markUe (s : State) (g : Nat) : State := if s.ue.contains g then s else { s with ue := s.ue ++ [g] }

/-- A corrected granule error on a channel (R289). -/
def State.ceEvent (s : State) (ch : Nat) : State :=
  ((s.count64 0x20 0 0x40 1).count32 0x20 0 (0x1000 + 4 * ch) 1).setFlag 0x20 0 0x18 0

/-- A burst read again after a link error (R287). -/
def State.linkRetry (s : State) : State := (s.count64 0x20 0 0x50 1).setFlag 0x20 0 0x18 2

/-- A die reads a granule, again after a link error, for a read (cause 0) or a scrub (cause 1): what the granule code then finds
(R287 to R290). A granule that is uncorrectable stays so. -/
def State.readGranule (s : State) (g : Nat) (r : ReadRes) (cause : Nat) : State :=
  let s := if r.again then s.linkRetry else s
  match (if s.ue.contains g then .uncorrectable else r.res) with
  | .good => s
  | .corrected => s.ceEvent (s.dieOf (g % 2 ^ 60)).2
  | .uncorrectable => (s.markUe g).ueEvent g cause

/-- Main memory is served: MS is RUNNING and the granule's die is not under recovery (R270, R296). -/
def State.served (s : State) (g : Nat) : Bool := s.fnRunning .ms && s.die (s.dieOf (g % 2 ^ 60)).1 == 0

/-- A burst of other traffic waited behind a priority fetch (R286). -/
def State.waitedBurst (s : State) (waited : Bool) : State := s.count64 0x20 0 0x68 (b2n waited)

/-- SCRUB_HOURS of the pass in progress; with no pass in progress, the register's, with which the next begins (R291, R298). -/
def State.scrubHours (s : State) : Nat := if s.ms.scrub = 0 then s.fld 0x20 0 0x10 23 16 else s.ms.scrub

/-- SCRUB_READ: a scrub read acts on an error as any read, without delivering data; the end of a pass is counted, and the next pass takes
SCRUB_HOURS as it stands then (R291, R298). -/
def execScrubRead (addr : W64) (r : ScrubRes) (passEnds : Bool) (s : State) : Out :=
  match granuleOf addr.toNat with
  | none => .next s
  | some g =>
    if !s.served g || s.scrubHours = 0 then .next s
    else
      let h := s.scrubHours
      let s := (s.waitedBurst r.behindFetch).readGranule g r.read 1
      let s := if passEnds then (s.count64 0x20 0 0x70 1).setFlag 0x20 0 0x18 6 else s
      .next { s with ms := { s.ms with scrub := if passEnds then s.fld 0x20 0 0x10 23 16 else h } }

/-- REFRESH of a bank: DERATED shows whether some channel refreshes at a shortened interval, and a channel that comes to do so sets
TEMP_DERATE (R292, R299). -/
def execRefresh (ch : BitVec 9) (_bank : BitVec 4) (shortened : Bool) (s : State) : Out :=
  if !s.fnRunning .ms then .next s
  else
    let c := ch.toNat
    let was := s.ms.derated.contains c
    let l := s.ms.derated.filter (fun x => x != c)
    let l := if shortened then l ++ [c] else l
    let s : State := { s with ms := { s.ms with derated := l } }
    .next ((s.setFld 0x20 0 0x14 3 3 (b2n (!l.isEmpty))).setFlagIf (shortened && !was) 0x20 0 0x18 5)

/-- The class of a burst is that of its address: an enabled space-3 region is a class, SLOW's fetches go first, and addresses outside
every region form one class (R286). -/
def State.classFits (s : State) (cls : BurstClass) (a : Nat) : Bool :=
  let within := fun i => i != 0 && s.regionOn i && decide (s.regionBase i ≤ a) && decide (a < s.regionBase i + s.regionSize i)
  match cls with
  | .refresh => false
  | .priorityFetch => within 2
  | .region i => within i.toNat
  | .other => !(List.range 16).any within

/-- MAIN_MEMORY_BURST: a channel serves the burst it has chosen (R286). One of other traffic that waited behind a priority fetch is
counted, and the read acts on what it finds (R287, R289, R290; log 29). -/
def execMainMemoryBurst (ch : BitVec 9) (cls : BurstClass) (behindFetch : Bool) (addr : W64) (r : ReadRes) (s : State) : Out :=
  match granuleOf addr.toNat with
  | none => .next s
  | some g =>
    if !s.served g || !s.classFits cls (g % 2 ^ 60) || (s.dieOf (g % 2 ^ 60)).2 ≠ ch.toNat then .next s
    else .next ((s.waitedBurst (behindFetch && cls != .priorityFetch)).readGranule g r 0)

end Sys2Proof.Machine
end

