-- ==== Sys2Proof/Machine/Swarm.lean ====
section
/-! DEFINITION. The swarm watch (R516 to R521): the wait-for graph as a scan finds it, hangs, the choice of the domain to recover, and
the escalation. -/

namespace Sys2Proof.Machine

/-! ### Node numbers -/

def nodeCtx (c x : Nat) : Nat := c * 4 + x
def nodeEng (c m : Nat) : Nat := 1000 + c * 4 + m
def nodeVu (c : Nat) : Nat := 2000 + c
def nodeMv (c : Nat) : Nat := 3000 + c
def nodeHive (h : Nat) : Nat := 4000 + h
def nodePort (p : Nat) : Nat := 5000 + p
def nodeDie (m : Nat) : Nat := 6000 + m
def nodeForager : Nat := 7000
def nodeHp : Nat := 7001
def nodeFence : Nat := 7002

/-! ### The targets of a wait (R517) -/

/-- What a wait resolves to: the nodes it waits on, and whether one of them lies outside the module. -/
structure Targets where
  nodes : List Nat := []
  ext : Bool := false
  deriving DecidableEq, Repr, Inhabited

def Targets.join (a b : Targets) : Targets := { nodes := (a.nodes ++ b.nodes).dedup, ext := a.ext || b.ext }
def joinAll (l : List Targets) : Targets := l.foldl Targets.join {}

/-- The unit of core `c` that runs an outstanding instruction; external for a COLL or SEND. -/
def State.runner (s : State) (c id : Nat) : Targets :=
  match (List.range 4).find? (fun m => (s.eng c m).q.any (fun o => o.id == id)) with
  | some m => { nodes := [nodeEng c m] }
  | none =>
    let k := s.core c
    if k.vu.any (fun o => o.id == id) then { nodes := [nodeVu c] }
    else if k.mv.any (fun o => o.id == id) then { nodes := [nodeMv c] }
    else { ext := true }

/-- The contexts of a core that can still release a wait on a bit that no operation owns. -/
def State.releasers (s : State) (c : Nat) (self : Option Nat) : Targets :=
  { nodes := ((List.range 4).filter (fun y => some y != self && ((s.ctx c y).st != .idle || s.qOpen c y))).map (nodeCtx c) }

/-- The target of a wait on arrival bit `b`. -/
def State.bitTarget (s : State) (c b : Nat) (self : Option Nat) : Targets :=
  let id := Tbl.get 0 (s.core c).arrPend b
  if id = 0 then s.releasers c self else s.runner c id

/-- The wait on those of the bits first .. last that are not set. -/
def State.bitTargets (s : State) (c first last : Nat) (self : Option Nat) : Targets :=
  joinAll (((List.range (last + 1 - first)).map (fun i => first + i)).filter (fun b => !(s.core c).arrBit b) |>.map (fun b =>
    s.bitTarget c b self))

/-- The registers that a held instruction names as destinations and as sources; a tag, scale or descriptor instruction waits for both
uses of its register (R91). -/
def heldRegs (s : State) (c x : Nat) (i : Instr) : List Nat × List Nat :=
  match i with
  | .loads _ f => ([], [f.tb.toNat])
  | .stream _ f =>
    let att := (s.core c).attach.filter (fun a => a.x == x && a.eng == f.eng.toNat)
    ((if f.dstb then [] else [f.tc.toNat]) ++ (att.map Attach.dsts).flatten, f.ta.toNat :: (att.map Attach.srcs).flatten)
  | .drain _ f => ([f.tc.toNat], [])
  | .vop _ f => let o := vopOp x f (s.ctx c x); (o.dsts, o.srcs)
  | .move _ f => ([f.td.toNat], [f.ta.toNat])
  | .stash _ f => ([f.td.toNat], [f.ta.toNat])
  | .fetch _ f => ([f.td.toNat], [f.ta.toNat])
  | .coll _ f => ([f.td.toNat], [f.ta.toNat])
  | .send _ f => ([], [f.ta.toNat])
  | .waitMsg _ td => ([td.toNat], [])
  | .tagSet _ tn _ _ _ => ([tn.toNat], [])
  | .tagGet _ tn _ _ => ([tn.toNat], [])
  | .tdescLd _ tn _ => ([tn.toNat], [])
  | .tdescSt _ tn _ => ([tn.toNat], [])
  | .tdescSetf _ tn _ _ => ([tn.toNat], [])
  | .scaleRd _ tn _ => ([tn.toNat], [])
  | .scaleMark _ tn => ([tn.toNat], [])
  | _ => ([], [])

/-- The instructions whose registers hold an instruction. -/
def Ctx.holders (k : Ctx) (dsts srcs : List Nat) : List Nat :=
  ((k.busy.filter (fun b => dsts.contains b.t || (b.wr && srcs.contains b.t))).map (fun b => b.id)).dedup

/-- The kinds of a context's wait. -/
def State.ctxWhy (s : State) (c x : Nat) : List WaitOn :=
  let k := s.ctx c x
  match k.wait with
  | .none => []
  | .arr first last => ((List.range (last + 1 - first)).map (fun i => first + i)).filter (fun b => !(s.core c).arrBit b) |>.map .arrival
  | .tregs mask => ((k.busy.filter (fun b => mask.getLsbD b.t)).map (fun b => b.t)).dedup.map .treg
  | .held i =>
    let (d, r) := heldRegs s c x i
    ((k.busy.filter (fun b => d.contains b.t || (b.wr && r.contains b.t))).map (fun b => b.t)).dedup.map .treg
  | .endW => [.instrs]
  | .coll (.coll _ f) _ => [.credit 2 (k.treg f.ta.toNat).tag.group.toNat]
  | .coll _ _ => []
  | .msg _ => [.message]
  | .signal _ => [.decision]
  | .fence => if s.driftHold then [.roundFence] else [.stepFence]

/-- What a waiting context waits on. -/
def State.ctxTargets (s : State) (c x : Nat) : Targets :=
  let k := s.ctx c x
  match k.wait with
  | .none => {}
  | .arr first last => s.bitTargets c first last (some x)
  | .tregs mask => joinAll (((k.busy.filter (fun b => mask.getLsbD b.t)).map (fun b => b.id)).dedup.map (s.runner c))
  | .held i =>
    let (d, r) := heldRegs s c x i
    joinAll ((k.holders d r).map (s.runner c))
  | .endW =>
    let no := (k.run.map (fun r => r.no)).getD 0
    joinAll ((k.outst.filter (fun o => o.no == no)).map (fun o => s.runner c o.id))
  | .coll _ _ => { ext := true }
  | .msg _ => { ext := true }
  | .signal _ => { ext := true }
  | .fence => if s.driftHold then { ext := true } else { nodes := [nodeFence] }

/-- The bits that an engine's started STREAM waits for, whatever stands before it in the queue (R107): those of its pieces that are not set. -/
def State.engBits (s : State) (c m : Nat) : List Nat :=
  match (s.eng c m).unfed with
  | some (_, o) =>
    if !s.feedFrozen c m then []
    else
      let d := o.ta.t.d
      let a := d.arrBase.toNat + (if o.tr then o.ka else o.m0) / d.pieceRows.toNat
      let b := d.arrBase.toNat + o.lastPieceRow / d.pieceRows.toNat
      ((List.range (b + 1 - a)).map (fun i => a + i)).filter (fun b => !(s.core c).arrBit b)
  | none => []

/-- What the present phase of R66 waits on; K2 waits on collectives, and a phase that waits on nothing of this module can go on. A base not
yet received holds no K4: it is awaited under DRIFT_HOLD (R75), where the contexts' wait is external. -/
def State.fenceTargets (s : State) : Targets :=
  let p := s.phase
  let l :=
    if p = 0 then (runningCores s).flatMap (fun c =>
      ((List.range 4).filter (fun x => (s.ctx c x).member && !(s.ctx c x).counted)).map (nodeCtx c))
    else if p = 1 then (runningCores s).flatMap (fun c =>
      ((List.range 4).filter (fun m => !(s.eng c m).q.isEmpty)).map (nodeEng c) ++ (if (s.core c).vu.isEmpty then [] else [nodeVu c])
        ++ (if (s.core c).mv.isEmpty then [] else [nodeMv c]))
    else if p = 3 then ((runningHives s).filter (fun h => !(s.hive h).told)).map nodeHive
    else if p = 4 && s.foragerRounds then [nodeForager]
    else []
  { nodes := l, ext := l.isEmpty || p == 2 }

/-! ### The nodes (R516) -/

/-- A list of numbers as one, so that a change of the list shows. -/
def fingerprint (l : List Nat) : Nat := l.foldl (fun a n => a * 2 ^ 64 + n % 2 ^ 64 + 1) 1

def waitNode (id progress : Nat) (why : List WaitOn) (t : Targets) : Node :=
  { id := id, targets := t.nodes, why := why, ext := t.ext, waits := true, work := true, progress := progress }
def workNode (id progress : Nat) : Node := { id := id, work := true, progress := progress }

/-- The memory-port dies that serve the `n` bytes from `a`, none outside main memory. -/
def State.diesAt (s : State) (a n : Nat) : List Nat :=
  if spaceOf a ≠ 3 then []
  else ((List.range ((a % 4096 + n + 4095) / 4096)).map (fun i => (s.dieOf (a % 2 ^ 60 / 4096 * 4096 + 4096 * i)).1)).dedup

/-- Those of them under recovery. -/
def State.heldAt (s : State) (a n : Nat) : List Nat := (s.diesAt a n).filter (fun m => s.die m != 0)

/-- The dies that serve the operands of an operation under way. -/
def State.opdDies (s : State) (l : List Opd) : List Nat :=
  (l.flatMap (fun o => if o.t.d.rows = 0 then [] else s.diesAt o.t.d.base.toNat (spanBytes o.t.d))).dedup

/-- A unit with work: it waits on the dies at which its requests to main memory are outstanding, if there are any, and else goes on (R23,
R517). -/
def unitNode (id progress : Nat) (dies : List Nat) : Node :=
  if dies.isEmpty then workNode id progress else waitNode id progress (dies.map .memory) { nodes := dies.map nodeDie }

/-- A context: an idle one with an open queue can always be given work, so it is no node of a hang. -/
def State.ctxNode (s : State) (c x : Nat) : List Node :=
  let k := s.ctx c x
  if k.wait != .none then [{ waitNode (nodeCtx c x) k.progress (s.ctxWhy c x) (s.ctxTargets c x) with openQ := s.qOpen c x }]
  else if k.run.isSome || (!k.queue.isEmpty && !(k.st == .idle && s.qOpen c x)) then [workNode (nodeCtx c x) k.progress]
  else []

def State.engNode (s : State) (c m : Nat) : List Node :=
  let e := s.eng c m
  if e.q.isEmpty then []
  else
    let bits := s.engBits c m
    let done := fingerprint (e.q.map (fun o => o.id * 8 + b2n o.started * 4 + b2n o.swept * 2 + b2n o.fin.isSome)
      ++ [s.word64 0x13 (c * 4 + m) 0x40, e.holds.length])
    if bits.isEmpty then [unitNode (nodeEng c m) done (s.opdDies ((e.q.filter (fun o => o.started)).flatMap (fun o => o.kind.opds)))]
    else [waitNode (nodeEng c m) done (bits.map .arrival) (joinAll (bits.map (fun b => s.bitTarget c b none)))]

def State.coreNodes (s : State) (c : Nat) : List Node :=
  let k := s.core c
  (if k.vu.isEmpty then []
   else [unitNode (nodeVu c) (fingerprint (k.vu.map (fun o => o.id))) (s.opdDies (k.vu.flatMap (fun o => [o.td, o.ta, o.tb] ++ o.stats.toList)))])
    ++ (if k.mv.isEmpty then []
        else [unitNode (nodeMv c) (fingerprint (k.mv.map (fun o => o.id))) (s.opdDies (k.mv.flatMap (fun o => [o.td, o.ta])))])

/-- The dies that serve the slow-tier homes of shards being staged. -/
def State.fetchDies (s : State) (h : Nat) : List Nat :=
  ((s.hive h).fetching.filterMap (fun i => ((s.hive h).entry i).map (fun e => s.diesAt (s.homeAddr h e) (s.homeBytes h e)))).flatten.dedup

/-- The dies that hold up the update under way (log 66). -/
def State.updateDies (s : State) (h : Nat) : List Nat :=
  match (s.hive h).cur with
  | none => []
  | some r =>
    match (s.hive h).entry r.g.shard with
    | none => []
    | some e =>
      let d := s.wcDesc (e.wc + 64 * ((r.g.tag.step.toNat + 1) % 2))
      s.heldAt (s.homeAddr h e) (s.homeBytes h e) ++ s.heldAt d.base.toNat (spanBytes d)

/-- A hive's staging fetch waits on the dies that serve its slow tier, whatever update is under way, and so does an update that a die under
recovery holds up; any other update under way or queued is work. -/
def State.hiveNode (s : State) (h : Nat) : List Node :=
  let k := s.hive h
  if k.fetching.isEmpty && k.cur.isNone && k.queue.isEmpty then []
  else
    [unitNode (nodeHive h) (fingerprint ([k.queue.length, k.parked.length, k.staged.length] ++ (k.cur.map (fun r => r.g.shard)).toList))
      (s.fetchDies h ++ s.updateDies h).dedup]

/-- The dies that serve the words of the forager's shards, and the hives that do not serve their masters to it (R24, R270). -/
def State.foragerDies (s : State) : List Nat :=
  (s.fgLayout.flatMap (fun f => s.diesAt (s.homeAddr f.hive f.e) (stateSize f.e.elems 0)
    ++ [f.b, f.ref, f.err].flatMap (fun a => s.diesAt a (4 * f.e.elems)))).dedup
def State.foragerUnserved (s : State) : List Nat :=
  ((s.fgLayout.map (fun f => f.hive)).filter (fun h =>
    let st := s.fnState (.hive (BitVec.ofNat 4 h))
    st == 3 || st == 4)).dedup

/-- The forager has masters or bases to read or write, or messages to act on. It waits on hives that do not serve it, and else on the dies at
which its requests are outstanding. -/
def State.foragerNode (s : State) : List Node :=
  let shards := !s.fg.encode.isEmpty || s.fg.kept.any (fun k => k.queued)
  if !shards && s.fg.inbox.isEmpty then []
  else
    let done := fingerprint [s.fg.encode.length, s.fg.inbox.length, s.word64 0x25 0 0x80, s.word64 0x25 0 0xB0, s.word64 0x25 0 0xC0]
    let hs := if shards then s.foragerUnserved else []
    if hs.isEmpty then [unitNode nodeForager done (if shards then s.foragerDies else [])]
    else [waitNode nodeForager done (hs.map .hive) { nodes := hs.map nodeHive }]

/-- The unit of this module whose room a withheld request waits for; a group's room is part of the fast tier of its plane's hive (R335, R356,
R517). -/
def State.creditTarget (s : State) (f : SfFrame) : Targets :=
  let i := f.index.toNat
  if f.unit = 0 then { nodes := [nodeCtx (i / 4) (i % 4)] } else if f.unit = 1 then { nodes := [nodeHive i] }
  else if f.unit = 3 then { nodes := [nodeForager] } else if f.unit = 4 then { nodes := [nodeHp] } else { nodes := [nodeHive (s.gPlane i)] }

/-- A site-fabric port with messages to send or to receive waits on other modules, and one with withheld requests on the units whose room
they wait for (R23, R335). -/
def State.portNode (s : State) (p : Nat) : List Node :=
  let k := s.port p
  let away := !k.tx.isEmpty || !k.grants.isEmpty
  if !away && k.held.isEmpty then []
  else
    [waitNode (nodePort p) (fingerprint [k.tx.length, k.grants.length, k.held.length, k.nextReq.toNat, k.nextGrant.toNat])
      (k.tx.map (fun t => .credit t.unit.toNat t.index.toNat) ++ k.held.map (fun q => .credit q.1.unit.toNat q.1.index.toNat))
      (joinAll ({ ext := away } :: k.held.map (fun q => s.creditTarget q.1)))]

/-- A memory-port die under recovery; any other answers every request, so that a unit that waits on it is able (log 39). -/
def State.dieNode (s : State) (m : Nat) : List Node := if s.die m = 0 then [] else [workNode (nodeDie m) 0]

/-- The host port waits on the queues that have still to decide on its DOORBELLs; any other request is work. -/
def State.hpNode (s : State) : List Node :=
  let done := fingerprint (s.hp.inProg.map (fun m => m.hseq.toNat))
  if s.hp.inProg.isEmpty then []
  else if s.hp.inProg.all (fun m => m.op == 5) then
    [waitNode nodeHp done [.decision] { nodes := s.hp.inProg.map (fun m => bitsOf (leField m.payload 0 4) 8 0) }]
  else [workNode nodeHp done]

/-- Every node with a wait or with work. -/
def State.nodes (s : State) : List Node :=
  (List.range 96).flatMap (fun c =>
    (List.range 4).flatMap (fun x => s.ctxNode c x) ++ (List.range 4).flatMap (fun m => s.engNode c m) ++ s.coreNodes c)
  ++ (List.range 16).flatMap (fun h => s.hiveNode h) ++ (List.range 16).flatMap (fun p => s.portNode p)
  ++ (List.range 32).flatMap (fun m => s.dieNode m) ++ s.foragerNode ++ s.hpNode
  ++ (if s.ctxs.any (fun q => q.2.wait == .fence) && !s.driftHold then [waitNode nodeFence s.phase [] s.fenceTargets] else [])

/-! ### Stuck nodes and hung components (R518) -/

/-- The progress table after a scan: when each node with work and no wait last moved. -/
def newProgress (old : Tbl Progress) (now : Nat) (ns : List Node) : Tbl Progress :=
  ns.foldl (fun t n =>
    if n.waits then t
    else
      let p := Tbl.get {} old n.id
      t.put n.id (if (old.any (fun q => q.1 == n.id)) && p.count == n.progress then p else { count := n.progress, scan := now })) []

/-- A node that is able without regard to others. -/
def ableAlone (prog : Tbl Progress) (now limit : Nat) (n : Node) : Bool :=
  if n.waits then n.ext else decide (now - (Tbl.get {} prog n.id).scan < limit)

/-- The stuck nodes: those left once every node with an able target is taken out. A target that is no node of the list is idle. -/
def stuckLoop : Nat → List Node → List Node
  | 0, l => l
  | fuel + 1, l =>
    let ids := l.map (fun n => n.id)
    stuckLoop fuel (l.filter (fun n => !(n.waits && n.targets.any (fun t => !ids.contains t))))

/-- The nodes that `from_` reaches along waiting-on edges, itself among them. -/
def reachLoop (l : List Node) : Nat → List Nat → List Nat
  | 0, seen => seen
  | fuel + 1, seen => reachLoop l fuel ((seen ++ (l.filter (fun n => seen.contains n.id)).flatMap (fun n => n.targets)).dedup)

def reach (l : List Node) (id : Nat) : List Nat := reachLoop l l.length [id]

/-- The strongly connected components of the stuck nodes with no edge leaving them, each as its node numbers. -/
def components (l : List Node) : List (List Nat) :=
  let r := l.map (fun n => (n.id, reach l n.id))
  let top := r.filter (fun p => p.2.all (fun m => r.any (fun q => q.1 == m && q.2.contains p.1)))
  (top.map (fun p => l.map (fun n => n.id) |>.filter (fun i => p.2.contains i))).dedup

/-- The node was stuck in the scan before with the same waits. -/
def stuckBefore (old : List Node) (n : Node) : Bool :=
  old.any (fun o => o.id == n.id && o.targets == n.targets && o.why == n.why && o.waits == n.waits)

/-! ### The domain to recover (R520, R521) -/

/-- The domain that a node alone lies in; none for the step fence. -/
def nodeDomain (n : Nat) : Option Domain :=
  let d := fun (k i : Nat) => some { kind := BitVec.ofNat 4 k, num := BitVec.ofNat 12 i }
  if n < 1000 then d 1 (n / 4)
  else if n < 2000 then d 0 (n - 1000)
  else if n < 3000 then d 1 (n - 2000)
  else if n < 4000 then d 1 (n - 3000)
  else if n < 5000 then d 2 (n - 4000)
  else if n < 6000 then d 6 0
  else if n < 7000 then d 4 (n - 6000)
  else if n = 7000 then d 3 0
  else if n = 7001 then d 5 0
  else none

def moduleDomain : Domain := { kind := 6, num := 0 }

/-- The smallest domain that holds every node. -/
def smallestDomain (ids : List Nat) : Domain :=
  match (ids.filterMap nodeDomain).dedup with
  | [] => moduleDomain
  | d :: ds =>
    if ds.isEmpty then d
    else
      let core := fun (q : Domain) => if q.kind = 1 then q.num.toNat else if q.kind = 0 then q.num.toNat / 4 else 4096
      if core d < 4096 && ds.all (fun q => core q == core d) then { kind := 1, num := BitVec.ofNat 12 (core d) } else moduleDomain

/-- The smaller domains that hold a node, in the kind order and by ascending number. -/
def smallerDomains (ids : List Nat) : List Domain :=
  let ds := (ids.filterMap nodeDomain).dedup
  (List.range 6).flatMap (fun k => (List.range 384).flatMap (fun i => ds.filter (fun d => d.kind.toNat == k && d.num.toNat == i)))

/-- All nodes of a component lie in a domain under recovery. -/
def State.inRecoveredDomain (s : State) (ids : List Nat) : Bool :=
  s.sw.recs.any (fun r => (ids.filterMap nodeDomain).all (fun d => domHolds r.d d) && !(ids.filterMap nodeDomain).isEmpty)

/-- One step of the escalation. -/
def State.escalate (s : State) (d : Domain) : State :=
  ((s.count64 1 0 0x58 1).setFlag 1 0 8 3).beginRecovery d causeESCALATION none

/-- A hang (R519): counted, flagged and recorded; then recovered, or only reported. -/
def State.hang (s : State) (ids : List Nat) : State :=
  let d := smallestDomain ids
  let s := (s.count64 1 0 0x48 1).setFlag 1 0 8 0
  let (s, n) := if s.crumbAuto then s.takeCrumb 0 d.kind.toNat d.num.toNat else (s, noRecord)
  if s.fld 1 0 0 30 30 = 0 then
    let st := match domMain d with
      | some f => s.fnState f
      | none => if d.kind = 4 then (if s.die d.num.toNat = 0 then 2 else s.die d.num.toNat) else fnRUNNING
    s.domainEvent d.kind.toNat d.num.toNat st causeHANG 0x8101 n noContext
  else if d ≠ moduleDomain then s.beginRecovery d causeHANG (some n)
  else
    match smallerDomains ids with
    | [] => s.beginRecovery moduleDomain causeHANG (some n)
    | e :: es =>
      let s : State := { s with sw := { s.sw with esc := s.sw.esc ++ [{ nodes := ids, todo := es, scan := 0 }] } }
      ((s.count64 1 0 0x58 1).setFlag 1 0 8 3).beginRecovery e causeESCALATION (some n)

/-- An escalation at a scan: while a recovery lasts it waits; a component found again takes the next step, and one absent for two scans
ends it. -/
def State.escStep (s : State) (now : Nat) (hung : List (List Nat)) (e : Escalation) : State :=
  let put := fun (s : State) (l : List Escalation) =>
    ({ s with sw := { s.sw with esc := s.sw.esc.filter (fun x => x.nodes != e.nodes) ++ l } } : State)
  if s.sw.recs.any (fun r => e.nodes.any (fun i => match nodeDomain i with
    | some d => domHolds r.d d
    | none => false)) then s
  else if e.scan = 0 then put s [{ e with scan := now }]
  else if hung.contains e.nodes then
    match e.todo with
    | d :: ds => put (s.escalate d) [{ e with todo := ds, scan := 0 }]
    | [] => if e.scan + 2 ≤ now then (put s []).escalate moduleDomain else s
  else if e.scan + 2 ≤ now then put s []
  else s

/-- Replays that the scan finds hung alone (R531). -/
def State.hungReplays (s : State) (hung : List (List Nat)) : State :=
  s.sw.recs.foldl (fun s r =>
    match r.replaying with
    | some x =>
      if r.d.kind = 1 && r.phase = 4 && hung.any (fun ids => !ids.isEmpty && ids.all (fun i => match nodeDomain i with
        | some d => domHolds r.d d
        | none => false))
      then s.replayEnds r.d.num.toNat x 2 else s
    | none => s) s

/-- SWARM_SCAN (R518). -/
def execSwarmScan (s : State) : Out :=
  let now := s.sw.scan + 1
  let ns := s.nodes
  let prog := newProgress s.sw.prog now ns
  let waiting := ns.filter (fun n => !ableAlone prog now (s.fld 1 0 0 23 16) n)
  let stuck := stuckLoop waiting.length waiting
  let hung := (components stuck).filter (fun ids =>
    ids.all (fun i => stuck.any (fun n => n.id == i && stuckBefore s.sw.stuck n)))
  let seen := s.sw.hung
  let quiet := s.sw.quiet
  let s := s.count64 1 0 0x40 1
  let s : State := { s with sw := { s.sw with scan := now, prog := prog, stuck := stuck, quiet := quiet - 1 } }
  if quiet ≠ 0 then .next s
  else
    let s := s.hungReplays hung
    let s := s.sw.esc.foldl (fun s e => s.escStep now hung e) s
    let escs := s.sw.esc.map (fun e => e.nodes)
    let fresh := hung.filter (fun ids => !seen.contains ids && !escs.contains ids && !s.inRecoveredDomain ids)
    let s := fresh.foldl (fun s ids => s.hang ids) s
    let told := hung.filter (fun ids => (seen.contains ids || fresh.contains ids) && !s.inRecoveredDomain ids)
    .next { s with sw := { s.sw with hung := told } }

end Sys2Proof.Machine
end

