-- ==== Sys2Proof/Machine/Recovery.lean ====
section
/-! DEFINITION. The course of a recovery (R523 to R531), the crumb engine (R536 to R539), heartbeats and the takeover (R533 to R535), and
the end of memory training (R293). -/

namespace Sys2Proof.Machine

/-! ### Drain and reset -/

/-- RECOVERY_DRAIN_START: every admission point has taken the fence (R523). -/
def execRecoveryDrainStart (d : Domain) (s : State) : Out :=
  match s.recOf d with
  | some r => if r.phase = 1 then .next (s.beginDrainClock r) else .next s
  | none => .next s

/-- The drain of a recovery may end: nothing is outstanding, or the drain clock has expired. -/
def State.drainDone (s : State) (r : Recovery) : Bool := !s.workLeft r || decide (s.drainCc r.d.kind.toNat ≤ (s.cycle - r.clock).toNat)

/-- RECOVERY_DRAIN_END (R524). -/
def execRecoveryDrainEnd (d : Domain) (s : State) : Out :=
  match s.recOf d with
  | some r => if r.phase = 2 && s.drainDone r then .next (s.drainEnds r) else .next s
  | none => .next s

/-- RESET_END (R526). -/
def execResetEnd (d : Domain) (s : State) : Out :=
  match s.recOf d with
  | some r => if r.phase = 3 then .next (s.resetEnds r) else .next s
  | none => .next s

/-! ### Memory training -/

/-- MS_TRAINING_COMPLETE: a START's training ends, and a module restart that waited for it goes on (R293, R526). -/
def execMsTrainingComplete (t : TrainEnd) (s : State) : Out :=
  if !s.ms.training then .next s
  else
    let wait := s.sw.recs.find? (fun r => r.d.kind == 6 && r.phase == 3)
    let (s, ok) := match t with
      | .trained ms => (s.msTrained ms.toNat, true)
      | .failed ch => (s.msFailed ch.toNat, false)
    match wait with
    | none => .next s
    | some r => .next ((if ok then s else s.setFnState .ms fnOFF).restartDomain r)

/-! ### Core-level isolated replay -/

/-- The recovery of core `c` that is replaying suspects. -/
def State.replayRec (s : State) (c : Nat) : Option Recovery :=
  s.sw.recs.find? (fun r => r.d.kind == 1 && r.d.num.toNat == c && r.phase == 4)

/-- A context as its knock-back copy leaves it, ISOLATED, its command without bound; a context of which no copy was ever taken has nothing
to replay. -/
def Ctx.isolated (k : Ctx) (p : CtxCopy) : Ctx :=
  { ({} : Ctx) with st := .isolated, pc := p.pc, sregs := p.sregs, tregs := p.tregs, preds := p.preds, queue := k.queue, copy := k.copy,
                    run := p.run.map (fun r => { r with cmd := { r.cmd with maxCC := 0 } }) }

/-- Begin the replay of context x, after a reset of the core's units. -/
def State.beginReplay (s : State) (c x : Nat) (r : Recovery) : State :=
  let s := s.resetCoreUnits c
  let upd := fun (q : Recovery) => { q with replaying := some x, replayCC := s.cycle }
  match (s.ctx c x).copy with
  | none => s.updRec r.d (fun q => { q with outcomes := q.outcomes.put x 1 })
  | some p =>
    let s := (s.updCtx c x (fun k => k.isolated p)).updRec r.d upd
    if p.run.isSome then s else s.replayEnds c x 1

/-- CORE_ISOLATED_REPLAY: the next suspect's replay begins once none is running; after the last, the recovery ends (R530, R531). -/
def execCoreIsolatedReplay (c : BitVec 7) (s : State) : Out :=
  if !coreOk c then .fault .noSuchUnit
  else
    match s.replayRec c.toNat with
    | none => .next s
    | some r =>
      if r.replaying.isSome then .next s
      else
        match r.suspects.find? (fun x => !r.outcomes.any (fun q => q.1 == x)) with
        | some x => .next (s.beginReplay c.toNat x r)
        | none => .next ((s.resetCoreUnits c.toNat).replaysOver r)

/-- REPLAY_LIMIT (R531). -/
def execReplayLimit (c : BitVec 7) (s : State) : Out :=
  if !coreOk c then .fault .noSuchUnit
  else
    match s.replayRec c.toNat with
    | none => .next s
    | some r =>
      match r.replaying with
      | none => .next s
      | some x =>
        if (s.cycle - r.replayCC).toNat < (s.word 1 0 0x30).toNat * 10 ^ 6 then .next s else .next (s.replayEnds c.toNat x 4)

/-! ### The crumb engine (R537, R539) -/

/-- The 272-byte entry of a block. -/
def crumbEntry (kind inst sc : Nat) (r : CrumbRead) : List Byte :=
  let (st, blk) := match r with
    | .stored b => ((0 : Byte), (b ++ List.replicate 256 0).take 256)
    | .unreadable q => (q, List.replicate 256 0)
  leBytes 1 kind ++ [st] ++ leBytes 2 inst ++ leBytes 4 sc ++ List.replicate 8 0 ++ blk

/-- The 256-byte head of a record. -/
def State.crumbHead (s : State) (j : CrumbJob) : List Byte :=
  leBytes 4 j.number ++ leBytes 1 j.cause ++ leBytes 1 j.domKind ++ leBytes 2 j.inst ++ leBytes 8 j.cc.toNat
    ++ leBytes 4 (s.word 0 0 0x104).toNat ++ leBytes 2 j.entries ++ leBytes 2 j.bad ++ leBytes 4 j.replay.toNat
    ++ (List.range 4).flatMap (fun x => leBytes 8 (j.stops.getD x 0)) ++ List.replicate 196 0

/-- A record is complete: it takes its place in the store, or finds every place locked (R539, R542). -/
def State.crumbDone (s : State) (j : CrumbJob) : State :=
  let w := s.sw
  let s := match s.crumbSlot with
    | none => s.setFlag 1 0 8 4
    | some i =>
      let r : CrumbRec := { number := j.number, cc := j.cc, bytes := s.crumbHead j ++ j.got ++ w.trail.flatten }
      let s : State := { s with sw := { s.sw with crumbs := w.crumbs.put i (some r) } }
      (s.count64 1 0 0x70 1).setFlagIf (j.bad != 0) 1 0 8 4
  { s with sw := { s.sw with job := w.jobs.head?, jobs := w.jobs.tail } }

/-- CRUMB_BLOCK_READ: the next block of the record is stored, or marked with the cause it could not be read. -/
def execCrumbBlockRead (r : CrumbRead) (s : State) : Out :=
  match s.sw.job with
  | none => .next s
  | some j =>
    match j.todo with
    | [] => .next (s.crumbDone j)
    | (kind, inst) :: rest =>
      let bad := match r with
        | .stored _ => 0
        | .unreadable _ => 1
      let j : CrumbJob := { j with todo := rest, got := j.got ++ crumbEntry kind inst ((s.cycle - j.cc).toNat / 4) r,
                                   entries := j.entries + 1, bad := j.bad + bad }
      let s : State := { s with sw := { s.sw with job := some j } }
      .next (if rest.isEmpty then s.crumbDone j else s)

/-! ### Heartbeats and takeover -/

/-- HEARTBEAT. -/
def execHeartbeat (s : State) : Out := .next { s with sw := { s.sw with beat := s.cycle } }

/-- cc since the last heartbeat. -/
def State.beatAge (s : State) : Nat := (s.cycle - s.sw.beat).toNat

/-- TAKEOVER: after 1,024 sc without a heartbeat, or when the active die reports its own fault; the new active die sends heartbeats from
then on (R534). -/
def execTakeover (why : TakeoverWhy) (s : State) : Out :=
  if !s.standbyReady || (why = .heartbeatLost && s.beatAge < 4096) then .next s
  else
    let s := s.takeover
    .next { s with sw := { s.sw with beat := s.cycle } }

/-- Every transmitter is squelched (R29, R305). -/
def State.squelchAll (s : State) : State :=
  let s : State := { s with boot := { s.boot with squelch := true } }
  (((List.range 16).foldl (fun s p => s.setTx (.sf (BitVec.ofNat 4 p)) false) s).setTx .hp false).setTx .fl false

/-- HEARTBEAT_LOSS_SILENCE: after 65,536 sc without a heartbeat the ports and memory-port dies fall silent until power is cycled (R535,
R580). -/
def execHeartbeatLossSilence (s : State) : Out :=
  if s.beatAge < 262144 then .next s
  else
    let s := s.squelchAll
    let s : State := { s with sw := { s.sw with silent := true }, boot := { s.boot with cause := 6, claimWait := false } }
    .next (s.setFld 0x20 0 0x14 4 4 1)

end Sys2Proof.Machine
end

