-- ==== Sys2Proof/Machine/Startup.lean ====
section
/-! DEFINITION. Start-up from power good to the host port (R548 to R553), the loss of the root PLL's lock (R29, R562), and the power pins
and input voltage (R579 to R582). `boot.stage` is the last stage of R548 that has begun. -/

namespace Sys2Proof.Machine

/-! ### Power on and off -/

/-- The module with every volatile thing at its value after cold start; the stores, the waiting commands and the counters of free values
and numbers go on. -/
def State.coldState (s : State) : State :=
  { ({} : State) with pending := s.pending, freeCtr := s.freeCtr, nextId := s.nextId, store := s.store }

/-- Power good may be declared: the converters are on and no start-up is under way or in service. A trip lasts until PWR_EN falls
(R586). -/
def Boot.mayStart (b : Boot) : Bool := b.pwrEn && (b.stage.isNone || b.cause == 5)

/-- POWER_GOOD: a cold start; both control dies leave reset and P1 begins. The cold starts since manufacture are counted (R564). -/
def execPowerGood (s : State) : Out :=
  if !s.boot.mayStart then .next s
  else .next { s.coldState with boot := { stage := some 1 }, store := { s.store with boots := s.store.boots + 1 } }

/-- PWR_EN_RISE: the converters turn on (R579). -/
def execPwrEnRise (s : State) : Out :=
  if s.boot.pwrEn then .next s else .next { s with boot := { s.boot with pwrEn := true, pgood := s.boot.inputOk && !s.boot.inputCut } }

/-- PWR_EN_FALL: the converters turn off, everything volatile is lost and a stop code clears (R579, R580). -/
def execPwrEnFall (s : State) : Out :=
  .next { s.coldState with boot := { pwrEn := false, pgood := false, inputOk := s.boot.inputOk, inputCut := s.boot.inputCut } }

/-- The input leaves its limits while the converters are on: every die is reset and the stop code holds (R580, R582). -/
def State.inputStop (s : State) (cut : Bool) : State :=
  if !s.boot.pwrEn then { s with boot := { s.boot with inputOk := false, inputCut := cut } }
  else { s.coldState with boot := { stage := s.boot.stage, cause := 5, pgood := false, inputOk := false, inputCut := cut, squelch := true } }

/-- INPUT_UNDERVOLTAGE. -/
def execInputUndervoltage (s : State) : Out := .next (s.inputStop s.boot.inputCut)

/-- INPUT_OVERVOLTAGE: the input is disconnected inside the module besides. -/
def execInputOvervoltage (s : State) : Out := .next (s.inputStop true)

/-! ### P1 to P3 -/

/-- The stage of start-up that runs, unless start-up has stopped. -/
def State.atStage (s : State) (p : Nat) : Bool := s.boot.stage == some p && s.boot.cause == 0

/-- ROOT_PLL_LOCK: CT_CYCLE starts at 0 and P2 begins (R30). -/
def execRootPllLock (s : State) : Out :=
  if !s.atStage 1 then .next s else .next { s with cycle := 0, boot := { s.boot with stage := some 2, pllLocked := true } }

/-- ROOT_OF_TRUST_SELFTEST: the active die is die 0, or die 1 when die 0 fails; a die that fails is held in reset. Both dies failing, or
the entropy source failing on the active die, stops the module (R549). -/
def execRootOfTrustSelftest (die0 die1 entropy : Bool) (s : State) : Out :=
  if !s.atStage 2 then .next s
  else if !die0 && !die1 then .next { s with boot := { s.boot with cause := 1 } }
  else if !entropy then .next { s with boot := { s.boot with cause := 2 } }
  else
    let s := (s.setFld 0 0 0x80 5 5 (b2n !die0)).setFld 0 0 0x80 6 6 (b2n (die0 && die1))
    .next { s with boot := { s.boot with stage := some 3 } }

/-- The slot's image. -/
def Store.slot (b : Store) (i : Nat) : List Byte := if i = 0 then b.slotA else b.slotB

/-- FIRMWARE_VERIFY: the preferred slot is tried first, then the other; the first image that verifies runs, or the module stops (R549,
R553). A slot that is not tried has the result 0. -/
def execFirmwareVerify (s : State) : Out :=
  if !s.atStage 3 then .next s
  else
    let p := s.store.preferred
    let q := 1 - p
    let floor := s.store.floor.toNat
    let rp := imgResult (s.store.slot p) floor
    let rq := if rp = 1 then 0 else imgResult (s.store.slot q) floor
    let b : Boot := { s.boot with resA := if p = 0 then rp else rq, resB := if p = 0 then rq else rp }
    if rp = 1 then .next { s with boot := { b with stage := some 4, slotRun := p, fallback := false, image := s.store.slot p } }
    else if rq = 1 then .next { s with boot := { b with stage := some 4, slotRun := q, fallback := true, image := s.store.slot q } }
    else .next { s with boot := { b with cause := 3 } }

/-! ### P4 and P5 -/

/-- A seed that no generator of `used` has: the free value of the entropy source, or, should that be 0 or taken, the smallest number that is
not (R140, R141; log 3). -/
def newSeed (used : List W64) (n : Nat) : W64 :=
  let v := Config.freeW64 n
  if v ≠ 0 && !used.contains v then v
  else (((List.range (used.length + 1)).map (fun k => BitVec.ofNat 64 (k + 1))).find? (fun k => !used.contains k)).getD 1

/-- `k` different seeds, the first from free value `n`. -/
def newSeeds (n : Nat) : Nat → List W64
  | 0 => []
  | k + 1 => let l := newSeeds n k; newSeed l (n + k) :: l

/-- Seed the generator of every engine, vector unit, mover and hive with a value of its own (R140, R141). -/
def State.seedAll (s : State) : State :=
  let l := newSeeds s.freeCtr 592
  let s : State := { s with freeCtr := s.freeCtr + 592 }
  let s := (List.range 384).foldl (fun s e => s.updEng (e / 4) (e % 4) (fun k => { k with seed := l.getD e 1 })) s
  let s := (List.range 96).foldl (fun s c => s.updCore c (fun k => { k with vuSeed := l.getD (384 + c) 1, mvSeed := l.getD (480 + c) 1 })) s
  (List.range 16).foldl (fun s h => s.updHive h (fun k => { k with seed := l.getD (576 + h) 1 })) s

/-- A permanently retired engine is absent from the sizes table from cold start on (R5, R510). -/
def State.absentEngine (s : State) (e : Nat) : State :=
  let c := e / 4
  let m := e % 4
  let s := s.setFld 0 0 (0x140 + 4 * (c / 8)) (4 * (c % 8) + m) (4 * (c % 8) + m) 0
  (s.setWord 0 0 0x10C (s.word 0 0 0x10C - 1)).updEng c m (fun k => { k with permanent := true })

/-- PACKAGE_BRINGUP: generators seeded, spare maps written, CT_SIZES formed (R548: P4; R176, R141, R510). -/
def execPackageBringup (engines : List EngineReport) (s : State) : Out :=
  if !s.atStage 4 then .next s
  else
    let s := s.seedAll
    let s := engines.foldl (fun s r => if r.eng < 384 then s.setWord 0x11 r.eng 0x18 (BitVec.ofNat 32 (bitsOf r.spare.toNat 17 0)) else s) s
    let s := ((List.range 384).filter (fun e => bitAt s.store.retire.toNat e)).foldl (fun s e => s.absentEngine e) s
    .next { s with boot := { s.boot with stage := some 5 } }

/-- HOST_PORT_START: HP is RUNNING with its transmitter on, and the command front end waits (R305, R324, R550). -/
def execHostPortStart (s : State) : Out :=
  if !s.atStage 5 then .next s
  else
    let s := (s.setFnState .hp fnRUNNING).enableTx .hp
    .next { s with boot := { s.boot with stage := some 6 }, hp := { s.hp with macOverride := s.store.hostMac } }

/-! ### Loss of lock (R29, R562) -/

/-- CLOCK_LOST: the claim ends, every transmitter is squelched, and the module domain is fenced with a record of its own cause; HP goes on
receiving. -/
def execClockLost (s : State) : Out :=
  if !s.boot.pllLocked then .next s
  else
    let s := s.endClaim.squelchAll
    let s : State := { s with boot := { s.boot with pllLocked := false, claimWait := true } }
    .next (if s.sw.recs.any (fun r => r.d == moduleDomain) then s.clockLostAgain moduleDomain
           else s.beginRecovery moduleDomain causeCLOCK_LOST none)

/-- ROOT_PLL_RELOCK: the transmitters stay squelched until a CLAIM is accepted, unless one was accepted before (R305, R562, log 30). -/
def execRootPllRelock (s : State) : Out :=
  if s.boot.pllLocked || !s.boot.claimWait then .next s
  else
    let s : State := { s with boot := { s.boot with pllLocked := true } }
    .next (if s.hp.claimant.isSome then s.unsquelch else s)

end Sys2Proof.Machine
end

