-- ==== Sys2Proof/Machine/Power.lean ====
section
/-! DEFINITION. The power controller (R583 to R590): the control window, the brake, leak and thermal limits, and the thermal trip. -/

namespace Sys2Proof.Machine

/-- BRAKE_N or LEAK_N is low. -/
def Pm.braking (p : Pm) : Bool := p.brakeLow || p.leakLow

/-- The effective limit L in W (R583). -/
def State.powerLimit (s : State) : Nat :=
  let l := s.fld 2 0 0 11 0
  let l := if s.pm.braking then min l (s.fld 2 0 0 27 16) else l
  if s.pm.thermal then min l s.pm.thermalW else l

/-- The slack level of the next window (R584). -/
def nextSlack (slack p l : Nat) : Nat := if l < p then min 255 (slack + 16) else if 100 * p < 98 * l then slack - 1 else slack

/-- The engines that are not clock-gated take their slack cycles of the window, both of a twin pair (R32, R182, R584). -/
def State.takeSlack (s : State) (slack : Nat) : State :=
  ((List.range 384).filter (fun i => !s.gated (i / 4) (i % 4))).foldl (fun s i => s.count64 0x11 i 0x68 (4 * slack)) s

/-- The measurements of the previous window show in PM_TEMP, PM_INPUT and PM_ENERGY_MJ. -/
def State.measured (s : State) (r : PowerRead) : State :=
  let s := s.setWord 2 0 0x0C (BitVec.ofNat 32 (r.dieMax.toNat * 2 ^ 24 + r.inlet.toNat * 2 ^ 16 + r.outlet.toNat * 2 ^ 8))
  let s := s.setWord 2 0 0x10 (BitVec.ofNat 32 (r.vinMv.toNat * 2 ^ 16 + r.watts.toNat))
  s.count64 2 0 0x40 r.energyMj.toNat

/-- P has exceeded L for 1 ms with the slack level at its maximum: LIMIT_UNMET, once for as long as it lasts (R584). -/
def State.noteUnmet (s : State) (exceeds : Bool) (slack : Nat) : State :=
  if !exceeds then { s with pm := { s.pm with unmet := none, told := false } }
  else
    let since := s.pm.unmet.getD s.cycle
    let now := !s.pm.told && slack == 255 && decide (10 ^ 6 ≤ (s.cycle - since).toNat)
    let s : State := { s with pm := { s.pm with unmet := some since, told := s.pm.told || now } }
    s.setFlagIf now 2 0 8 3

/-- PM_CONTROL_WINDOW: the controller reads P and L and sets the slack level of the window (R583 to R585). -/
def execPmControlWindow (r : PowerRead) (s : State) : Out :=
  let p := r.watts.toNat
  let s := s.measured r
  let s : State := if s.pm.thermal then { s with pm := { s.pm with thermalW := p * 95 / 100 } } else s
  let l := s.powerLimit
  let old := s.fld 2 0 4 31 24
  let new := nextSlack old p l
  let s := (s.setFld 2 0 4 31 24 new).setFld 2 0 4 11 0 l
  let s := s.setFlagIf (old == 0 && new != 0) 2 0 8 0
  .next ((s.noteUnmet (decide (l < p)) new).takeSlack new)

/-- THERMAL_LIMIT_BEGIN: the limit starts from the P of the last window (R585). -/
def execThermalLimitBegin (s : State) : Out :=
  if s.pm.thermal then .next s
  else
    let s : State := { s with pm := { s.pm with thermal := true, thermalW := s.fld 2 0 0x10 15 0 * 95 / 100 } }
    .next ((s.setFld 2 0 4 22 22 1).setFlag 2 0 8 2)

/-- THERMAL_LIMIT_END. -/
def execThermalLimitEnd (s : State) : Out :=
  let s : State := { s with pm := { s.pm with thermal := false } }
  .next (s.setFld 2 0 4 22 22 0)

/-- The pins BRAKE_N and LEAK_N take new levels: BRAKING follows, and BRAKE is set when the brake limit begins (R589, R590). -/
def State.setBrake (s : State) (brake leak : Bool) : State :=
  let was := s.pm.braking
  let s : State := { s with pm := { s.pm with brakeLow := brake, leakLow := leak } }
  (s.setFld 2 0 4 23 23 (b2n (brake || leak))).setFlagIf (!was && (brake || leak)) 2 0 8 1

/-- BRAKE_CHANGE. -/
def execBrakeChange (low : Bool) (s : State) : Out := .next (s.setBrake low s.pm.leakLow)

/-- LEAK: LEAK_N falls (R587). -/
def execLeak (s : State) : Out := .next ((s.setBrake s.pm.brakeLow true).setFlagIf (!s.pm.leakLow) 2 0 8 4)

/-- LEAK_CLEAR: LEAK_N is high again. -/
def execLeakClear (s : State) : Out := .next (s.setBrake s.pm.brakeLow false)

/-- THERMAL_TRIP: every die except the control dies is held in reset, every transmitter is squelched and THERMTRIP_N is low, until PWR_EN
falls or the input is removed (R586). The registers and stores of the control dies stay. -/
def execThermalTrip (s : State) : Out :=
  if s.boot.stage.isNone || s.boot.cause = 5 then .next s
  else
    .next { s.coldState with
      cycle := s.cycle, ctl := s.ctl.filter (fun e => e.1 < 3 * 2 ^ 28), csJob := s.csJob, fwJob := s.fwJob, pm := s.pm,
      sw := { s.sw with recs := [], stuck := [], hung := [], esc := [] },
      boot := { s.boot with cause := 4, thermtrip := true, squelch := true, claimWait := false } }

end Sys2Proof.Machine
end

