-- ==== Sys2Proof/Machine/TagOps.lean ====
section
/-! DEFINITION. Tag, scale and descriptor instructions (R91, R116, R208, R223). They complete at issue, and they are held while they name
a busy register. -/

namespace Sys2Proof.Machine

/-- A tag, scale or descriptor instruction on register `t` that R530 may make a stop point. -/
def tagOpStop (i : Iss) (illegal : Bool) (t : BitVec 5) (held : Instr) (s : State) (stop : Nat → Nat → Ctx → Bool)
    (body : Nat → Nat → Ctx → State) : Out :=
  issueStop i illegal s stop (fun c x k => if k.busyAny t.toNat then s.waitOn c x (.held held) else body c x k)

/-- A tag, scale or descriptor instruction on register `t`: held while the register is busy (R91), else `body`. -/
def tagOp (i : Iss) (illegal : Bool) (t : BitVec 5) (held : Instr) (s : State) (body : Nat → Nat → Ctx → State) : Out :=
  tagOpStop i illegal t held s (fun _ _ _ => false) body

/-- KINDs 0 to 12 and OPs 0 to 8 are defined (R58). -/
def kindReserved (k : Nat) : Bool := 12 < k
def opReserved (o : Nat) : Bool := 8 < o

/-- TAG.SET: the fields that the mask selects, and CLRF (R116). -/
def tagSetFields (t : Tag) (v : W64) (mask : BitVec 4) (clrf : Bool) : Tag :=
  let t := if mask.getLsbD 0 then { t with layer := v.setWidth 16 } else t
  let t := if mask.getLsbD 1 then { t with group := BitVec.ofNat 12 (bitsOf v.toNat 27 16) } else t
  let t := if mask.getLsbD 2 then { t with op := BitVec.ofNat 4 (bitsOf v.toNat 31 28) } else t
  let t := if mask.getLsbD 3 then { t with kind := BitVec.ofNat 4 (bitsOf v.toNat 35 32) } else t
  if clrf then { t with flags := 0, count := 1 } else t

/-- TAG.SET. STEP and ROUND stay as they are: the tag unit fills them when a block is produced (R59). TRES is written anew. -/
def execTagSet (i : Iss) (tn : BitVec 5) (sa : BitVec 6) (mask : BitVec 4) (clrf : Bool) (s : State) : Out :=
  tagOp i false tn (.tagSet i tn sa mask clrf) s (fun c x k =>
    let v := k.sreg sa.toNat
    if (mask.getLsbD 3 && kindReserved (bitsOf v.toNat 35 32)) || (mask.getLsbD 2 && opReserved (bitsOf v.toNat 31 28)) then
      s.halt c x rsBAD_TAG
    else (s.updTag c x tn.toNat (fun t => sealTag (tagSetFields t v mask clrf))).advance c x)

/-- TAG.GET: half of a tag. -/
def execTagGet (i : Iss) (tn : BitVec 5) (sd : BitVec 6) (half : Bool) (s : State) : Out :=
  tagOp i false tn (.tagGet i tn sd half) s (fun c x k =>
    let b := tagBits (k.treg tn.toNat).tag
    (s.updCtx c x (fun k => k.setSreg sd.toNat (BitVec.ofNat 64 (if half then b / 2 ^ 64 else b)))).advance c x)

/-- TDESC.LD: descriptor and tag from 48 bytes; STEP, ROUND and TRES in memory are ignored: STEP and ROUND keep the register's
values, and reserved bits read as 0 (R87, R116). -/
def execTdescLd (i : Iss) (tn : BitVec 5) (sa : BitVec 6) (s : State) : Out :=
  tagOp i false tn (.tdescLd i tn sa) s (fun c x k =>
    let a := (k.sreg sa.toNat).toNat
    let bs := s.readMem a 48
    let t := tagOfBytes (bs.drop 32)
    let r := s.accessReason a 48
    if r ≠ 0 then s.halt c x r
    else if kindReserved t.kind.toNat || opReserved t.op.toNat then s.halt c x rsBAD_TAG
    else
      let old := (k.treg tn.toNat).tag
      let v : TReg := { d := tdescOfBits (leNat (bs.take 32)), tag := sealTag { t with step := old.step, round := old.round } }
      ((s.updCtx c x (fun k => k.setTreg tn.toNat v)).noteUe a 48).advance c x)

/-- TDESC.ST: the same 48 bytes. -/
def execTdescSt (i : Iss) (tn : BitVec 5) (sa : BitVec 6) (s : State) : Out :=
  tagOpStop i false tn (.tdescSt i tn sa) s (fun c _ k => foreignAddr c (k.sreg sa.toNat).toNat) (fun c x k =>
    let a := (k.sreg sa.toNat).toNat
    let v := k.treg tn.toNat
    let r := s.accessReason a 48
    if r ≠ 0 then s.halt c x r
    else (s.writeMem a (leBytes 32 (tdescBits v.d) ++ tagBytes v.tag)).advance c x)

/-- One field of a descriptor (R116). DESIGN CHOICE (log 72): field 4 takes FMT from bits 2 to 0 of the value and BSCALE from bit 3. -/
def setField (d : TDesc) (field : Nat) (v : W64) : TDesc :=
  match field with
  | 0 => { d with base := v }
  | 1 => { d with rows := v.setWidth 24 }
  | 2 => { d with cols := v.setWidth 24 }
  | 3 => { d with rstride := v.setWidth 32 }
  | 4 => { d with fmt := v.setWidth 3, bscale := v.getLsbD 3 }
  | 5 => { d with slot := v.setWidth 12 }
  | 6 => { d with scale := v.setWidth 8 }
  | 7 => { d with pieceRows := v.setWidth 16 }
  | 8 => { d with arrBase := v.setWidth 12 }
  | _ => { d with scaleOff := v.setWidth 32 }

/-- TDESC.SETF; fields 10 to 15 are ILLEGAL. -/
def execTdescSetf (i : Iss) (tn : BitVec 5) (sa : BitVec 6) (field : BitVec 4) (s : State) : Out :=
  tagOp i (10 ≤ field.toNat) tn (.tdescSetf i tn sa field) s (fun c x k =>
    let v := k.treg tn.toNat
    (s.updCtx c x (fun k => k.setTreg tn.toNat { v with d := setField v.d field.toNat (k.sreg sa.toNat) })).advance c x)

/-- The slot that SCALE.RD and SCALE.MARK name exists (R116, R208). -/
def State.slotNamed (s : State) (c : Nat) (d : TDesc) : Bool := d.slot != 0xFFF && s.slotOk c d

/-- SCALE.RD: the slot's state word. -/
def execScaleRd (i : Iss) (tn : BitVec 5) (sd : BitVec 6) (s : State) : Out :=
  tagOp i false tn (.scaleRd i tn sd) s (fun c x k =>
    let d := (k.treg tn.toNat).d
    if !s.slotNamed c d then s.halt c x rsBAD_OPERAND
    else ((s.readSlot c d.slot.toNat).updCtx c x (fun k => k.setSreg sd.toNat (BitVec.ofNat 64 (s.slotWord c d.slot.toNat)))).advance c x)

/-- SCALE.MARK: the slot becomes MARKED in any MODE (R223). -/
def execScaleMark (i : Iss) (tn : BitVec 5) (s : State) : Out :=
  tagOp i false tn (.scaleMark i tn) s (fun c x k =>
    let d := (k.treg tn.toNat).d
    if !s.slotNamed c d then s.halt c x rsBAD_OPERAND
    else ((s.readSlot c d.slot.toNat).setSlotFld c d.slot.toNat 14 13 slMARKED).advance c x)

end Sys2Proof.Machine
end

