-- ==== Sys2Proof/Machine/Sync.lean ====
section
/-! DEFINITION. Synchronisation instructions (R91, R96, R97, R114, R115, R274) and the events that end their waits. FENCE.STEP stands with
the knock-back. -/

namespace Sys2Proof.Machine

/-- The last bit of a range and whether it passes bit 4,095 (R114). -/
def rangeLast (first cntM1 : BitVec 12) : Nat := first.toNat + cntM1.toNat
def rangeBad (first cntM1 : BitVec 12) : Bool := 4095 < rangeLast first cntM1

/-- A WAIT.ARR on a bit that is not set and that no operation of the replayed context owns (R530). -/
def stopUnowned (s : State) (first cntM1 : BitVec 12) (c _x : Nat) (k : Ctx) : Bool :=
  let q := s.core c
  (List.range (rangeLast first cntM1 + 1 - first.toNat)).any (fun i =>
    let b := first.toNat + i
    !q.arrBit b && !k.outst.any (fun o => o.id == Tbl.get 0 q.arrPend b))

/-- WAIT.ARR: wait until every bit of the range is set. -/
def execWaitArr (i : Iss) (first cntM1 : BitVec 12) (s : State) : Out :=
  issueStop i false s (stopUnowned s first cntM1) (fun c x _ =>
    if rangeBad first cntM1 then s.halt c x rsBAD_OPERAND
    else if (s.core c).arrAll first.toNat (rangeLast first cntM1) then s.advance c x
    else s.waitOn c x (.arr first.toNat (rangeLast first cntM1)))

/-- WAIT_ARR_SATISFIED: the last bit of the range is set. -/
def execWaitArrSatisfied (c : BitVec 7) (x : BitVec 2) (s : State) : Out :=
  if !coreOk c then .fault .noSuchUnit
  else
    match (s.ctx c.toNat x.toNat).wait with
    | .arr f l =>
      if (s.core c.toNat).arrAll f l then .next ((s.wake c.toNat x.toNat).advance c.toNat x.toNat) else .next s
    | _ => .next s

/-- ARR.CLR: clear every bit of the range; a pending bit halts with ARR_BUSY (R97). -/
def execArrClr (i : Iss) (first cntM1 : BitVec 12) (s : State) : Out :=
  issue i false s (fun c x _ =>
    let l := rangeLast first cntM1
    let r := firstNonzero [chk ((s.core c).anyPending first.toNat l) rsARR_BUSY, chk (rangeBad first cntM1) rsBAD_OPERAND]
    if r ≠ 0 then s.halt c x r
    else (s.updCore c (fun k => k.arrClr s.cycle first.toNat l)).advance c x)

/-- No register of a mask is busy (R91). -/
def Ctx.freeAll (k : Ctx) (mask : W32) : Bool := (List.range 32).all (fun t => !(mask.getLsbD t && k.busyAny t))

/-- WAIT.T: wait until no selected tensor register is busy. -/
def execWaitT (i : Iss) (sa : BitVec 6) (s : State) : Out :=
  issue i false s (fun c x k =>
    let m : W32 := (k.sreg sa.toNat).setWidth 32
    if k.freeAll m then s.advance c x else s.waitOn c x (.tregs m))

/-- A held message belongs to the block that a WAIT.MSG has begun to take, or may begin one. -/
def RxTake.has (t : Option RxTake) (b : Block) : Bool :=
  match t with
  | none => true
  | some t => b.desc.srcModule.toNat == t.src && b.desc.srcSite.toNat == t.site && b.desc.shard.toNat == t.shard && b.tag == t.tag

/-- The oldest message of the receive area held for a context, of the block it is taking. -/
def Core.rxFor (q : Core) (x : Nat) (t : Option RxTake) : Option RxBlk := q.rx.find? (fun b => b.x == x && RxTake.has t b.blk)

/-- The bytes that every message of a block but its last carries: 65,520 behind the tunnel header of another site (R111). -/
def State.fragBytes (s : State) (b : Block) : Nat := if b.desc.srcSite = s.siteId then 65536 else 65520

/-- How many bytes the block of a message holds in all (log 77): a message shorter than the rest is its last; EXTENT, FMT and TD's block
scales tell otherwise. -/
def State.blockBytesOf (s : State) (d : TDesc) (b : Block) : Nat :=
  if b.payload.length < s.fragBytes b then b.desc.frag.toNat * s.fragBytes b + b.payload.length
  else cdiv (b.desc.extent.toNat * fmtBits (if tagOk b.tag then b.tag.fmt else d.fmt).toNat) 8 + (if d.bscale then d.rows.toNat * cdiv d.cols.toNat 32 else 0)

/-- WAIT.MSG takes a message of a block: it is written as it arrived, at its place from TD.BASE on, and the area is freed (R111, R274).
With the last byte of the block its tag replaces TD's, and the context goes on (R114). -/
def State.takeMsg (s : State) (c x : Nat) (td : BitVec 5) (b : RxBlk) : State :=
  let d := ((s.ctx c x).treg td.toNat).d
  let a := d.base.toNat + b.blk.desc.frag.toNat * s.fragBytes b.blk
  let r := s.accessReason a b.blk.payload.length
  if r ≠ 0 then s.halt c x r
  else
    let got := (match (s.ctx c x).taking with
      | some t => t.got
      | none => 0) + b.blk.payload.length
    let s := (s.writeMem a b.blk.payload).updCore c (fun k => { k with rx := k.rx.erase b })
    if s.blockBytesOf d b.blk ≤ got then
      (((s.updTag c x td.toNat (fun _ => b.blk.tag)).updCtx c x (fun k => { k with taking := none })).wake c x).advance c x
    else
      let e := b.blk.desc
      let t : RxTake := { src := e.srcModule.toNat, site := e.srcSite.toNat, shard := e.shard.toNat, tag := b.blk.tag, got := got }
      (s.updCtx c x (fun k => { k with taking := some t })).waitOn c x (.msg td)

/-- WAIT.MSG: TD may not lie in space 0 (R594), nor give block scales to a format that takes none (R128). -/
def execWaitMsg (i : Iss) (td : BitVec 5) (s : State) : Out :=
  issueStop i false s stopAlways (fun c x k =>
    let d := (k.treg td.toNat).d
    let r := firstNonzero [chk (inControl d) rsOPERAND_SPACE, fmtReason [d]]
    if k.holds [td.toNat] [] then s.waitOn c x (.held (.waitMsg i td))
    else if r ≠ 0 then s.halt c x r
    else
      match (s.core c).rxFor x k.taking with
      | some b => s.takeMsg c x td b
      | none => s.waitOn c x (.msg td))

/-- WAIT_MSG_ARRIVAL: a block addressed to the waiting context is there. -/
def execWaitMsgArrival (c : BitVec 7) (x : BitVec 2) (s : State) : Out :=
  if !coreOk c then .fault .noSuchUnit
  else
    match (s.ctx c.toNat x.toNat).wait, (s.core c.toNat).rxFor x.toNat (s.ctx c.toNat x.toNat).taking with
    | .msg td, some b => .next (s.takeMsg c.toNat x.toNat td b)
    | _, _ => .next s

/-- SIGNAL: offer the command at SA to another context's queue and wait for the decision (R114, R115). -/
def execSignal (i : Iss) (f : SignalF) (s : State) : Out :=
  issueStop i false s stopAlways (fun c x k =>
    let a := (k.sreg f.sa.toNat).toNat
    let r := firstNonzero [s.accessReason a 64, chk (96 ≤ f.core.toNat) rsBAD_OPERAND]
    if r ≠ 0 then s.halt c x r
    else ((s.noteUe a 64).waitOn c x (.signal f.pd)).offer f.core.toNat f.ctx.toNat (.signal c x k.cmdNo) (cmdOfBytes (s.readMem a 64)))

/-- SIGNAL_DECISION: PD is 1 when the command was admitted; a refusal's reason goes to LAST_REASON (R115). -/
def execSignalDecision (c : BitVec 7) (x : BitVec 2) (s : State) : Out :=
  if !coreOk c then .fault .noSuchUnit
  else
    let k := s.ctx c.toNat x.toNat
    match k.wait, k.decision with
    | .signal pd, some r =>
      let s := s.updCtx c.toNat x.toNat (fun k =>
        let k := { k.setPred pd.toNat (r == 0) with decision := none }
        if r = 0 then k else { k with lastReason := BitVec.ofNat 16 r })
      .next ((s.wake c.toNat x.toNat).advance c.toNat x.toNat)
    | _, _ => .next s

/-- NOP. -/
def execNop (i : Iss) (s : State) : Out := issue i false s (fun c x _ => s.advance c x)

end Sys2Proof.Machine
end

