-- ==== Sys2Proof/Machine/Release.lean ====
section
/-! DEFINITION. The end of a tensor register's busy state (R91): the instruction held on it issues. -/

namespace Sys2Proof.Machine

/-- Issue a held instruction again, with its checks made anew; it is held again while a register it names is still busy. -/
def reissue (i : Instr) (s : State) : Out :=
  match i with
  | .loads i f => execLoads i f s
  | .stream i f => execStream i f s
  | .drain i f => execDrain i f s
  | .tile16Mma i f => execTile16Mma i f s
  | .tile32Mma i f => execTile32Mma i f s
  | .vop i f => execVop i f s
  | .move i f => execMove i f s
  | .stash i f => execStash i f s
  | .fetch i f => execFetch i f s
  | .coll i f => execColl i f s
  | .send i f => execSend i f s
  | .waitMsg i td => execWaitMsg i td s
  | .tagSet i tn sa mask clrf => execTagSet i tn sa mask clrf s
  | .tagGet i tn sd half => execTagGet i tn sd half s
  | .tdescLd i tn sa => execTdescLd i tn sa s
  | .tdescSt i tn sa => execTdescSt i tn sa s
  | .tdescSetf i tn sa field => execTdescSetf i tn sa field s
  | .scaleRd i tn sd => execScaleRd i tn sd s
  | .scaleMark i tn => execScaleMark i tn s
  | _ => .next s

/-- INTERLOCK_RELEASE at a context: the held instruction issues, or WAIT.T's wait ends. A context whose command has used up MAX_CC, or
whose core serves nothing, issues no more. -/
def execInterlockRelease (c : BitVec 7) (x : BitVec 2) (s : State) : Out :=
  if !coreOk c then .fault .noSuchUnit
  else
    let cn := c.toNat
    let xn := x.toNat
    let k := s.ctx cn xn
    if k.run.isNone || !s.coreServes cn || s.overran k then .next s
    else
      match k.wait with
      | .held i =>
        match reissue i (s.wake cn xn) with
        | .next t => .next t
        | _ => .next s
      | .tregs m => if k.freeAll m then .next ((s.wake cn xn).advance cn xn) else .next s
      | _ => .next s

end Sys2Proof.Machine
end

