-- ==== Sys2Proof/Machine/Stores.lean ====
section
/-! DEFINITION. ST (R98): a store to memory or to a control register. -/

namespace Sys2Proof.Machine

/-- A word of an access is an xx_CMD, whose refused command does not halt the context (R54). -/
def touchesCmd (a n : Nat) : Bool :=
  let (b, i, o) := ctlParts a
  (cmdFn b i o).isSome || (n = 8 && (cmdFn b i (o + 4)).isSome)

/-- A store of `n` bytes of `v` at a control-space address by a context: the reason that halts it, and the state after (R53, R54). -/
def State.stControl (s : State) (w : Writer) (a n v : Nat) : Nat × State :=
  let (r, t) := s.ctlWrite w a n v
  if r ≠ 0 && s.ctlRefusal w a n v = 0 && touchesCmd a n then (0, t) else (r, t)

/-- ST: 8 or 4 bytes of SB at SA + IMM; I = 1 is ILLEGAL (R98, R119). -/
def execSt (i : Iss) (w4 immed : Bool) (sa sb : BitVec 6) (imm : W32) (s : State) : Out :=
  issueStop i immed s (fun c _ k => foreignAddr c (lsAddr k sa imm)) (fun c x k =>
    let a := lsAddr k sa imm
    let n := lsWidth w4
    let v := (k.sreg sb.toNat).toNat % 2 ^ (8 * n)
    if a % n ≠ 0 then s.halt c x rsMISALIGNED
    else if spaceOf a = 0 then
      let (r, t) := s.stControl (.ctx i.core i.ctx) a n v
      if r = 0 then t.advance c x else t.halt c x r
    else if s.accessReason a n ≠ 0 then s.halt c x (s.accessReason a n)
    else (s.writeNat a n v).advance c x)

end Sys2Proof.Machine
end

