-- ==== Sys2Proof/Machine/Dispatch.lean ====
section
/-! DEFINITION. The dispatcher: one arm for each command of the table, each a direct call of its meaning. -/

namespace Sys2Proof.Machine

/-- The effect of a command on everything but the queue. -/
def exec (i : Instr) (s : State) : Host.Outcome State Fault Refusal :=
  match i with
  | .registerWrite w addr wide val => Sys2Proof.Machine.execRegisterWrite w addr wide val s
  | .w1cFlagClear w addr val setNow => Sys2Proof.Machine.execW1cFlagClear w addr val setNow s
  | .ctrReset w addr => Sys2Proof.Machine.execCtrReset w addr s
  | .config w f => Sys2Proof.Machine.execConfig w f s
  | .start w f => Sys2Proof.Machine.execStart w f s
  | .stop w f => Sys2Proof.Machine.execStop w f s
  | .stopDrainComplete f => Sys2Proof.Machine.execStopDrainComplete f s
  | .msTrainingComplete r => Sys2Proof.Machine.execMsTrainingComplete r s
  | .clockLost => Sys2Proof.Machine.execClockLost s
  | .rootPllRelock => Sys2Proof.Machine.execRootPllRelock s
  | .commandAdmission c x => Sys2Proof.Machine.execCommandAdmission c x s
  | .commandStart c x => Sys2Proof.Machine.execCommandStart c x s
  | .overrunStopped c x => Sys2Proof.Machine.execOverrunStopped c x s
  | .illegalInstruction c x word => Sys2Proof.Machine.execIllegalInstruction c x word s
  | .add iss sd sa b => Sys2Proof.Machine.execAdd iss sd sa b s
  | .sub iss sd sa b => Sys2Proof.Machine.execSub iss sd sa b s
  | .mul iss sd sa b => Sys2Proof.Machine.execMul iss sd sa b s
  | .and iss sd sa b => Sys2Proof.Machine.execAnd iss sd sa b s
  | .or iss sd sa b => Sys2Proof.Machine.execOr iss sd sa b s
  | .xor iss sd sa b => Sys2Proof.Machine.execXor iss sd sa b s
  | .shl iss sd sa b => Sys2Proof.Machine.execShl iss sd sa b s
  | .shr iss sd sa b => Sys2Proof.Machine.execShr iss sd sa b s
  | .sra iss sd sa b => Sys2Proof.Machine.execSra iss sd sa b s
  | .li iss sd imm => Sys2Proof.Machine.execLi iss sd imm s
  | .lih iss sd imm => Sys2Proof.Machine.execLih iss sd imm s
  | .cmp iss pd cond sa b => Sys2Proof.Machine.execCmp iss pd cond sa b s
  | .ld iss w4 sd sa imm => Sys2Proof.Machine.execLd iss w4 sd sa imm s
  | .st iss w4 immed sa sb imm => Sys2Proof.Machine.execSt iss w4 immed sa sb imm s
  | .getcc iss sd => Sys2Proof.Machine.execGetcc iss sd s
  | .getid iss sd => Sys2Proof.Machine.execGetid iss sd s
  | .br iss imm => Sys2Proof.Machine.execBr iss imm s
  | .jr iss sa => Sys2Proof.Machine.execJr iss sa s
  | .endCmd iss => Sys2Proof.Machine.execEnd iss s
  | .endComplete c x => Sys2Proof.Machine.execEndComplete c x s
  | .loads iss f => Sys2Proof.Machine.execLoads iss f s
  | .stream iss f => Sys2Proof.Machine.execStream iss f s
  | .drain iss f => Sys2Proof.Machine.execDrain iss f s
  | .engSeed iss sreg eng => Sys2Proof.Machine.execEngSeed iss sreg eng s
  | .engineInstrStart c m => Sys2Proof.Machine.execEngineInstrStart c m s
  | .prepassSecondSweep c m chk => Sys2Proof.Machine.execPrepassSecondSweep c m chk s
  | .loadsComplete c m => Sys2Proof.Machine.execLoadsComplete c m s
  | .streamComplete c m chk => Sys2Proof.Machine.execStreamComplete c m chk s
  | .drainComplete c m chk => Sys2Proof.Machine.execDrainComplete c m chk s
  | .tasterCompare c m => Sys2Proof.Machine.execTasterCompare c m s
  | .vop iss f => Sys2Proof.Machine.execVop iss f s
  | .vopComplete c => Sys2Proof.Machine.execVopComplete c s
  | .move iss f => Sys2Proof.Machine.execMove iss f s
  | .moveComplete c => Sys2Proof.Machine.execMoveComplete c s
  | .stash iss f => Sys2Proof.Machine.execStash iss f s
  | .stashComplete c => Sys2Proof.Machine.execStashComplete c s
  | .fetch iss f => Sys2Proof.Machine.execFetch iss f s
  | .fetchComplete c => Sys2Proof.Machine.execFetchComplete c s
  | .coll iss f => Sys2Proof.Machine.execColl iss f s
  | .collHoldRelease c x => Sys2Proof.Machine.execCollHoldRelease c x s
  | .send iss f => Sys2Proof.Machine.execSend iss f s
  | .fenceStep iss => Sys2Proof.Machine.execFenceStep iss s
  | .waitArr iss first cntM1 => Sys2Proof.Machine.execWaitArr iss first cntM1 s
  | .waitArrSatisfied c x => Sys2Proof.Machine.execWaitArrSatisfied c x s
  | .arrClr iss first cntM1 => Sys2Proof.Machine.execArrClr iss first cntM1 s
  | .waitT iss sa => Sys2Proof.Machine.execWaitT iss sa s
  | .interlockRelease c x => Sys2Proof.Machine.execInterlockRelease c x s
  | .waitMsg iss td => Sys2Proof.Machine.execWaitMsg iss td s
  | .waitMsgArrival c x => Sys2Proof.Machine.execWaitMsgArrival c x s
  | .signal iss f => Sys2Proof.Machine.execSignal iss f s
  | .signalDecision c x => Sys2Proof.Machine.execSignalDecision c x s
  | .nop iss => Sys2Proof.Machine.execNop iss s
  | .tagSet iss tn sa mask clrf => Sys2Proof.Machine.execTagSet iss tn sa mask clrf s
  | .tagGet iss tn sd half => Sys2Proof.Machine.execTagGet iss tn sd half s
  | .tdescLd iss tn sa => Sys2Proof.Machine.execTdescLd iss tn sa s
  | .tdescSt iss tn sa => Sys2Proof.Machine.execTdescSt iss tn sa s
  | .tdescSetf iss tn sa field => Sys2Proof.Machine.execTdescSetf iss tn sa field s
  | .scaleRd iss tn sd => Sys2Proof.Machine.execScaleRd iss tn sd s
  | .scaleMark iss tn => Sys2Proof.Machine.execScaleMark iss tn s
  | .tile16Mma iss f => Sys2Proof.Machine.execTile16Mma iss f s
  | .tile32Mma iss f => Sys2Proof.Machine.execTile32Mma iss f s
  | .engineMapWrite w c val => Sys2Proof.Machine.execEngineMapWrite w c val s
  | .sqSlotInit w c val => Sys2Proof.Machine.execSqSlotInit w c val s
  | .tasteNWrite w c n => Sys2Proof.Machine.execTasteNWrite w c n s
  | .knockbackK1CoreDrain => Sys2Proof.Machine.execKnockbackK1CoreDrain s
  | .knockbackK2FabricDrain => Sys2Proof.Machine.execKnockbackK2FabricDrain s
  | .knockbackK3HiveDrain => Sys2Proof.Machine.execKnockbackK3HiveDrain s
  | .knockbackK4BaseInstall => Sys2Proof.Machine.execKnockbackK4BaseInstall s
  | .knockbackK5Advance => Sys2Proof.Machine.execKnockbackK5Advance s
  | .knockbackK6Open => Sys2Proof.Machine.execKnockbackK6Open s
  | .driftHoldRepeat => Sys2Proof.Machine.execDriftHoldRepeat s
  | .scrubRead addr r passEnds => Sys2Proof.Machine.execScrubRead addr r passEnds s
  | .refresh ch bank shortened => Sys2Proof.Machine.execRefresh ch bank shortened s
  | .mainMemoryBurst ch cls behindFetch addr r => Sys2Proof.Machine.execMainMemoryBurst ch cls behindFetch addr r s
  | .portLinkUp p lanes anDone => Sys2Proof.Machine.execPortLinkUp p lanes anDone s
  | .portLinkDown p lanes => Sys2Proof.Machine.execPortLinkDown p lanes s
  | .hostFrameReceive m => Sys2Proof.Machine.execHostFrameReceive m s
  | .claim m => Sys2Proof.Machine.execClaim m s
  | .release m => Sys2Proof.Machine.execRelease m s
  | .hostWrite m => Sys2Proof.Machine.execHostWrite m s
  | .hostRead m => Sys2Proof.Machine.execHostRead m s
  | .doorbell m => Sys2Proof.Machine.execDoorbell m s
  | .query m => Sys2Proof.Machine.execQuery m s
  | .attest m => Sys2Proof.Machine.execAttest m s
  | .relay m => Sys2Proof.Machine.execRelay m s
  | .tunnelledHostMessage b => Sys2Proof.Machine.execTunnelledHostMessage b s
  | .relayResponseForward b => Sys2Proof.Machine.execRelayResponseForward b s
  | .neighbourSolicitation p target => Sys2Proof.Machine.execNeighbourSolicitation p target s
  | .claimLapsed => Sys2Proof.Machine.execClaimLapsed s
  | .eventResend => Sys2Proof.Machine.execEventResend s
  | .sfCreqReceive p f => Sys2Proof.Machine.execSfCreqReceive p f s
  | .sfGrant p => Sys2Proof.Machine.execSfGrant p s
  | .sfCgntReceive p f => Sys2Proof.Machine.execSfCgntReceive p f s
  | .sfCrefReceive p f => Sys2Proof.Machine.execSfCrefReceive p f s
  | .sfDataReceive p f => Sys2Proof.Machine.execSfDataReceive p f s
  | .sfDackReceive p f => Sys2Proof.Machine.execSfDackReceive p f s
  | .sfDnakReceive p f => Sys2Proof.Machine.execSfDnakReceive p f s
  | .sfForeignFrame p why => Sys2Proof.Machine.execSfForeignFrame p why s
  | .sfRetransmitTimeout p reqId => Sys2Proof.Machine.execSfRetransmitTimeout p reqId s
  | .grantReclaimed p grantId => Sys2Proof.Machine.execGrantReclaimed p grantId s
  | .pfcPauseReceive p => Sys2Proof.Machine.execPfcPauseReceive p s
  | .collMessageReceive g m => Sys2Proof.Machine.execCollMessageReceive g m s
  | .collComplete g cseq => Sys2Proof.Machine.execCollComplete g cseq s
  | .collDeadlineExpiry g cseq => Sys2Proof.Machine.execCollDeadlineExpiry g cseq s
  | .collForwardWindowExpiry g cseq => Sys2Proof.Machine.execCollForwardWindowExpiry g cseq s
  | .ringHopExpiry g cseq => Sys2Proof.Machine.execRingHopExpiry g cseq s
  | .bypassReceive g cseq sender skipped => Sys2Proof.Machine.execBypassReceive g cseq sender skipped s
  | .holdReceive g cseq origin => Sys2Proof.Machine.execHoldReceive g cseq origin s
  | .mismatchNoticeReceive g cseq index field => Sys2Proof.Machine.execMismatchNoticeReceive g cseq index field s
  | .stateFetchComplete h shard => Sys2Proof.Machine.execStateFetchComplete h shard s
  | .parkedGradientQueue h shard => Sys2Proof.Machine.execParkedGradientQueue h shard s
  | .hiveUpdate h => Sys2Proof.Machine.execHiveUpdate h s
  | .hiveUpdateComplete h => Sys2Proof.Machine.execHiveUpdateComplete h s
  | .roundEncode => Sys2Proof.Machine.execRoundEncode s
  | .deltaMerge b => Sys2Proof.Machine.execDeltaMerge b s
  | .mergeClose span => Sys2Proof.Machine.execMergeClose span s
  | .mergeWaitExpiry span => Sys2Proof.Machine.execMergeWaitExpiry span s
  | .baseMessageReceive b => Sys2Proof.Machine.execBaseMessageReceive b s
  | .refreshRequestReceive b => Sys2Proof.Machine.execRefreshRequestReceive b s
  | .fgRefresh w val => Sys2Proof.Machine.execFgRefresh w val s
  | .joinTableReceive r => Sys2Proof.Machine.execJoinTableReceive r s
  | .gatewayRetryTimer => Sys2Proof.Machine.execGatewayRetryTimer s
  | .flEgressAdmit => Sys2Proof.Machine.execFlEgressAdmit s
  | .cdxDataReceive f => Sys2Proof.Machine.execCdxDataReceive f s
  | .cdxAckReceive f => Sys2Proof.Machine.execCdxAckReceive f s
  | .cdxNakReceive f => Sys2Proof.Machine.execCdxNakReceive f s
  | .cdxProbeReceive f => Sys2Proof.Machine.execCdxProbeReceive f s
  | .cdxProbeEchoReceive f => Sys2Proof.Machine.execCdxProbeEchoReceive f s
  | .cdxForeignFrame why => Sys2Proof.Machine.execCdxForeignFrame why s
  | .ackTimer => Sys2Proof.Machine.execAckTimer s
  | .fragmentOverdue fseq => Sys2Proof.Machine.execFragmentOverdue fseq s
  | .fragmentRtoExpiry fseq => Sys2Proof.Machine.execFragmentRtoExpiry fseq s
  | .linkDead => Sys2Proof.Machine.execLinkDead s
  | .probeTimer => Sys2Proof.Machine.execProbeTimer s
  | .sessionDead => Sys2Proof.Machine.execSessionDead s
  | .helloTimer => Sys2Proof.Machine.execHelloTimer s
  | .helloReceive f => Sys2Proof.Machine.execHelloReceive f s
  | .finishReceive f => Sys2Proof.Machine.execFinishReceive f s
  | .keyRollover => Sys2Proof.Machine.execKeyRollover s
  | .rxKeyDerive => Sys2Proof.Machine.execRxKeyDerive s
  | .keyctlNextKey w => Sys2Proof.Machine.execKeyctlNextKey w s
  | .keyctlRekey w => Sys2Proof.Machine.execKeyctlRekey w s
  | .replay c m => Sys2Proof.Machine.execReplay c m s
  | .replayComplete c m r => Sys2Proof.Machine.execReplayComplete c m r s
  | .retirementRest c m => Sys2Proof.Machine.execRetirementRest c m s
  | .twinWrite w c m on => Sys2Proof.Machine.execTwinWrite w c m on s
  | .swarmScan => Sys2Proof.Machine.execSwarmScan s
  | .recoveryDrainStart d => Sys2Proof.Machine.execRecoveryDrainStart d s
  | .recoveryDrainEnd d => Sys2Proof.Machine.execRecoveryDrainEnd d s
  | .resetEnd d => Sys2Proof.Machine.execResetEnd d s
  | .coreIsolatedReplay c => Sys2Proof.Machine.execCoreIsolatedReplay c s
  | .replayLimit c => Sys2Proof.Machine.execReplayLimit c s
  | .heartbeat => Sys2Proof.Machine.execHeartbeat s
  | .takeover why => Sys2Proof.Machine.execTakeover why s
  | .heartbeatLossSilence => Sys2Proof.Machine.execHeartbeatLossSilence s
  | .swCmdRecover w d => Sys2Proof.Machine.execSwCmdRecover w d s
  | .swCmdRecord w d => Sys2Proof.Machine.execSwCmdRecord w d s
  | .swCmdTakeover w => Sys2Proof.Machine.execSwCmdTakeover w s
  | .powerGood => Sys2Proof.Machine.execPowerGood s
  | .rootPllLock => Sys2Proof.Machine.execRootPllLock s
  | .rootOfTrustSelftest die0 die1 entropy => Sys2Proof.Machine.execRootOfTrustSelftest die0 die1 entropy s
  | .firmwareVerify => Sys2Proof.Machine.execFirmwareVerify s
  | .packageBringup engines => Sys2Proof.Machine.execPackageBringup engines s
  | .hostPortStart => Sys2Proof.Machine.execHostPortStart s
  | .fwInstall w => Sys2Proof.Machine.execFwInstall w s
  | .setPreferred w slot => Sys2Proof.Machine.execSetPreferred w slot s
  | .countedSettingWrite w k val => Sys2Proof.Machine.execCountedSettingWrite w k val s
  | .ownerKeyChange w slot clear => Sys2Proof.Machine.execOwnerKeyChange w slot clear s
  | .countedSettingCommit ok => Sys2Proof.Machine.execCountedSettingCommit ok s
  | .pwrEnRise => Sys2Proof.Machine.execPwrEnRise s
  | .pwrEnFall => Sys2Proof.Machine.execPwrEnFall s
  | .inputUndervoltage => Sys2Proof.Machine.execInputUndervoltage s
  | .inputOvervoltage => Sys2Proof.Machine.execInputOvervoltage s
  | .pmControlWindow r => Sys2Proof.Machine.execPmControlWindow r s
  | .thermalLimitBegin => Sys2Proof.Machine.execThermalLimitBegin s
  | .thermalLimitEnd => Sys2Proof.Machine.execThermalLimitEnd s
  | .thermalTrip => Sys2Proof.Machine.execThermalTrip s
  | .brakeChange low => Sys2Proof.Machine.execBrakeChange low s
  | .leak => Sys2Proof.Machine.execLeak s
  | .fwActionComplete => Sys2Proof.Machine.execFwActionComplete s
  | .leakClear => Sys2Proof.Machine.execLeakClear s
  | .pfcPauseExpiry p => Sys2Proof.Machine.execPfcPauseExpiry p s
  | .flFrameTransmit => Sys2Proof.Machine.execFlFrameTransmit s
  | .crumbBlockRead r => Sys2Proof.Machine.execCrumbBlockRead r s

end Sys2Proof.Machine
end

