-- ==== Sys2Proof/Machine/Tick.lean ====
section
/-! DEFINITION. One cc of an idle queue (log 1): CT_CYCLE advances once the root PLL has locked, and the counters that count cc of a
standing condition advance with it. -/

namespace Sys2Proof.Machine

/-- Count one cc in a counter while a condition stands. -/
def State.ccIf (s : State) (c : Bool) (blk inst off : Nat) : State := if c then s.count64 blk inst off 1 else s

/-- Withheld requests and PFC pauses of the ports (R349). -/
def State.portCc (s : State) : State :=
  s.ports.foldl (fun s q => (s.ccIf (!q.2.held.isEmpty) 0x22 q.1 0xB0).ccIf q.2.paused 0x22 q.1 0x98) s

/-- Gradients that wait for park room (R396), and merges that wait for an update unit (R400); what an update takes is counted as it ends
(R411). -/
def State.hiveCc (s : State) : State :=
  s.hives.foldl (fun s q => (s.ccIf (!q.2.held.isEmpty) 0x24 q.1 0x98).ccIf (s.mergeWaits q.1) 0x24 q.1 0xA8) s

/-- Ready contexts passed over for an isolated replay (R40, R545). -/
def State.isolateCc (s : State) : State :=
  s.sw.recs.foldl (fun s r =>
    let c := r.d.num.toNat
    s.ccIf (r.phase == 4 && r.replaying.isSome && (List.range 4).any (fun x => (s.ctx c x).st == .ready && (s.ctx c x).run.isSome))
      0x10 c 0x20) s

/-- The next instruction of an engine's queue would start but for the change of form (R170). -/
def State.inFormGap (s : State) (c m : Nat) : Bool :=
  let e := s.eng c m
  match splitStart [] e.q with
  | none => false
  | some (pre, op, _) => s.engWorks c m && !e.retiring && e.readyBut pre op.kind && e.formGap pre op.kind

/-- A stage of the engine holds a row: a started instruction other than a STREAM that waits for its first piece, or a replay (R182). -/
def State.stageBusy (s : State) (c m : Nat) : Bool :=
  (s.eng c m).q.any (fun o => o.started && o.fin.isNone && (!isStream o.kind || s.hasRows c o)) || s.runsReplay c m

/-- Engines at work, frozen for an arrival bit or for the hold buffer, which counts as a drain freeze, or between two forms, each with its
twin (R170, R174, R182, R502, R505). -/
def State.engineCc (s : State) : State :=
  s.engines.foldl (fun s q =>
    let c := q.1 / 4
    let m := q.1 % 4
    let fz := s.frozen c m
    let s := s.countPair 0x11 c m 0x48 (b2n fz)
    let s := s.countPair 0x11 c m 0x50 (b2n (s.feedFrozen c m))
    let s := s.countPair 0x11 c m 0x60 (b2n (fz && !s.feedFrozen c m))
    let s := s.countPair 0x11 c m 0x40 (b2n (!fz && s.stageBusy c m))
    s.countPair 0x11 c m 0x80 (b2n (s.inFormGap c m))) s

/-- The forager's and the power controller's (R459, R590). -/
def State.moduleCc (s : State) : State :=
  (((s.ccIf s.driftHold 0x25 0 0xE0).ccIf (s.fld 2 0 4 31 24 != 0) 2 0 0x48).ccIf s.pm.thermal 2 0 0x50).ccIf s.pm.braking 2 0 0x58

/-- One cc. Before the root PLL first locks there is no cc to count (R30). -/
def State.tick (s : State) : State :=
  if s.boot.stage.all (fun p => decide (p < 2)) then s
  else ({ s with cycle := s.cycle + 1 }).portCc.hiveCc.isolateCc.engineCc.moduleCc

end Sys2Proof.Machine
end

