-- ==== Sys2Proof/WellFormed.lean ====
section
/-! DEFINITION. Well-formed commands: the units a command names exist on a Laniel (R7, R51, R520), a host message stands in the row of its
own operation (R309), and a value fits the setting it is for (R566, R573). -/

namespace Sys2Proof

/-- Cores c0 to c95 (R7). -/
def coreExists (c : BitVec 7) : Bool := decide (c.toNat < 96)

/-- The writer, when it is a context, is one of an existing core. -/
def Writer.wf (w : Writer) : Bool :=
  match w with
  | .ctx c _ => coreExists c
  | _ => true

/-- The function exists. -/
def Fn.wf (f : Fn) : Bool :=
  match f with
  | .core c => coreExists c
  | .engine c _ => coreExists c
  | _ => true

/-- The domain is one of the table of R520. -/
def Domain.wf (d : Domain) : Bool :=
  let k := d.kind.toNat
  let n := d.num.toNat
  if k = 0 then decide (n < 384) else if k = 1 then decide (n < 96) else if k = 2 then decide (n < 16)
  else if k = 4 then decide (n < 32) else decide (k ≤ 6) && n == 0

/-- The message stands in the row of its operation. -/
def HostMsg.isOp (m : HostMsg) (op : Nat) : Bool := m.op.toNat == op

/-- Bits of a counted setting (R574). -/
def Counted.width (k : Counted) : Nat :=
  match k with
  | .siteId => 8
  | .gateway => 1
  | .secFloor => 32
  | .identityGen => 3
  | .hostMac => 48
  | .retire => 384

/-- A report of package bring-up names an existing engine. -/
def EngineReport.wf (r : EngineReport) : Bool := decide (r.eng < 384)

/-- A memory address of a burst or scrub read lies in space 3 (R51). -/
def mainAddress (a : W64) : Bool := a.toNat / 2 ^ 60 == 3

/-- A command is well formed. -/
def Instr.wf (i : Instr) : Bool :=
  match i with
  | .registerWrite w _ _ _ | .w1cFlagClear w _ _ _ | .ctrReset w _ | .fgRefresh w _ | .keyctlNextKey w | .keyctlRekey w
  | .swCmdTakeover w | .fwInstall w | .setPreferred w _ | .ownerKeyChange w _ _ => w.wf
  | .config w f | .start w f | .stop w f => w.wf && f.wf
  | .stopDrainComplete f => f.wf
  | .commandAdmission c _ | .commandStart c _ | .overrunStopped c _ | .illegalInstruction c _ _ | .endComplete c _
  | .engineInstrStart c _ | .prepassSecondSweep c _ _ | .loadsComplete c _ | .streamComplete c _ _ | .drainComplete c _ _
  | .tasterCompare c _ | .vopComplete c | .moveComplete c | .stashComplete c | .fetchComplete c | .collHoldRelease c _
  | .waitArrSatisfied c _ | .interlockRelease c _ | .waitMsgArrival c _ | .signalDecision c _ | .replay c _ | .replayComplete c _ _
  | .retirementRest c _ | .coreIsolatedReplay c | .replayLimit c => coreExists c
  | .add i _ _ _ | .sub i _ _ _ | .mul i _ _ _ | .and i _ _ _ | .or i _ _ _ | .xor i _ _ _ | .shl i _ _ _ | .shr i _ _ _
  | .sra i _ _ _ | .li i _ _ | .lih i _ _ | .cmp i _ _ _ _ | .ld i _ _ _ _ | .st i _ _ _ _ _ | .getcc i _ | .getid i _
  | .br i _ | .jr i _ | .endCmd i | .loads i _ | .stream i _ | .drain i _ | .engSeed i _ _ | .vop i _ | .move i _ | .stash i _
  | .fetch i _ | .coll i _ | .send i _ | .fenceStep i | .waitArr i _ _ | .arrClr i _ _ | .waitT i _ | .waitMsg i _ | .signal i _
  | .nop i | .tagSet i _ _ _ _ | .tagGet i _ _ _ | .tdescLd i _ _ | .tdescSt i _ _ | .tdescSetf i _ _ _ | .scaleRd i _ _
  | .scaleMark i _ | .tile16Mma i _ | .tile32Mma i _ => coreExists i.core
  | .engineMapWrite w c _ | .sqSlotInit w c _ | .tasteNWrite w c _ | .twinWrite w c _ _ => w.wf && coreExists c
  | .scrubRead a _ _ | .mainMemoryBurst _ _ _ a _ => mainAddress a
  | .claim m => m.isOp 1
  | .release m => m.isOp 2
  | .hostWrite m => m.isOp 3
  | .hostRead m => m.isOp 4
  | .doorbell m => m.isOp 5
  | .query m => m.isOp 6
  | .attest m => m.isOp 7
  | .relay m => m.isOp 8
  | .recoveryDrainStart d | .recoveryDrainEnd d | .resetEnd d => d.wf
  | .swCmdRecover w _ | .swCmdRecord w _ => w.wf
  | .packageBringup l => l.all EngineReport.wf
  | .countedSettingWrite w k v => w.wf && decide (v < 2 ^ k.width)
  | .msTrainingComplete _ | .clockLost | .rootPllRelock | .knockbackK1CoreDrain | .knockbackK2FabricDrain | .knockbackK3HiveDrain
  | .knockbackK4BaseInstall | .knockbackK5Advance | .knockbackK6Open | .driftHoldRepeat | .refresh _ _ _ | .portLinkUp _ _ _
  | .portLinkDown _ _ | .hostFrameReceive _ | .tunnelledHostMessage _ | .relayResponseForward _ | .neighbourSolicitation _ _
  | .claimLapsed | .eventResend | .sfCreqReceive _ _ | .sfGrant _ | .sfCgntReceive _ _ | .sfCrefReceive _ _ | .sfDataReceive _ _
  | .sfDackReceive _ _ | .sfDnakReceive _ _ | .sfForeignFrame _ _ | .sfRetransmitTimeout _ _ | .grantReclaimed _ _
  | .pfcPauseReceive _ | .collMessageReceive _ _ | .collComplete _ _ | .collDeadlineExpiry _ _ | .collForwardWindowExpiry _ _
  | .ringHopExpiry _ _ | .bypassReceive _ _ _ _ | .holdReceive _ _ _ | .mismatchNoticeReceive _ _ _ _ | .stateFetchComplete _ _
  | .parkedGradientQueue _ _ | .hiveUpdate _ | .hiveUpdateComplete _ | .roundEncode | .deltaMerge _ | .mergeClose _
  | .mergeWaitExpiry _ | .baseMessageReceive _ | .refreshRequestReceive _ | .joinTableReceive _ | .gatewayRetryTimer
  | .flEgressAdmit | .cdxDataReceive _ | .cdxAckReceive _ | .cdxNakReceive _ | .cdxProbeReceive _ | .cdxProbeEchoReceive _
  | .cdxForeignFrame _ | .ackTimer | .fragmentOverdue _ | .fragmentRtoExpiry _ | .linkDead | .probeTimer | .sessionDead
  | .helloTimer | .helloReceive _ | .finishReceive _ | .keyRollover | .rxKeyDerive | .swarmScan | .heartbeat | .takeover _
  | .heartbeatLossSilence | .powerGood | .rootPllLock | .rootOfTrustSelftest _ _ _ | .firmwareVerify | .hostPortStart
  | .countedSettingCommit _ | .pwrEnRise | .pwrEnFall | .inputUndervoltage | .inputOvervoltage | .pmControlWindow _
  | .thermalLimitBegin | .thermalLimitEnd | .thermalTrip | .brakeChange _ | .leak | .fwActionComplete | .leakClear
  | .pfcPauseExpiry _ | .flFrameTransmit | .crumbBlockRead _ => true

end Sys2Proof
end

