-- ==== Sys2Proof/Safety.lean ====
section
/-! DEFINITION. A safe step: one that answers a next state. A fault names a unit that the module does not have; nothing is refused. -/

namespace Sys2Proof

/-- The outcome is a next state. -/
def Safe (o : Host.Outcome Machine.State Machine.Fault Machine.Refusal) : Prop := ∃ s, o = .next s

/-- The next command of a state, well formed or absent. -/
def frontWf (s : Machine.State) : Bool :=
  match s.pending with
  | [] => true
  | c :: _ => c.wf

end Sys2Proof
end

