-- ==== Sys2Proof/Certificates/Slice0/Obligations.lean ====
section
/-! DEFINITION. The statements about the model, each with the rule of the reference that it formalises. -/

/-! ### Words that the statements use -/

namespace Sys2Proof.Machine

/-- The context an instruction issues on. -/
def ctxAt (s : State) (i : Iss) : Ctx := s.ctx i.core.toNat i.ctx.toNat

/-- The context of an instruction is READY, waiting on nothing, with a command that has not overrun, its core serves it, no suspect of the core is replayed,
round-robin gives the context the issue slot of this cc, the fetch at its program counter is served, and the guarding predicate lets the
instruction execute (R42, R43, R48, R52, R55, R82, R530). -/
def CanRun (i : Iss) (s : State) : Prop :=
  i.core.toNat < 96 ∧ (ctxAt s i).run.isSome = true ∧ (ctxAt s i).st = .ready ∧ (ctxAt s i).wait = .none ∧ s.coreServes i.core.toNat = true
    ∧ s.overran (ctxAt s i) = false ∧ s.underReplay i.core.toNat = false
    ∧ s.turn i.core.toNat i.ctx.toNat = true ∧ s.fetchReason i.core.toNat (ctxAt s i).pc.toNat = 0 ∧ (ctxAt s i).guarded i = true

/-- `t` is `s` with one context changed to `k`: every other context and every other part of the state is as it was. -/
def CtxChange (s t : State) (c x : Nat) (k : Ctx) : Prop :=
  t = { s with ctxs := t.ctxs } ∧ t.ctx c x = k ∧ ∀ n, n ≠ c * 4 + x → Tbl.get {} t.ctxs n = Tbl.get {} s.ctxs n

/-- A context whose program counter has passed one instruction word. -/
def pastInstr (k : Ctx) : Ctx := { k with pc := k.pc + 8, progress := k.progress + 1 }

/-- A context whose instruction took its core's issue slot of this cc (R42). -/
def issuedAt (s : State) (k : Ctx) : Ctx := { k with issued := some s.cycle }

/-- The instruction completes and leaves its own context as `k`, and nothing else changes. -/
def LeavesCtx (i : Iss) (s : State) (o : Out) (k : Ctx) : Prop :=
  ∃ t, o = .next t ∧ CtxChange s t i.core.toNat i.ctx.toNat k

/-- The same where the instruction took the issue slot of this cc. -/
def IssuesCtx (i : Iss) (s : State) (o : Out) (k : Ctx) : Prop := LeavesCtx i s o (issuedAt s k)

/-- The instruction completes: it writes `v` to scalar register `sd`, the program counter passes it, and no other scalar register, no
tensor register, no predicate, no memory and no other part of the state changes. -/
def WritesScalar (i : Iss) (s : State) (o : Out) (sd : BitVec 6) (v : W64) : Prop :=
  ∃ t, o = .next t ∧ CtxChange s t i.core.toNat i.ctx.toNat (ctxAt t i)
    ∧ ctxAt t i = { issuedAt s (pastInstr (ctxAt s i)) with sregs := (ctxAt t i).sregs }
    ∧ ∀ n : BitVec 6, (ctxAt t i).sreg n.toNat = if n = sd then v else (ctxAt s i).sreg n.toNat

/-- The second operand of a scalar instruction: SB, or IMM sign-extended when I = 1 (R98). -/
def operandB (k : Ctx) (b : SrcB) : W64 :=
  match b with
  | .reg sb => k.sreg sb.toNat
  | .imm v => v.signExtend 64

/-- Memory holds bytes `bs` from `a` upwards and everywhere else what it held in `s`. -/
def Stored (s t : State) (a : Nat) (bs : List Byte) : Prop :=
  ∀ j, t.byte j = if a ≤ j ∧ j < a + bs.length then bs.getD (j - a) 0 else s.byte j

/-- The running command of a context can be reported: its completion record, when it has one, can be written. -/
def Reportable (s : State) (k : Ctx) : Prop :=
  ∀ r, k.run = some r → r.cmd.completion ≠ 0 → s.accessReason r.cmd.completion.toNat 32 = 0

/-- The command of context `x` of core `c` ends with `status` and leaves the context in state `st`. Its record of R49 holds CMD_SEQ, STATUS,
SOURCE, OVERRUN_CC and END_CC; when COMPLETION is not 0, the 32 bytes there hold the record and every other byte is unchanged; when it is 0,
memory is unchanged. LAST_REASON takes the reason of a refused SIGNAL that its issuer has not seen (R115). No other context and no register
changes; a command that asks for an event has its record queued as one. -/
def EndsCommand (s t : State) (c x status : Nat) (st : CtxSt) : Prop :=
  ∃ (r : RunCmd) (u : State) (bs : List Byte), (s.ctx c x).run = some r ∧
    u = { s with ctxs := u.ctxs, mem := u.mem, ue := u.ue, sce := u.sce } ∧
    u.ctx c x = { s.ctx c x with run := none, wait := .none, st := st, fenced := false, poison := false, decision := none, taking := none,
                                 lastReason := (s.ctx c x).toldReason st } ∧
    (∀ n, n ≠ c * 4 + x → Tbl.get {} u.ctxs n = Tbl.get {} s.ctxs n) ∧
    bs.length = 32 ∧ leField bs 16 4 = r.cmd.cmdSeq.toNat ∧ leField bs 20 2 = status % 2 ^ 16 ∧ leField bs 22 2 = (c * 4 + x) % 2 ^ 16 ∧
    leField bs 24 4 = r.overrun % 2 ^ 32 ∧ leField bs 28 4 = s.cycle.toNat % 2 ^ 32 ∧
    (r.cmd.completion = 0 → u.mem = s.mem) ∧
    (r.cmd.completion ≠ 0 → Stored s u r.cmd.completion.toNat bs) ∧
    t = if r.cmd.eventToHost then u.queueEvent (1 :: bs) else u

/-- The instruction halts its context with reason `r` (R86): the running command ends with that status, the context is HALTED with `r` in
LAST_REASON, and the instruction has no other effect but to have taken its issue slot. -/
def HaltsWith (i : Iss) (s : State) (o : Out) (r : Nat) : Prop :=
  ∃ u t, o = .next t ∧ EndsCommand (s.setLastReason i.core.toNat i.ctx.toNat r) u i.core.toNat i.ctx.toNat r .halted ∧
    CtxChange u t i.core.toNat i.ctx.toNat (issuedAt s (u.ctx i.core.toNat i.ctx.toNat))

end Sys2Proof.Machine

open Sys2Proof Sys2Proof.Machine

/-! ### The step -/

/-- A step on a queue with a command in front is that command's effect on the state with the rest of the queue. -/
def Obligations.StepRunsFront : Prop :=
  ∀ (c : Instr) (s : State) (rest : List Instr), s.pending = c :: rest → step s = exec c { s with pending := rest }

/-- The model's choice (log 1): with no command waiting, a step is one cc. CT_CYCLE advances by one once the root PLL has locked and
stays before that; registers that count cc may advance with it, and nothing else changes. -/
def Obligations.IdleStepTicks : Prop :=
  ∀ s : State, s.pending = [] →
    ∃ t, step s = .next t ∧ t = { s with cycle := t.cycle, ctl := t.ctl } ∧
      ((∃ p, s.boot.stage = some p ∧ 2 ≤ p) → t.cycle = s.cycle + 1) ∧
      ((∀ p, s.boot.stage = some p → p < 2) → t = s)

/-! ### Scalar instructions (R82, R84, R98 to R100) -/

/-- ADD, SUB, MUL, AND, OR, XOR, SHL, SHR, SRA, LI, LIH, GETCC and GETID complete whenever their context can run them: SD takes the result, and nothing but
SD and the program counter changes. CMP writes its condition to PD and leaves every other predicate alone; COND 6 and 7 halt with ILLEGAL
(R98, R99).
The model's own choices it rests on: log 64. -/
def Obligations.ScalarResults : Prop :=
  (∀ (i : Iss) (s : State) (sd sa : BitVec 6) (b : SrcB), CanRun i s →
    let a := (ctxAt s i).sreg sa.toNat
    let v := operandB (ctxAt s i) b
    WritesScalar i s (exec (.add i sd sa b) s) sd (a + v) ∧
    WritesScalar i s (exec (.sub i sd sa b) s) sd (a - v) ∧
    WritesScalar i s (exec (.mul i sd sa b) s) sd (a * v) ∧
    WritesScalar i s (exec (.and i sd sa b) s) sd (a &&& v) ∧
    WritesScalar i s (exec (.or i sd sa b) s) sd (a ||| v) ∧
    WritesScalar i s (exec (.xor i sd sa b) s) sd (a ^^^ v) ∧
    WritesScalar i s (exec (.shl i sd sa b) s) sd (a <<< (v.toNat % 64)) ∧
    WritesScalar i s (exec (.shr i sd sa b) s) sd (a >>> (v.toNat % 64)) ∧
    WritesScalar i s (exec (.sra i sd sa b) s) sd (a.sshiftRight (v.toNat % 64))) ∧
  (∀ (i : Iss) (s : State) (sd : BitVec 6) (imm : W32), CanRun i s →
    WritesScalar i s (exec (.li i sd imm) s) sd (imm.signExtend 64) ∧
    WritesScalar i s (exec (.lih i sd imm) s) sd (imm ++ ((ctxAt s i).sreg sd.toNat).setWidth 32) ∧
    WritesScalar i s (exec (.getcc i sd) s) sd s.cycle ∧
    WritesScalar i s (exec (.getid i sd) s) sd (BitVec.ofNat 64 (i.core.toNat * 4 + i.ctx.toNat))) ∧
  (∀ (i : Iss) (s : State) (pd cond : BitVec 3) (sa : BitVec 6) (b : SrcB), CanRun i s →
    let a := (ctxAt s i).sreg sa.toNat
    let v := operandB (ctxAt s i) b
    let holds : Bool := match cond.toNat with
      | 0 => a == v
      | 1 => a != v
      | 2 => decide (a.toInt < v.toInt)
      | 3 => decide (v.toInt ≤ a.toInt)
      | 4 => decide (a.toNat < v.toNat)
      | _ => decide (v.toNat ≤ a.toNat)
    (cond.toNat < 6 →
      ∃ t, exec (.cmp i pd cond sa b) s = .next t ∧ CtxChange s t i.core.toNat i.ctx.toNat (ctxAt t i) ∧
        ctxAt t i = { issuedAt s (pastInstr (ctxAt s i)) with preds := (ctxAt t i).preds } ∧
        ∀ n : BitVec 3, (ctxAt t i).pred n.toNat = if n = 0 then true else if n = pd then holds else (ctxAt s i).pred n.toNat) ∧
    (6 ≤ cond.toNat → Reportable s (ctxAt s i) → HaltsWith i s (exec (.cmp i pd cond sa b) s) rsILLEGAL))

/-! ### Memory accesses of a context (R52, R53, R98) -/

/-- LD and ST complete at every aligned address that the address map and the owner of the store serve: LD writes SD with the bytes read little-endian,
4 bytes zero-extended; ST stores the low bytes of SB there and nowhere else, or writes the register word that accepts it. A misaligned
address halts with MISALIGNED, a refused one with its reason, and ST with I = 1 with ILLEGAL (R19, R52, R53, R82, R98, R270).
The model's own choices it rests on: log 7, 9, 64, 69. -/
def Obligations.LoadsAndStores : Prop :=
  (∀ (i : Iss) (s : State) (w4 : Bool) (sd sa sb : BitVec 6) (imm : W32), CanRun i s →
    let n := lsWidth w4
    let a := lsAddr (ctxAt s i) sa imm
    let v := (ctxAt s i).sreg sb.toNat
    (a % n = 0 → spaceOf a ≠ 0 → s.accessReason a n = 0 → s.clean a n = true →
      WritesScalar i s (exec (.ld i w4 sd sa imm) s) sd (BitVec.ofNat 64 (leNat (s.readMem a n)))) ∧
    (a % n = 0 → spaceOf a ≠ 0 → s.accessReason a n = 0 →
      ∃ t, exec (.ld i w4 sd sa imm) s = .next t ∧ (ctxAt t i).sreg sd.toNat = BitVec.ofNat 64 (leNat (s.readMem a n))) ∧
    (a % n = 0 → spaceOf a ≠ 0 → s.accessReason a n = 0 →
      ∃ t, exec (.st i w4 false sa sb imm) s = .next t ∧ t = { s with mem := t.mem, ue := t.ue, sce := t.sce, ctxs := t.ctxs } ∧
        Stored s t a (leBytes n v.toNat) ∧ ctxAt t i = issuedAt s (pastInstr (ctxAt s i)) ∧
        ∀ m, m ≠ i.core.toNat * 4 + i.ctx.toNat → Tbl.get {} t.ctxs m = Tbl.get {} s.ctxs m) ∧
    (Reportable s (ctxAt s i) → a % n ≠ 0 →
      HaltsWith i s (exec (.ld i w4 sd sa imm) s) rsMISALIGNED ∧ HaltsWith i s (exec (.st i w4 false sa sb imm) s) rsMISALIGNED) ∧
    (Reportable s (ctxAt s i) → a % n = 0 → spaceOf a ≠ 0 → s.accessReason a n ≠ 0 →
      HaltsWith i s (exec (.ld i w4 sd sa imm) s) (s.accessReason a n) ∧
      HaltsWith i s (exec (.st i w4 false sa sb imm) s) (s.accessReason a n)) ∧
    (Reportable s (ctxAt s i) → HaltsWith i s (exec (.st i w4 true sa sb imm) s) rsILLEGAL)) ∧
  (∀ (i : Iss) (s : State) (w4 : Bool) (sd sa sb : BitVec 6) (imm : W32), CanRun i s →
    let n := lsWidth w4
    let a := lsAddr (ctxAt s i) sa imm
    let v := ((ctxAt s i).sreg sb.toNat).toNat % 2 ^ (8 * n)
    a % n = 0 → spaceOf a = 0 →
    (ctlReason a n = 0 → s.clean a n = true →
      WritesScalar i s (exec (.ld i w4 sd sa imm) s) sd (BitVec.ofNat 64 (s.ctlRead a n))) ∧
    (Reportable s (ctxAt s i) → ctlReason a n ≠ 0 →
      HaltsWith i s (exec (.ld i w4 sd sa imm) s) rsUNMAPPED ∧ HaltsWith i s (exec (.st i w4 false sa sb imm) s) rsUNMAPPED) ∧
    ((s.ctlWrite (.ctx i.core i.ctx) a n v).1 = 0 →
      exec (.st i w4 false sa sb imm) s =
        .next (((s.ctlWrite (.ctx i.core i.ctx) a n v).2.advance i.core.toNat i.ctx.toNat).noteIssue i.core.toNat i.ctx.toNat)))

/-! ### Commands of a context (R46 to R50, R83 to R86, R100) -/

/-- BR and JR set the program counter to a target in the core's own store or the module store that is 8-byte aligned, and halt with UNMAPPED on every
other. END ends the command with STATUS OK when no instruction of it is outstanding and waits with the program counter on END otherwise, and
END_COMPLETE ends it then; a command that has issued for MAX_CC cc ends with OVERRUN_STOPPED (R48, R49, R99, R100).
The model's own choices it rests on: log 7, 58, 64. -/
def Obligations.BranchesAndEnd : Prop :=
  (∀ (i : Iss) (s : State) (imm : W32) (sa : BitVec 6), CanRun i s →
    let k := ctxAt s i
    let rel : W64 := k.pc + 8 * imm.signExtend 64
    let abs : W64 := k.sreg sa.toNat
    let ok := fun a : W64 => a.toNat % 8 = 0 ∧
      ((i.core.toNat * 2 ^ 32 + 2 ^ 60 ≤ a.toNat ∧ a.toNat < i.core.toNat * 2 ^ 32 + 2 ^ 60 + Config.coreStoreBytes) ∨
        (2 * 2 ^ 60 ≤ a.toNat ∧ a.toNat < 2 * 2 ^ 60 + Config.moduleStoreBytes))
    (ok rel → IssuesCtx i s (exec (.br i imm) s) { k with pc := rel, progress := k.progress + 1 }) ∧
    (ok abs → IssuesCtx i s (exec (.jr i sa) s) { k with pc := abs, progress := k.progress + 1 }) ∧
    (¬ ok rel → Reportable s k → HaltsWith i s (exec (.br i imm) s) rsUNMAPPED) ∧
    (¬ ok abs → Reportable s k → HaltsWith i s (exec (.jr i sa) s) rsUNMAPPED)) ∧
  (∀ (s : State) (c : BitVec 7) (x : BitVec 2), c.toNat < 96 → Reportable s (s.ctx c.toNat x.toNat) →
    (∀ i : Iss, i.core = c → i.ctx = x → CanRun i s → (ctxAt s i).pendingOps = false →
      ∃ u t, exec (.endCmd i) s = .next t ∧ EndsCommand s u c.toNat x.toNat rsOK .idle ∧
        CtxChange u t c.toNat x.toNat (issuedAt s (u.ctx c.toNat x.toNat))) ∧
    (∀ i : Iss, i.core = c → i.ctx = x → CanRun i s → (ctxAt s i).pendingOps = true →
      IssuesCtx i s (exec (.endCmd i) s) { ctxAt s i with wait := .endW, st := .waiting }) ∧
    ((s.ctx c.toNat x.toNat).wait = .endW → (s.ctx c.toNat x.toNat).run.isSome = true → (s.ctx c.toNat x.toNat).pendingOps = false →
      ∃ t, exec (.endComplete c x) s = .next t ∧ EndsCommand s t c.toNat x.toNat rsOK .idle) ∧
    ((s.ctx c.toNat x.toNat).run.isSome = true → s.overran (s.ctx c.toNat x.toNat) = true →
      ∃ t, exec (.overrunStopped c x) s = .next t ∧ EndsCommand s t c.toNat x.toNat rsOVERRUN_STOPPED .idle))

namespace Sys2Proof.Machine

/-- The conditions under which a context admits a command (R47). -/
def Admits (s : State) (c x : Nat) (cmd : Cmd) : Prop :=
  s.fld 0x10 c 0 2 0 = 2 ∧ s.fld 0x10 c (0x100 + 0x40 * x) 1 1 = 1 ∧ (s.ctx c x).st ≠ .isolated ∧ (s.ctx c x).queue.length < 64
    ∧ s.busyAccount (s.ctx c x) = false
    ∧ (cmd.entry.toNat % 8 = 0 ∧ inStore cmd.entry.toNat 8 = true ∧
        (spaceOf cmd.entry.toNat = 2 ∨ (spaceOf cmd.entry.toNat = 1 ∧ unitOf cmd.entry.toNat = c)))
    ∧ (cmd.completion = 0 ∨ (cmd.completion.toNat % 32 = 0 ∧ inStore cmd.completion.toNat 32 = true))

end Sys2Proof.Machine

namespace Sys2Proof.Machine

/-- Context `k'` has started command `q` and was `k` before (R46, R48, R50). -/
def StartedCtx (s : State) (k k' : Ctx) (q : QCmd) (rest : List QCmd) : Prop :=
  k'.pc = q.cmd.entry ∧ k'.st = .ready ∧ k'.queue = rest ∧ k'.wait = .none ∧
    k'.sreg 0 = q.cmd.arg0 ∧ k'.sreg 1 = q.cmd.arg1 ∧ k'.sreg 2 = q.cmd.arg2 ∧ k'.sreg 3 = q.cmd.arg3 ∧
    (∀ n, 4 ≤ n → k'.sreg n = k.sreg n) ∧ k'.tregs = k.tregs ∧ k'.preds = k.preds ∧
    ∃ r, k'.run = some r ∧ r.cmd = q.cmd ∧ r.startCC = s.cycle ∧ r.overrun = (s.cycle - q.cc).toNat - 5000

end Sys2Proof.Machine

/-- A context's queue decides on one offered command: one that meets every condition of R47 joins the end of the queue; one that finds 64 admitted ones is
refused with QUEUE_FULL. An admitted command starts on a context that runs none: the program counter is ENTRY and ARG0 to ARG3 are in s0 to
s3; a start more than 5,000 cc after admission is counted in HP_LATE (R37, R46, R47, R50).
The model's own choices it rests on: log 7. -/
def Obligations.CommandsAdmitAndStart : Prop :=
  (∀ (s : State) (c : BitVec 7) (x : BitVec 2) (cmd : Cmd) (cc : W64), c.toNat < 96 →
    let k := s.ctx c.toNat x.toNat
    k.offers = [{ src := .tagged, cmd := cmd, cc := cc }] →
    (Admits s c.toNat x.toNat cmd →
      ∃ t, exec (.commandAdmission c x) s = .next t ∧
        CtxChange s t c.toNat x.toNat { k with offers := [], queue := k.queue ++ [{ cmd := cmd, cc := s.cycle }] }) ∧
    (s.fld 0x10 c.toNat 0 2 0 = 2 → s.fld 0x10 c.toNat (0x100 + 0x40 * x.toNat) 1 1 = 1 → k.st ≠ .isolated → 64 ≤ k.queue.length →
      ∃ t, exec (.commandAdmission c x) s = .next t ∧
        CtxChange s t c.toNat x.toNat { k with offers := [], lastReason := 0x0009 })) ∧
  (∀ (s : State) (c : BitVec 7) (x : BitVec 2) (q : QCmd) (rest : List QCmd), c.toNat < 96 →
    let k := s.ctx c.toNat x.toNat
    k.queue = q :: rest → k.run = none → k.st ≠ .isolated → s.coreServes c.toNat = true →
    ∃ t, exec (.commandStart c x) s = .next t ∧
      StartedCtx s (s.ctx c.toNat x.toNat) (t.ctx c.toNat x.toNat) q rest ∧
      ((s.cycle - q.cc).toNat ≤ 5000 → t = { s with ctxs := t.ctxs, nextId := s.nextId + 1 }) ∧
      (5000 < (s.cycle - q.cc).toNat → s.hp.claimant = none →
        t.word64 0x21 0 0x68 = min (s.word64 0x21 0 0x68 + 1) (2 ^ 64 - 1)))

/-! ### Synchronisation (R91, R96, R97, R114, R115) -/

namespace Sys2Proof.Machine

/-- The issuing context of an instruction that the sequencer may hold on a busy tensor register (R91). -/
def heldIss : Instr → Option Iss
  | .loads i _ => some i
  | .stream i _ => some i
  | .drain i _ => some i
  | .tile16Mma i _ => some i
  | .tile32Mma i _ => some i
  | .vop i _ => some i
  | .move i _ => some i
  | .stash i _ => some i
  | .fetch i _ => some i
  | .coll i _ => some i
  | .send i _ => some i
  | .waitMsg i _ => some i
  | .tagSet i _ _ _ _ => some i
  | .tagGet i _ _ _ => some i
  | .tdescLd i _ _ => some i
  | .tdescSt i _ _ => some i
  | .tdescSetf i _ _ _ => some i
  | .scaleRd i _ _ => some i
  | .scaleMark i _ => some i
  | _ => none

end Sys2Proof.Machine

namespace Sys2Proof.Machine

/-- Where a message of a block goes whose register's BASE is `base`: behind the messages before it, each of 65,536 bytes, or of 65,520 from
another site (R111). -/
def msgPlace (s : State) (base : Nat) (b : Block) : Nat := base + b.desc.frag.toNat * (if b.desc.srcSite = s.siteId then 65536 else 65520)

/-- A context takes message `b` of its core's receive area into tensor register `td`: the payload stands at its place from the register's BASE
on, and the area holds the message no more. With the last byte of its block the register's tag is the block's, and the context is READY
behind its WAIT.MSG; before that it waits for the rest (how many bytes a block has is the model's reading, log 77). `iss` is the cc of its
last issue (R111, R114, R274). -/
def TakesMsg (i : Iss) (s t : State) (td : BitVec 5) (b : RxBlk) (iss : Option W64) : Prop :=
  let c := i.core.toNat
  let k := ctxAt s i
  let d := (k.treg td.toNat).d
  let got := (match k.taking with
    | some r => r.got
    | none => 0) + b.blk.payload.length
  t = { s with mem := t.mem, ue := t.ue, sce := t.sce, ctxs := t.ctxs, cores := t.cores } ∧
    Stored s t (msgPlace s d.base.toNat b.blk) b.blk.payload ∧
    (t.core c) = { s.core c with rx := (s.core c).rx.erase b } ∧ (∀ n, n ≠ c → t.core n = s.core n) ∧
    (s.blockBytesOf d b.blk ≤ got →
      ctxAt t i = { pastInstr k with tregs := (ctxAt t i).tregs, wait := .none, st := .ready, taking := none, issued := iss } ∧
      ∀ n : BitVec 5, (ctxAt t i).treg n.toNat = if n = td then { k.treg td.toNat with tag := b.blk.tag } else k.treg n.toNat) ∧
    (got < s.blockBytesOf d b.blk →
      ∃ r : RxTake, r.got = got ∧ RxTake.has (some r) b.blk = true ∧
        ctxAt t i = { k with wait := .msg td, st := .waiting, taking := some r, issued := iss }) ∧
    ∀ n, n ≠ c * 4 + i.ctx.toNat → Tbl.get {} t.ctxs n = Tbl.get {} s.ctxs n

end Sys2Proof.Machine

/-- WAIT.MSG takes the oldest block held for its own context, also one that carries POISON, and waits while there is none. SIGNAL offers the command at SA
to the named context and waits; SIGNAL_DECISION writes PD, and a refusal's reason goes to LAST_REASON (R111, R114, R115, R274).
The model's own choices it rests on: log 7, 64, 69, 71. -/
def Obligations.MessagesAndSignals : Prop :=
  (∀ (i : Iss) (s : State) (td : BitVec 5), i.core.toNat < 96 →
    let k := ctxAt s i
    let d := (k.treg td.toNat).d
    let mine := fun b : RxBlk => b.x = i.ctx.toNat ∧ RxTake.has k.taking b.blk = true
    let fit := inControl d = false ∧ fmtReason [d] = 0
    (CanRun i s → (∀ b ∈ k.busy, b.t ≠ td.toNat) → fit → (∀ b ∈ (s.core i.core.toNat).rx, ¬ mine b) →
      IssuesCtx i s (exec (.waitMsg i td) s) { k with wait := .msg td, st := .waiting }) ∧
    (∀ pre b post, (s.core i.core.toNat).rx = pre ++ b :: post → mine b → (∀ e ∈ pre, ¬ mine e) →
      s.accessReason (msgPlace s d.base.toNat b.blk) b.blk.payload.length = 0 →
      (CanRun i s → (∀ e ∈ k.busy, e.t ≠ td.toNat) → fit → ∃ t, exec (.waitMsg i td) s = .next t ∧ TakesMsg i s t td b (some s.cycle)) ∧
      (k.wait = .msg td → k.st = .waiting → ∃ t, exec (.waitMsgArrival i.core i.ctx) s = .next t ∧ TakesMsg i s t td b k.issued)) ∧
    (CanRun i s → (∀ b ∈ k.busy, b.t ≠ td.toNat) → inControl d = true → Reportable s k →
      HaltsWith i s (exec (.waitMsg i td) s) rsOPERAND_SPACE)) ∧
  (∀ (i : Iss) (s : State) (f : SignalF), i.core.toNat < 96 →
    let k := ctxAt s i
    let a := (k.sreg f.sa.toNat).toNat
    let waits := s.setCtx i.core.toNat i.ctx.toNat { k with wait := .signal f.pd, st := .waiting, issued := some s.cycle }
    (CanRun i s → s.accessReason a 64 = 0 → s.clean a 64 = true → f.core.toNat < 96 →
      ∃ t, exec (.signal i f) s = .next t ∧
        CtxChange waits t f.core.toNat f.ctx.toNat
          { waits.ctx f.core.toNat f.ctx.toNat with
            offers := (waits.ctx f.core.toNat f.ctx.toNat).offers ++
              [{ src := .signal i.core.toNat i.ctx.toNat k.cmdNo, cmd := cmdOfBytes (s.readMem a 64), cc := s.cycle }] }) ∧
    (CanRun i s → s.accessReason a 64 = 0 → 96 ≤ f.core.toNat → Reportable s k → HaltsWith i s (exec (.signal i f) s) rsBAD_OPERAND) ∧
    (∀ r, k.wait = .signal f.pd → k.st = .waiting → k.decision = some r →
      ∃ t, exec (.signalDecision i.core i.ctx) s = .next t ∧ CtxChange s t i.core.toNat i.ctx.toNat (ctxAt t i) ∧
        ctxAt t i = { pastInstr k with wait := .none, st := .ready, decision := none, preds := (ctxAt t i).preds,
                                       lastReason := (ctxAt t i).lastReason } ∧
        (∀ n : BitVec 3, (ctxAt t i).pred n.toNat = if n = 0 then true else if n = f.pd then decide (r = 0) else k.pred n.toNat) ∧
        (ctxAt t i).lastReason = if r = 0 then k.lastReason else BitVec.ofNat 16 r))

/-! ### Tags, descriptors and scale slots (R58 to R60, R116, R208, R223) -/

namespace Sys2Proof.Machine

/-- The instruction completes: it writes `v` to tensor register `tn`, the program counter passes it, and nothing else changes. -/
def WritesTReg (i : Iss) (s : State) (o : Out) (tn : BitVec 5) (v : TReg) : Prop :=
  ∃ t, o = .next t ∧ CtxChange s t i.core.toNat i.ctx.toNat (ctxAt t i)
    ∧ ctxAt t i = { issuedAt s (pastInstr (ctxAt s i)) with tregs := (ctxAt t i).tregs }
    ∧ ∀ n : BitVec 5, (ctxAt t i).treg n.toNat = if n = tn then v else (ctxAt s i).treg n.toNat

end Sys2Proof.Machine

/-- TAG.SET writes the fields that its mask selects and a right TRES, TAG.GET reads half of the tag; TDESC.LD and TDESC.ST move 48 bytes, TDESC.SETF writes
one field; SCALE.RD reads a slot's state word and SCALE.MARK makes the slot MARKED. What each may not do halts it with the reason the rules
name, and an instruction that names a busy register is held (R58, R60, R87, R91, R116, R208, R215, R223).
The model's own choices it rests on: log 50, 64, 69, 72. -/
def Obligations.TagsAndDescriptors : Prop :=
  (∀ (i : Iss) (s : State) (tn : BitVec 5) (sa sd : BitVec 6) (mask : BitVec 4) (clrf half : Bool), CanRun i s →
    let k := ctxAt s i
    let old := (k.treg tn.toNat)
    let v := k.sreg sa.toNat
    let was := readTag old.tag
    let set : Tag := { was with
      layer := if mask.getLsbD 0 then v.extractLsb' 0 16 else was.layer
      group := if mask.getLsbD 1 then v.extractLsb' 16 12 else was.group
      op := if mask.getLsbD 2 then v.extractLsb' 28 4 else was.op
      kind := if mask.getLsbD 3 then v.extractLsb' 32 4 else was.kind
      flags := if clrf then 0 else was.flags
      count := if clrf then 1 else was.count }
    let bad := (mask.getLsbD 3 = true ∧ 13 ≤ (v.extractLsb' 32 4).toNat) ∨ (mask.getLsbD 2 = true ∧ 9 ≤ (v.extractLsb' 28 4).toNat)
    let free := ∀ b ∈ k.busy, b.t ≠ tn.toNat
    (free → ¬ bad → ∃ r, WritesTReg i s (exec (.tagSet i tn sa mask clrf) s) tn { old with tag := { set with tres := r } } ∧
      tagOk { set with tres := r } = true) ∧
    (free → bad → Reportable s k → HaltsWith i s (exec (.tagSet i tn sa mask clrf) s) rsBAD_TAG) ∧
    (free → WritesScalar i s (exec (.tagGet i tn sd half) s) sd
      (BitVec.ofNat 64 (if half then tagBits old.tag / 2 ^ 64 else tagBits old.tag))) ∧
    (¬ free → LeavesCtx i s (exec (.tagGet i tn sd half) s) { k with wait := .held (.tagGet i tn sd half), st := .waiting })) ∧
  (∀ (i : Iss) (s : State) (tn : BitVec 5) (sa : BitVec 6) (field : BitVec 4), CanRun i s →
    let k := ctxAt s i
    let old := k.treg tn.toNat
    let v := k.sreg sa.toNat
    let a := v.toNat
    let bs := s.readMem a 48
    let t := tagOfBytes (bs.drop 32)
    let free := ∀ b ∈ k.busy, b.t ≠ tn.toNat
    (free → s.accessReason a 48 = 0 → s.clean a 48 = true → t.kind.toNat ≤ 12 → t.op.toNat ≤ 8 →
      WritesTReg i s (exec (.tdescLd i tn sa) s) tn
        { d := tdescOfBits (leNat (bs.take 32)), tag := sealTag { t with step := old.tag.step, round := old.tag.round } }) ∧
    (free → s.accessReason a 48 = 0 →
      ∃ t, exec (.tdescSt i tn sa) s = .next t ∧ t = { s with mem := t.mem, ue := t.ue, sce := t.sce, ctxs := t.ctxs } ∧
        t.readNat a 32 = tdescBits old.d ∧ t.readNat (a + 32) 16 = tagBits old.tag ∧
        (∀ j, ¬ (a ≤ j ∧ j < a + 48) → t.byte j = s.byte j) ∧ ctxAt t i = issuedAt s (pastInstr k) ∧
        ∀ m, m ≠ i.core.toNat * 4 + i.ctx.toNat → Tbl.get {} t.ctxs m = Tbl.get {} s.ctxs m) ∧
    (free → field.toNat < 10 → WritesTReg i s (exec (.tdescSetf i tn sa field) s) tn { old with d :=
      { base := if field = 0 then v else old.d.base
        rows := if field = 1 then v.setWidth 24 else old.d.rows
        cols := if field = 2 then v.setWidth 24 else old.d.cols
        rstride := if field = 3 then v.setWidth 32 else old.d.rstride
        fmt := if field = 4 then v.setWidth 3 else old.d.fmt
        bscale := if field = 4 then v.getLsbD 3 else old.d.bscale
        slot := if field = 5 then v.setWidth 12 else old.d.slot
        scale := if field = 6 then v.setWidth 8 else old.d.scale
        pieceRows := if field = 7 then v.setWidth 16 else old.d.pieceRows
        arrBase := if field = 8 then v.setWidth 12 else old.d.arrBase
        scaleOff := if field = 9 then v.setWidth 32 else old.d.scaleOff } }) ∧
    (10 ≤ field.toNat → Reportable s k → HaltsWith i s (exec (.tdescSetf i tn sa field) s) rsILLEGAL)) ∧
  (∀ (i : Iss) (s : State) (tn : BitVec 5) (sd : BitVec 6), CanRun i s →
    let k := ctxAt s i
    let slot := (k.treg tn.toNat).d.slot
    let c := i.core.toNat
    let a := coreAddr c (s.fld 0x10 c 0x404 24 6 * 64 + 64 * slot.toNat) + 32
    (∀ b ∈ k.busy, b.t ≠ tn.toNat) →
    (slot ≠ 0xFFF → slot.toNat < s.fld 0x10 c 0x400 11 0 →
      (s.clean (a - 32) 64 = true → WritesScalar i s (exec (.scaleRd i tn sd) s) sd (BitVec.ofNat 64 (s.readNat a 8))) ∧
      (∃ t, exec (.scaleRd i tn sd) s = .next t ∧ (ctxAt t i).sreg sd.toNat = BitVec.ofNat 64 (s.readNat a 8)) ∧
      ∃ t, exec (.scaleMark i tn) s = .next t ∧ t = { s with ctl := t.ctl, mem := t.mem, ue := t.ue, sce := t.sce, ctxs := t.ctxs } ∧
        (s.clean (a - 32) 64 = true → t.ctl = s.ctl) ∧
        bitsOf (t.readNat a 8) 14 13 = 2 ∧ bitsOf (t.readNat a 8) 12 0 = bitsOf (s.readNat a 8) 12 0 ∧
        bitsOf (t.readNat a 8) 63 15 = bitsOf (s.readNat a 8) 63 15 ∧ (∀ j, ¬ (a ≤ j ∧ j < a + 8) → t.byte j = s.byte j) ∧
        ctxAt t i = issuedAt s (pastInstr k) ∧ ∀ m, m ≠ c * 4 + i.ctx.toNat → Tbl.get {} t.ctxs m = Tbl.get {} s.ctxs m) ∧
    (slot = 0xFFF ∨ s.fld 0x10 c 0x400 11 0 ≤ slot.toNat → Reportable s k →
      HaltsWith i s (exec (.scaleRd i tn sd) s) rsBAD_OPERAND ∧ HaltsWith i s (exec (.scaleMark i tn) s) rsBAD_OPERAND))

/-! ### Tensor instructions at issue (R91, R93, R95, R101, R117, R119, R141) -/

namespace Sys2Proof.Machine

/-- An instruction names engine `m`, its registers are not busy, the engine's queue has room for `need` entries, its context may name the
engine, and every check of R119 passes. -/
def EngineAdmits (i : Iss) (s : State) (m need : Nat) (dsts srcs reasons : List Nat) : Prop :=
  CanRun i s ∧ (ctxAt s i).holds dsts srcs = false ∧ (s.eng i.core.toNat m).q.length + need ≤ 8 ∧
    s.engNameReason i.core.toNat i.ctx.toNat m = 0 ∧ ∀ r ∈ reasons, r = 0

/-- Engine `m` has taken operations of kinds `kinds` to the end of its queue, in order, and is otherwise `e`; the context has passed the
instruction, which is outstanding with its registers busy; every other context, engine and part of the state is as it was. -/
def EngineTakes (i : Iss) (s t : State) (m : Nat) (kinds : List EngKind) (dsts srcs : List Nat) (e : Engine) : Prop :=
  let c := i.core.toNat
  let k := ctxAt s i
  ∃ ops : List EngOp, ops.map (fun o => o.kind) = kinds ∧ (∀ o ∈ ops, o.x = i.ctx.toNat ∧ o.no = k.cmdNo ∧ o.cc = s.cycle ∧ o.started = false) ∧
    ops.map (fun o => o.id) = (List.range kinds.length).map (fun n => s.nextId + n) ∧
    t.eng c m = { e with q := (s.eng c m).q ++ ops } ∧
    (∀ n, n ≠ c * 4 + m → Tbl.get {} t.engines n = Tbl.get {} s.engines n) ∧
    ctxAt t i = { issuedAt s (pastInstr k) with
      outst := k.outst ++ ops.map (fun o => { id := o.id, no := k.cmdNo })
      busy := k.busy ++ dsts.map (fun r => { t := r, wr := true, id := s.nextId }) ++ srcs.map (fun r => { t := r, wr := false, id := s.nextId }) } ∧
    (∀ n, n ≠ c * 4 + i.ctx.toNat → Tbl.get {} t.ctxs n = Tbl.get {} s.ctxs n) ∧
    t = { s with ctxs := t.ctxs, engines := t.engines, cores := t.cores, nextId := s.nextId + kinds.length }

end Sys2Proof.Machine

/-- LOADS, DRAIN, ENG.SEED and the tile forms enter the queue of the engine they name whenever the interlock, the queue and the checks let
them: a LOADS marks its buffer loaded with its KN, NN and format, a tile form is a LOADS and a STREAM of 16 or 32 rows and leaves buffer 1 not
loaded, and a seed of 0 is taken as 1 (R91, R95, R101, R117, R141).
An engine whose queue is full leaves the context READY on its instruction and passed over in this cc, and SQ_ENGQ_STALL_CC counts it; an instruction of an engine
that its context does not own halts with NOT_OWNER, and one of a twin follower with its own code (R93, R95, R118).
STREAM enters the queue of the engine it names whenever the interlock, the queue and the checks let it: it takes the attachments that its
context has made to that engine, which end, REL = 1 leaves its buffer not loaded, and with DSTB = 1 the bank takes the buffer's form (R91, R95,
R101, R108, R148, R251).
The model's own choices it rests on: log 11, 12, 62, 63, 64. -/
def Obligations.TensorInstructionsQueue : Prop :=
  (∀ (i : Iss) (s : State),
    let c := i.core.toNat
    let k := ctxAt s i
    (∀ f : LoadsF,
      let o := loadsOp f k
      let m := f.eng.toNat
      let e := s.eng c m
      let b : BufIss := { loaded := true, sh := f.sh, kn := f.kn.toNat, nn := f.nn.toNat, fmt := (k.treg f.tb.toNat).d.fmt.toNat }
      EngineAdmits i s m 1 [] [f.tb.toNat] (s.loadsReasons c o m) →
      ∃ t, exec (.loads i f) s = .next t ∧ t.cores = s.cores ∧
        EngineTakes i s t m [.loads o] [] [f.tb.toNat] { e with ib0 := if f.buf = 0 then b else e.ib0, ib1 := if f.buf = 0 then e.ib1 else b }) ∧
    (∀ f : DrainF,
      let o := drainOp f k
      let m := f.eng.toNat
      let e := s.eng c m
      f.rnd ≠ 3 → EngineAdmits i s m 1 [f.tc.toNat] [] (s.drainReasons c o (if f.ab = 0 then e.bankForm0 else e.bankForm1)) →
      ∃ t, exec (.drain i f) s = .next t ∧ t.cores = s.cores ∧ EngineTakes i s t m [.drain o] [f.tc.toNat] [] e) ∧
    (∀ (sreg : BitVec 6) (eng : BitVec 2),
      EngineAdmits i s eng.toNat 1 [] [] [] →
      ∃ t, exec (.engSeed i sreg eng) s = .next t ∧ t.cores = s.cores ∧
        EngineTakes i s t eng.toNat [.seed (if k.sreg sreg.toNat = 0 then 1 else k.sreg sreg.toNat)] [] [] (s.eng c eng.toNat)) ∧
    (∀ f : TileF,
      let e := s.eng c f.eng.toNat
      let form := fun (n : Nat) (t : State) => t.cores = s.cores ∧
        EngineTakes i s t f.eng.toNat [.loads (tileLoads f n k), .stream (tileStream f n k)] [] [] { e with ib1 := { e.ib1 with loaded := false } }
      (EngineAdmits i s f.eng.toNat 2 [] [] (s.tileReasons f (tileLoads f 16 k) (tileStream f 16 k)) →
        ∃ t, exec (.tile16Mma i f) s = .next t ∧ form 16 t) ∧
      (EngineAdmits i s f.eng.toNat 2 [] [] (s.tileReasons f (tileLoads f 32 k) (tileStream f 32 k)) →
        ∃ t, exec (.tile32Mma i f) s = .next t ∧ form 32 t))) ∧
  (∀ (i : Iss) (s : State) (f : LoadsF), CanRun i s → (ctxAt s i).holds [] [f.tb.toNat] = false →
    let c := i.core.toNat
    let m := f.eng.toNat
    let n := s.word 0x10 c 0x18
    (8 ≤ (s.eng c m).q.length →
      ∃ t, exec (.loads i f) s = .next t ∧ t = { s with ctl := t.ctl, ctxs := t.ctxs } ∧
        ctxAt t i = { ctxAt s i with passed := some s.cycle } ∧
        (∀ m, m ≠ c * 4 + i.ctx.toNat → Tbl.get {} t.ctxs m = Tbl.get {} s.ctxs m) ∧
        (t.word 0x10 c 0x18).toNat = min (n.toNat + 1) (2 ^ 32 - 1) ∧
        ∀ b o j, ctlKey b o j ≠ ctlKey 0x10 c 0x18 → t.word b o j = s.word b o j) ∧
    ((s.eng c m).q.length < 8 → Reportable s (ctxAt s i) →
      (s.isFollower c m = true → HaltsWith i s (exec (.loads i f) s) 0x9301) ∧
      (s.isFollower c m = false → s.fld 0x10 c 0x10 (2 * m + 1) (2 * m) ≠ i.ctx.toNat → HaltsWith i s (exec (.loads i f) s) rsNOT_OWNER))) ∧
  (∀ (i : Iss) (s : State) (f : StreamF),
    let c := i.core.toNat
    let x := i.ctx.toNat
    let k := ctxAt s i
    let m := f.eng.toNat
    let e := s.eng c m
    let ib := if f.buf = 0 then e.ib0 else e.ib1
    let o := s.streamOp c x f k
    let gone : BufIss := { ib with loaded := if f.rel then false else ib.loaded }
    f.acc ≠ 3 → f.rnd ≠ 3 → f.red.toNat < 4 → EngineAdmits i s m 1 o.dsts o.srcs (s.streamReasons c f o ib) →
    ∃ t, exec (.stream i f) s = .next t ∧
      EngineTakes i s t m [.stream o] o.dsts o.srcs
        { e with
          ib0 := if f.buf = 0 then gone else e.ib0
          ib1 := if f.buf = 0 then e.ib1 else gone
          bankForm0 := if f.dstb = true ∧ f.ab = 0 then ib.sh else e.bankForm0
          bankForm1 := if f.dstb = true ∧ f.ab ≠ 0 then ib.sh else e.bankForm1 } ∧
      t.core c = { s.core c with attach := (s.core c).attach.filter (fun a => !(a.x == x && a.eng == m)) } ∧
      ∀ n, n ≠ c → t.core n = s.core n)

/-! ### VOP, MOVE, STASH and FETCH at issue (R90, R91, R97, R108, R110, R219, R223, R256) -/

namespace Sys2Proof.Machine

/-- Byte `j` lies in the scale-slot table of core `c` (R213). -/
def InSlots (s : State) (c j : Nat) : Prop :=
  let a := coreAddr c (s.fld 0x10 c 0x404 24 6 * 64)
  a ≤ j ∧ j < a + 64 * s.fld 0x10 c 0x400 11 0

/-- Outside the scale-slot table of core `c`, memory holds what it held. -/
def OutsideSlots (s t : State) (c : Nat) : Prop := ∀ j, ¬ InSlots s c j → t.byte j = s.byte j

/-- The instruction of a context that stands as `k` behind it is outstanding with these registers busy; no other context changes. -/
def Outstanding (i : Iss) (s t : State) (k : Ctx) (dsts srcs : List Nat) : Prop :=
  ctxAt t i = k.begin s.nextId dsts srcs ∧
    (∀ n, n ≠ i.core.toNat * 4 + i.ctx.toNat → Tbl.get {} t.ctxs n = Tbl.get {} s.ctxs n) ∧
    ∀ n, n ≠ i.core.toNat → t.core n = s.core n

/-- The mover takes an operation of `kind` with the registers copied (R90); registers of the module change only where a scale slot or a header
read is in error (R271). Its arrival bit, when it has one, is cleared and pending (R97). -/
def MoverTakes (i : Iss) (s t : State) (kind : MvKind) (f : MoveF) : Prop :=
  let c := i.core.toNat
  let k := ctxAt s i
  Outstanding i s t (issuedAt s (pastInstr k)) [f.td.toNat] [f.ta.toNat] ∧ OutsideSlots s t c ∧
    t = { s with ctl := t.ctl, mem := t.mem, ue := t.ue, sce := t.sce, ctxs := t.ctxs, cores := t.cores, nextId := s.nextId + 1 } ∧
    (s.ue = [] → s.sce = [] → t.ctl = s.ctl) ∧
    (∃ op : MvOp, (t.core c).mv = (s.core c).mv ++ [op] ∧ op.kind = kind ∧ op.id = s.nextId ∧ op.x = i.ctx.toNat ∧ op.no = k.cmdNo ∧
      op.ta = k.opd f.ta.toNat ∧ op.td = k.opd f.td.toNat ∧ op.rnd = f.rnd.toNat ∧ op.ovf = f.ovf ∧
      op.arr = (if f.setarr then some f.arr.toNat else none) ∧ op.poisoned = poisoned (k.treg f.ta.toNat).tag) ∧
    t.core c = { s.core c with mv := (t.core c).mv, arr := (t.core c).arr, arrPend := (t.core c).arrPend } ∧
    (f.setarr = false → (t.core c).arr = (s.core c).arr ∧ (t.core c).arrPend = (s.core c).arrPend) ∧
    (f.setarr = true → ∀ b, (t.core c).arrBit b = (if b = f.arr.toNat then false else (s.core c).arrBit b) ∧
      Tbl.get 0 (t.core c).arrPend b = (if b = f.arr.toNat then s.nextId else Tbl.get 0 (s.core c).arrPend b))

end Sys2Proof.Machine

/-- MOVE, STASH and FETCH reach the mover whenever the interlock and the checks let them; the only memory they may change at issue is the
core's scale-slot table; RND = 3 halts with ILLEGAL (R90, R91, R97, R110, R219, R223, R256).
A standalone VOP reaches the vector unit with its registers copied whenever the interlock and the checks let it; a VOP with ATT = 1 or 2
attaches to its engine and is not outstanding; a second attachment of one kind to one engine halts with BAD_OPERAND (R90, R91, R108, R219).
The model's own choices it rests on: log 11, 12, 64, 65. -/
def Obligations.MoverAndVectorQueue : Prop :=
  (∀ (i : Iss) (s : State) (f : MoveF), CanRun i s → (ctxAt s i).holds [f.td.toNat] [f.ta.toNat] = false →
    let c := i.core.toNat
    let ta := (ctxAt s i).opd f.ta.toNat
    let td := (ctxAt s i).opd f.td.toNat
    let arr := if f.setarr then some f.arr.toNat else none
    (f.rnd ≠ 3 → (∀ r ∈ s.moveReasons c arr ta td, r = 0) → ∃ t, exec (.move i f) s = .next t ∧ MoverTakes i s t .move f) ∧
    (f.rnd ≠ 3 → (∀ r ∈ s.stashReasons c arr ta td, r = 0) → ∃ t, exec (.stash i f) s = .next t ∧ MoverTakes i s t .stash f) ∧
    (f.rnd ≠ 3 → (∀ r ∈ s.fetchReasons c arr ta td, r = 0) → ∃ t, exec (.fetch i f) s = .next t ∧ MoverTakes i s t .fetch f) ∧
    (f.rnd = 3 → Reportable s (ctxAt s i) → HaltsWith i s (exec (.move i f) s) rsILLEGAL)) ∧
  (∀ (i : Iss) (s : State) (f : VopF), CanRun i s → f.fn.toNat ≤ 20 → f.rnd ≠ 3 →
    let c := i.core.toNat
    let x := i.ctx.toNat
    let k := ctxAt s i
    let o := vopOp x f k
    let a := vopAttach x f k
    (f.att = 0 → k.holds o.dsts o.srcs = false → (∀ r ∈ s.vopReasons c o, r = 0) →
      ∃ t op, exec (.vop i f) s = .next t ∧ Outstanding i s t (issuedAt s (pastInstr k)) o.dsts o.srcs ∧ OutsideSlots s t c ∧
        t = { s with ctl := t.ctl, mem := t.mem, ue := t.ue, sce := t.sce, ctxs := t.ctxs, cores := t.cores, nextId := s.nextId + 1 } ∧
        (s.ue = [] → s.sce = [] → t.ctl = s.ctl) ∧
        t.core c = { s.core c with vu := (s.core c).vu ++ [op] } ∧
        op = { o with id := s.nextId, scale := op.scale, prepass := op.prepass, statScale := op.statScale }) ∧
    (f.att = 1 ∨ f.att = 2 → (∀ r ∈ s.attachReasons c a, r = 0) →
      ∃ t, exec (.vop i f) s = .next t ∧ t = { s with ctxs := t.ctxs, cores := t.cores, nextId := s.nextId + 1 } ∧
        ctxAt t i = issuedAt s (pastInstr k) ∧ (∀ n, n ≠ c * 4 + x → Tbl.get {} t.ctxs n = Tbl.get {} s.ctxs n) ∧
        t.core c = { s.core c with attach := (s.core c).attach ++ [{ a with id := s.nextId }] } ∧ ∀ n, n ≠ c → t.core n = s.core n) ∧
    (f.att = 1 ∨ f.att = 2 → (∀ r ∈ (s.attachReasons c a).take 5, r = 0) →
      (∃ b ∈ (s.core c).attach, b.x = x ∧ b.eng = f.eng.toNat ∧ b.epi = a.epi) → Reportable s k → HaltsWith i s (exec (.vop i f) s) rsBAD_OPERAND))

/-! ### SEND and COLL at issue (R91, R97, R111, R357 to R364, R593) -/

namespace Sys2Proof.Machine

/-- After its issue a SEND is outstanding with `left` messages, its arrival bit, when it has one, is cleared and pending, and the context has
passed it; nothing else has changed but the slot of TA, which is read-marked, and what the module notes of errors that the reads met. -/
def SendIssued (i : Iss) (s u : State) (f : SendF) (left : Nat) : Prop :=
  let c := i.core.toNat
  Outstanding i s u (pastInstr (ctxAt s i)) [] [] ∧ OutsideSlots s u c ∧
    u = { s with ctl := u.ctl, mem := u.mem, ue := u.ue, sce := u.sce, ctxs := u.ctxs, cores := u.cores, nextId := s.nextId + 1 } ∧
    (s.ue = [] → s.sce = [] → u.ctl = s.ctl) ∧
    (∃ op : SendOp, (u.core c).sends = (s.core c).sends ++ [op] ∧ op.id = s.nextId ∧ op.x = i.ctx.toNat ∧ op.no = (ctxAt s i).cmdNo ∧
      op.left = left ∧ op.arr = (if f.setarr then some f.arr.toNat else none)) ∧
    u.core c = { s.core c with sends := (u.core c).sends, arr := (u.core c).arr, arrPend := (u.core c).arrPend } ∧
    (f.setarr = true → (u.core c).arrBit f.arr.toNat = false ∧ Tbl.get 0 (u.core c).arrPend f.arr.toNat = s.nextId)

end Sys2Proof.Machine

/-- SEND issues whenever the interlock and the checks let it, and hands one block to the fabric: TA's tag stamped, EXTENT and SHARD, the elements
packed. A block of at most 65,536 bytes for this site is one message, which a RUNNING port with a route takes with the next request number (R58, R63,
R91, R97, R111, R331, R333).
The model's own choices it rests on: log 13, 64. -/
def Obligations.SendsIssue : Prop :=
  ∀ (i : Iss) (s : State) (f : SendF), CanRun i s → (ctxAt s i).holds [] [f.ta.toNat] = false →
    let c := i.core.toNat
    let ta := (ctxAt s i).treg f.ta.toNat
    let sd := ((ctxAt s i).sreg f.sdst.toNat).toNat
    let arr := if f.setarr then some f.arr.toNat else none
    let hive := sd.testBit 31
    let site := bitsOf sd 21 14
    let dst : BitVec 14 := BitVec.ofNat 14 (bitsOf sd 13 0)
    let unit : BitVec 4 := if hive then 1 else 0
    let index : BitVec 12 := BitVec.ofNat 12 (if hive then bitsOf sd 25 22 else bitsOf sd 28 22 * 4 + bitsOf sd 30 29)
    let plane := if hive then bitsOf sd 25 22 else bitsOf sd 47 32 % 16
    let blk := s.sendBlk ta sd
    (∀ r ∈ s.sendReasons c arr ta.d, r = 0) →
    ∃ u, SendIssued i s u f (s.messageCount site blk.payload) ∧
      exec (.send i f) s = .next ((u.sendBlock plane site dst unit index blk (.send c s.nextId)).noteIssue c i.ctx.toNat) ∧
      (site = s.siteId.toNat → blk.payload.length ≤ 65536 → s.fnState (.sf (BitVec.ofNat 4 plane)) = 2 →
        (u.route plane dst.toNat).isSome = true → blk.desc.srcModule = 0x3FFF →
        ∃ t tx, exec (.send i f) s = .next t ∧ (t.port plane).tx = (s.port plane).tx ++ [tx] ∧ tx.reqId = (s.port plane).nextReq ∧
          tx.dst = dst ∧ tx.unit = unit ∧ tx.index = index ∧ tx.blk.payload = blk.payload ∧ tx.blk.tag = blk.tag ∧
          tx.blk.desc.seq = Tbl.get 0 s.sfSeq blk.tag.group.toNat ∧ tx.owner = .send c s.nextId)

namespace Sys2Proof.Machine

/-- The collective `k` is outstanding at its group as the next CSEQ, TD is busy, and its context has passed the COLL; TA's slot may be
read-marked, and nothing has been sent yet. -/
def CollJoins (i : Iss) (s u : State) (g : Nat) (k : Coll) : Prop :=
  (u.group g).cseq = (s.group g).cseq + 1 ∧ (u.group g).outst = (s.group g).outst ++ [k] ∧
    (∀ n, n ≠ g → u.group n = s.group n) ∧ k.cseq = (s.group g).cseq ∧
    ctxAt u i = (pastInstr (ctxAt s i)).begin s.nextId [k.td.r] [] ∧
    (∀ n, n ≠ i.core.toNat * 4 + i.ctx.toNat → Tbl.get {} u.ctxs n = Tbl.get {} s.ctxs n) ∧
    u.fld 0x23 g 0x30 31 28 = ((s.group g).outst.length + 1) % 16 ∧ OutsideSlots s u i.core.toNat ∧ u.ports = s.ports ∧ u.sfOut = s.sfOut

end Sys2Proof.Machine

/-- COLL issues whenever the interlock, the hold of R358 and the checks let it: the collective takes its group's next CSEQ and starts. It is held
while 8 are outstanding, and COLL_HOLD_RELEASE issues it once the one that was the oldest then has completed, and does nothing before
(R91, R357 to R359, R364).
The model's own choices it rests on: log 15, 64. -/
def Obligations.CollsIssue : Prop :=
  ∀ (i : Iss) (s : State) (f : CollF), i.core.toNat < 96 →
    let c := i.core.toNat
    let k := ctxAt s i
    let ta := k.opd f.ta.toNat
    let td := k.opd f.td.toNat
    let g := ta.t.tag.group.toNat
    let q := s.newColl c i.ctx.toNat f ta td g
    (∀ o rest, CanRun i s → k.holds [f.td.toNat] [f.ta.toNat] = false → (s.group g).outst = o :: rest → 7 ≤ rest.length →
      LeavesCtx i s (exec (.coll i f) s) { k with wait := .coll (.coll i f) o.cseq, st := .waiting }) ∧
    (CanRun i s → k.holds [f.td.toNat] [f.ta.toNat] = false → (s.group g).outst.length < 8 →
      (s.endPieces g).collReason c g f ta.t.tag.op.toNat ta.t.d td.t.d (arrOpt f.setarr f.arr) = 0 →
      ∃ u, CollJoins i s u g q ∧ exec (.coll i f) s =
        .next ((if s.gCount g = 1 then u.completeColl g q else u.collBegin g q.cseq).noteIssue c i.ctx.toNat)) ∧
    (∀ oldest, k.wait = .coll (.coll i f) oldest →
      ((∀ o ∈ (s.group g).outst, o.cseq ≠ oldest) →
        exec (.collHoldRelease i.core i.ctx) s = exec (.coll i f) (s.wake c i.ctx.toNat) ∧
        ∃ t, exec (.collHoldRelease i.core i.ctx) s = .next t) ∧
      ((∃ o ∈ (s.group g).outst, o.cseq = oldest) → exec (.collHoldRelease i.core i.ctx) s = .next s))

/-! ### Engines at work (R106, R141, R147, R151, R164, R219 to R223, R494 to R510) -/

namespace Sys2Proof.Machine

/-- Of the contexts, only context `x` of core `c` has changed, and there only the tags of the tensor registers `ds` and that instruction `id` is no
longer outstanding and its registers no longer busy for it. -/
def OpEnds (s t : State) (c x id : Nat) (ds : List Nat) : Prop :=
  (∀ n, n ≠ c * 4 + x → Tbl.get {} t.ctxs n = Tbl.get {} s.ctxs n) ∧
    t.ctx c x = { s.ctx c x with
      tregs := (t.ctx c x).tregs
      outst := (s.ctx c x).outst.filter (fun o => o.id != id)
      busy := (s.ctx c x).busy.filter (fun b => b.id != id) } ∧
    (∀ n, n ∉ ds → (t.ctx c x).treg n = (s.ctx c x).treg n) ∧ ∀ n, ((t.ctx c x).treg n).d = ((s.ctx c x).treg n).d

/-- Only engine `m` of core `c` has changed among the engines. -/
def EngineOnly (s t : State) (c m : Nat) : Prop := ∀ n, n ≠ c * 4 + m → Tbl.get {} t.engines n = Tbl.get {} s.engines n

/-- Only engine `m` of core `c` has changed among the engines and, while its ED_CFG.TWIN is 1, the taster of the engine after it, which works as
`m` does (R505). -/
def PairOnly (s t : State) (c m : Nat) : Prop :=
  (∀ n, n ≠ c * 4 + m → (s.twinOn c m = true → n ≠ c * 4 + m + 1) → Tbl.get {} t.engines n = Tbl.get {} s.engines n) ∧
    t.eng c (m + 1) = { s.eng c (m + 1) with
      samples := (t.eng c (m + 1)).samples
      tasteWin := (t.eng c (m + 1)).tasteWin
      tasteCnt := (t.eng c (m + 1)).tasteCnt
      tasteDraws := (t.eng c (m + 1)).tasteDraws }

/-- Byte `j` holds part of an element of `d` in the rectangle `q`, or the block scale of one. -/
def InRect (d : TDesc) (q : Rect) (j : Nat) : Prop :=
  ∃ i k, i < q.ni ∧ k < q.nj ∧
    ((elemBit d (q.i0 + i) (q.j0 + k) / 8 ≤ j ∧ 8 * j < elemBit d (q.i0 + i) (q.j0 + k) + fmtBits d.fmt.toNat) ∨
      (d.bscale = true ∧ j = scaleAddr d (q.i0 + i) (q.j0 + k)))

/-- A stationary buffer that holds the tile of a LOADS: marked loaded with SH, KN, NN and TB's format, its tag that of TB, with POISON when an
element it read is uncorrectable (R103, R151, R290). -/
def loadedBuf (s : State) (o : LoadsOp) : Buf where
  loaded := true
  sh := o.sh
  kn := o.kn
  nn := o.nn
  fmt := o.tb.t.d.fmt.toNat
  tile := s.loadTile o
  tag := if s.poisonRects [(o.tb.t.d, o.rect)] then orFlags o.tb.t.tag (flagBit fPOISON true) else o.tb.t.tag

/-- Byte `j` lies in the layer watch table (R231). -/
def InLayers (s : State) (j : Nat) : Prop :=
  let a := modAddr (s.fld 0x20 0 0x204 31 0 * 4096)
  a ≤ j ∧ j < a + 128 * s.layerCount

/-- Memory holds what it held outside the elements of these rectangles, the core's scale slots and the layer watch table. -/
def OnlyWrites (s t : State) (c : Nat) (rs : List (TDesc × Rect)) : Prop :=
  ∀ j, (∀ r ∈ rs, ¬ InRect r.1 r.2 j) → ¬ InSlots s c j → ¬ InLayers s j → t.byte j = s.byte j

end Sys2Proof.Machine

/-- The first instruction of an engine's queue that has not started starts when R147 lets it, once the STREAM before it that nothing holds back
any more has been fed: a LOADS and a STREAM stand started in their place, a LOADS with its buffer no longer loaded and of the form being
written, a STREAM with the buffer it will read; a DRAIN has its scale chosen or awaits its pre-pass; ENG.SEED completes with the generator set
(R141, R147, R181, R219, R220, R221).
The model's own choices it rests on: log 11, 49. -/
def Obligations.EngineStartsInstruction : Prop :=
  ∀ (s : State) (c : BitVec 7) (m : BitVec 2) (before after : List EngOp) (op : EngOp), c.toNat < 96 →
    let f := s.feed c.toNat m.toNat
    let e := f.eng c.toNat m.toNat
    e.q = before ++ op :: after → (∀ o ∈ before, o.started = true) → op.started = false →
    2 ≤ s.fld 0x11 (c.toNat * 4 + m.toNat) 0 2 0 → e.retiring = false → e.mayStart before op.kind = true →
    (∀ o, op.kind = .loads o →
      ∃ t, exec (.engineInstrStart c m) s = .next t ∧
        t = { s with engines := t.engines, ctl := t.ctl, mem := t.mem, ue := t.ue, sce := t.sce } ∧
        EngineOnly s t c.toNat m.toNat ∧ OutsideSlots s t c.toNat ∧
        t.eng c.toNat m.toNat = { (e.setBuf o.buf { e.bufN o.buf with loaded := false, sh := o.sh }) with q :=
          before ++ { op with started := true, cc := s.cycle } :: after }) ∧
    (∀ v, op.kind = .seed v →
      ∃ t, exec (.engineInstrStart c m) s = .next t ∧ t = { s with engines := t.engines, ctxs := t.ctxs } ∧ EngineOnly s t c.toNat m.toNat ∧
        t.eng c.toNat m.toNat = { e with q := before ++ after, seed := v } ∧ OpEnds s t c.toNat op.x op.id []) ∧
    (∀ o, op.kind = .drain o →
      ∃ t op', exec (.engineInstrStart c m) s = .next t ∧
        t = { s with engines := t.engines, ctl := t.ctl, mem := t.mem, ue := t.ue, sce := t.sce } ∧ (s.ue = [] → s.sce = [] → t.ctl = s.ctl) ∧
        EngineOnly s t c.toNat m.toNat ∧ OutsideSlots s t c.toNat ∧ t.eng c.toNat m.toNat = { e with q := before ++ op' :: after } ∧
        op' = { op with started := true, cc := s.cycle, scale := op'.scale, prepass := op'.prepass } ∧
        (s.wantsPrepass c.toNat o.tc.t.d = true → op'.prepass = true ∧ op'.scale = op.scale) ∧
        (s.wantsPrepass c.toNat o.tc.t.d = false → op'.prepass = op.prepass ∧ op'.scale = (s.chooseScale c.toNat o.tc.t.d).1)) ∧
    (∀ o, op.kind = .stream o → f.replayDue c.toNat m.toNat = true →
      exec (.engineInstrStart c m) s = .next (if op.waited then s else s.noteWaited c.toNat m.toNat op)) ∧
    (∀ o, op.kind = .stream o → f.replayDue c.toNat m.toNat = false → (∀ p ∈ before ++ after, p.id ≠ op.id) →
      (∀ p ∈ after, p.started = false) →
      ∃ t op', exec (.engineInstrStart c m) s = .next t ∧ (t.eng c.toNat m.toNat).q = before ++ op' :: after ∧ PairOnly s t c.toNat m.toNat ∧
        op'.started = true ∧ op'.kind = op.kind ∧ op'.id = op.id ∧ op'.cc = s.cycle ∧ op'.buf = e.bufN o.buf ∧
        (t.eng c.toNat m.toNat).last = some (op.id, o.sh) ∧ t.ctxs = s.ctxs ∧ t.cores = s.cores ∧ OnlyWrites s t c.toNat [] ∧
        (op.fed = false → o.rel = true → op'.fed = true → ((t.eng c.toNat m.toNat).bufN o.buf).loaded = false))

/-- LOADS_COMPLETE fills the buffer with TB's tile, marked loaded with its shape, and leaves the queue. DRAIN_COMPLETE without failed checks leaves
the queue, writes at most the elements of its rows and columns in TC, the scale slots and the layer watch table, and marks TC's tag with its
FMT and a right TRES; one of no rows writes no element and records an amax of 0 in its slot. A frozen engine completes neither (R60, R90, R103,
R151, R154, R163 to R165, R172, R222).
The model's own choices it rests on: log 3, 11, 60, 61, 69. -/
def Obligations.LoadsAndDrainsComplete : Prop :=
  ∀ (s : State) (c : BitVec 7) (m : BitVec 2) (op : EngOp), c.toNat < 96 →
    let e := s.eng c.toNat m.toNat
    let rest := e.q.filter (fun o => o.id != op.id)
    (∀ o, e.running isLoads = some op → op.kind = .loads o → s.frozen c.toNat m.toNat = false →
      ∃ t, exec (.loadsComplete c m) s = .next t ∧ t = { s with engines := t.engines, ctxs := t.ctxs, ctl := t.ctl, sce := t.sce } ∧
        EngineOnly s t c.toNat m.toNat ∧ OpEnds s t c.toNat op.x op.id [] ∧
        t.eng c.toNat m.toNat = { (e.setBuf o.buf (loadedBuf s o)) with q := rest }) ∧
    (∀ o, e.running isLoads = some op → op.kind = .loads o → s.frozen c.toNat m.toNat = true → exec (.loadsComplete c m) s = .next s) ∧
    (∀ o, e.running isDrain = some op → op.kind = .drain o → s.frozen c.toNat m.toNat = true → exec (.drainComplete c m []) s = .next s) ∧
    (∀ o, e.running isDrain = some op → op.kind = .drain o → s.frozen c.toNat m.toNat = false → (op.prepass = false ∨ op.swept = true) →
      e.retiring = false → (∀ h ∈ e.holds, h.id ≠ op.id) → o.tc.r < 32 →
      ∃ t, exec (.drainComplete c m []) s = .next t ∧
        t = { s with engines := t.engines, ctxs := t.ctxs, ctl := t.ctl, mem := t.mem, ue := t.ue, sce := t.sce, freeCtr := t.freeCtr } ∧
        EngineOnly s t c.toNat m.toNat ∧ OpEnds s t c.toNat op.x op.id [o.tc.r] ∧ t.eng c.toNat m.toNat = { e with q := rest } ∧
        OnlyWrites s t c.toNat [(o.tc.t.d, { i0 := o.m0, j0 := o.nc, ni := o.m, nj := o.nn })] ∧
        (o.m ≠ 0 → ((t.ctx c.toNat op.x).treg o.tc.r).tag.fmt = o.tc.t.d.fmt ∧ tagOk ((t.ctx c.toNat op.x).treg o.tc.r).tag = true) ∧
        (o.m = 0 → op.prepass = false → t.mem = (s.slotComplete c.toNat o.tc.t.d (0, 0) {} false).mem))

/-- STREAM_COMPLETE: a STREAM that has been fed, in an engine that is not frozen, completes: one of no rows changes nothing but that it ends; one
whose inputs carry POISON writes no memory and sets POISON in TC's tag; any other without failed checks leaves the queue, done, writes at
most the elements of its rows in TC, the scale slots and the layer watch table, and with DSTB = 0 sets FMT of TC's tag. One that is not fed
stays. PREPASS_SECOND_SWEEP chooses the scale of a DRAIN from the exact largest magnitude of its values (R90, R104, R106, R107, R161, R164,
R172, R219, R220).
The model's own choices it rests on: log 11, 49, 61, 69. -/
def Obligations.StreamsComplete : Prop :=
  ∀ (s : State) (c : BitVec 7) (m : BitVec 2) (op : EngOp), c.toNat < 96 →
    let f := s.feed c.toNat m.toNat
    let e := f.eng c.toNat m.toNat
    let rest := e.q.filter (fun o => o.id != op.id)
    (∀ o, e.running isStream = some op → op.kind = .stream o → op.fed = false → exec (.streamComplete c m []) s = .next s) ∧
    (∀ o, e.running isStream = some op → op.kind = .stream o → op.fed = true → f.frozen c.toNat m.toNat = false → e.bankHeld op = false →
      (o.m = 0 →
        ∃ t, exec (.streamComplete c m []) s = .next t ∧ t = { s with engines := t.engines, ctxs := t.ctxs, ctl := t.ctl } ∧
          EngineOnly s t c.toNat m.toNat ∧ OpEnds s t c.toNat op.x op.id [] ∧ t.eng c.toNat m.toNat = { e with q := rest }) ∧
      (o.m ≠ 0 → op.poisonIn o = true → o.pro = none → o.epi = none → o.tc.r < 32 →
        ∃ t, exec (.streamComplete c m []) s = .next t ∧ t = { s with engines := t.engines, ctxs := t.ctxs, ctl := t.ctl } ∧
          EngineOnly s t c.toNat m.toNat ∧ OpEnds s t c.toNat op.x op.id [o.tc.r] ∧ t.eng c.toNat m.toNat = { e with q := rest } ∧
          ((t.ctx c.toNat op.x).treg o.tc.r).tag = orFlags ((s.ctx c.toNat op.x).treg o.tc.r).tag (flagBit fPOISON true)) ∧
      (o.m ≠ 0 → op.poisonIn o = false → o.pro = none → o.epi = none → e.retiring = false → (∀ h ∈ e.holds, h.id ≠ op.id) →
        (o.red = 3 → o.tc.t.d.fmt = 0) →
        ∃ t, exec (.streamComplete c m []) s = .next t ∧
          t = { s with engines := t.engines, ctxs := t.ctxs, ctl := t.ctl, mem := t.mem, ue := t.ue, sce := t.sce, freeCtr := t.freeCtr } ∧
          PairOnly s t c.toNat m.toNat ∧ OpEnds s t c.toNat op.x op.id [o.tc.r] ∧ (t.eng c.toNat m.toNat).q = rest ∧
          OnlyWrites s t c.toNat
            (if o.dstb then [] else [(o.tc.t.d, { i0 := o.m0, j0 := o.col, ni := o.m, nj := o.width })]) ∧
          (o.dstb = false → o.tc.r < 32 → ((t.ctx c.toNat op.x).treg o.tc.r).tag.fmt = o.tc.t.d.fmt))) ∧
    (∀ o, let e := s.eng c.toNat m.toNat
      e.running (fun k => isStream k || isDrain k) = some op → op.kind = .drain o → op.prepass = true → op.swept = false →
      s.frozen c.toNat m.toNat = false → (∀ h ∈ e.holds, h.id ≠ op.id) →
      ∃ t, exec (.prepassSecondSweep c m []) s = .next t ∧
        t = { s with engines := t.engines, ctl := t.ctl, mem := t.mem, ue := t.ue, sce := t.sce } ∧
        EngineOnly s t c.toNat m.toNat ∧ OutsideSlots s t c.toNat ∧
        t.eng c.toNat m.toNat = { e with q := e.q.map (fun p => if p.id = op.id then
          { op with scale := (s.choosePrepass c.toNat o.tc.t.d (amaxOf (s.drainValues c.toNat m.toNat o).flatten)).1, swept := true } else p) })

/-! ### The vector unit and the mover at completion (R90, R106, R139, R222, R257 to R262) -/

namespace Sys2Proof.Machine

/-- The mover of core `c` has done operation `o`, the first of its list: it has left, its arrival bit, when it has one, is set and no longer
pending, and instruction and registers are free. -/
def MoverEnds (s t : State) (c : Nat) (o : MvOp) (rest : List MvOp) : Prop :=
  OpEnds s t c o.x o.id [o.td.r] ∧ (t.core c).mv = rest ∧
    t.core c = { s.core c with mv := rest, arr := (t.core c).arr, arrPend := (t.core c).arrPend, arrSet := (t.core c).arrSet } ∧
    (∀ b, o.arr = some b → b < 4096 → (t.core c).arrBit b = true ∧ (t.core c).arrPending b = false) ∧
    (o.arr = none → (t.core c).arr = (s.core c).arr ∧ (t.core c).arrPend = (s.core c).arrPend ∧ (t.core c).arrSet = (s.core c).arrSet) ∧
    (∀ n, n ≠ c → t.core n = s.core n) ∧
    t = { s with cores := t.cores, ctxs := t.ctxs, ctl := t.ctl, mem := t.mem, ue := t.ue, sce := t.sce, freeCtr := t.freeCtr }

/-- Byte `j` lies in the larder header of the stash that `d` describes (R258). -/
def InHeader (d : TDesc) (j : Nat) : Prop := headerAddr d ≤ j ∧ j < headerAddr d + 64

end Sys2Proof.Machine

/-- MOVE_COMPLETE, STASH_COMPLETE and FETCH_COMPLETE end the mover's first instruction and VOP_COMPLETE the vector unit's: with POISON in what it read it
writes nothing but POISON into its destination's tag; otherwise it writes the destination and its tag, a STASH the larder header besides, and
a FETCH takes the tag's fields from the header (R60, R90, R97, R106, R139, R247, R257 to R262).
The model's own choices it rests on: log 3, 11, 21, 60, 69. -/
def Obligations.MoverAndVectorComplete : Prop :=
  (∀ (s : State) (c : BitVec 7) (o : MvOp) (rest : List MvOp), c.toNat < 96 →
    (s.core c.toNat).mv = o :: rest → (∀ p ∈ rest, p.id ≠ o.id) → o.td.r < 32 → sameShape o.ta.t.d o.td.t.d = true →
    let d := o.td.t.d
    let old := ((s.ctx c.toNat o.x).treg o.td.r).tag
    let tag := fun t : State => ((t.ctx c.toNat o.x).treg o.td.r).tag
    (o.kind = .move → o.poisoned = true →
      ∃ t, exec (.moveComplete c) s = .next t ∧ MoverEnds s t c.toNat o rest ∧ t.mem = s.mem ∧ tag t = orFlags old (flagBit fPOISON true)) ∧
    (o.kind = .move → o.poisoned = false →
      ∃ t, exec (.moveComplete c) s = .next t ∧ MoverEnds s t c.toNat o rest ∧ OnlyWrites s t c.toNat [(d, d.all)] ∧
        (d.rows ≠ 0 → d.cols ≠ 0 → (tag t).fmt = d.fmt ∧ tagOk (tag t) = true) ∧
        (d.rows = 0 ∨ d.cols = 0 → (tag t).fmt = (readTag old).fmt ∧ (tag t).scale = (readTag old).scale) ∧
        (tag t).kind = (readTag old).kind ∧ (tag t).layer = (readTag old).layer ∧ (tag t).flags &&& carriedOf o.ta.t.tag = carriedOf o.ta.t.tag) ∧
    (o.kind = .stash →
      ∃ t, exec (.stashComplete c) s = .next t ∧ MoverEnds s t c.toNat o rest ∧
        (∀ j, ¬ InRect d d.all j → ¬ InHeader d j → ¬ InLayers s j → t.byte j = s.byte j) ∧
        (tag t).kind = 5 ∧ (tag t).fmt = d.fmt ∧ (tag t).scale = (readTag o.ta.t.tag).scale ∧
        (tag t).layer = (readTag o.ta.t.tag).layer ∧ (tag t).count = 1 ∧ (o.poisoned = true → hasFlag (tag t) fPOISON = true) ∧
        t.readNat (headerAddr d) 16 = tagBits (tag t)) ∧
    (o.kind = .fetch → (tagOk (headerTag o.hdr) = false ∨ hasFlag (headerTag o.hdr) fPOISON = true) →
      ∃ t, exec (.fetchComplete c) s = .next t ∧ MoverEnds s t c.toNat o rest ∧ t.mem = s.mem ∧ tag t = orFlags old (flagBit fPOISON true)) ∧
    (o.kind = .fetch → tagOk (headerTag o.hdr) = true → hasFlag (headerTag o.hdr) fPOISON = false →
      ∃ t, exec (.fetchComplete c) s = .next t ∧ MoverEnds s t c.toNat o rest ∧
        (∀ j, ¬ InRect d d.all j → ¬ InLayers s j → t.byte j = s.byte j) ∧ (tag t).fmt = d.fmt ∧
        (tag t).scale = (headerTag o.hdr).scale ∧ (tag t).layer = (headerTag o.hdr).layer ∧ (tag t).group = (headerTag o.hdr).group ∧
        (tag t).op = (headerTag o.hdr).op ∧ (tag t).kind = BitVec.ofNat 4 (headerKind o.hdr))) ∧
  (∀ (s : State) (c : BitVec 7) (o : VuOp) (rest : List VuOp), c.toNat < 96 → (s.core c.toNat).vu = o :: rest → o.td.r < 32 →
    let ds := o.td.r :: o.stats.toList.map (fun q => q.r)
    let w := if o.fn = 13 ∨ o.fn = 14 then 1 else o.ta.t.d.cols.toNat
    let n := o.ta.t.d.rows.toNat
    ∃ t, exec (.vopComplete c) s = .next t ∧ OpEnds s t c.toNat o.x o.id ds ∧
      t.core c.toNat = { s.core c.toNat with vu := rest } ∧ (∀ n, n ≠ c.toNat → t.core n = s.core n) ∧
      t = { s with cores := t.cores, ctxs := t.ctxs, ctl := t.ctl, mem := t.mem, ue := t.ue, sce := t.sce, freeCtr := t.freeCtr } ∧
      (o.tags.any poisoned = true → t.mem = s.mem ∧ t.freeCtr = s.freeCtr ∧ hasFlag ((t.ctx c.toNat o.x).treg o.td.r).tag fPOISON = true) ∧
      (o.tags.any poisoned = false → OnlyWrites s t c.toNat ((o.td.t.d, { ni := n, nj := w }) ::
          o.stats.toList.map (fun q => (q.t.d, { ni := n, nj := 5 }))) ∧
        (o.stats = none → t.freeCtr = s.freeCtr + n * w ∧
          (n ≠ 0 → w ≠ 0 → ((t.ctx c.toNat o.x).treg o.td.r).tag.fmt = o.td.t.d.fmt))))

/-! ### The taster, replays and retirement (R230 to R236, R498 to R509) -/

namespace Sys2Proof.Machine

/-- Only the registers of `ks` have changed. -/
def OnlyWords (s t : State) (ks : List Nat) : Prop := ∀ b i o, ctlKey b i o ∉ ks → t.word b i o = s.word b i o

/-- A 64-bit counter has counted one, and holds at its maximum (R57, R182). -/
def Counts1 (s t : State) (b i o : Nat) : Prop := t.word64 b i o = min (s.word64 b i o + 1) (2 ^ 64 - 1)

/-- Flag `n` of the W1C register at `o` is set. -/
def FlagSet (t : State) (b i o n : Nat) : Prop := t.fld b i o n n = 1

/-- Held tile `h` of engine `m` stays unresolved (R500): it is held no longer, ED_UNRESOLVED counts and UNRESOLVED is set, the tag of tensor register
`r` of context `x` carries POISON, no memory is written, and no other context, no core and no other engine changes. -/
def Unresolved (s t : State) (c m : Nat) (h : Hold) (x r : Nat) : Prop :=
  t = { s with engines := t.engines, ctl := t.ctl, ctxs := t.ctxs } ∧ EngineOnly s t c m ∧
    t.eng c m = { s.eng c m with holds := (s.eng c m).holds.erase h } ∧ Counts1 s t 0x13 (c * 4 + m) 0x70 ∧ FlagSet t 0x13 (c * 4 + m) 0x08 3 ∧
    hasFlag ((t.ctx c x).treg r).tag fPOISON = true ∧ (∀ n, n ≠ c * 4 + x → Tbl.get {} t.ctxs n = Tbl.get {} s.ctxs n)

end Sys2Proof.Machine

/-- TASTER_COMPARE compares the oldest waiting sample of an engine whenever there is one: the sample leaves, TASTE_SAMPLES counts, and a bin at
TASTE_LIMIT or above counts in TASTE_EXCEED and sets its flag; a non-finite value is bin 15 and an all-zero sample bin 0. No register of an
engine, context or core changes (R230, R236). Where a shallow STREAM has taken the spare bank, every waiting sample is abandoned and counts in
TASTE_SKIPPED (R169, R237).
The model's own choices it rests on: log 3, 7, 33. -/
def Obligations.TasterCompares : Prop :=
  ∀ (s : State) (c : BitVec 7) (m : BitVec 2) (x : Sample) (xs : List Sample), c.toNat < 96 → (s.eng c.toNat m.toNat).samples = x :: xs →
    let b := tasteBin x.vals
    let limit := s.fld 0x10 c.toNat 0x400 24 21
    ((∃ p ∈ x.vals, p.1.isFinite = false ∨ p.2.isFinite = false) → b = 15) ∧
    ((∀ p ∈ x.vals, p = (.fin false 0 0, .fin false 0 0)) → b = 0) ∧
    (s.spareTaken c.toNat m.toNat = true →
      ∃ t, exec (.tasterCompare c m) s = .next t ∧
        t = { s with engines := t.engines, ctl := t.ctl, mem := t.mem, ue := t.ue, sce := t.sce } ∧ EngineOnly s t c.toNat m.toNat ∧
        t.eng c.toNat m.toNat = { s.eng c.toNat m.toNat with samples := [] } ∧
        t.word64 0x10 c.toNat (0x460 + 0x30 * m.toNat) = min (s.word64 0x10 c.toNat (0x460 + 0x30 * m.toNat) + (xs.length + 1)) (2 ^ 64 - 1) ∧
        (s.layerCount = 0 → t.mem = s.mem)) ∧
    (s.spareTaken c.toNat m.toNat = false → ∃ t, exec (.tasterCompare c m) s = .next t ∧
      t = { s with engines := t.engines, ctl := t.ctl, mem := t.mem, ue := t.ue, sce := t.sce } ∧ EngineOnly s t c.toNat m.toNat ∧
      t.eng c.toNat m.toNat = { s.eng c.toNat m.toNat with samples := xs } ∧
      Counts1 s t 0x10 c.toNat (0x458 + 0x30 * m.toNat) ∧
      (limit ≤ b → Counts1 s t 0x10 c.toNat (0x468 + 0x30 * m.toNat) ∧ FlagSet t 0x10 c.toNat 0x40C 4) ∧
      (b < limit → t.word64 0x10 c.toNat (0x468 + 0x30 * m.toNat) = s.word64 0x10 c.toNat (0x468 + 0x30 * m.toNat)) ∧
      (s.layerCount = 0 → t.mem = s.mem) ∧
      (s.layerCount ≠ 0 →
        let a := s.layerAddr x.layer
        (∀ j, ¬ (a ≤ j ∧ j < a + 128) → t.byte j = s.byte j) ∧
          t.readNat (a + 64 + 4 * b) 4 = min (s.readNat (a + 64 + 4 * b) 4 + 1) (2 ^ 32 - 1)))

/-- REPLAY takes the first held tile whose replay has not begun to the engine of R498's order; a tile that no engine may replay stays unresolved.
REPLAY_COMPLETE judges: equal totals count a false alarm, different ones a strike, and a replay whose own check failed with no engine left
is unresolved (R498 to R503).
The model's own choices it rests on: log 7. -/
def Obligations.ReplaysRun : Prop :=
  (∀ (s : State) (c : BitVec 7) (m : BitVec 2) (h : Hold), c.toNat < 96 →
    let cn := c.toNat
    let mn := m.toNat
    let e := s.eng cn mn
    let waits := fun (r : Nat) => s.replayingOn cn r || s.laterThan cn r h.seq || s.entryBarred cn r h.id (e.heldForm h.id)
    let still := fun (q : List EngOp) => q.map (fun o => { o with waited := false })
    e.holds.head? = some h →
    (h.rep.isSome = true → exec (.replay c m) s = .next s) ∧
    (∀ r, h.rep = none → s.nextReplayer cn mn h = some r → waits r = true → exec (.replay c m) s = .next s) ∧
    (∀ r, h.rep = none → s.nextReplayer cn mn h = some r → waits r = false →
      ∃ t, exec (.replay c m) s = .next t ∧ t = { s with engines := t.engines, ctl := t.ctl } ∧
        (∀ n, n ≠ cn * 4 + mn → n ≠ cn * 4 + r → Tbl.get {} t.engines n = Tbl.get {} s.engines n) ∧
        t.eng cn mn = { e with
          holds := e.holds.map (fun x => if x = h then { x with rep := some r } else x)
          q := if mn = r then (t.eng cn mn).q else e.q } ∧
        still (t.eng cn r).q = still (s.eng cn r).q ∧
        (mn ≠ r → t.eng cn r = { s.eng cn r with q := (t.eng cn r).q }) ∧
        OnlyWords s t [ctlKey 0x13 (cn * 4 + r) 0x68, ctlKey 0x13 (cn * 4 + r) 0x6C]) ∧
    (h.rep = none → s.nextReplayer cn mn h = none → ∀ op o, h.sweep1 = true → e.q.find? (fun o => o.id == h.id) = some op →
      op.kind = .stream o → op.fin = none → o.tc.r < 32 →
      ∃ t, exec (.replay c m) s = .next t ∧ Unresolved s t cn mn h op.x o.tc.r) ∧
    (h.other = none → ∀ r, s.mayReplay cn mn ((mn + 1) % 4) = true → s.nextReplayer cn mn h = some r → r = (mn + 1) % 4)) ∧
  (∀ (s : State) (c : BitVec 7) (m : BitVec 2) (r : ReplayRes) (h : Hold) (q : Nat) (op : EngOp), c.toNat < 96 → q < 4 →
    let cn := c.toNat
    let mn := m.toNat
    let i := cn * 4 + mn
    let e := s.eng cn mn
    let pair := decide (q / 2 = mn / 2) && s.twinOn cn mn
    let second : Hold := { h with rep := none, other := some q }
    e.holds.find? (fun h => h.rep.isSome) = some h → h.rep = some q →
    (pair = false → s.replayStill cn mn q h = true → exec (.replayComplete c m r) s = .next s) ∧
    (pair = true ∨ s.replayStill cn mn q h = false → h.kind = .own → h.sweep1 = true → h.other = none → h.retire = false →
      e.q.find? (fun o => o.id == h.id) = some op → op.fin = none →
      (r.checksPass = true ∨ s.residueOn cn q = false → r.totalsEqual = true →
        ∃ t, exec (.replayComplete c m r) s = .next t ∧ t = { s with engines := t.engines, ctl := t.ctl } ∧ EngineOnly s t cn mn ∧
          t.eng cn mn = { e with holds := e.holds.erase h } ∧ Counts1 s t 0x13 i 0x58 ∧ FlagSet t 0x13 i 0x08 2) ∧
      (r.checksPass = true ∨ s.residueOn cn q = false → r.totalsEqual = false → e.retired = false → s.residueOn cn mn = true →
        s.word64 0x13 i 0x18 = 2 ^ 64 - 1 →
        ∃ t, exec (.replayComplete c m r) s = .next t ∧ t = { s with engines := t.engines, ctl := t.ctl, sw := t.sw } ∧
          EngineOnly s t cn mn ∧ t.eng cn mn = { e with holds := e.holds.erase h } ∧ Counts1 s t 0x13 i 0x50 ∧
          FlagSet t 0x13 i 0x08 1 ∧ t.word64 0x13 i 0x18 = s.word64 0x13 i 0x10) ∧
      (r.checksPass = false → s.residueOn cn q = true → ∀ n, s.nextReplayer cn mn second = some n →
        ∃ t, exec (.replayComplete c m r) s = .next t ∧ t = { s with engines := t.engines, ctl := t.ctl } ∧ EngineOnly s t cn mn ∧
          t.eng cn mn = { e with holds := e.holds.map (fun x => if x = h then second else x) } ∧ FlagSet t 0x13 (cn * 4 + q) 0x08 0) ∧
      (r.checksPass = false → s.residueOn cn q = true → s.nextReplayer cn mn second = none → ∀ o, op.kind = .stream o → o.tc.r < 32 →
        ∃ t, exec (.replayComplete c m r) s = .next t ∧ Unresolved s t cn mn h op.x o.tc.r)))

/-- RETIREMENT_REST: a retiring engine whose queue and held tiles are gone passes from RUNNING through FENCED and DRAINING, and then rests in OFF
with ME_REASON ENGINE_RETIRED, and the sizes table has one engine less; the engine keeps no buffer, bank or sample. An accepted TWIN_WRITE
sets TWIN of the pair: the follower's state is its leader's from then on, and a follower released keeps what the pair has loaded and
accumulated; nothing else changes, and one that is refused changes nothing (R80, R504, R505, R508, R509).
The model's own choices it rests on: log 7, 24, 25. -/
def Obligations.EnginesRetire : Prop :=
  ∀ (s : State) (c : BitVec 7) (m : BitVec 2), c.toNat < 96 →
    let i := c.toNat * 4 + m.toNat
    let e := s.eng c.toNat m.toNat
    (e.retiring = true → e.q = [] → e.holds = [] → ∀ st, s.fld 0x11 i 0 2 0 = st → st = 2 ∨ st = 3 →
      ∃ t, exec (.retirementRest c m) s = .next t ∧ t = { s with ctl := t.ctl } ∧ OnlyWords s t [ctlKey 0x11 i 0] ∧
        t.fld 0x11 i 0 2 0 = st + 1) ∧
    (e.retiring = true → e.q = [] → e.holds = [] → s.fld 0x11 i 0 2 0 = 4 → s.twinOn c.toNat m.toNat = false →
      ∃ t, exec (.retirementRest c m) s = .next t ∧ EngineOnly s t c.toNat m.toNat ∧
        t.eng c.toNat m.toNat = { seed := e.seed, resting := true, permanent := e.permanent } ∧ t.fld 0x11 i 0 2 0 = 0 ∧
        t.fld 0x11 i 8 15 0 = 0x9302 ∧ t.fld 0 0 (0x140 + 4 * (c.toNat / 8)) (4 * (c.toNat % 8) + m.toNat) (4 * (c.toNat % 8) + m.toNat) = 0 ∧
        t.word 0 0 0x10C = s.word 0 0 0x10C - 1 ∧ t.word 0 0 0x104 = s.word 0 0 0x104 + 1 ∧ t.mem = s.mem ∧ t.ctxs = s.ctxs ∧
        t.cores = s.cores) ∧
    (∀ (w : Writer) (on : Bool),
      let v := setBits (s.word 0x13 i 0).toNat 1 1 (b2n on)
      (s.ctlRefusal w (ctlAddr 0x13 i 0) 4 v = 0 → m.toNat % 2 = 0 → (s.word 0x13 i 0).toNat < 2 ^ 31 →
        let f := s.eng c.toNat (m.toNat + 1)
        ∃ t, exec (.twinWrite w c m on) s = .next t ∧ t = { s with ctl := t.ctl, rsv := t.rsv, engines := t.engines } ∧
          t.fld 0x13 i 0 1 1 = b2n on ∧ t.fld 0x13 i 0 0 0 = s.fld 0x13 i 0 0 0 ∧ EngineOnly s t c.toNat (m.toNat + 1) ∧
          t.eng c.toNat (m.toNat + 1) = (if on = false ∧ s.twinOn c.toNat m.toNat = true then f.parted e else f) ∧
          (on = true → t.fld 0x11 (i + 1) 0 2 0 = s.fld 0x11 i 0 2 0) ∧
          OnlyWords s t (if on then [ctlKey 0x13 i 0, ctlKey 0x11 (i + 1) 0] else [ctlKey 0x13 i 0])) ∧
      (s.ctlRefusal w (ctlAddr 0x13 i 0) 4 v ≠ 0 → exec (.twinWrite w c m on) s = .next s))

/-! ### FENCE.STEP and the step knock-back (R65 to R78, R426, R451) -/

/-- FENCE.STEP completes for every context that can run it: a member that opens a knock-back, or that counts for its K0, or that has become a member
since, waits for the fence; any other context passes it (R44, R65, R66).
The model's own choices it rests on: log 54, 64. -/
def Obligations.FenceStepWaits : Prop :=
  ∀ (i : Iss) (s : State), CanRun i s →
    let c := i.core.toNat
    let x := i.ctx.toNat
    let k := ctxAt s i
    let waits := fun (q : Ctx) (counts : Bool) => { q with fenced := true, counted := counts, wait := .fence, st := .waiting }
    (s.phase = 7 → s.stepMember c x = true →
      ∃ t, exec (.fenceStep i) s = .next t ∧ t = { s with ctl := t.ctl, ctxs := t.ctxs, kbStep := s.step24 } ∧ t.phase = 0 ∧
        OnlyWords s t [ctlKey 0 0 0x204] ∧ ctxAt t i = issuedAt s (waits { k with member := true } true)) ∧
    (s.phase = 7 → s.stepMember c x = false → IssuesCtx i s (exec (.fenceStep i) s) (pastInstr k)) ∧
    (s.phase ≠ 7 → k.member = true → IssuesCtx i s (exec (.fenceStep i) s) (waits k (s.phase == 0))) ∧
    (s.phase ≠ 7 → k.member = false → s.stepMember c x = true → IssuesCtx i s (exec (.fenceStep i) s) (waits k false)) ∧
    (s.phase ≠ 7 → k.member = false → s.stepMember c x = false → IssuesCtx i s (exec (.fenceStep i) s) (pastInstr k))

/-- K1 begins when every member has issued FENCE.STEP, K2 when every RUNNING core is empty, which raises CORE_DRAINED, K3 when the step's collectives have
completed, and K4 when every RUNNING hive has ended its part; before its condition holds, each phase stays. A knock-back that ends evaluation
mode clears EVAL and goes straight to K6 (R66, R69, R71, R77).
The model's own choices it rests on: log 7, 14, 54. -/
def Obligations.KnockbackDrains : Prop :=
  (∀ s : State,
    (s.phase = 0 → s.k0Ends = true →
      ∃ t, exec .knockbackK1CoreDrain s = .next t ∧ t = { s with ctl := t.ctl } ∧ t.phase = 1 ∧ OnlyWords s t [ctlKey 0 0 0x204] ∧
        t.step24 = s.step24) ∧
    ((s.phase ≠ 0 ∨ s.k0Ends = false) → exec .knockbackK1CoreDrain s = .next s) ∧
    (s.phase = 1 → (∀ c ∈ runningCores s, s.coreEmpty c = true) →
      ∃ t, exec .knockbackK2FabricDrain s = .next t ∧ t = { s with ctl := t.ctl, cores := t.cores } ∧ t.phase = 2 ∧
        OnlyWords s t [ctlKey 0 0 0x204] ∧ ∀ c ∈ runningCores s, (t.core c).drained = true) ∧
    (s.phase = 1 → (∃ c ∈ runningCores s, s.coreEmpty c = false) →
      ∃ t, exec .knockbackK2FabricDrain s = .next t ∧ t = { s with cores := t.cores } ∧ t.phase = 1) ∧
    (s.phase ≠ 1 → exec .knockbackK2FabricDrain s = .next s)) ∧
  (∀ s : State,
    (s.phase = 2 → s.collsDone s.kbStep = true → s.evalOn = true →
      ∃ t, exec .knockbackK3HiveDrain s = .next t ∧ t = { s with ctl := t.ctl, kbEval := s.evalWindow } ∧ t.phase = 5 ∧ t.evalOn = false ∧ t.step24 = s.step24 ∧
        OnlyWords s t [ctlKey 0 0 0x204]) ∧
    (s.phase = 2 → s.collsDone s.kbStep = true → s.evalOn = false →
      ∃ u : State, exec .knockbackK3HiveDrain s = .next u.hivesK3 ∧ u.phase = 3 ∧ u.ctxs = s.ctxs ∧ u.cores = s.cores ∧ u.mem = s.mem ∧
        (runningHives u = [] → u.hivesK3 = u)) ∧
    (s.phase = 2 → s.collsDone s.kbStep = false → exec .knockbackK3HiveDrain s = .next s) ∧
    (s.phase = 3 → exec .knockbackK3HiveDrain s = .next s.hivesK3) ∧
    (s.phase = 3 → s.hivesK3.k3Ends = true → s.hivesK3.foragerRounds = false →
      ∃ t, exec .knockbackK4BaseInstall s = .next t ∧ t = { s.hivesK3 with ctl := t.ctl } ∧ t.phase = 4 ∧
        OnlyWords s.hivesK3 t [ctlKey 0 0 0x204]) ∧
    (s.phase = 3 → s.hivesK3.k3Ends = false → exec .knockbackK4BaseInstall s = .next s.hivesK3) ∧
    (s.phase = 4 → exec .knockbackK4BaseInstall s = .next s.installK4) ∧
    (s.phase ≠ 3 → s.phase ≠ 4 → exec .knockbackK4BaseInstall s = .next s))

/-- K5 advances STEP by one, latches the evaluation window and holds the fence when the drift exceeds DRIFT_A; while the forager is not RUNNING
nothing but the step status changes, and while it is, the round's steps are counted and the last one raises a round knock-back that advances
ROUND. A drift hold repeats K4, with PHASE 4, when a base is due, and the K5 of a repeat advances nothing (R66, R71, R72, R75, R426, R451).
That the window is latched at K5 is the model's choice (log 14).
The model's own choices it rests on: log 7, 14, 54. -/
def Obligations.KnockbackAdvances : Prop :=
  ∀ s : State,
    (s.phase = 4 → (∀ k ∈ s.fg.kept, k.queued = false) →
      ∃ t, exec .knockbackK5Advance s = .next t ∧ t.phase = 5 ∧ t.kbEval = s.evalWindow ∧ t.kbRepeat = false ∧ t.ctxs = s.ctxs ∧
        t.cores = s.cores ∧ t.mem = s.mem ∧ t.evalOn = s.evalOn ∧
        (t.driftHold = true ↔ s.driftHold = true ∨ (s.fnRunning .forager = true ∧ t.driftA < t.drift)) ∧
        (s.kbRepeat = true → t = { s with ctl := t.ctl, kbEval := t.kbEval, kbRepeat := false } ∧ t.step24 = s.step24 ∧ t.round16 = s.round16 ∧
          t.word 0x25 0 0x14 = s.word 0x25 0 0x14) ∧
        (s.kbRepeat = false → t.step24 = (s.step24 + 1) % 2 ^ 24 ∧
          (s.fnRunning .forager = false → t = { s with ctl := t.ctl, kbEval := t.kbEval } ∧ OnlyWords s t [ctlKey 0 0 0x204]) ∧
          (s.fnRunning .forager = true → s.fld 0x25 0 0x14 15 0 + 1 ≠ s.fld 0x25 0 0x1C 15 0 →
            t = { s with ctl := t.ctl, kbEval := t.kbEval } ∧ t.round16 = s.round16 ∧
            t.fld 0x25 0 0x14 15 0 = (s.fld 0x25 0 0x14 15 0 + 1) % 2 ^ 16) ∧
          (s.fnRunning .forager = true → s.fld 0x25 0 0x14 15 0 + 1 = s.fld 0x25 0 0x1C 15 0 →
            t.round16 = (s.round16 + 1) % 2 ^ 16 ∧ t.fld 0x25 0 0x14 15 0 = 0 ∧ t.fld 0x25 0 0x14 29 29 = 1 ∧
            t.fg.encode = s.fg.encode ++ [(s.round16, BitVec.ofNat 64 (s.word64 0x25 0 0x60))]))) ∧
    (s.phase ≠ 4 ∨ (∃ k ∈ s.fg.kept, k.queued = true) → exec .knockbackK5Advance s = .next s) ∧
    (s.phase = 5 → s.driftHold = true →
      let u := s.againK4
      ((∃ k ∈ u.fg.kept, k.queued = true) →
        ∃ t, exec .driftHoldRepeat s = .next t ∧ t = { u.installK4 with kbRepeat := true } ∧ t.phase = 4 ∧ t.step24 = s.step24 ∧
          (u.foragerRounds = true → u.installServed = true → (∀ k ∈ u.fg.kept, k.queued = true → u.installWaits k = false) →
            (t.driftHold = false ↔ t.drift ≤ t.driftA)) ∧
          ((∃ k ∈ u.fg.kept, k.queued = true ∧ u.installWaits k = true) → t = { u with kbRepeat := true })) ∧
      ((∀ k ∈ u.fg.kept, k.queued = false) → exec .driftHoldRepeat s = .next s)) ∧
    (s.phase ≠ 5 ∨ s.driftHold = false → exec .driftHoldRepeat s = .next s)

/-- K6 opens the fence while HOLD is 0 and DRIFT_HOLD is 0 or the window was 1 at K5: every context that waits at the fence resumes after
FENCE.STEP, no context is a member any longer, and an evaluation window becomes EVAL. Otherwise the fence stays closed (R66, R70, R76, R529). The
latch of the window at K5 is the model's choice (log 14).
The model's own choices it rests on: log 7, 14. -/
def Obligations.KnockbackOpens : Prop :=
  ∀ s : State,
    (s.phase = 5 → s.fld 0 0 0x200 0 0 = 0 → (s.driftHold = false ∨ s.kbEval = true) →
      ∃ t, exec .knockbackK6Open s = .next t ∧ t.phase = 7 ∧ t.step24 = s.step24 ∧ t.mem = s.mem ∧ t.kbEval = false ∧
        (s.kbEval = true → t.evalOn = true ∧ t.evalWindow = false) ∧
        (s.kbEval = false → t.evalOn = s.evalOn ∧ t.evalWindow = s.evalWindow) ∧
        (∀ n, (Tbl.get {} s.ctxs n).wait = .fence →
          (Tbl.get {} t.ctxs n).wait = .none ∧ (Tbl.get {} t.ctxs n).pc = (Tbl.get {} s.ctxs n).pc + 8) ∧
        (∀ n, (Tbl.get {} s.ctxs n).wait ≠ .fence →
          (Tbl.get {} t.ctxs n).wait = (Tbl.get {} s.ctxs n).wait ∧ (Tbl.get {} t.ctxs n).pc = (Tbl.get {} s.ctxs n).pc) ∧
        (∀ n, (Tbl.get {} t.ctxs n).member = false ∧ (Tbl.get {} t.ctxs n).sregs = (Tbl.get {} s.ctxs n).sregs ∧
          (Tbl.get {} t.ctxs n).tregs = (Tbl.get {} s.ctxs n).tregs ∧ (Tbl.get {} t.ctxs n).preds = (Tbl.get {} s.ctxs n).preds)) ∧
    (s.phase ≠ 5 ∨ s.fld 0 0 0x200 0 0 = 1 ∨ (s.driftHold = true ∧ s.kbEval = false) → exec .knockbackK6Open s = .next s)

/-! ### Register writes (R16 to R19, R53, R57, R93, R210, R217) -/

namespace Sys2Proof.Machine

/-- The words of a block that do more on a write than to store: xx_CMD, a leader's ED_CFG, and the registers whose write has an effect of its
own. -/
def acts (b i o : Nat) : Prop :=
  b = 0 ∨ (cmdFn b i o).isSome = true ∨ isTwinWord b i o = true ∨
    (b, o) ∈ [(0x10, 0x10), (0x10, 0x400), (0x10, 0x408), (0x24, 0x40), (0x25, 0x6C), (0x25, 0x220), (1, 0xC)]

/-- What a field of a register word reads as after a write of `v`, when it read as `old` (R16). -/
def fieldAfter (f : Fld) (old v : Nat) : Nat :=
  match f.acc with
  | .rw => v
  | .rwl => v
  | .w1c => old &&& (2 ^ (f.hi + 1 - f.lo) - 1 - v)
  | _ => old

end Sys2Proof.Machine

/-- A 4-byte write that no rule refuses gives every field of its word what its access type says and changes no other register; one that a rule
refuses changes nothing at all. Refusals are whole (R16, R18, R19, R53).
The model's own choices it rests on: log 9, 67, 68. -/
def Obligations.RegisterWrites : Prop :=
  ∀ (s : State) (w : Writer) (b i o : Nat) (fs : List Fld) (val : W64), b < 256 → i < 4096 → o < 65536 → o % 4 = 0 → i < blkInstances b →
    regWord b i o = some fs → val.toNat < 2 ^ 31 →
    let a : W64 := BitVec.ofNat 64 (ctlAddr b i o)
    (¬ acts b i o → s.ctlRefusal w a.toNat 4 val.toNat = 0 →
      ∃ t, exec (.registerWrite w a false val) s = .next t ∧ t = { s with ctl := t.ctl, rsv := t.rsv } ∧ OnlyWords s t [ctlKey b i o] ∧
        ∀ f ∈ fs, t.fld b i o f.hi f.lo = fieldAfter f (s.fld b i o f.hi f.lo) (bitsOf val.toNat f.hi f.lo)) ∧
    (∀ (a : W64) (wide : Bool), s.ctlRefusal w a.toNat (if wide then 8 else 4) val.toNat ≠ 0 → exec (.registerWrite w a wide val) s = .next s)

/-- A flag written as 1 is cleared unless the hardware sets it in the same cc, and one written as 0 stays; a counter reset returns the block's
counters to 0 and changes no other register while its function is OFF (R16, R17, R57).
The model's own choices it rests on: log 9. -/
def Obligations.FlagsAndCounters : Prop :=
  ∀ (s : State) (w : Writer) (b i o : Nat), b < 256 → i < blkInstances b → o < 65536 → o % 4 = 0 →
    let a : W64 := BitVec.ofNat 64 (ctlAddr b i o)
    (∀ (v now : W32) (top : Nat), regWord b i o = some (w1cLow top) → s.ctlRefusal w a.toNat 4 v.toNat = 0 →
      ∃ t, exec (.w1cFlagClear w a v now) s = .next t ∧ t = { s with ctl := t.ctl, rsv := t.rsv } ∧
        ∀ n ≤ top, t.fld b i o n n = if now.getLsbD n then 1 else if v.getLsbD n then 0 else s.fld b i o n n) ∧
    (∀ rs, (regWord b i o).isSome = true → ctrRanges b o = some rs → s.ctrOpen b i o = true → (s.word b i o).toNat < 2 ^ 31 →
      s.ctlRefusal w a.toNat 4 ((s.word b i o).toNat + 2 ^ 31) = 0 →
      ∃ t, exec (.ctrReset w a) s = .next t ∧ t = { s with ctl := t.ctl, rsv := t.rsv, engines := t.engines } ∧
        (∀ r ∈ rs, ∀ x, r.1 ≤ x → x ≤ r.2 → t.word b i x = ctlDefault (ctlKey b i x)) ∧
        ∀ b' i' x, b' < 256 → i' < 4096 → x < 65536 → (b' = b → i' = i → ∀ r ∈ rs, ¬ (r.1 ≤ x ∧ x ≤ r.2)) → t.word b' i' x = s.word b' i' x)

/-- Accepted writes of SQ_ENGINE_MAP, SQ_SLOT_INIT and TASTE_N: the four owners take the written values, and the attachments of an engine's owner
to it are dropped where the owner changes, no others; the named slot record takes its values after cold start with the written mode, headroom and history; TASTE_N takes
its value and every engine starts a new taster window. A refused write changes nothing (R93, R211, R217, R218, R234, R255).
The model's own choices it rests on: log 9, 33. -/
def Obligations.CoreSettings : Prop :=
  ∀ (s : State) (w : Writer) (c : BitVec 7), c.toNat < 96 →
    (∀ v : W32,
      (s.ctlRefusal w (ctlAddr 0x10 c.toNat 0x10) 4 v.toNat = 0 →
        ∃ t, exec (.engineMapWrite w c v) s = .next t ∧ t = { s with ctl := t.ctl, rsv := t.rsv, cores := t.cores, ctxs := t.ctxs } ∧
          (∀ m < 4, t.fld 0x10 c.toNat 0x10 (2 * m + 1) (2 * m) = v.toNat / 2 ^ (2 * m) % 4) ∧
          OnlyWords s t [ctlKey 0x10 c.toNat 0x10] ∧
          (∀ a, a ∈ (t.core c.toNat).attach ↔ a ∈ (s.core c.toNat).attach ∧
            ¬ (a.eng < 4 ∧ s.fld 0x10 c.toNat 0x10 (2 * a.eng + 1) (2 * a.eng) = a.x ∧ v.toNat / 2 ^ (2 * a.eng) % 4 ≠ a.x)) ∧
          ∀ a ∈ (s.core c.toNat).attach, a ∉ (t.core c.toNat).attach → (t.ctx c.toNat a.x).lastReason = BitVec.ofNat 16 rsNOT_OWNER) ∧
      (s.ctlRefusal w (ctlAddr 0x10 c.toNat 0x10) 4 v.toNat ≠ 0 → exec (.engineMapWrite w c v) s = .next s)) ∧
    (∀ v : W32,
      let r := slotRecord (v.toNat / 2 ^ 27 % 4) (v.toNat / 2 ^ 25 % 4) (v.toNat / 2 ^ 21 % 16)
      let a := s.slotAddr c.toNat (v.toNat % 2 ^ 12)
      (s.ctlRefusal w (ctlAddr 0x10 c.toNat 0x408) 4 v.toNat = 0 → v.toNat < 2 ^ 31 →
        ∃ t, exec (.sqSlotInit w c v) s = .next t ∧ t = { s with rsv := t.rsv, mem := t.mem, ue := t.ue, sce := t.sce } ∧ Stored s t a r) ∧
      (s.ctlRefusal w (ctlAddr 0x10 c.toNat 0x408) 4 v.toNat ≠ 0 → exec (.sqSlotInit w c v) s = .next s)) ∧
    (∀ n : BitVec 5, (s.word 0x10 c.toNat 0x400).toNat < 2 ^ 31 →
      let v := setBits (s.word 0x10 c.toNat 0x400).toNat 20 16 n.toNat
      (s.ctlRefusal w (ctlAddr 0x10 c.toNat 0x400) 4 v = 0 →
        ∃ t, exec (.tasteNWrite w c n) s = .next t ∧ t = { s with ctl := t.ctl, rsv := t.rsv, engines := t.engines } ∧
          t.fld 0x10 c.toNat 0x400 20 16 = n.toNat ∧ t.fld 0x10 c.toNat 0x400 24 21 = s.fld 0x10 c.toNat 0x400 24 21 ∧
          t.fld 0x10 c.toNat 0x400 11 0 = s.fld 0x10 c.toNat 0x400 11 0 ∧ OnlyWords s t [ctlKey 0x10 c.toNat 0x400] ∧
          ∀ m < 4, t.eng c.toNat m = { s.eng c.toNat m with tasteWin := none, tasteCnt := 0 }) ∧
      (s.ctlRefusal w (ctlAddr 0x10 c.toNat 0x400) 4 v ≠ 0 → exec (.tasteNWrite w c n) s = .next s) ∧
      (1 ≤ n.toNat ∧ n.toNat ≤ 3 ∨ 17 ≤ n.toNat → s.ctlRefusal w (ctlAddr 0x10 c.toNat 0x400) 4 v ≠ 0))

/-! ### Functions and their states (R20 to R22, R54 to R56) -/

namespace Sys2Proof.Machine

/-- The register words of a function's xx_STATE and xx_REASON. -/
def headerKeys (f : Fn) : List Nat := [ctlKey (fnBlk f).1 (fnBlk f).2.1 (fnBlk f).2.2, ctlKey (fnBlk f).1 (fnBlk f).2.1 ((fnBlk f).2.2 + 8)]

/-- Only the state and the reason of function `f` may have changed: the state is `st` and the reason `r`. -/
def FnAt (s t : State) (f : Fn) (st r : Nat) : Prop :=
  t = { s with ctl := t.ctl } ∧ OnlyWords s t (headerKeys f) ∧ t.fnState f = st ∧ t.fnReason f = r

end Sys2Proof.Machine

/-- CONFIG, START and STOP of a function that takes commands: from OFF to CONFIGURING, from OFF or CONFIGURING to RUNNING when START's checks find
nothing (an engine's START begins a new taster window; noteStart counts the errors that the tables it reads carry, R271), from CONFIGURING back to OFF, from RUNNING to DRAINING; a refused command leaves the state and sets xx_REASON; a stop that has drained comes
to OFF (R20, R21, R54, R55).
The model's own choices it rests on: log 3, 7, 8, 24, 55, 67, 73. -/
def Obligations.FunctionCommands : Prop :=
  ∀ (s : State) (w : Writer) (f : Fn), fnExists f = true → mayCommand w f = true → s.heldInReset = false → s.cmdBarred w f = 0 →
    s.withFollower f = [f] →
    let n := s.noteStart f
    let why := if s.startReason f = 0 ∧ f = .forager then n.fgStartHeld else s.startReason f
    (s.ue = [] → s.sce = [] → n = s) ∧
    (s.fnState f = 0 → ∃ t, exec (.config w f) s = .next t ∧ FnAt s t f 1 (s.fnReason f)) ∧
    (s.fnState f ≠ 0 → ∃ t, exec (.config w f) s = .next t ∧ FnAt s t f (s.fnState f) 0x0005) ∧
    (s.fnState f ≤ 1 → why ≠ 0 → why < 2 ^ 16 → ∃ t, exec (.start w f) s = .next t ∧ FnAt n t f (s.fnState f) why) ∧
    (s.fnState f ≤ 1 → why = 0 → f ≠ .ms →
      ∃ u, FnAt n u f 2 0 ∧ exec (.start w f) s = .next (u.startEffect f) ∧
        (∀ c m, f = .engine c m → ∃ v, u.startEffect f = v ∧ v = { u with engines := v.engines, freeCtr := v.freeCtr } ∧
          EngineOnly u v c.toNat m.toNat ∧ v.eng c.toNat m.toNat =
            { u.eng c.toNat m.toNat with tasteSeed := (v.eng c.toNat m.toNat).tasteSeed, tasteDraws := 0, tasteWin := none, tasteCnt := 0 })) ∧
    (f = .ms → s.fnState f ≤ 1 → s.startReason f = 0 →
      ∃ t, exec (.start w f) s = .next t ∧ t = { s with ctl := t.ctl, ms := t.ms } ∧ t.fnState f = s.fnState f ∧ t.ms.training = true ∧
        t.fld 0x20 0 0x14 5 5 = 1) ∧
    (2 ≤ s.fnState f → ∃ t, exec (.start w f) s = .next t ∧ FnAt s t f (s.fnState f) 0x0005) ∧
    (s.fnState f = 1 → ∃ t, exec (.stop w f) s = .next t ∧ FnAt s t f 0 (s.fnReason f)) ∧
    (s.fnState f = 2 →
      ∃ t, exec (.stop w f) s = .next t ∧ t.fnState f = 4 ∧ (∀ g ∈ s.dependents f, s.fnState g = 2 → t.fnState g = 4) ∧
        ((∀ g ∈ s.dependents f, s.fnState g ≠ 2) → (∀ p < 16, (s.port p).held = []) → FnAt s t f 4 (s.fnReason f))) ∧
    (s.fnState f = 0 ∨ 3 ≤ s.fnState f → ∃ t, exec (.stop w f) s = .next t ∧ FnAt s t f (s.fnState f) 0x0005) ∧
    (s.fnState f = 4 → s.inRecovery f = false → (∀ g ∈ s.dependents f, s.fnState g < 2) → s.workDone f = true →
      ∃ t, exec (.stopDrainComplete f) s = .next t ∧ t.fnState f = 0 ∧ (∀ c, f = .core c → FnAt s t f 0 (s.fnReason f))) ∧
    (s.fnState f ≠ 4 ∨ s.workDone f = false → exec (.stopDrainComplete f) s = .next s)

/-- A training that succeeds makes MS RUNNING with no reason, its values valid and self-refresh left; one that fails leaves MS where it was with
TRAIN_FAILED. The loss of the root PLL's lock ends the claim and begins a recovery of the whole module, or adds a record of its own to one in progress, and a relock is the only way back to a locked PLL (R29, R293, R294, R299, R562).
The model's own choices it rests on: log 2, 7, 30, 48. -/
def Obligations.TrainingAndClock : Prop :=
  ∀ s : State,
    (∀ ms : W16, s.ms.training = true → (∀ r ∈ s.sw.recs, ¬ (r.d.kind = 6 ∧ r.phase = 3)) →
      ∃ t, exec (.msTrainingComplete (.trained ms)) s = .next t ∧ t = { s with ctl := t.ctl, mem := t.mem, ue := t.ue, sce := t.sce, ms := t.ms } ∧
        t.fnState .ms = 2 ∧ t.fnReason .ms = 0 ∧ t.ms = { spread := s.fld 0x20 0 0x10 15 0, scrub := s.fld 0x20 0 0x10 23 16 } ∧ t.fld 0x20 0 0x14 23 8 = ms.toNat ∧ t.fld 0x20 0 0x14 6 6 = 1 ∧
        t.fld 0x20 0 0x14 5 5 = 0 ∧ t.fld 0x20 0 0x14 4 4 = 0 ∧
        t.fld 0x20 0 0x14 7 7 = b2n (!s.ms.full && s.ms.kept)) ∧
    (∀ ch : BitVec 9, s.ms.training = true → (∀ r ∈ s.sw.recs, ¬ (r.d.kind = 6 ∧ r.phase = 3)) →
      ∃ t, exec (.msTrainingComplete (.failed ch)) s = .next t ∧ t = { s with ctl := t.ctl, ms := t.ms } ∧ t.fnState .ms = s.fnState .ms ∧
        t.fnReason .ms = 0xA001 ∧ t.ms.training = false ∧ t.fld 0x20 0 0x14 6 6 = 0 ∧ t.fld 0x20 0 0x14 5 5 = 0) ∧
    (s.boot.pllLocked = true →
      ∃ u : State, ((∀ r ∈ u.sw.recs, r.d ≠ moduleDomain) → exec .clockLost s = .next (u.beginRecovery moduleDomain causeCLOCK_LOST none)) ∧
        ((∃ r ∈ u.sw.recs, r.d = moduleDomain) → exec .clockLost s = .next (u.clockLostAgain moduleDomain)) ∧
        u = { s with ctl := u.ctl, hp := u.hp, boot := { s.boot with pllLocked := false, claimWait := true, squelch := true } } ∧
        u.hp.claimant = none ∧ u.hp.events = [] ∧ u.fld 0x21 0 0x24 0 0 = 0 ∧ u.fld 0x25 0 0x24 0 0 = 0 ∧ ∀ p < 16, u.fld 0x22 p 0x24 0 0 = 0) ∧
    (s.boot.pllLocked = false → exec .clockLost s = .next s) ∧
    (s.boot.pllLocked = false → s.boot.claimWait = true → s.hp.claimant = none →
      ∃ t, exec .rootPllRelock s = .next t ∧ t = { s with boot := { s.boot with pllLocked := true } }) ∧
    (s.boot.pllLocked = true → exec .rootPllRelock s = .next s)

/-! ### Main memory's own events (R286 to R292) and links (R305 to R307, R340, R344) -/

namespace Sys2Proof.Machine

/-- What reading granule `g` does, apart from the words of `ks` and MS's own state, which takes `m`: a burst read again is counted, and then the
granule code acts on what it finds; no byte of memory changes. A granule that was uncorrectable is so again (R287 to R290). -/
def GranuleRead (s t : State) (g : Nat) (r : ReadRes) (cause : Nat) (m : Ms) (ks : List Nat) : Prop :=
  let ch := (s.dieOf (g % 2 ^ 60)).2
  let found := if g ∈ s.ue then GranRes.uncorrectable else r.res
  t = { s with ctl := t.ctl, ue := t.ue, ms := m } ∧
    t.word64 0x20 0 0x50 = min (s.word64 0x20 0 0x50 + b2n r.again) (2 ^ 64 - 1) ∧
    t.word64 0x20 0 0x40 = min (s.word64 0x20 0 0x40 + b2n (found == .corrected)) (2 ^ 64 - 1) ∧
    t.word64 0x20 0 0x48 = min (s.word64 0x20 0 0x48 + b2n (found == .uncorrectable)) (2 ^ 64 - 1) ∧
    (r.again = true → FlagSet t 0x20 0 0x18 2) ∧ (found = .corrected → FlagSet t 0x20 0 0x18 0) ∧
    (found = .uncorrectable → FlagSet t 0x20 0 0x18 1 ∧ t.word64 0x20 0 0x20 = g % 2 ^ 64 ∧
      t.word 0x20 0 0x28 = BitVec.ofNat 32 (cause * 2 ^ 24 + ch) ∧ t.ue = if g ∈ s.ue then s.ue else s.ue ++ [g]) ∧
    (found ≠ .uncorrectable → t.ue = s.ue ∧ t.word64 0x20 0 0x20 = s.word64 0x20 0 0x20 ∧ t.word 0x20 0 0x28 = s.word 0x20 0 0x28) ∧
    (found = .good → r.again = false → OnlyWords s t ks)

end Sys2Proof.Machine

/-- A scrub read, a burst and a refresh of served memory complete: a read error is counted and its flag set, an uncorrectable granule stays so, and
the memory contents never change; a burst that waited behind a priority fetch is counted; a pass that ends is counted, and the next one takes
SCRUB_HOURS as it stands; a refresh shows DERATED while some channel refreshes at a shortened interval. A burst of another channel or class, and any of them
while memory is not served, changes nothing (R286 to R292, R298).
A link that comes up shows its lanes, FEC lock and LINK_UP with the transmitter as it stood; one that goes down clears LINK_UP, which a site-fabric
port records; a PFC pause holds the frames of a port back, and its end lets them go; a port that can transmit
answers a Neighbour Solicitation for its own address in UDP encapsulation only (R306, R307, R340, R344).
The model's own choices it rests on: log 7, 28, 29, 52. -/
def Obligations.MemoryAndLinks : Prop :=
  (∀ (s : State),
    (∀ (a : W64) (g : Nat) (r : ReadRes), granuleOf a.toNat = some g → s.served g = true →
      (∀ behind ends : Bool, s.scrubHours ≠ 0 →
        ∃ t, exec (.scrubRead a { read := r, behindFetch := behind } ends) s = .next t ∧
          GranuleRead s t g r 1 { s.ms with scrub := if ends then s.fld 0x20 0 0x10 23 16 else s.scrubHours }
            (if behind || ends then [ctlKey 0x20 0 0x68, ctlKey 0x20 0 0x6C, ctlKey 0x20 0 0x70, ctlKey 0x20 0 0x74, ctlKey 0x20 0 0x18,
              ctlKey 0x20 0 0x130] else []) ∧
          t.word64 0x20 0 0x68 = min (s.word64 0x20 0 0x68 + b2n behind) (2 ^ 64 - 1) ∧
          t.word64 0x20 0 0x70 = min (s.word64 0x20 0 0x70 + b2n ends) (2 ^ 64 - 1) ∧ (ends = true → FlagSet t 0x20 0 0x18 6)) ∧
      (∀ behind ends : Bool, s.scrubHours = 0 → exec (.scrubRead a { read := r, behindFetch := behind } ends) s = .next s) ∧
      (∀ (n : BitVec 9) (cls : BurstClass) (behind : Bool),
        (s.classFits cls (g % 2 ^ 60) = true → n.toNat = (s.dieOf (g % 2 ^ 60)).2 →
          ∃ t, exec (.mainMemoryBurst n cls behind a r) s = .next t ∧
            GranuleRead s t g r 0 s.ms (if behind then [ctlKey 0x20 0 0x68, ctlKey 0x20 0 0x6C] else []) ∧
            t.word64 0x20 0 0x68 = min (s.word64 0x20 0 0x68 + b2n (behind && cls != .priorityFetch)) (2 ^ 64 - 1)) ∧
        (s.classFits cls (g % 2 ^ 60) = false ∨ n.toNat ≠ (s.dieOf (g % 2 ^ 60)).2 → exec (.mainMemoryBurst n cls behind a r) s = .next s))) ∧
    (∀ (a : W64) (r : ReadRes) (n : BitVec 9) (cls : BurstClass) (behind ends : Bool), (∀ g, granuleOf a.toNat = some g → s.served g = false) →
      exec (.scrubRead a { read := r, behindFetch := behind } ends) s = .next s ∧ exec (.mainMemoryBurst n cls behind a r) s = .next s) ∧
    (∀ (ch : BitVec 9) (bank : BitVec 4) (short : Bool),
      (s.fnRunning .ms = true →
        ∃ t, exec (.refresh ch bank short) s = .next t ∧ t = { s with ctl := t.ctl, ms := { s.ms with derated := t.ms.derated } } ∧
          (ch.toNat ∈ t.ms.derated ↔ short = true) ∧ (∀ n, n ≠ ch.toNat → (n ∈ t.ms.derated ↔ n ∈ s.ms.derated)) ∧
          t.fld 0x20 0 0x14 3 3 = (if t.ms.derated = [] then 0 else 1) ∧
          (short = true → ch.toNat ∉ s.ms.derated → FlagSet t 0x20 0 0x18 5)) ∧
      (s.fnRunning .ms = false → exec (.refresh ch bank short) s = .next s))) ∧
  (∀ s : State,
    (∀ (p : Port) (lanes : BitVec 4) (an : Bool),
      ∃ t, exec (.portLinkUp p lanes an) s = .next t ∧ t = { s with ctl := t.ctl } ∧ (t.linkWord p).toNat / 2 % 2 = 1 ∧
        (t.linkWord p).toNat % 2 = (s.linkWord p).toNat % 2 ∧ (t.linkWord p).toNat / 16 % 16 = lanes.toNat) ∧
    (∀ (p : Port) (lanes : BitVec 4),
      ∃ t, exec (.portLinkDown p lanes) s = .next t ∧ t = { s with ctl := t.ctl } ∧ (t.linkWord p).toNat / 2 % 2 = 0 ∧
        (t.linkWord p).toNat % 2 = (s.linkWord p).toNat % 2 ∧
        ∀ q, p = .sf q → (s.linkWord p).toNat / 2 % 2 = 1 → FlagSet t 0x22 q.toNat 0x1C 4) ∧
    (∀ p : BitVec 4, ∃ t, exec (.pfcPauseReceive p) s = .next t ∧ t = { s with ports := t.ports } ∧
      t.port p.toNat = { s.port p.toNat with paused := true } ∧ ∀ n, n ≠ p.toNat → t.port n = s.port n) ∧
    (∀ p : BitVec 4, s.fld 0x22 p.toNat 0x24 1 0 = 3 →
      ∃ t, exec (.pfcPauseExpiry p) s = .next t ∧ t = { s with ports := t.ports, ctl := t.ctl, sfOut := t.sfOut } ∧
        t.port p.toNat = { s.port p.toNat with paused := false, unsent := [] } ∧ (∀ n, n ≠ p.toNat → t.port n = s.port n) ∧
        (∀ g, (p.toNat, g) ∈ t.sfOut ↔ (p.toNat, g) ∈ s.sfOut ∨ ∃ f ∈ (s.port p.toNat).unsent, g = s.framed p.toNat f)) ∧
    (∀ (p : Port) (target : BitVec 128),
      (s.encapOf p = true → s.portSends p = true → s.ipv6Of p = target.toNat →
        exec (.neighbourSolicitation p target) s = .next { s with advOut := s.advOut ++ [(p, target)] }) ∧
      (s.encapOf p = false ∨ s.portSends p = false ∨ s.ipv6Of p ≠ target.toNat → exec (.neighbourSolicitation p target) s = .next s)))

/-! ### The host port (R307 to R320, R558 to R565) -/

namespace Sys2Proof.Machine

/-- Request `m` with operation `op` waits at the front end. Its sender stands at the host port itself, whose transmitter is on. -/
def AtFront (s : State) (m : HostMsg) (op : Nat) : Prop :=
  m.op.toNat = op ∧ s.hostNormal m = m ∧ m ∈ s.hp.inProg ∧ m.src.relay = none ∧ s.fld 0x21 0 0x24 0 0 = 1

/-- It waits there, and is within the bound of R34. -/
def Waits (s : State) (m : HostMsg) (op : Nat) : Prop :=
  AtFront s m op ∧ ∀ q ∈ s.hp.admitted, q.1 = m → (s.cycle - q.2).toNat ≤ 5000

/-- From `s` to `t` request `m` has been answered with `status` and `data`: one response has left the host port, the request waits no longer, and
a STATUS other than OK has been counted (R308, R326). -/
def Answered (s t : State) (m : HostMsg) (status : Nat) (data : List Byte) : Prop :=
  t.hpOut = s.hpOut ++ [t.responseTo m status data] ∧ m ∉ t.hp.inProg ∧ (status ≠ 0 → Counts1 s t 0x21 0 0x58) ∧
    (status = 0 → t.word64 0x21 0 0x58 = s.word64 0x21 0 0x58)

/-- Nothing has changed but the front end, its registers and the messages that have left the host port. -/
def HostOnly (s t : State) : Prop := t = { s with ctl := t.ctl, hp := t.hp, hpOut := t.hpOut }

end Sys2Proof.Machine

/-- A frame for another address or EtherType is none of the host port's; one with a bad header is counted and discarded; a request that anyone may make waits for its operation, unless its
sender has it answered or in progress already: then the answer is sent again, or the request discarded; one that only the claimant may
make is answered with NOT_CLAIMANT to anyone else, and an unknown operation with ILLEGAL (R307, R308, R309, R312, R315).
The model's own choices it rests on: log 35, 36, 75. -/
def Obligations.HostFrames : Prop :=
  ∀ (s : State) (m : HostMsg), s.hostNormal m = m → m.src.relay = none → s.fld 0x21 0 0x24 0 0 = 1 → s.fnState .hp = 2 →
    (s.hostForMe m = false → exec (.hostFrameReceive m) s = .next s) ∧
    (s.hostForMe m = true → s.hostBad m = true →
      ∃ t, exec (.hostFrameReceive m) s = .next t ∧ t = { s with ctl := t.ctl } ∧ Counts1 s t 0x21 0 0x48 ∧
        OnlyWords s t [ctlKey 0x21 0 0x48, ctlKey 0x21 0 0x4C]) ∧
    (s.hostForMe m = true → s.hostBad m = false → s.hp.claimant ≠ some m.src → m ∉ s.hp.inProg →
      (∀ k, s.hp.kept.find? (fun k => k.src == m.src && k.hseq == m.hseq) = some k → m.op = 1 ∨ m.op = 6 ∨ m.op = 7 →
        ∃ t, exec (.hostFrameReceive m) s = .next t ∧ HostOnly s t ∧ t.hp = s.hp ∧ t.hpOut = s.hpOut ++ [{ k with src := m.src }] ∧
          Counts1 s t 0x21 0 0x50) ∧
      ((∀ k ∈ s.hp.kept, k.src = m.src → k.hseq ≠ m.hseq) → (∃ q ∈ s.hp.inProg, q.src = m.src ∧ q.hseq = m.hseq) →
        m.op = 1 ∨ m.op = 6 ∨ m.op = 7 →
        ∃ t, exec (.hostFrameReceive m) s = .next t ∧ t = { s with ctl := t.ctl } ∧ OnlyWords s t [ctlKey 0x21 0 0x40, ctlKey 0x21 0 0x44]) ∧
      ((∀ k ∈ s.hp.kept, k.src = m.src → k.hseq ≠ m.hseq) → (∀ q ∈ s.hp.inProg, q.src = m.src → q.hseq ≠ m.hseq) → s.staleSeq m = false →
        m.op = 6 ∨ ((m.op = 1 ∨ m.op = 7) ∧ s.credBusy = false) →
        ∃ t, exec (.hostFrameReceive m) s = .next t ∧ t = { s with ctl := t.ctl, hp := t.hp } ∧
          t.hp = { s.hp with inProg := s.hp.inProg ++ [m], admitted := s.hp.admitted ++ [(m, s.cycle)] } ∧
          Counts1 s t 0x21 0 0x40) ∧
      (m.op = 2 ∨ m.op = 3 ∨ m.op = 4 ∨ m.op = 5 ∨ m.op = 8 →
        ∃ t, exec (.hostFrameReceive m) s = .next t ∧ HostOnly s t ∧ Answered s t m 0xA101 [] ∧ t.hp.claimant = s.hp.claimant) ∧
      (m.op = 0 ∨ 8 < m.op.toNat →
        ∃ t, exec (.hostFrameReceive m) s = .next t ∧ HostOnly s t ∧ Answered s t m 0x0201 [] ∧ t.hp.claimant = s.hp.claimant))

/-- CLAIM, RELEASE and the lapse of a lease. An accepted CLAIM makes its sender the claimant with the next epoch and an empty event queue; a refused one
leaves the claim as it was and says why; another claimant's claim refuses with CLAIM_HELD; RELEASE and a lapse leave the module unclaimed with
every function in its state (R312, R313, R558 to R561).
The model's own choices it rests on: log 7, 35, 36. -/
def Obligations.HostClaims : Prop :=
  ∀ (s : State) (m : HostMsg),
    (Waits s m 1 → s.leaseOut = false → s.claimReason m = 0 →
      ∃ t, exec (.claim m) s = .next t ∧ t = { s with ctl := t.ctl, hp := t.hp, hpOut := t.hpOut, boot := t.boot } ∧
        t.hp.claimant = some m.src ∧ t.hp.epoch = s.hp.epoch + 1 ∧ t.hp.events = [] ∧ t.hpOut = s.hpOut ++ [t.responseTo m 0 []] ∧
        m ∉ t.hp.inProg ∧ t.hp.nextSeq = 0) ∧
    (Waits s m 1 → s.leaseOut = false → s.claimReason m ≠ 0 →
      ∃ t, exec (.claim m) s = .next t ∧ t = { s with ctl := t.ctl, hp := t.hp, hpOut := t.hpOut, sw := t.sw } ∧
        Answered s t m (s.claimReason m) [] ∧ t.hp.claimant = s.hp.claimant ∧ t.hp.epoch = s.hp.epoch ∧ t.hp.events = s.hp.events) ∧
    (m.payload.length = 272 → s.hp.claimant.isSome = true → s.hp.claimant ≠ some m.src → s.claimReason m = 0xA103) ∧
    (Waits s m 2 →
      ∃ t, exec (.release m) s = .next t ∧ HostOnly s t ∧ t.hp.claimant = none ∧ t.hp.events = [] ∧ t.hp.kept = [] ∧ t.hp.epoch = s.hp.epoch ∧
        Answered s t m 0 []) ∧
    (s.leaseOut = true →
      ∃ t, exec .claimLapsed s = .next t ∧ t = { s with ctl := t.ctl, hp := t.hp } ∧ t.hp.claimant = none ∧ t.hp.events = [] ∧
        FlagSet t 0x21 0 0x18 0) ∧
    (s.leaseOut = false → exec .claimLapsed s = .next s)

/-- WRITE, READ, DOORBELL and QUERY of a waiting request. A WRITE that every byte admits stores its data, one that some byte refuses stores nothing and
answers with that byte's reason; a READ answers with the bytes, or with MEM_UE; a DOORBELL offers its command to the named context; QUERY answers
with the state summary; a claimant's request that is answered past its bound is answered as normal and counts in HP_LATE (R34, R37, R309 to R311,
R270, R271, R290, R316).
The model's own choices it rests on: log 9, 28, 35, 69. -/
def Obligations.HostAccess : Prop :=
  ∀ (s : State) (m : HostMsg),
    let a := m.addr.toNat
    let len := leField m.payload 0 4
    (Waits s m 3 → 1 ≤ m.payload.length → m.payload.length ≤ 8192 → spaceOf a ≠ 0 →
      (s.firstFailing a m.payload.length = 0 →
        ∃ t, exec (.hostWrite m) s = .next t ∧ t = { s with ctl := t.ctl, hp := t.hp, hpOut := t.hpOut, mem := t.mem, ue := t.ue, sce := t.sce } ∧
          Answered s t m 0 [] ∧ Stored s t a m.payload) ∧
      (s.firstFailing a m.payload.length ≠ 0 →
        ∃ t, exec (.hostWrite m) s = .next t ∧ HostOnly s t ∧ Answered s t m (s.firstFailing a m.payload.length) [])) ∧
    (Waits s m 3 → 1 ≤ m.payload.length → m.payload.length ≤ 8192 → spaceOf a = 0 →
      let r := s.ctlWrite .host a m.payload.length (leNat m.payload)
      exec (.hostWrite m) s = .next (r.2.respond m r.1 [] true)) ∧
    (Waits s m 4 → m.payload.length = 4 → 1 ≤ len → len ≤ 8192 → spaceOf a ≠ 0 →
      (s.firstFailing a len = 0 → s.ueIn a len = false →
        ∃ t, exec (.hostRead m) s = .next t ∧ t = { s with ctl := t.ctl, hp := t.hp, hpOut := t.hpOut, sce := t.sce } ∧
          Answered s t m 0 (s.readMem a len) ∧ (s.clean a len = true → HostOnly s t)) ∧
      (s.firstFailing a len = 0 → s.ueIn a len = true →
        ∃ t, exec (.hostRead m) s = .next t ∧ t = { s with ctl := t.ctl, hp := t.hp, hpOut := t.hpOut, sce := t.sce } ∧
          Answered s t m 0xA002 []) ∧
      (s.firstFailing a len ≠ 0 → ∃ t, exec (.hostRead m) s = .next t ∧ HostOnly s t ∧ Answered s t m (s.firstFailing a len) [])) ∧
    (Waits s m 4 → m.payload.length = 4 → 1 ≤ len → len ≤ 8192 → spaceOf a = 0 → ctlReason a len = 0 →
      ∃ t, exec (.hostRead m) s = .next t ∧ HostOnly s t ∧ Answered s t m 0 (leBytes len (s.ctlRead a len))) ∧
    (Waits s m 5 → m.payload.length = 68 → bitsOf len 8 2 < 96 →
      let c := bitsOf len 8 2
      (∀ o ∈ (s.ctx c (len % 4)).offers, o.src ≠ .host m) →
      ∃ t, exec (.doorbell m) s = .next t ∧
        CtxChange s t c (len % 4)
          { s.ctx c (len % 4) with
            offers := (s.ctx c (len % 4)).offers ++ [{ src := .host m, cmd := cmdOfBytes (m.payload.drop 4), cc := s.cycle }] }) ∧
    (Waits s m 6 → m.payload = [] → ∃ t, exec (.query m) s = .next t ∧ HostOnly s t ∧ Answered s t m 0 s.summary) ∧
    (AtFront s m 6 → m.payload = [] → 0 < s.hostOverrun m →
      ∃ t, exec (.query m) s = .next t ∧ m ∉ t.hp.inProg ∧ s.hpOut ++ [s.responseTo m 0 s.summary] <+: t.hpOut ∧
        Counts1 s t 0x21 0 0x68) ∧
    s.summary.length = 576

/-- ATTEST answers with the quote that the identity signs and the chain it names; RELAY hands the inner message to the transport and answers; a block
from another module's front end is received as from a host named by its source; a reply for the claimant goes to it with OP 0x48; queued events
are sent again, oldest first, once EVENT_RTO_US has passed without progress (R318 to R320, R564, R565).
The model's own choices it rests on: log 7, 20, 35, 46, 47. -/
def Obligations.HostRelays : Prop :=
  ∀ (s : State) (m : HostMsg) (b : Block) (c : HostSrc),
    (Waits s m 7 → m.payload.length = 68 → leField m.payload 65 1 = 0xFF →
      let chain := leField m.payload 64 1 % 2 == 1
      let body := s.quoteBody (m.payload.take 64) chain
      let certs := if chain then Config.identityChain s.store.gen else []
      ∃ t, exec (.attest m) s = .next t ∧ HostOnly s t ∧
        Answered s t m 0 (body ++ Config.identitySign s.store.gen body ++ leBytes 2 certs.length ++ certs)) ∧
    (Waits s m 8 → 48 ≤ m.payload.length → m.payload.length ≤ 8240 →
      let site := leField m.payload 0 1
      let dst := leField m.payload 2 2 % 2 ^ 14
      let q := s.relayBlock site dst m.src.mac (m.payload.drop 16)
      q.tag.kind = 11 ∧ q.payload.length = m.payload.length ∧
      exec (.relay m) s = .next ((s.sendBlock 0 site (BitVec.ofNat 14 dst) 4 0 q .relay).respond m (s.relayReason site dst) [] true)) ∧
    (b ∈ s.frontIn → innerRequest b = true →
      ∃ q, exec (.tunnelledHostMessage b) s = .next (({ s with frontIn := s.frontIn.erase b } : State).hostAdmit q) ∧
        q.src = { mac := originMac b, relay := some (b.desc.srcSite, b.desc.srcModule) } ∧ q.op.toNat = leField (b.payload.drop 16) 1 1 ∧
        q.payload = b.payload.drop 48) ∧
    (b ∈ s.frontIn → innerReply b = true → s.hp.claimant = some c →
      (c.mac = originMac b → c.relay = none → s.fld 0x21 0 0x24 0 0 = 1 →
        ∃ t r, exec (.relayResponseForward b) s = .next t ∧ t = { s with frontIn := s.frontIn.erase b, hpOut := s.hpOut ++ [r] } ∧
          r.op = 0x48 ∧ r.src = c ∧ r.payload = b.payload ∧ r.epoch = s.hp.epoch) ∧
      (c.mac ≠ originMac b →
        ∃ t, exec (.relayResponseForward b) s = .next t ∧ t = { s with frontIn := s.frontIn.erase b, ctl := t.ctl } ∧
          Counts1 s t 0x21 0 0x48)) ∧
    (s.hp.claimant = some c → c.relay = none → s.fld 0x21 0 0x24 0 0 = 1 → s.hp.events ≠ [] →
      s.fld 0x21 0 0x10 26 16 * 1000 ≤ (s.cycle - s.hp.lastEack).toNat →
      exec .eventResend s = .next { s with hp := { s.hp with lastEack := s.cycle }
                                           hpOut := s.hpOut ++ s.hp.events.map (fun e => { s.eventMsg e with src := c }) })

/-! ### The site-fabric transport (R329 to R344) -/

namespace Sys2Proof.Machine

/-- Port `p` carries frames: it is RUNNING, its link is up, its transmitter is on and no pause lasts. -/
def PortUp (s : State) (p : BitVec 4) : Prop :=
  s.fnState (.sf p) = 2 ∧ s.fld 0x22 p.toNat 0x24 1 0 = 3 ∧ (s.port p.toNat).paused = false

/-- Frames `fs` have left port `p`, in order. -/
def SentOut (s t : State) (p : BitVec 4) (fs : List SfFrame) : Prop := t.sfOut = s.sfOut ++ fs.map (fun f => (p.toNat, f))

/-- The answer of TYPE `typ` to frame `f` of module `f.srcModule`. -/
def IsAnswer (f r : SfFrame) (typ : BitVec 4) : Prop :=
  r.typ = typ ∧ r.ver = 1 ∧ r.dstModule = f.srcModule ∧ r.reqId = f.reqId ∧ r.unit = f.unit ∧ r.index = f.index

/-- Nothing has changed but ports and registers and the frames that have left. -/
def PortsOnly (s t : State) : Prop := t = { s with ports := t.ports, ctl := t.ctl, sfOut := t.sfOut }

/-- A state with a received transport frame counted, and the codewords that FEC corrected in it (R349). -/
def received (s : State) (p : BitVec 4) (f : SfFrame) : State := (s.count64 0x22 p.toNat 0x60 f.fecCorr.toNat).count64 0x22 p.toNat 0x48 1

/-- Whether a request to the forager is for another site does not show in it: the free value that says so (log 17). -/
def farBound (s : State) (f : SfFrame) : Bool := f.unit == 3 && Config.freeBool s.freeCtr

/-- A state in which credit request `f` has been received; the value that `farBound` took is used up. -/
def askedOf (s : State) (p : BitVec 4) (f : SfFrame) : State := { received s p f with freeCtr := s.freeCtr + (if f.unit = 3 then 1 else 0) }

/-- The state in which a request that no rule refuses waits for its decision; the group that it is for has noted it (R372). -/
def notedOf (s : State) (p : BitVec 4) (f : SfFrame) : State :=
  match f.coll with
  | some o => if f.unit = 2 then (askedOf s p f).collRequested f.index.toNat o else askedOf s p f
  | none => askedOf s p f

end Sys2Proof.Machine

/-- A credit request that is not a repeat is refused with a CREF for its reason, or granted with a CGNT when its destination has room, or withheld; a
repeat of a granted one gets its grant again; SF_GRANT grants the oldest withheld request that fits. Frames for another unit or version
are counted and discarded, and codewords that FEC could not correct are counted (R329, R330, R334, R335, R341, R349). Whether a request to the forager is far-bound is a free value (log 17).
The model's own choices it rests on: log 7, 17, 52, 71. -/
def Obligations.CreditsAreGranted : Prop :=
  ∀ (s : State) (p : BitVec 4), PortUp s p →
    let k := s.port p.toNat
    (∀ f : SfFrame, f.typ = 1 → f.ver = 1 →
      let far := farBound s f
      let u := askedOf s p f
      let n := notedOf s p f
      let w := n.updPort p.toNat (fun k => { k with held := k.held ++ [(f, far)] })
      let place := if f.unit = 0 then n.rxPlace (f.index.toNat / 4) f.length.toNat else none
      let kept : SfGrant := { grantId := k.nextGrant, req := f, tNs := n.boundOf p.toNat f, cc := s.cycle, pos := place, far := far }
      (∀ g, k.grants.find? (fun g => g.req.srcModule == f.srcModule && g.req.reqId == f.reqId) = some g →
        ∃ t r, exec (.sfCreqReceive p f) s = .next t ∧ PortsOnly s t ∧ SentOut s t p [r] ∧ IsAnswer f r 2 ∧ r.grantId = g.grantId ∧
          t.port p.toNat = k) ∧
      (k.grants.find? (fun g => g.req.srcModule == f.srcModule && g.req.reqId == f.reqId) = none →
        k.delivered.find? (fun d => d.1 == f.srcModule.toNat && d.2.1 == f.reqId.toNat) = none →
        (∀ q ∈ k.held, ¬ (q.1.srcModule = f.srcModule ∧ q.1.reqId = f.reqId)) →
        (u.creqReason p.toNat f far ≠ 0 →
          ∃ t r, exec (.sfCreqReceive p f) s = .next t ∧ PortsOnly u t ∧ SentOut s t p [r] ∧ IsAnswer f r 3 ∧
            r.reason = BitVec.ofNat 16 (u.creqReason p.toNat f far) ∧ t.port p.toNat = k) ∧
        (u.creqReason p.toNat f far = 0 → k.held = [] → w.roomFor f far = true → w.accountOk p.toNat f = true →
          ∃ t r, exec (.sfCreqReceive p f) s = .next t ∧ PortsOnly n t ∧ SentOut s t p [r] ∧ IsAnswer f r 2 ∧ r.grantId = k.nextGrant ∧
            t.port p.toNat = { k with nextGrant := k.nextGrant + 1
                                      grants := k.grants ++ [kept] }) ∧
        (u.creqReason p.toNat f far = 0 → k.held = [] → w.roomFor f far = false ∨ w.accountOk p.toNat f = false →
          ∃ t, exec (.sfCreqReceive p f) s = .next t ∧ t = { n with ports := t.ports } ∧ t.port p.toNat = { k with held := [(f, far)] }))) ∧
    (∀ q : SfFrame × Bool, (∀ h ∈ k.held, s.creqReason p.toNat h.1 h.2 = 0) →
      (k.held.find? (fun q => s.roomFor q.1 q.2 && s.accountOk p.toNat q.1) = some q →
        ∃ t r, exec (.sfGrant p) s = .next t ∧ PortsOnly s t ∧ SentOut s t p [r] ∧ IsAnswer q.1 r 2 ∧ r.grantId = k.nextGrant ∧
          (t.port p.toNat).held = k.held.erase q) ∧
      (k.held.find? (fun q => s.roomFor q.1 q.2 && s.accountOk p.toNat q.1) = none → exec (.sfGrant p) s = .next s)) ∧
    (∀ why, ∃ t, exec (.sfForeignFrame p why) s = .next t ∧ t = { s with ctl := t.ctl } ∧
      match why with
      | .fecLost n => t.word64 0x22 p.toNat 0x68 = min (s.word64 0x22 p.toNat 0x68 + n.toNat) (2 ^ 64 - 1)
      | .badFcs => Counts1 s t 0x22 p.toNat 0x58
      | _ => Counts1 s t 0x22 p.toNat 0x50) ∧
    (∀ f : SfFrame, f.ver ≠ 1 → (f.typ = 1 → ∃ t, exec (.sfCreqReceive p f) s = .next t ∧ t = { s with ctl := t.ctl } ∧
      Counts1 s t 0x22 p.toNat 0x50) ∧ (f.typ = 4 → ∃ t, exec (.sfDataReceive p f) s = .next t ∧ t = { s with ctl := t.ctl } ∧
      Counts1 s t 0x22 p.toNat 0x50))

/-- The sender: a CGNT sends the message's DATA frames of at most 4,096 bytes in offset order, of which a message of a collective tells its
member (R372); a CREF and a DACK end the message; a DNAK sends every
frame from its offset on again; without an answer for RTO_NS the last frame is sent again, and after RETRY_MAX resends the
message is abandoned and counted (R333, R341, R342).
The receiver: a DATA frame that brings the whole message delivers it to its context's receive area and is answered with a DACK; one that brings a
part is kept, one that leaves a gap is answered with a DNAK for the first missing byte, and one whose bytes are held already, or that has no
active grant, is counted as a duplicate; a grant that has outlived its bound and the retry budget delivers nothing (R274, R333, R336, R341). The
place that a grant keeps for its block in the receive area is the model's choice (log 71).
The model's own choices it rests on: log 7, 15, 23, 52, 57, 71. -/
def Obligations.MessagesTransfer : Prop :=
  (∀ (s : State) (p : BitVec 4) (f : SfFrame) (x : SfTx), PortUp s p → f.ver = 1 → (s.port p.toNat).tx = [x] → x.reqId = f.reqId →
    x.dst = f.srcModule →
    let framed := fun (q : SfFrame) => s.framed p.toNat q
    let alone := x.far = none ∧ x.owner = .none ∧ x.coll = none
    (f.typ = 2 → x.grant = none →
      ∃ t y, exec (.sfCgntReceive p f) s = .next (match x.coll with
          | some (.msg g _ m) => t.collSent g m
          | _ => t) ∧
        PortsOnly s t ∧ SentOut s t p ((s.dataFrames p.toNat x f.grantId 0).map framed) ∧
        (t.port p.toNat).tx = [y] ∧ y = { x with grant := some f.grantId, last := y.last, lastCC := s.cycle }) ∧
    (∀ q ∈ s.dataFrames p.toNat x f.grantId 0, q.typ = 4 ∧ q.dstModule = x.dst ∧ q.coll = x.coll ∧ q.blk.payload.length ≤ 4096 ∧
      (q.blk.payload = (x.blk.payload.drop q.offset.toNat).take 4096 ∨ 2 ^ 32 ≤ x.blk.payload.length)) ∧
    (f.typ = 3 → exec (.sfCrefReceive p f) s = .next (((received s p f).dropTx p.toNat x.reqId).txFailed p.toNat x) ∧
      (alone → ∃ t, exec (.sfCrefReceive p f) s = .next t ∧ t = { s with ports := t.ports, ctl := t.ctl } ∧
        t.port p.toNat = { s.port p.toNat with tx := [] })) ∧
    (f.typ = 5 → exec (.sfDackReceive p f) s = .next (((received s p f).dropTx p.toNat x.reqId).txDone x) ∧
      (alone → ∃ t, exec (.sfDackReceive p f) s = .next t ∧ t = { s with ports := t.ports, ctl := t.ctl } ∧
        t.port p.toNat = { s.port p.toNat with tx := [] })) ∧
    (f.typ = 6 → x.grant = some f.grantId →
      ∃ t, exec (.sfDnakReceive p f) s = .next t ∧ PortsOnly s t ∧
        SentOut s t p ((s.dataFrames p.toNat { x with resends := x.resends + 1 } f.grantId (f.offset.toNat / 4096 * 4096)).map
          (fun q => framed { q with retx := true }))) ∧
    (s.fld 0x22 p.toNat 0x18 31 16 ≤ (s.cycle - x.lastCC).toNat → x.resends < s.fld 0x22 p.toNat 0x18 3 0 →
      let path := ((s.route p.toNat x.dst.toNat).map (fun n => BitVec.ofNat 32 n)).getD x.last.pathNs
      let again : SfFrame := if x.last.typ = 1 then { x.last with pathNs := path } else x.last
      ∃ t, exec (.sfRetransmitTimeout p x.reqId) s = .next t ∧ PortsOnly s t ∧ SentOut s t p [framed { again with retx := true }] ∧
        (t.port p.toNat).tx = [{ x with resends := x.resends + 1, last := again, lastCC := s.cycle }] ∧ Counts1 s t 0x22 p.toNat 0x70) ∧
    (s.fld 0x22 p.toNat 0x18 31 16 ≤ (s.cycle - x.lastCC).toNat → s.fld 0x22 p.toNat 0x18 3 0 ≤ x.resends → alone →
      ∃ t, exec (.sfRetransmitTimeout p x.reqId) s = .next t ∧ t = { s with ports := t.ports, ctl := t.ctl, sw := t.sw } ∧
        (t.port p.toNat).tx = [] ∧ Counts1 s t 0x22 p.toNat 0x78 ∧ FlagSet t 0x22 p.toNat 0x1C 1) ∧
    ((s.cycle - x.lastCC).toNat < s.fld 0x22 p.toNat 0x18 31 16 → exec (.sfRetransmitTimeout p x.reqId) s = .next s)) ∧
  (∀ (s : State) (p : BitVec 4) (f : SfFrame) (g : SfGrant), PortUp s p → f.typ = 4 → f.ver = 1 →
    let k := s.port p.toNat
    let c := g.req.index.toNat / 4
    (k.grants.find? (fun g => g.grantId == f.grantId) = none →
      ∃ t, exec (.sfDataReceive p f) s = .next t ∧ t = { s with ctl := t.ctl } ∧ Counts1 s t 0x22 p.toNat 0x80) ∧
    (k.grants.find? (fun g => g.grantId == f.grantId) = some g → g.parts = [] → f.offset = 0 → f.blk.payload.length = g.req.length.toNat →
      f.blk.payload ≠ [] → (s.cycle - g.cc).toNat ≤ g.tNs → g.req.unit = 0 → f.coll = none → f.blk.desc.srcSite = s.siteId →
      f.blk.tag.kind ≠ 9 →
      (f.blk.desc.srcModule.toNat, f.blk.desc.srcSite.toNat, f.blk.tag.group.toNat, f.blk.desc.seq.toNat, f.blk.desc.frag.toNat) ∉ k.dups →
      ∃ t r, exec (.sfDataReceive p f) s = .next t ∧
        t = { s with ports := t.ports, ctl := t.ctl, sfOut := t.sfOut, cores := t.cores, mem := t.mem, ue := t.ue, sce := t.sce } ∧
        (t.core c).rx = (s.core c).rx ++ [{ x := g.req.index.toNat % 4, pos := g.pos, blk := f.blk }] ∧
        (∀ o, g.pos = some o → Stored s t (coreAddr c (s.fld 0x10 c 0x700 24 12 * 4096 + o)) f.blk.payload) ∧
        (g.pos = none → t.mem = s.mem) ∧
        (t.port p.toNat).grants = k.grants.filter (fun q => q.grantId != g.grantId) ∧ SentOut s t p [r] ∧ IsAnswer g.req r 5 ∧
        r.grantId = g.grantId) ∧
    (k.grants.find? (fun g => g.grantId == f.grantId) = some g → g.parts = [] → f.offset = 0 → f.blk.payload ≠ [] →
      f.blk.payload.length < g.req.length.toNat →
      ∃ t, exec (.sfDataReceive p f) s = .next t ∧ t = { s with ports := t.ports, ctl := t.ctl } ∧
        (t.port p.toNat).grants = k.grants.map (fun q => if q.grantId = g.grantId then
          { g with parts := [(0, f.blk.payload)], tag := f.blk.tag, desc := f.blk.desc, coll := f.coll } else q)) ∧
    (k.grants.find? (fun g => g.grantId == f.grantId) = some g → g.parts = [] → g.nak = none → f.offset ≠ 0 → f.blk.payload ≠ [] →
      f.offset.toNat < g.req.length.toNat →
      ∃ t r, exec (.sfDataReceive p f) s = .next t ∧ PortsOnly s t ∧ SentOut s t p [r] ∧ IsAnswer g.req r 6 ∧ r.offset = 0 ∧
        r.grantId = g.grantId) ∧
    (k.grants.find? (fun g => g.grantId == f.grantId) = some g →
      f.offset.toNat + (f.blk.payload.take (g.req.length.toNat - f.offset.toNat)).length ≤ heldFrom g.parts f.offset.toNat →
      ∃ t, exec (.sfDataReceive p f) s = .next t ∧ PortsOnly s t ∧ Counts1 s t 0x22 p.toNat 0x80) ∧
    (∀ id, k.grants.find? (fun g => g.grantId == id) = some g → g.tNs + s.retryBudget p.toNat ≤ (s.cycle - g.cc).toNat →
      ∃ t, exec (.grantReclaimed p id) s = .next t ∧ t = { s with ports := t.ports, ctl := t.ctl } ∧
        (t.port p.toNat).grants = k.grants.filter (fun q => q.grantId != g.grantId) ∧ Counts1 s t 0x22 p.toNat 0x88 ∧
        FlagSet t 0x22 p.toNat 0x1C 2))

/-! ### Messages and timers of a collective (R363, R366 to R374, R378, R379) -/

namespace Sys2Proof.Machine

/-- The one outstanding collective of group `g` is `k`, none has ended there, and the group serves. -/
def OneColl (s : State) (g : BitVec 12) (k : Coll) : Prop :=
  (s.group g.toNat).outst = [k] ∧ (s.group g.toNat).ended = [] ∧ s.gServes g.toNat = true

/-- `out` has been offered to the port of group `g`, in order. -/
def offered (s : State) (g : BitVec 12) (out : List CollOut) : State := out.foldl (fun s o => s.collOffer g.toNat o) s

/-- From `s` to `t` the one outstanding collective has become `q`, and `out` has been offered to the group's port; nothing else has changed. -/
def CollBecomes (s t : State) (g : BitVec 12) (q : Coll) (out : List CollOut) : Prop :=
  t = { (offered s g out) with groups := t.groups } ∧ t.group g.toNat = { s.group g.toNat with outst := [q] } ∧
    ∀ n, n ≠ g.toNat → t.group n = s.group n

/-- A message of another member that belongs to collective `k` and agrees with it. -/
def Agrees (s : State) (g : BitVec 12) (k : Coll) (m : CollMsg) : Prop :=
  m.cseq = k.cseq ∧ m.member.toNat < s.gCount g.toNat ∧ tagOk m.tag = true ∧ k.differs m = 0 ∧ m.mismatch = none ∧ k.mism = none

end Sys2Proof.Machine

/-- A message of a COLL that this member has not issued waits while the group's room has space. A ring partial of another member's segment is combined
with the own contribution and goes on to the next member. A field that differs is recorded, and the other members are told; notices of
collectives not yet issued wait; a BYPASS of the next member takes back the partials that wait for it and sends the last one to the sender; a
HOLD goes on unless it is this member's own. Each message is offered to the group's port as one of DST_UNIT 2 (R331 to R333, R363, R366, R372,
R373, R377 to R379). How a message names itself in the transport is the model's choice (log 15).
The model's own choices it rests on: log 7, 10, 15, 16. -/
def Obligations.CollectiveMessages : Prop :=
  ∀ (s : State) (g : BitVec 12) (m : CollMsg) (k : Coll),
    (∀ (o : CollOut) (p : BitVec 4) (path : Nat), p.toNat = s.gPlane g.toNat → PortUp s p →
      let d := BitVec.ofNat 14 ((s.group g.toNat).members.getD (outDst o) 0x3FFF)
      s.route p.toNat d.toNat = some path →
      ∃ t x r, s.collOffer g.toNat o = t ∧ t = { s with ports := t.ports, ctl := t.ctl, sce := t.sce, sfOut := t.sfOut, sfSeq := t.sfSeq } ∧
        (t.port p.toNat).tx = (s.port p.toNat).tx ++ [x] ∧ x.coll = some o ∧ x.dst = d ∧ x.unit = 2 ∧ x.index = g ∧
        x.blk.payload = (outBlock o g.toNat).payload ∧ x.blk.tag = (outBlock o g.toNat).tag ∧ SentOut s t p [r] ∧ r.typ = 1 ∧ r.dstModule = d ∧
        r.unit = 2 ∧ r.index = g ∧ r.coll = some o ∧ r.length = BitVec.ofNat 32 (outBlock o g.toNat).payload.length) ∧
    (s.gServes g.toNat = true → m.member.toNat < s.gCount g.toNat → (s.group g.toNat).find m.cseq = none →
      s.roomUsed g.toNat + 4 * m.vals.length ≤ s.roomBytes g.toNat →
      ∃ t, exec (.collMessageReceive g m) s = .next t ∧ t = { s with groups := t.groups } ∧
        t.group g.toNat = { s.group g.toNat with early := (s.group g.toNat).early ++ [(s.cycle, m)] }) ∧
    (OneColl s g k → k.clock.isSome = true → k.skips = [] → k.done = false →
      (Agrees s g k m → m.role = .ring → m.seg ≠ s.gSelf g.toNat → k.sent = [] → k.skippedMe = false → k.nextHop = none → k.op ≤ 4 →
        k.windowOver = false →
        ∃ t q r, exec (.collMessageReceive g m) s = .next t ∧ CollBecomes s t g q [.msg g.toNat (s.nextHop g.toNat k) r] ∧
          q.sent = [(m.seg, m.first)] ∧ q.acc = k.acc ∧ r.vals = k.comb m.vals (k.slice k.own m.first (k.elemsOf m.vals)) ∧ r.seg = m.seg ∧
          r.first = m.first ∧ r.role = .ring ∧ r.tag.count = BitVec.ofNat 14 (min (m.tag.count.toNat + k.ownCount) 16383)) ∧
      (m.cseq = k.cseq → m.member.toNat < s.gCount g.toNat → tagOk m.tag = true → m.role = .ring → k.differs m ≠ 0 → k.mism = none →
        let out := ((List.range (s.gCount g.toNat)).filter (fun i => i != s.gSelf g.toNat)).map
          (fun i => CollOut.notice g.toNat i k.cseq m.member.toNat (k.differs m))
        ∃ t, exec (.collMessageReceive g m) s = .next t ∧ t = { (offered s g out) with groups := t.groups, ctl := t.ctl } ∧
          (t.group g.toNat).outst = [{ k with mism := some (m.member.toNat, k.differs m) }] ∧ t.fld 0x23 g.toNat 0x34 31 28 = k.differs m ∧
          t.fld 0x23 g.toNat 0x34 13 0 = m.member.toNat)) ∧
    (∀ (c : W32) (a b : BitVec 14) (f : BitVec 4), s.gServes g.toNat = true → (s.group g.toNat).find c = none →
      let wait := fun (o : Out) (n : Notice) => ∃ t, o = .next t ∧ t = { s with groups := t.groups } ∧
        t.group g.toNat = { s.group g.toNat with notices := (s.group g.toNat).notices ++ [n] }
      wait (exec (.bypassReceive g c a b) s) (.bypass c a.toNat b.toNat) ∧
      wait (exec (.mismatchNoticeReceive g c a f) s) (.mismatch c a.toNat f.toNat)) ∧
    (∀ (a b : BitVec 14) (f : BitVec 4), OneColl s g k →
      (s.nextHop g.toNat k = b.toNat →
        let p := s.gPlane g.toNat
        let mine := fun (t : SfTx) => (t.partialTo g.toNat b.toNat k.cseq).isSome
        let u := s.updPort p (fun q => { q with tx := q.tx.filter (fun t => !(t.grant.isNone && mine t)) })
        let again := k.lastSent.filter (fun m => m.seg != b.toNat) ++ (s.port p).tx.filterMap (fun t => t.partialTo g.toNat b.toNat k.cseq)
        ∃ t, exec (.bypassReceive g k.cseq a b) s = .next t ∧
          CollBecomes u t g { k with nextHop := some a.toNat } (again.map (fun m => .msg g.toNat a.toNat (k.mark m)))) ∧
      (s.nextHop g.toNat k ≠ b.toNat → exec (.bypassReceive g k.cseq a b) s = .next s) ∧
      (k.mism = none → k.done = false →
        ∃ t, exec (.mismatchNoticeReceive g k.cseq a f) s = .next t ∧ t = { s with groups := t.groups, ctl := t.ctl } ∧
          (t.group g.toNat).outst = [{ k with mism := some (a.toNat, f.toNat) }] ∧ t.fld 0x23 g.toNat 0x34 31 28 = f.toNat ∧
          t.fld 0x23 g.toNat 0x34 13 0 = a.toNat) ∧
      (∃ t, exec (.holdReceive g k.cseq a) s = .next t ∧
        CollBecomes s t g { k with hop := k.hop.map (fun _ => s.cycle) }
          (if a.toNat = s.gSelf g.toNat then [] else [.hold g.toNat (s.nextHop g.toNat k) k.cseq a.toNat])))

/-- A final collective completes: it is outstanding no longer, its register is free and its arrival bit set, and one with a mismatch writes nothing but a
tag with MISMATCH and COUNT 0. A deadline, the forwarding window and the ring hop act once their time has passed and not before; a ring member
that waits too long bypasses its predecessor and says so (R361, R362, R367 to R369, R372, R378).
The model's own choices it rests on: log 7, 15, 57. -/
def Obligations.CollectiveTimers : Prop :=
  ∀ (s : State) (g : BitVec 12) (k : Coll) (w : W64), OneColl s g k →
    let n := s.gCount g.toNat
    (s.collFinal g.toNat k = true → k.dead = false → k.c < 96 → k.x < 4 → k.td.r < 32 → spaceOf k.td.t.d.base.toNat ≠ 4 →
      ∃ t, exec (.collComplete g k.cseq) s = .next t ∧ OpEnds s t k.c k.x k.id [k.td.r] ∧ (t.group g.toNat).outst = [] ∧
        Counts1 s t 0x23 g.toNat 0x40 ∧ (∀ b, k.arr = some b → b < 4096 → (t.core k.c).arrBit b = true) ∧
        ((t.ctx k.c k.x).treg k.td.r).tag.kind = k.tag.kind ∧ ((t.ctx k.c k.x).treg k.td.r).tag.layer = k.tag.layer ∧
        (k.mism.isSome = true → n ≠ 1 → t.mem = s.mem ∧ hasFlag ((t.ctx k.c k.x).treg k.td.r).tag fMISMATCH = true ∧
          ((t.ctx k.c k.x).treg k.td.r).tag.count = 0)) ∧
    (s.collFinal g.toNat k = false → exec (.collComplete g k.cseq) s = .next s) ∧
    (k.clock = some w → s.reduces g.toNat k = true → s.passedUs w (s.gDeadline g.toNat) = true → k.ck = 2 → k.tree = false →
      exec (.collDeadlineExpiry g k.cseq) s =
        .next ((s.putColl g.toNat { k with closed := true, part := k.part || !s.allSegs g.toNat k }).completeColl g.toNat
          { k with closed := true, part := k.part || !s.allSegs g.toNat k }) ∧
      ∃ t, exec (.collDeadlineExpiry g k.cseq) s = .next t ∧ (t.group g.toNat).outst = []) ∧
    (k.clock = some w → s.passedUs w (s.gDeadline g.toNat) = false → exec (.collDeadlineExpiry g k.cseq) s = .next s) ∧
    (k.clock = some w → k.tree = false → k.ck < 2 →
      (s.passedUs w (2 * s.gDeadline g.toNat) = true →
        ∃ t, exec (.collForwardWindowExpiry g k.cseq) s = .next t ∧ CollBecomes s t g { k with windowOver := true } []) ∧
      (s.passedUs w (2 * s.gDeadline g.toNat) = false → exec (.collForwardWindowExpiry g k.cseq) s = .next s)) ∧
    (k.hop = some w → k.tree = false → s.passedUs w (s.gHop g.toNat) = true →
      (s.gBypass g.toNat ≤ k.skips.length →
        ∃ t, exec (.ringHopExpiry g k.cseq) s = .next t ∧ CollBecomes s t g { k with hop := none } []) ∧
      (k.skips.length < s.gBypass g.toNat → k.skips.length + 1 < n →
        ∃ t q, exec (.ringHopExpiry g k.cseq) s = .next t ∧ (t.group g.toNat).outst = [q] ∧
          q.skips = k.skips ++ [notSkippedBefore n k.skips n (s.gSelf g.toNat)] ∧ Counts1 s t 0x23 g.toNat 0x58 ∧
          FlagSet t 0x23 g.toNat 0x38 3 ∧
          (∀ p : BitVec 4, p.toNat = s.gPlane g.toNat → PortUp s p → s.gTable g.toNat = false →
            (s.route p.toNat ((s.group g.toNat).members.getD (s.nextHop g.toNat k) 0x3FFF % 2 ^ 14)).isSome = true →
            ∃ x ∈ (t.port p.toNat).tx, x.coll = some (.hold g.toNat (s.nextHop g.toNat k) k.cseq (s.gSelf g.toNat))))) ∧
    (k.hop = some w → s.passedUs w (s.gHop g.toNat) = false → exec (.ringHopExpiry g k.cseq) s = .next s)

/-! ### Hives (R395, R399 to R402) -/

/-- A fetched state is staged: where the staging area has room, its bytes are copied from its home into a slot of its own, and without room the
fetch goes on; a parked gradient that nothing parks any longer is queued; the idle update unit takes the queued shard whose layer comes
first, with HV_LR as it stands; the end of an update leaves the unit idle, counts it as an update or a skip, and a poisoned gradient is
skipped with STATUS 3 (R395, R399 to R401). What a memory-port die under recovery holds up waits (R296), and a state that another gradient wants
stays staged: the model's choices (log 55, log 66).
The model's own choices it rests on: log 7, 22, 55, 66. -/
def Obligations.HivesWork : Prop :=
  ∀ (s : State) (h : BitVec 4),
    let k := s.hive h.toNat
    let only := fun (t : State) => t = { s with hives := t.hives } ∧ ∀ n, n ≠ h.toNat → t.hive n = s.hive n
    (∀ (sh : W16) (e : OwnE), sh.toNat ∈ k.fetching → k.entry sh.toNat = some e →
      s.dieHolds (s.homeAddr h.toNat e) (s.homeBytes h.toNat e) = false →
      (∀ o, s.stageRoom h.toNat (s.homeBytes h.toNat e) = some o →
        ∃ t q, exec (.stateFetchComplete h sh) s = .next t ∧ t = { s with hives := t.hives, ctl := t.ctl, mem := t.mem, ue := t.ue, sce := t.sce } ∧
          (∀ n, n ≠ h.toNat → t.hive n = s.hive n) ∧
          t.hive h.toNat = { k with fetching := k.fetching.filter (fun x => x != sh.toNat), staged := k.staged ++ [sh.toNat],
                                    slots := k.slots ++ [q] } ∧
          q.shard = e.shard ∧ q.off = o ∧ q.len = s.homeBytes h.toNat e ∧
          (q.bad = true ↔ s.ueIn (s.homeAddr h.toNat e) (s.homeBytes h.toNat e) = true) ∧
          t.readMem (s.stageAddr h.toNat o) (s.homeBytes h.toNat e) = s.readMem (s.homeAddr h.toNat e) (s.homeBytes h.toNat e) ∧
          ∀ a, (a < s.stageAddr h.toNat o ∨ s.stageAddr h.toNat o + s.homeBytes h.toNat e ≤ a) → t.byte a = s.byte a) ∧
      (s.stageRoom h.toNat (s.homeBytes h.toNat e) = none → exec (.stateFetchComplete h sh) s = .next s)) ∧
    (∀ sh : W16, (sh.toNat ∉ k.fetching ∨ ∃ e, k.entry sh.toNat = some e ∧
      s.dieHolds (s.homeAddr h.toNat e) (s.homeBytes h.toNat e) = true) → exec (.stateFetchComplete h sh) s = .next s) ∧
    (∀ (sh : W16) (e : OwnE) (g : HiveG), k.entry sh.toNat = some e → (k.parked ++ k.held).find? (fun g => g.shard == sh.toNat) = some g →
      (s.mustPark h.toNat e g.tag = false →
        ∃ t, exec (.parkedGradientQueue h sh) s = .next t ∧ only t ∧
          t.hive h.toNat = { k with parked := k.parked.erase g, held := k.held.erase g, queue := k.queue ++ [{ g with room := none }] }) ∧
      (s.mustPark h.toNat e g.tag = true → exec (.parkedGradientQueue h sh) s = .next s)) ∧
    (∀ (g : HiveG) (j : Nat), k.cur = none → s.nextUpdate h.toNat = some (g, j) →
      ∃ t r, exec (.hiveUpdate h) s = .next t ∧ t = { s with hives := t.hives, ctl := t.ctl, sce := t.sce } ∧ (∀ n, n ≠ h.toNat → t.hive n = s.hive n) ∧
        (t.hive h.toNat).cur = some r ∧ r.g = g ∧ r.lr = s.word 0x24 h.toNat 0x38 ∧ r.pos = j ∧
        (t.hive h.toNat).queue = k.queue.erase g ∧ t.fld 0x24 h.toNat 0x14 31 31 = 1 ∧ t.fld 0x24 h.toNat 0x14 15 0 = j % 2 ^ 16) ∧
    (∀ (g g' : HiveG) (j j' : Nat), s.nextUpdate h.toNat = some (g, j) → g' ∈ k.queue →
      j' = (((k.entry g'.shard).bind (fun e => s.lotPos h.toNat e.layer)).getD (s.lotCount h.toNat)) → j ≤ j') ∧
    (k.cur ≠ none → exec (.hiveUpdate h) s = .next s) ∧
    (∀ (r : HiveRun) (e : OwnE), k.cur = some r → k.entry r.g.shard = some e →
      (s.shardHeld h.toNat e (r.g.tag.step.toNat + 1) = true → exec (.hiveUpdateComplete h) s = .next s) ∧
      (s.shardHeld h.toNat e (r.g.tag.step.toNat + 1) = false →
      ∃ t, exec (.hiveUpdateComplete h) s = .next t ∧ (t.hive h.toNat).cur = none ∧
        (t.hive h.toNat).staged = (if k.wants r.g.shard then k.staged else k.staged.filter (fun x => x != r.g.shard)) ∧
        (s.updateStatus r.g r.lotBytes = 0 → Counts1 s t 0x24 h.toNat 0x80) ∧
        (s.updateStatus r.g r.lotBytes ≠ 0 → Counts1 s t 0x24 h.toNat 0x88) ∧
        (poisoned r.g.tag = true → s.updateStatus r.g r.lotBytes = 3)))

/-! ### The forager (R430 to R464) -/

namespace Sys2Proof.Machine

/-- Message `b` has reached a forager that serves. -/
def Reached (s : State) (b : Block) : Prop := s.fgServes = true ∧ b ∈ s.fg.inbox

/-- `s` without message `b` among those that have reached the forager. -/
def without (s : State) (b : Block) : State := { s with fg := { s.fg with inbox := s.fg.inbox.erase b } }

end Sys2Proof.Machine

/-- ROUND_ENCODE takes up the oldest closed round and counts it; a delta for a span that this module merges is a contribution of its site and
round, and one for any other span is discarded; a merge closes when its sites are complete or MERGE_WAIT_MS has passed, which
moves MERGE_ROUND on by one and opens the next merge without contributions; a round whose masters a hive or die does not serve waits, and so does a
merge while its hive has an update (R24, R40, R296, R400, R430, R438 to R441).
The model's own choices it rests on: log 7, 34, 55, 57, 66, 74. -/
def Obligations.ForagerMerges : Prop :=
  ∀ (s : State) (q : Span) (b : Block),
    (∀ (r : Nat) (n : W64) (rest : List (Nat × W64)), s.fg.encode = (r, n) :: rest → s.fgServes = true →
      (∀ f ∈ s.fgLayout, s.shardServed f = true) →
      ∃ t, exec .roundEncode s = .next t ∧ t.fg.encode = rest ∧ Counts1 s t 0x25 0 0x80 ∧
        t.fld 0x25 0 0x14 29 29 = (if rest = [] then 0 else 1)) ∧
    (s.fg.encode = [] ∨ (∃ f ∈ s.fgLayout, s.shardServed f = false) → exec .roundEncode s = .next s) ∧
    (Reached s b → b.tag.kind = 6 → s.span b.desc.shard.toNat = some q → q.id = b.desc.shard.toNat → s.mergesHere q = true →
      hasFlag b.tag fEVAL = false →
      serialLater 16 b.tag.round.toNat (s.mergeRound q.id) = true ∨ serialDiff 16 (s.mergeRound q.id) b.tag.round.toNat ≤ 7 →
      ∃ t, exec (.deltaMerge b) s = .next t ∧ t.fg.inbox = s.fg.inbox.erase b ∧
        (b.desc.srcSite.toNat, b.tag.round.toNat) ∈ (t.merge q.id).contribs ∧ (t.merge q.id).closes = (s.merge q.id).closes) ∧
    (Reached s b → b.tag.kind = 6 → (s.span b.desc.shard.toNat = none ∨ hasFlag b.tag fEVAL = true ∨
        ∃ p, s.span b.desc.shard.toNat = some p ∧ s.mergesHere p = false) →
      ∃ t, exec (.deltaMerge b) s = .next t ∧ t = { without s b with ctl := t.ctl } ∧ Counts1 s t 0x25 0 0x98) ∧
    (∀ p : W16, s.span p.toNat = some q → q.id = p.toNat → s.fgServes = true → s.mergesHere q = true →
      let closed := fun (t : State) => t.mergeRound q.id = (s.mergeRound q.id + 1) % 2 ^ 16 ∧ (t.merge q.id).contribs = [] ∧
        (t.merge q.id).closes = (s.merge q.id).closes + 1 ∧ (t.merge q.id).lastPub = (s.mergeRound q.id + 1) % 2 ^ 16 ∧ Counts1 s t 0x25 0 0xB0
      (s.mergeReady q = true → s.mergeHeld q.hive = false → ∃ t, exec (.mergeClose p) s = .next t ∧ closed t) ∧
      (s.mergeReady q = false ∨ s.mergeHeld q.hive = true → exec (.mergeClose p) s = .next s) ∧
      (∀ w, (s.merge q.id).ownCC = some w → s.mergeHeld q.hive = false → s.fld 0x25 0 0x28 15 0 * 1000000 ≤ (s.cycle - w).toNat →
        ∃ t, exec (.mergeWaitExpiry p) s = .next t ∧ closed t ∧ Counts1 s t 0x25 0 0xB8) ∧
      ((s.merge q.id).ownCC = none ∨ s.mergeHeld q.hive = true → exec (.mergeWaitExpiry p) s = .next s))

/-- A base that is later than BASE_ROUND is kept when it follows it or is a refresh, and else shows a gap; one that is no later is dropped; a refresh
request for a span that this module does not merge is dropped and one for a span that it merges is answered by a publication; FG_REFRESH asks for the
named span's refresh; a refused join stops the forager, and a table and JOIN_ROUND that come back are written, the table's spans are taken and
JOIN_BASES begins with a request for the refresh of every span with elements here, or the forager goes to OFF with the reason for which that table
is not taken; a message whose gateways all failed is tried again 100 ms later (R423, R424, R427, R442, R446, R447, R453, R457, R464). What
JOIN_BASES does for a span that this module merges, and the checks of the received table, are the model's (log 87); an uncorrectable
word in the base that is sent gives POISON (R62, R290).
The model's own choices it rests on: log 7, 34, 55, 57, 66, 74. -/
def Obligations.ForagerBases : Prop :=
  ∀ (s : State) (q : Span) (b : Block),
    (Reached s b → b.tag.kind = 7 ∨ b.tag.kind = 8 → s.span b.desc.shard.toNat = some q → q.id = b.desc.shard.toNat →
      (hasFlag b.tag fEVAL = true → ∃ t, t = { without s b with ctl := t.ctl } ∧ Counts1 s t 0x25 0 0x98 ∧
        (hdrReq b = false → exec (.baseMessageReceive b) s = .next t) ∧ (hdrReq b = true → exec (.refreshRequestReceive b) s = .next t)) ∧
      (hasFlag b.tag fEVAL = false →
      (hdrReq b = false → s.fgPhase = 3 →
        (serialLater 16 (hdrBase b) (s.baseRound q.id) = false → exec (.baseMessageReceive b) s = .next (without s b)) ∧
        (serialLater 16 (hdrBase b) (s.baseRound q.id) = true → b.tag.kind = 8 ∨ hdrPrev b = s.baseRound q.id →
          ∃ t, exec (.baseMessageReceive b) s = .next t ∧ t = { without s b with fg := t.fg } ∧
            ∃ k ∈ t.fg.kept, k.span = q.id ∧ k.base = hdrBase b ∧ b ∈ k.msgs) ∧
        (serialLater 16 (hdrBase b) (s.baseRound q.id) = true → b.tag.kind = 7 → hdrPrev b ≠ s.baseRound q.id → s.gap q.id = true →
          ∃ t, exec (.baseMessageReceive b) s = .next t ∧ t = { without s b with ctl := t.ctl } ∧ Counts1 s t 0x25 0 0xD0 ∧
            FlagSet t 0x25 0 0x18 0)) ∧
      (hdrReq b = true → s.mergesHere q = false → exec (.refreshRequestReceive b) s = .next (without s b)) ∧
      (hdrReq b = true → s.mergesHere q = true →
        let u := without s b
        let m := s.merge q.id
        let site := b.desc.srcSite.toNat
        let mr := u.mergeRec q (progNs (u.outerImage q.hive))
        let p := u.meetUe [(mr.auth, 4 * q.elems)]
        let ms := p.1.baseMsgs q (p.1.payloadLimit site) m.lastPub m.lastPub m.lastCount true (m.lastFlags ||| flagBit fPOISON p.2)
          (p.1.refreshRecs q mr)
        exec (.refreshRequestReceive b) s = .next (p.1.publishTo q site ms) ∧ ∀ x ∈ ms, x.tag.kind = 8 ∧ x.desc.shard = BitVec.ofNat 16 q.id))) ∧
    (∀ (w : Writer) (v : W32),
      (s.fgPhase = 3 → s.fg.spans = [q] → v.toNat = q.id → q.id < 2 ^ 16 →
        exec (.fgRefresh w v) s = .next (s.requestRefresh q)) ∧
      (s.fgPhase ≠ 3 → exec (.fgRefresh w v) s = .next s)) ∧
    (s.fgServes = true → s.fgPhase = 1 →
      ∃ t, exec (.joinTableReceive .refused) s = .next t ∧ t = { s with ctl := t.ctl, fg := {} } ∧ t.fnState .forager = 0 ∧
        t.fnReason .forager = rsJOIN_FAILED ∧ t.fgPhase = 0) ∧
    (∀ es r, s.fgPhase ≠ 1 → exec (.joinTableReceive (.table es r)) s = .next s) ∧
    (∀ es r, s.fgServes = true → s.fgPhase = 1 →
      let u := s.joinWritten es r
      let v := u.joinSpans r
      u.readMem (modAddr (s.fld 0x25 0 0x2C 25 0 * 16)) es.length = es ∧ u.fld 0 0 0x208 15 0 = r.toNat ∧
      v.fg.spans = u.readSpans ∧ v.fg.joined = some r.toNat ∧ (v.joinBegins r).fg.spans = u.readSpans ∧
      (u.joinReason v = 0 → exec (.joinTableReceive (.table es r)) s = .next (v.joinBegins r).joinDone) ∧
      (u.joinReason v ≠ 0 → ∃ t, exec (.joinTableReceive (.table es r)) s = .next t ∧ t = { u with ctl := t.ctl, fg := {} } ∧
        t.fnState .forager = 0 ∧ t.fnReason .forager = u.joinReason v ∧ t.fgPhase = 0)) ∧
    (∀ (d : DeltaMsg) (w : W64), s.fg.deltas = [d] → d.failed = some w →
      (100000000 ≤ (s.cycle - w).toNat →
        exec .gatewayRetryTimer s =
          .next (({ s with fg := { s.fg with deltas := [{ d with failed := none }] } } : State).sendDelta { d with failed := none })) ∧
      ((s.cycle - w).toNat < 100000000 → exec .gatewayRetryTimer s = .next s))

/-! ### The far link (R469 to R488) -/

namespace Sys2Proof.Machine

/-- The command that delivers a CDX frame of a TYPE that every state of the session handles alike. -/
def cdxReceive (f : CdxFrame) : Option Instr :=
  match f.typ.toNat with
  | 1 => some (.cdxDataReceive f)
  | 2 => some (.cdxAckReceive f)
  | 3 => some (.cdxNakReceive f)
  | 4 => some (.cdxProbeReceive f)
  | 5 => some (.cdxProbeEchoReceive f)
  | _ => none

/-- Frame `f` opens under receive key `k` to plaintext `b`: its version is 1, its session is the link's, its EPOCH bit names the key, and its GCM tag
verifies over its header (R469, R485, R487). -/
def Opens (s : State) (f : CdxFrame) (k : LinkKey) (b : List Byte) : Prop :=
  f.ver = 1 ∧ f.session = s.fl.sess ∧ s.fl.rxKeys.find? (fun k => k.no % 2 == f.epoch.toNat) = some k ∧
    gcmOpen k.key (k.salt ++ beBytes 8 f.frameNo.toNat) (cdxHeader f) f.body f.gcmTag = some b

/-- Frame `f` is neither a repeat nor more than 65,536 frames old (R485). -/
def Fresh (s : State) (f : CdxFrame) : Prop := f.frameNo.toNat ∉ s.fl.seenNo ∧ s.fl.highNo ≤ f.frameNo.toNat + 65536

/-- `u` is `s` after it has accepted frame `f` under key `n`: the frame is counted and its number remembered, the link is not DEAD, and FL_STATUS shows
the key's parity. Nothing but registers and the link has changed. -/
def Accepted (s u : State) (f : CdxFrame) (n : Nat) : Prop :=
  u = { s with ctl := u.ctl, fl := u.fl } ∧ f.frameNo.toNat ∈ u.fl.seenNo ∧ u.fl.highNo = max s.fl.highNo f.frameNo.toNat ∧
    u.fl.lastAuth = s.cycle ∧ u.flDead = false ∧ u.fld 0x25 0 0x224 28 28 = n % 2 ∧ Counts1 s u 0x25 0 0x288 ∧
    OnlyWords s u [ctlKey 0x25 0 0x224, ctlKey 0x25 0 0x288, ctlKey 0x25 0 0x28C] ∧ u.fl.waiting = s.fl.waiting ∧ u.fl.stored = s.fl.stored ∧
    u.fl.cum = s.fl.cum ∧ u.fl.rx = s.fl.rx

/-- The frame `f` of class `c` as it joins the frames that wait for admission. -/
def frameOf (s : State) (f : CdxFrame) (c : Nat) : FlFrame := { f := f, cls := c, since := s.cycle }

end Sys2Proof.Machine

/-- A received frame of another version is counted as foreign; one that does not authenticate is counted, sets its flag and changes nothing else; a
repeat and a frame too old are counted alone. An accepted ACK frees what it shows stored, a PROBE is answered by a PROBE_ECHO, an echo gives a round-trip sample, a NAK has its entries
served, and a DATA frame's shard is kept until its fragment can be decoded (R469 to R477, R485, R486).
The model's own choices it rests on: log 46, 70. -/
def Obligations.FarFrames : Prop :=
  ∀ (s : State) (f : CdxFrame) (c : Instr), s.fnRunning .fl = true → cdxReceive f = some c →
    (f.ver ≠ 1 → ∃ t, exec c s = .next t ∧ t = { s with ctl := t.ctl } ∧ Counts1 s t 0x25 0 0x290 ∧
      OnlyWords s t [ctlKey 0x25 0 0x290, ctlKey 0x25 0 0x294]) ∧
    (f.ver = 1 → (∀ k b, ¬ Opens s f k b) →
      ∃ t, exec c s = .next t ∧ t = { s with ctl := t.ctl } ∧ Counts1 s t 0x25 0 0x2B8 ∧ FlagSet t 0x25 0 0x228 3) ∧
    (∀ k b, Opens s f k b → ¬ Fresh s f →
      ∃ t, exec c s = .next t ∧ t = { s with ctl := t.ctl } ∧ Counts1 s t 0x25 0 0x2B8 ∧
        OnlyWords s t [ctlKey 0x25 0 0x2B8, ctlKey 0x25 0 0x2BC]) ∧
    (∀ k b, Opens s f k b → Fresh s f →
      ∃ u, Accepted s u f k.no ∧
        (f.typ = 2 →
          ∃ t, exec c s = .next t ∧ t = { u with ctl := t.ctl, fl := t.fl } ∧ t.fl.peerRxNo = max s.fl.peerRxNo (leField b 44 4) ∧
            ∀ q ∈ t.fl.tx, serialLater 32 (leField b 0 4) q.fseq.toNat = false) ∧
        (f.typ = 3 → exec c s = .next ((List.range (leField b 0 1)).foldl (fun v i => v.nakEntry ((b.drop (1 + 8 * i)).take 8)) u)) ∧
        (f.typ = 4 →
          exec c s = .next { u with fl := { u.fl with waiting := u.fl.waiting ++ [frameOf s { typ := 5, txCC := f.txCC } 1] } }) ∧
        (f.typ = 5 → exec c s = .next (u.echoSample (leField b 0 4) (leField b 4 4))) ∧
        (f.typ = 1 → f.retx = true →
          (s.fl.isStored f.fseq = true → ∃ t, exec c s = .next t ∧ t = { u with ctl := t.ctl } ∧ Counts1 s t 0x25 0 0x2B0) ∧
          (s.fl.isStored f.fseq = false → f.kM1.toNat + 1 + f.nPar.toNat ≤ f.part.toNat ∨ f.shardLen.toNat ≠ b.length →
            ∃ t, exec c s = .next t ∧ t = { u with ctl := t.ctl } ∧ Counts1 s t 0x25 0 0x290) ∧
          (f.fseq = s.fl.cum → s.fl.stored = [] → s.fl.rx = [] → s.fl.fwd = [] → f.part.toNat < f.kM1.toNat + 1 + f.nPar.toNat →
            f.shardLen.toNat = b.length → f.kM1 ≠ 0 → b.length ≤ u.rxPart →
            ∃ t q, exec c s = .next t ∧ t = { u with fl := t.fl } ∧ t.fl.rx = [q] ∧ q.fseq = f.fseq ∧ q.shards = [(f.part.toNat, b)] ∧
              q.k = f.kM1.toNat + 1 ∧ q.p = f.nPar.toNat ∧ q.len = f.fragLen.toNat))) ∧
    (∀ why, (why = .authFail ∨ why = .foreign → ∃ t, exec (.cdxForeignFrame why) s = .next t ∧ t = { s with ctl := t.ctl } ∧
        Counts1 s t 0x25 0 (if why = .authFail then 0x2B8 else 0x290)) ∧
      (why ≠ .authFail → why ≠ .foreign → exec (.cdxForeignFrame why) s = .next s))

/-- Frames leave in class order and are numbered in one sequence under the session's key, behind the addresses of ENCAP; a waiting frame joins the transmit
queue when it can start in time, and else stays; what was admitted leaves while FL is DRAINING or FENCED too; the timer of a fragment runs from the
sending of its shards (R40, R55, R305, R469, R477, R481, R485).
The model's own choices it rests on: log 7, 18, 46. -/
def Obligations.FarFramesLeave : Prop :=
  ∀ s : State,
    (s.flServes = true → s.selfFar = [] ∨ s.fnRunning .fl = false → ∀ f, firstOf s.fl.waiting = some f →
      (s.canAdmit f = true →
        exec .flEgressAdmit s =
          .next { s with fl := { s.fl with waiting := s.fl.waiting.erase f, txq := s.fl.txq ++ [{ f with cc := s.cycle }] } }) ∧
      (s.canAdmit f = false → exec .flEgressAdmit s = .next s)) ∧
    (s.flServes = false → exec .flEgressAdmit s = .next s) ∧
    (s.flServes = true → ∃ t, exec .flEgressAdmit s = .next t) ∧
    (∀ f, firstOf s.fl.txq = some f → f ∈ s.fl.txq ∧ ∀ g ∈ s.fl.txq, f.cls ≤ g.cls) ∧
    (∀ f, firstOf s.fl.txq = some f → 2 ≤ s.fnState .fl → s.fld 0x25 0 0x24 0 0 = 1 →
      ∃ t g, exec .flFrameTransmit s = .next t ∧ t.flOut = s.flOut ++ [g] ∧ g.typ = f.f.typ ∧ g.part = f.f.part ∧ g.fseq = f.f.fseq ∧
        g.txCC = s.cycle.setWidth 32 ∧ g.session = s.fl.sess ∧ g.eth = s.flEth ∧ t.fl.txq.length + 1 = s.fl.txq.length ∧ Counts1 s t 0x25 0 0x280 ∧
        t.mem = s.mem ∧ t.ctxs = s.ctxs ∧ ((s.cycle - f.cc).toNat ≤ 20000 → t.ports = s.ports) ∧
        (f.f.typ ≠ 6 ∨ s.flSession = 2 →
          g.frameNo = s.fl.frameNo ∧ t.fl.frameNo = s.fl.frameNo + 1 ∧ g.epoch = BitVec.ofNat 1 t.fl.txNo ∧
            ∃ b, (g.body, g.gcmTag) = gcmSeal t.fl.txKey.key (t.fl.txKey.salt ++ beBytes 8 g.frameNo.toNat)
              (cdxHeader { g with body := f.f.body, gcmTag := f.f.gcmTag }) b) ∧
        (f.f.typ = 1 → ∀ x ∈ t.fl.tx, x.fseq = f.f.fseq → x.timed = true ∧ x.timer = s.cycle) ∧
        (f.f.typ = 6 → s.flSession ≠ 2 → g.body = f.f.body ∧ g.frameNo = 0 ∧ t.fl.frameNo = s.fl.frameNo) ∧
        ((s.cycle - f.cc).toNat ≤ 20000 → t.word64 0x25 0 0x2D8 = s.word64 0x25 0 0x2D8) ∧
        (20000 < (s.cycle - f.cc).toNat → Counts1 s t 0x25 0 0x2D8)) ∧
    (s.fl.txq = [] ∨ s.fnState .fl < 2 ∨ s.fld 0x25 0 0x24 0 0 = 0 → exec .flFrameTransmit s = .next s)

/-- The link's timers act once their time has passed and not before: an ACK, a NAK that names the missing shards, the data shards of a fragment again
with twice its timeout up to 2 s, the DEAD link, its probes every 100 ms, and the end of a session that keeps the transmit part
(R473, R474, R477, R479).
The model's own choices it rests on: log 7, 57. -/
def Obligations.FarTimers : Prop :=
  ∀ (s : State) (n : W32), s.fnRunning .fl = true →
    (∀ w, s.fl.storeCC = some w →
      (100000 ≤ (s.cycle - w).toNat →
        exec .ackTimer s =
          .next { s with fl := { s.fl with sinceAck := 0, storeCC := none, waiting := s.fl.waiting ++ [frameOf s { typ := 2 } 1] } }) ∧
      ((s.cycle - w).toNat < 100000 → exec .ackTimer s = .next s)) ∧
    (∀ q, s.fl.rx.find? (fun x => x.fseq == n) = some q →
      (s.overdue q = false → exec (.fragmentOverdue n) s = .next s) ∧
      (s.overdue q = true → q.known = true → q.k + q.p ≤ 20 →
        ∃ t g, exec (.fragmentOverdue n) s = .next t ∧ t = { s with fl := t.fl } ∧ t.fl.waiting = s.fl.waiting ++ [frameOf s g 0] ∧ g.typ = 3 ∧
          leField g.body 0 1 = 1 ∧ leField g.body 1 4 = n.toNat ∧ bitsOf (leField g.body 5 4) 23 20 = min 15 (q.k - q.shards.length) ∧
          (∀ i < 20, bitAt (leField g.body 5 4) i = true ↔ i < q.k + q.p ∧ ∀ p ∈ q.shards, p.1 ≠ i) ∧
          ∀ x ∈ t.fl.rx, x.fseq = n → x.nakCC = some s.cycle)) ∧
    (∀ q, s.fl.tx.find? (fun x => x.fseq == n) = some q → s.flDead = false → s.flSession = 2 → q.timed = true →
      let rto := q.rto.getD s.flRto
      (rto ≤ (s.cycle - q.timer).toNat →
        ∃ t, exec (.fragmentRtoExpiry n) s = .next t ∧ t = { s with ctl := t.ctl, fl := t.fl } ∧ Counts1 s t 0x25 0 0x2A8 ∧
          t.fl.waiting = s.fl.waiting ++
            (s.shardFrames q (List.range (rsK (fragBytes q.blk).length)) true).map (fun g => frameOf s g 0) ∧
          ∀ x ∈ t.fl.tx, x.fseq = n → x.timed = false ∧ x.rto = some (min (2 * rto) 2000000000)) ∧
      ((s.cycle - q.timer).toNat < rto → exec (.fragmentRtoExpiry n) s = .next s)) ∧
    (s.flSession = 2 → s.flDead = false →
      (s.fld 0x25 0 0x218 31 16 * 1000000 ≤ (s.cycle - s.fl.lastAuth).toNat →
        ∃ t, exec .linkDead s = .next t ∧ t = { s with ctl := t.ctl, fl := t.fl } ∧ t.flDead = true ∧ t.flSession = 2 ∧
          FlagSet t 0x25 0 0x228 2 ∧ t.fl.tx = s.fl.tx ∧ t.fl.deadCC = s.cycle) ∧
      ((s.cycle - s.fl.lastAuth).toNat < s.fld 0x25 0 0x218 31 16 * 1000000 → exec .linkDead s = .next s)) ∧
    (s.flDead = true →
      (100000000 ≤ (s.cycle - s.fl.probeCC).toNat →
        exec .probeTimer s =
          .next { s with fl := { s.fl with probeCC := s.cycle, waiting := s.fl.waiting ++ [frameOf s { typ := 4 } 1] } }) ∧
      ((s.cycle - s.fl.probeCC).toNat < 100000000 → exec .probeTimer s = .next s)) ∧
    (s.flDead = true → s.flSession = 2 →
      (s.fld 0x25 0 0x21C 31 16 * 1000000000 ≤ (s.cycle - s.fl.deadCC).toNat →
        ∃ t, exec .sessionDead s = .next t ∧ t = { s with ctl := t.ctl, fl := t.fl } ∧ t.flSession = 0 ∧ t.fl.tx = s.fl.tx ∧
          t.fl.waiting = [] ∧ t.fl.txq = [] ∧ t.fl.rxKeys = [] ∧ t.fl.txKeys = [] ∧ t.fl.rxTs = [] ∧ t.fl.txTs = []) ∧
      ((s.cycle - s.fl.deadCC).toNat < s.fld 0x25 0 0x21C 31 16 * 1000000000 → exec .sessionDead s = .next s))

/-- Sessions and keys: the side with the lower site id sends HELLO; a whole HELLO that fails its checks is refused with PEER_REJECTED, one that passes
is answered; a verified FINISH brings the session up with FSEQ from 0, that of the initiator in the SESSION it chose and that of the responder in
answer; keys move on one by one, a receiver drops the old one, and FL_KEYCTL asks for the next key or a new exchange, whose secrets give the
keys that come next (R470, R482 to R488). That the SESSION comes with the initiator's FINISH is the model's reading (log 91).
The model's own choices it rests on: log 3, 7, 19, 46, 57. -/
def Obligations.FarSessions : Prop :=
  ∀ (s : State) (w : Writer) (f : CdxFrame), s.fnRunning .fl = true →
    (s.flSession ≠ 2 → s.siteId.toNat < s.flPeer → s.fl.hello = none → s.fl.refusedCC = none →
      (50000000 ≤ (s.cycle - s.fl.helloCC).toNat →
        ∃ t h, exec .helloTimer s = .next t ∧ t = { s with ctl := t.ctl, fl := t.fl, freeCtr := t.freeCtr } ∧ t.fl.hello = some h ∧
          h.starter = true ∧ t.flSession = 1 ∧ t.fl.helloCC = s.cycle ∧
          t.fl.waiting = s.fl.waiting ++ (helloFrames h.own).map (fun g => frameOf s g 1)) ∧
      ((s.cycle - s.fl.helloCC).toNat < 50000000 → exec .helloTimer s = .next s)) ∧
    (s.flPeer ≤ s.siteId.toNat → exec .helloTimer s = .next s) ∧
    (s.flSession ≠ 2 → f.typ = 6 → f.ver = 1 → f.kM1 = 0 → f.part = 0 → s.fl.refusedCC = none → s.fl.hello = none → s.flPeer ≤ s.siteId.toNat →
      (s.helloOk { parts := [(0, f.body)] } f.body = false →
        ∃ t, exec (.helloReceive f) s = .next t ∧ t = { s with ctl := t.ctl, fl := t.fl, sce := t.sce } ∧ FlagSet t 0x25 0 0x228 1 ∧
          t.fnReason .fl = 0xA506 ∧ t.fl = { s.fl with hello := none, refusedCC := some s.cycle }) ∧
      (s.helloOk { parts := [(0, f.body)] } f.body = true →
        ∃ t h, exec (.helloReceive f) s = .next t ∧ t = { s with ctl := t.ctl, fl := t.fl, freeCtr := t.freeCtr, sce := t.sce } ∧
          t.fl.hello = some h ∧ h.peer = f.body ∧ h.starter = false ∧ h.sentFin = false ∧ t.flSession = 1 ∧ t.fl.txNo = 0 ∧
          t.fl.txKeys = [mkKey 0 h.tsTx, mkKey 1 (tsNext h.tsTx)] ∧ t.fl.rxKeys = [mkKey 0 h.tsRx, mkKey 1 (tsNext h.tsRx)] ∧
          t.fl.waiting = s.fl.waiting ++ (helloFrames h.own).map (fun g => frameOf s g 1))) ∧
    (∀ h k, s.flSession ≠ 2 → s.fl.hello = some h → h.tsTx ≠ [] → h.starter = false → h.sentFin = false → f.typ = 7 →
      let v : State := { s with fl := { s.fl with sess := f.session } }
      Opens v f k (finishBody h h.finRx) → Fresh v f →
      ∃ t, exec (.finishReceive f) s = .next t ∧ t.flSession = 2 ∧ t.fl.sess = f.session ∧
        frameOf s { typ := 7, body := finishBody h h.finTx } 1 ∈ t.fl.waiting) ∧
    (∀ h k, s.flSession = 2 → s.fl.rekey = some h → h.tsTx ≠ [] → f.typ = 7 → Opens s f k (finishBody h h.finRx) → Fresh s f →
      ∃ t, exec (.finishReceive f) s = .next t ∧ t.fl.rekey = none ∧ t.fl.txTs = h.tsTx ∧ t.fl.txNo = s.fl.txNo ∧
        t.fl.peerRxNo = min s.fl.peerRxNo s.fl.txNo ∧
        t.fl.txKeys = s.fl.txKeys.filter (fun q => q.no == s.fl.txNo) ++ [mkKey (s.fl.txNo + 1) h.tsTx] ∧
        (s.fl.rxSwitch = none → (∀ q ∈ s.fl.rxKeys, k.no ≤ q.no) → t.fl.rxTs = h.tsRx) ∧
        (s.fl.rxSwitch ≠ none → t.fl.rxFresh = some h.tsRx)) ∧
    (∀ h k, s.flSession ≠ 2 → s.fl.hello = some h → h.tsTx ≠ [] → h.starter = true → h.sentFin = true → f.typ = 7 →
      Opens s f k (finishBody h h.finRx) → Fresh s f →
      ∃ t, exec (.finishReceive f) s = .next t ∧ t.flSession = 2 ∧ FlagSet t 0x25 0 0x228 0 ∧ t.fl.hello = none ∧
        t.fl.nextFseq = BitVec.ofNat 32 s.fl.tx.length ∧ t.fl.cum = 0 ∧ t.fl.stored = [] ∧ t.fl.rx = []) ∧
    (s.flSession ≠ 2 → s.fl.hello = none → exec (.finishReceive f) s = .next s) ∧
    (s.flSession = 2 →
      (2 ^ 32 ≤ s.fl.txUnder ∨ s.fl.moveAsked = true → s.fl.txNo + 1 ≤ s.fl.peerRxNo →
        ∃ t, exec .keyRollover s = .next t ∧ t = { s with ctl := t.ctl, fl := t.fl } ∧ FlagSet t 0x25 0 0x228 4 ∧
          t.fl = { s.fl with txKeys := s.fl.txKeys.filter (fun k => k.no == s.fl.txNo + 1) ++ [mkKey (s.fl.txNo + 2) (tsNext s.fl.txTs)],
                             txTs := tsNext s.fl.txTs, txNo := s.fl.txNo + 1, txUnder := 0, moveAsked := false } ∧
          t.fld 0x25 0 0x224 29 29 = (s.fl.txNo + 1) % 2) ∧
      ((s.fl.txUnder < 2 ^ 32 ∧ s.fl.moveAsked = false) ∨ s.fl.peerRxNo < s.fl.txNo + 1 → exec .keyRollover s = .next s)) ∧
    (∀ v (a b : LinkKey), s.fl.rxSwitch = some v → s.fl.rxKeys = [a, b] → b.no = a.no + 1 →
      (max (2 * s.srtt) 1000000 ≤ (s.cycle - v).toNat →
        ∃ t, exec .rxKeyDerive s = .next t ∧ t = { s with ctl := t.ctl, fl := t.fl } ∧
          t.fl = { s.fl with rxKeys := [b, mkKey (b.no + 1) (s.fl.rxFresh.getD (tsNext s.fl.rxTs))],
                             rxTs := s.fl.rxFresh.getD (tsNext s.fl.rxTs), rxFresh := none, rxSwitch := none } ∧
          t.fld 0x25 0 0x224 11 0 = (b.no + 1) % 4096) ∧
      ((s.cycle - v).toNat < max (2 * s.srtt) 1000000 → exec .rxKeyDerive s = .next s)) ∧
    exec (.keyctlNextKey w) s = .next { s with fl := { s.fl with moveAsked := true } } ∧
    (s.flSession = 2 → s.fl.rekey = none →
      ∃ t h, exec (.keyctlRekey w) s = .next t ∧ t = { s with fl := t.fl, freeCtr := s.freeCtr + 1 } ∧ t.fl.rekey = some h ∧ h.starter = true ∧
        t.fl.waiting = s.fl.waiting ++ (helloFrames h.own).map (fun g => frameOf s g 1)) ∧
    (s.flSession ≠ 2 ∨ s.fl.rekey ≠ none → exec (.keyctlRekey w) s = .next s)

/-! ### The swarm watch, recoveries and the control dies' watch (R516 to R543) -/

/-- SWARM_SCAN is counted and numbered; while the watch is quiet, and when no unit waits or works, it finds nothing. A unit whose wait nothing can end
is a hang in the second scan that finds it so: it is counted and flagged, and recovered when automatic recovery is on (R516 to R520).
The model's own choices it rests on: log 39, 40. -/
def Obligations.SwarmScans : Prop :=
  ∀ s : State,
    (s.sw.quiet ≠ 0 →
      ∃ t, exec .swarmScan s = .next t ∧ t = { s with ctl := t.ctl, sw := t.sw } ∧ Counts1 s t 1 0 0x40 ∧ t.sw.scan = s.sw.scan + 1 ∧
        t.sw.quiet = s.sw.quiet - 1 ∧ t.sw.recs = s.sw.recs ∧ t.sw.hung = s.sw.hung ∧
        OnlyWords s t [ctlKey 1 0 0x40, ctlKey 1 0 0x44]) ∧
    (s.sw.quiet = 0 → s.sw.esc = [] → s.sw.recs = [] → s.nodes = [] →
      ∃ t, exec .swarmScan s = .next t ∧ t = { s with ctl := t.ctl, sw := t.sw } ∧ Counts1 s t 1 0 0x40 ∧ t.sw.recs = [] ∧ t.sw.hung = [] ∧
        t.sw.stuck = [] ∧ OnlyWords s t [ctlKey 1 0 0x40, ctlKey 1 0 0x44]) ∧
    (∀ n : Node, s.sw.quiet = 0 → s.sw.esc = [] → s.sw.recs = [] → s.sw.hung = [] → s.crumbAuto = false → s.nodes = [n] → n.waits = true →
      n.ext = false → n.targets = [] →
      (s.sw.stuck = [n] → s.fld 1 0 0 30 30 = 0 →
        ∃ t, exec .swarmScan s = .next t ∧ Counts1 s t 1 0 0x48 ∧ FlagSet t 1 0 8 0 ∧ t.sw.recs = [] ∧ t.sw.hung = [[n.id]] ∧
          t.ctxs = s.ctxs ∧ t.cores = s.cores ∧ t.mem = s.mem) ∧
      (s.sw.stuck = [n] → s.fld 1 0 0 30 30 = 1 → ∀ c : BitVec 7, c.toNat < 96 → n.id / 4 = c.toNat → (∀ p < 16, (s.port p).held = []) →
        ∃ t r, exec .swarmScan s = .next t ∧ Counts1 s t 1 0 0x48 ∧ FlagSet t 1 0 8 0 ∧ t.sw.recs = [r] ∧
          r.d = { kind := 1, num := BitVec.ofNat 12 c.toNat } ∧ r.cause = 0 ∧ r.phase = 1 ∧
          (s.fnState (.core c) = 2 → t.fnState (.core c) = 3)) ∧
      (s.sw.stuck = [] →
        ∃ t, exec .swarmScan s = .next t ∧ t = { s with ctl := t.ctl, sw := t.sw } ∧ t.sw.recs = [] ∧ t.sw.hung = [] ∧ t.sw.stuck = [n] ∧
          OnlyWords s t [ctlKey 1 0 0x40, ctlKey 1 0 0x44]))

/-- The fence, drain and reset of a recovery: SW_CMD fences a domain with cause software; the drain starts once every admission point has taken the
fence and ends when nothing is outstanding or its clock has expired; the reset ends with the internal START, after which the domain is
out of recovery and the recovery counted (R520 to R526, R541).
The model's own choices it rests on: log 3, 7, 37, 38, 40. -/
def Obligations.RecoveriesRun : Prop :=
  ∀ (s : State) (w : Writer) (h : BitVec 4) (d : Domain) (r : Recovery), (∀ p < 16, (s.port p).held = []) →
    let a := ctlAddr 1 0 0xC
    let hive : Domain := { kind := 2, num := BitVec.ofNat 12 h.toNat }
    (s.ctlRefusal w a 4 (swValue 1 d) ≠ 0 → exec (.swCmdRecover w d) s = .next s) ∧
    (s.domainExists d = false → s.ctlRefusal w a 4 (swValue 1 d) ≠ 0) ∧
    (s.ctlRefusal w a 4 (swValue 1 d) = 0 → exec (.swCmdRecover w d) s = .next (s.beginRecovery d 1 none)) ∧
    (s.ctlRefusal w a 4 (swValue 1 hive) = 0 → s.sw.recs = [] → s.crumbAuto = false →
      ∃ t q, exec (.swCmdRecover w hive) s = .next t ∧ t.sw.recs = [q] ∧ q.d = hive ∧ q.cause = 1 ∧ q.phase = 1 ∧ Counts1 s t 1 0 0x50 ∧
        FlagSet t 1 0 8 1 ∧ t.fnState (.hive h) = (if s.fnState (.hive h) = 2 then 3 else s.fnState (.hive h)) ∧ t.hives = s.hives ∧
        t.ctxs = s.ctxs ∧ t.mem = s.mem) ∧
    (s.sw.recs = [r] → r.d = d →
      (r.phase = 1 →
        ∃ t, exec (.recoveryDrainStart d) s = .next t ∧ t.sw.recs = [{ r with phase := 2, clock := s.cycle }] ∧
          (∀ f ∈ r.fns, fnExists f = true → t.fnState f = 4) ∧ t.ctxs = s.ctxs ∧ t.mem = s.mem) ∧
      (r.phase ≠ 1 → exec (.recoveryDrainStart d) s = .next s) ∧
      (r.phase = 2 → s.workLeft r = true → (s.cycle - r.clock).toNat < (s.word 1 0 (0x10 + 4 * d.kind.toNat)).toNat * 1000 →
        exec (.recoveryDrainEnd d) s = .next s) ∧
      (r.phase = 2 → s.workLeft r = false ∨ (s.word 1 0 (0x10 + 4 * d.kind.toNat)).toNat * 1000 ≤ (s.cycle - r.clock).toNat →
        exec (.recoveryDrainEnd d) s = .next (s.drainEnds r) ∧
        (d = hive →
          ∃ t, exec (.recoveryDrainEnd d) s = .next t ∧ t.sw.recs = [{ r with phase := 3 }] ∧
            t.hive h.toNat = { own := (s.hive h.toNat).own, prog := (s.hive h.toNat).prog, seed := (s.hive h.toNat).seed } ∧
            (∀ n, n ≠ h.toNat → t.hive n = s.hive n) ∧ t.ctxs = s.ctxs ∧ t.mem = s.mem)) ∧
      (r.phase ≠ 2 → exec (.recoveryDrainEnd d) s = .next s) ∧
      (r.phase = 3 → exec (.resetEnd d) s = .next (s.resetEnds r)) ∧
      (∀ (c : BitVec 7) (m : BitVec 2), r.phase = 3 → d.kind = 0 → c.toNat < 96 → d.num.toNat = c.toNat * 4 + m.toNat →
        r.fns = [.engine c m] → (s.eng c.toNat m.toNat).retired = false → s.withFollower (.engine c m) = [.engine c m] →
        s.isFollower c.toNat m.toNat = false →
        ∃ t, exec (.resetEnd d) s = .next t ∧ t.sw.recs = [] ∧
          t.fld 0 0 0x80 31 16 = min (s.fld 0 0 0x80 31 16 + 1) (2 ^ 16 - 1) ∧
          (s.startReason (.engine c m) = 0 → t.fnState (.engine c m) = 2 ∧ t.fnReason (.engine c m) = 0) ∧
          (s.startReason (.engine c m) ≠ 0 → t.fnState (.engine c m) = 0)) ∧
      (r.phase ≠ 3 → exec (.resetEnd d) s = .next s))

/-- Core-level isolated replay: the next suspect without an outcome replays from its knock-back copy, ISOLATED and without a bound; one of which no
copy exists has outcome 1; REPLAY_LIMIT_MS ends a replay with outcome 4 and not earlier; after the last suspect the recovery ends
(R530, R531).
The model's own choices it rests on: log 3, 7, 37, 56. -/
def Obligations.SuspectsReplay : Prop :=
  ∀ (s : State) (c : BitVec 7) (r : Recovery) (x : Nat), c.toNat < 96 → s.sw.recs = [r] → r.d = { kind := 1, num := BitVec.ofNat 12 c.toNat } →
    r.phase = 4 →
    (r.replaying = none → r.suspects.find? (fun y => !r.outcomes.any (fun q => q.1 == y)) = some x →
      ((s.ctx c.toNat x).copy = none →
        ∃ t, exec (.coreIsolatedReplay c) s = .next t ∧ t.sw.recs = [{ r with outcomes := r.outcomes.put x 1 }] ∧ t.ctxs = s.ctxs ∧
          t.mem = s.mem) ∧
      (∀ p run, (s.ctx c.toNat x).copy = some p → p.run = some run →
        ∃ t k, exec (.coreIsolatedReplay c) s = .next t ∧ t.sw.recs = [{ r with replaying := some x, replayCC := s.cycle }] ∧
          t.ctx c.toNat x = k ∧ k.st = .isolated ∧ k.pc = p.pc ∧ k.sregs = p.sregs ∧ k.tregs = p.tregs ∧ k.preds = p.preds ∧ k.wait = .none ∧
          k.run = some { run with cmd := { run.cmd with maxCC := 0 } } ∧ k.queue = (s.ctx c.toNat x).queue ∧
          (∀ n, n ≠ c.toNat * 4 + x → Tbl.get {} t.ctxs n = Tbl.get {} s.ctxs n) ∧ t.mem = s.mem)) ∧
    (r.replaying = some x → exec (.coreIsolatedReplay c) s = .next s) ∧
    (r.replaying = none → (∀ y ∈ r.suspects, ∃ q ∈ r.outcomes, q.1 = y) →
      exec (.coreIsolatedReplay c) s = .next ((s.resetCoreUnits c.toNat).replaysOver r)) ∧
    (r.replaying = some x →
      ((s.word 1 0 0x30).toNat * 10 ^ 6 ≤ (s.cycle - r.replayCC).toNat →
        ∃ t, exec (.replayLimit c) s = .next t ∧ t = { s with sw := t.sw, ctxs := t.ctxs } ∧
          t.sw.recs = [{ r with replaying := none, outcomes := r.outcomes.put x 4, ends := r.ends.put x (s.ctx c.toNat x).pc.toNat }] ∧
          t.ctx c.toNat x = { s.ctx c.toNat x with run := none, wait := .none }) ∧
      ((s.cycle - r.replayCC).toNat < (s.word 1 0 0x30).toNat * 10 ^ 6 → exec (.replayLimit c) s = .next s)) ∧
    (r.replaying = none → exec (.replayLimit c) s = .next s)

/-- Crumb records, heartbeats and the takeover: a record takes the next number, an entry of 272 bytes for each block, and a place in the store; with
every place locked it sets UNREADABLE. A standby that is ready takes over after 1,024 sc without a heartbeat or on the active die's fault,
and CT_CYCLE goes on; 65,536 sc without one silence every transmitter (R533 to R539, R541).
The model's own choices it rests on: log 7, 41, 45, 57. -/
def Obligations.ControlDiesWatch : Prop :=
  ∀ (s : State) (w : Writer) (d : Domain),
    let a := ctlAddr 1 0 0xC
    (s.ctlRefusal w a 4 (swValue 2 d) = 0 →
      (s.crumbSlot ≠ none → s.sw.job = none →
        ∃ t j, exec (.swCmdRecord w d) s = .next t ∧ t = { s with sw := { s.sw with job := some j, crumbNo := s.sw.crumbNo + 1 } } ∧
          j.number = s.sw.crumbNo ∧ j.cause = 4 ∧ j.domKind = d.kind.toNat ∧ j.inst = d.num.toNat ∧ j.cc = s.cycle ∧ j.got = [] ∧
          (∀ b ∈ crumbBlocks, b ∈ j.todo)) ∧
      (s.crumbSlot = none → ∃ t, exec (.swCmdRecord w d) s = .next t ∧ t = { s with ctl := t.ctl } ∧ FlagSet t 1 0 8 4)) ∧
    (s.ctlRefusal w a 4 (swValue 2 d) ≠ 0 → exec (.swCmdRecord w d) s = .next s) ∧
    (∀ (j : CrumbJob) (k i : Nat) (rest : List (Nat × Nat)) (read : CrumbRead), s.sw.job = some j → j.todo = (k, i) :: rest →
      (crumbEntry k i ((s.cycle - j.cc).toNat / 4) read).length = 272 ∧
      (rest ≠ [] →
        ∃ t q, exec (.crumbBlockRead read) s = .next t ∧ t = { s with sw := { s.sw with job := some q } } ∧ q.todo = rest ∧
          q.got = j.got ++ crumbEntry k i ((s.cycle - j.cc).toNat / 4) read ∧ q.entries = j.entries + 1 ∧ q.number = j.number) ∧
      (rest = [] → ∀ p, s.crumbSlot = some p →
        ∃ t q, exec (.crumbBlockRead read) s = .next t ∧ t = { s with ctl := t.ctl, sw := t.sw } ∧ t.sw.job = s.sw.jobs.head? ∧
          t.sw.crumbs = s.sw.crumbs.put p (some q) ∧ q.number = j.number ∧ q.cc = j.cc ∧ Counts1 s t 1 0 0x70) ∧
      (rest = [] → s.crumbSlot = none →
        ∃ t, exec (.crumbBlockRead read) s = .next t ∧ t = { s with ctl := t.ctl, sw := t.sw } ∧ t.sw.crumbs = s.sw.crumbs ∧
          FlagSet t 1 0 8 4)) ∧
    (s.sw.job = none → ∀ read, exec (.crumbBlockRead read) s = .next s) ∧
    exec .heartbeat s = .next { s with sw := { s.sw with beat := s.cycle } } ∧
    (∀ why, s.fld 0 0 0x80 6 6 = 0 ∨ (why = .heartbeatLost ∧ (s.cycle - s.sw.beat).toNat < 4096) → exec (.takeover why) s = .next s) ∧
    (∀ why, s.fld 0 0 0x80 6 6 = 1 → why = .activeFault ∨ 4096 ≤ (s.cycle - s.sw.beat).toNat →
      ∃ t, exec (.takeover why) s = .next t ∧ t.fld 0 0 0x80 6 6 = 0 ∧ t.fld 0 0 0x80 5 5 = 1 - s.fld 0 0 0x80 5 5 ∧
        t.fld 0 0 0x80 4 4 = 1 ∧ FlagSet t 1 0 8 5 ∧ t.sw.beat = s.cycle ∧ t.sw.quiet = 2 ∧ t.cycle = s.cycle ∧ t.ctxs = s.ctxs ∧
        t.cores = s.cores ∧ t.engines = s.engines ∧ t.hives = s.hives ∧ t.ports = s.ports ∧ t.groups = s.groups ∧ t.fg = s.fg ∧
        t.fl = s.fl ∧ t.mem = s.mem) ∧
    (s.ctlRefusal w a 4 (3 * 2 ^ 30) = 0 →
      s.standbyReady = true ∧ exec (.swCmdTakeover w) s = .next s.takeover) ∧
    (s.ctlRefusal w a 4 (3 * 2 ^ 30) ≠ 0 → exec (.swCmdTakeover w) s = .next s) ∧
    (262144 ≤ (s.cycle - s.sw.beat).toNat →
      ∃ t, exec .heartbeatLossSilence s = .next t ∧ t.sw.silent = true ∧ t.boot.cause = 6 ∧ t.fld 0x21 0 0x24 0 0 = 0 ∧
        t.fld 0x25 0 0x24 0 0 = 0 ∧ (∀ p < 16, t.fld 0x22 p 0x24 0 0 = 0) ∧ t.fld 0x20 0 0x14 4 4 = 1 ∧ t.mem = s.mem) ∧
    ((s.cycle - s.sw.beat).toNat < 262144 → exec .heartbeatLossSilence s = .next s)

/-! ### Start-up, power and the stores (R548 to R574, R579 to R590) -/

namespace Sys2Proof.Machine

/-- Everything volatile is at its value after a cold start, but for the start-up and power pins: registers, memory, contexts, cores, engines, hives, ports,
groups and the clock. -/
def Cold (t : State) : Prop :=
  t.ctl = [] ∧ t.mem = [] ∧ t.ue = [] ∧ t.sce = [] ∧ t.ctxs = [] ∧ t.cores = [] ∧ t.engines = [] ∧ t.hives = [] ∧ t.ports = [] ∧ t.groups = [] ∧ t.cycle = 0

/-- The seed of the generator of every engine, vector unit, mover and hive. -/
def seedsOf (t : State) : List W64 :=
  (List.range 384).map (fun e => (Tbl.get {} t.engines e).seed) ++ (List.range 96).map (fun c => (t.core c).vuSeed) ++
    (List.range 96).map (fun c => (t.core c).mvSeed) ++ (List.range 16).map (fun h => (t.hive h).seed)

end Sys2Proof.Machine

/-- Start-up takes its stages in order, each at its own event and at no other time: POWER_GOOD is a cold start that is counted; the root PLL's lock
starts CT_CYCLE at 0; the root of trust chooses the active die or stops the module; the preferred image runs when it verifies, else the
other, else the module stops; bring-up gives every generator a seed that is not 0 and no other's; and the host port comes up (R30, R548 to R553).
The model's own choices it rests on: log 3, 4, 6, 7, 42. -/
def Obligations.StartupStages : Prop :=
  ∀ s : State,
    let stage := fun (p : Nat) => s.boot.stage = some p ∧ s.boot.cause = 0
    (s.boot.pwrEn = true → s.boot.stage = none ∨ s.boot.cause = 5 →
      ∃ t, exec .powerGood s = .next t ∧ Cold t ∧ t.boot = { stage := some 1 } ∧ t.store = { s.store with boots := s.store.boots + 1 } ∧
        t.pending = s.pending ∧ t.hp = {} ∧ t.fl = {} ∧ t.fg = {} ∧ t.csJob = none ∧ t.fwJob = none) ∧
    (s.boot.pwrEn = false ∨ (s.boot.stage ≠ none ∧ s.boot.cause ≠ 5) → exec .powerGood s = .next s) ∧
    (stage 1 → ∃ t, exec .rootPllLock s = .next t ∧ t = { s with cycle := 0, boot := { s.boot with stage := some 2, pllLocked := true } }) ∧
    (¬ stage 1 → exec .rootPllLock s = .next s) ∧
    (∀ d0 d1 e, stage 2 →
      (d0 = false → d1 = false →
        exec (.rootOfTrustSelftest d0 d1 e) s = .next { s with boot := { s.boot with cause := 1 } }) ∧
      (d0 = true ∨ d1 = true → e = false →
        exec (.rootOfTrustSelftest d0 d1 e) s = .next { s with boot := { s.boot with cause := 2 } }) ∧
      (d0 = true ∨ d1 = true → e = true →
        ∃ t, exec (.rootOfTrustSelftest d0 d1 e) s = .next t ∧ t = { s with ctl := t.ctl, boot := { s.boot with stage := some 3 } } ∧
          t.fld 0 0 0x80 5 5 = (if d0 then 0 else 1) ∧ t.fld 0 0 0x80 6 6 = (if d0 && d1 then 1 else 0) ∧ OnlyWords s t [ctlKey 0 0 0x80])) ∧
    (∀ d0 d1 e, ¬ stage 2 → exec (.rootOfTrustSelftest d0 d1 e) s = .next s) ∧
    (let p := s.store.preferred
      let q := 1 - p
      let good := fun i => imgResult (s.store.slot i) s.store.floor.toNat = 1
      stage 3 →
      (good p → ∃ t, exec .firmwareVerify s = .next t ∧ t = { s with boot := t.boot } ∧ t.boot.stage = some 4 ∧ t.boot.slotRun = p ∧
        t.boot.fallback = false ∧ t.boot.image = s.store.slot p) ∧
      (¬ good p → good q → ∃ t, exec .firmwareVerify s = .next t ∧ t = { s with boot := t.boot } ∧ t.boot.stage = some 4 ∧
        t.boot.slotRun = q ∧ t.boot.fallback = true ∧ t.boot.image = s.store.slot q) ∧
      (¬ good p → ¬ good q → ∃ t, exec .firmwareVerify s = .next t ∧ t = { s with boot := t.boot } ∧ t.boot.cause = 3 ∧
        t.boot.stage = some 3)) ∧
    (¬ stage 3 → exec .firmwareVerify s = .next s) ∧
    (∀ es, stage 4 →
      ∃ t, exec (.packageBringup es) s = .next t ∧
        t = { s with ctl := t.ctl, engines := t.engines, cores := t.cores, hives := t.hives, freeCtr := t.freeCtr, boot := t.boot } ∧
        t.boot = { s.boot with stage := some 5 } ∧
        (seedsOf t).Nodup ∧ 0 ∉ seedsOf t ∧
        (∀ e < 384, (Tbl.get {} t.engines e).permanent = ((Tbl.get {} s.engines e).permanent || bitAt s.store.retire.toNat e)) ∧
        (s.store.retire = 0 → es = [] → t.ctl = s.ctl)) ∧
    (∀ es, ¬ stage 4 → exec (.packageBringup es) s = .next s) ∧
    (stage 5 →
      ∃ t, exec .hostPortStart s = .next t ∧ t = { s with ctl := t.ctl, boot := t.boot, hp := t.hp } ∧
        t.boot = { s.boot with stage := some 6 } ∧ t.fnState .hp = 2 ∧ (s.boot.squelch = false → t.fld 0x21 0 0x24 0 0 = 1)) ∧
    (¬ stage 5 → exec .hostPortStart s = .next s)

/-- The power pins and input voltage: a fall of PWR_EN loses everything volatile, an input out of its limits stops the module while the converters are on,
and a thermal trip holds every die but the control dies in reset with THERMTRIP_N low; the stores stay in each case
(R579 to R582, R586).
The model's own choices it rests on: log 4, 7, 42. -/
def Obligations.PowerPins : Prop :=
  ∀ s : State,
    (s.boot.pwrEn = true → exec .pwrEnRise s = .next s) ∧
    (s.boot.pwrEn = false →
      exec .pwrEnRise s = .next { s with boot := { s.boot with pwrEn := true, pgood := s.boot.inputOk && !s.boot.inputCut } }) ∧
    (∃ t, exec .pwrEnFall s = .next t ∧ Cold t ∧ t.store = s.store ∧ t.boot.pwrEn = false ∧ t.boot.pgood = false ∧ t.boot.cause = 0 ∧
      t.boot.stage = none ∧ t.boot.inputOk = s.boot.inputOk) ∧
    (s.boot.pwrEn = true →
      (∃ t, exec .inputUndervoltage s = .next t ∧ Cold t ∧ t.store = s.store ∧ t.boot.cause = 5 ∧ t.boot.pgood = false ∧
        t.boot.inputOk = false ∧ t.boot.inputCut = s.boot.inputCut ∧ t.boot.squelch = true) ∧
      (∃ t, exec .inputOvervoltage s = .next t ∧ Cold t ∧ t.store = s.store ∧ t.boot.cause = 5 ∧ t.boot.pgood = false ∧
        t.boot.inputOk = false ∧ t.boot.inputCut = true ∧ t.boot.squelch = true)) ∧
    (s.boot.pwrEn = false →
      exec .inputUndervoltage s = .next { s with boot := { s.boot with inputOk := false } } ∧
      exec .inputOvervoltage s = .next { s with boot := { s.boot with inputOk := false, inputCut := true } }) ∧
    (s.boot.stage ≠ none → s.boot.cause ≠ 5 →
      ∃ t, exec .thermalTrip s = .next t ∧ t.boot.cause = 4 ∧ t.boot.thermtrip = true ∧ t.boot.squelch = true ∧ t.store = s.store ∧
        t.cycle = s.cycle ∧ t.mem = [] ∧ t.ctxs = [] ∧ t.cores = [] ∧ t.engines = [] ∧ t.hives = [] ∧ t.ports = [] ∧
        ∀ b i o, i < 4096 → o < 65536 → t.word b i o = if b < 3 then s.word b i o else ctlDefault (ctlKey b i o)) ∧
    (s.boot.stage = none ∨ s.boot.cause = 5 → exec .thermalTrip s = .next s)

/-- The power controller: at each window the slack level rises by 16 up to 255 while P exceeds the limit L, falls by 1 while P is below 98 % of L, and
stays otherwise; L is LIMIT_W, or the lower of it and the brake limit while braking. BRAKE, LEAK and POWER_LIMIT are set when their cause
begins, and LIMIT_UNMET once P has exceeded L for 1 ms at the highest slack level (R583, R584, R587, R589, R590).
The model's own choices it rests on: log 43. -/
def Obligations.PowerControl : Prop :=
  ∀ s : State,
    let brakes := s.pm.brakeLow || s.pm.leakLow
    (∀ r : PowerRead, s.pm.thermal = false →
      let p := r.watts.toNat
      let l := if brakes then min (s.fld 2 0 0 11 0) (s.fld 2 0 0 27 16) else s.fld 2 0 0 11 0
      let old := s.fld 2 0 4 31 24
      let new := if l < p then min 255 (old + 16) else if 100 * p < 98 * l then old - 1 else old
      ∃ t, exec (.pmControlWindow r) s = .next t ∧ t = { s with ctl := t.ctl, pm := t.pm } ∧ t.fld 2 0 4 31 24 = new ∧ t.fld 2 0 4 11 0 = l ∧
        t.fld 2 0 0x10 15 0 = p ∧ t.fld 2 0 0x10 31 16 = r.vinMv.toNat ∧ t.fld 2 0 0x0C 31 24 = r.dieMax.toNat ∧
        (old = 0 → new ≠ 0 → FlagSet t 2 0 8 0) ∧
        (∀ w, s.pm.unmet = some w → s.pm.told = false → l < p → new = 255 → 10 ^ 6 ≤ (s.cycle - w).toNat → FlagSet t 2 0 8 3)) ∧
    (∀ low : Bool, ∃ t, exec (.brakeChange low) s = .next t ∧ t = { s with ctl := t.ctl, pm := { s.pm with brakeLow := low } } ∧
      t.fld 2 0 4 23 23 = (if low || s.pm.leakLow then 1 else 0) ∧ (brakes = false → low = true → FlagSet t 2 0 8 1) ∧
      (brakes = true → OnlyWords s t [ctlKey 2 0 4])) ∧
    (∃ t, exec .leak s = .next t ∧ t = { s with ctl := t.ctl, pm := { s.pm with leakLow := true } } ∧ t.fld 2 0 4 23 23 = 1 ∧
      (s.pm.leakLow = false → FlagSet t 2 0 8 4) ∧ (brakes = false → FlagSet t 2 0 8 1)) ∧
    (∃ t, exec .leakClear s = .next t ∧ t = { s with ctl := t.ctl, pm := { s.pm with leakLow := false } } ∧
      t.fld 2 0 4 23 23 = if s.pm.brakeLow then 1 else 0)

/-- Firmware actions and counted settings. An accepted action or changing write waits for its end or commit with the stores as they were; a refused one
leaves them too and says why. An install writes the slot that is not running; a commit changes the setting, its use count and the journal
together, and one that fails changes none of them; a context changes none (R552 to R554, R563, R566 to R572).
The model's own choices it rests on: log 7, 9, 44. -/
def Obligations.StoresCommit : Prop :=
  ∀ (s : State) (w : Writer),
    (s.ctlRefusal w (ctlAddr 0 0 0x31C) 4 1 = 0 → s.fwJob = none →
      ∃ t j, exec (.fwInstall w) s = .next t ∧ t = { s with ctl := t.ctl, sce := t.sce, fwJob := some j } ∧ j.action = 1 ∧ j.slot = 1 - s.boot.slotRun ∧
        (∀ b, s.fwImage = some b → imgResult b s.store.floor.toNat = 1 → j.reason = 0 ∧ j.image = some b) ∧
        (∀ b, s.fwImage = some b → imgResult b s.store.floor.toNat = 3 → j.reason = 0x8002 ∧ j.image = none) ∧
        (s.fwImage = none → j.reason = 0x8003 ∧ j.image = none)) ∧
    (s.ctlRefusal w (ctlAddr 0 0 0x31C) 4 1 ≠ 0 ∨ s.fwJob ≠ none → exec (.fwInstall w) s = .next s) ∧
    (∀ p : BitVec 1,
      (s.ctlRefusal w (ctlAddr 0 0 0x31C) 4 (2 + 4 * p.toNat) = 0 → s.fwJob = none →
        exec (.setPreferred w p) s = .next { s with fwJob := some { action := 2, slot := p.toNat, image := none } }) ∧
      (s.ctlRefusal w (ctlAddr 0 0 0x31C) 4 (2 + 4 * p.toNat) ≠ 0 ∨ s.fwJob ≠ none → exec (.setPreferred w p) s = .next s)) ∧
    (∀ j, s.fwJob = some j → j.reason < 2 ^ 16 →
      ∃ t, exec .fwActionComplete s = .next t ∧ t.fwJob = none ∧ t.fld 0 0 0x320 15 0 = j.reason ∧ t.mem = s.mem ∧ t.boot = s.boot ∧
        (j.reason ≠ 0 → t.store = s.store) ∧
        (j.reason = 0 → j.action = 2 → t.store = { s.store with preferred := j.slot }) ∧
        (∀ b, j.reason = 0 → j.action = 1 → j.image = some b →
          t.store = if j.slot = 0 then { s.store with slotA := b } else { s.store with slotB := b })) ∧
    (s.fwJob = none → exec .fwActionComplete s = .next s) ∧
    (∀ (k : Counted) (v : Nat),
      ((∃ c x, w = .ctx c x) ∨ (v = s.csValue k ∧ csNever k v = false) → exec (.countedSettingWrite w k v) s = .next s) ∧
      (w = .host ∨ w = .service → v ≠ s.csValue k →
        (s.csReason k v ≠ 0 →
          ∃ t, exec (.countedSettingWrite w k v) s = .next t ∧ t.store = s.store ∧ t.csJob = s.csJob ∧
            t.fld 0 0 0x450 15 0 = s.csReason k v % 2 ^ 16) ∧
        (s.csReason k v = 0 →
          ∃ j, exec (.countedSettingWrite w k v) s = .next { s with csJob := some j } ∧ j.setting = csNumber k ∧ j.old = s.csValue k ∧
            j.new = v))) ∧
    (∀ (i : BitVec 2) (clear : Bool),
      let v := i.toNat + 4 * b2n clear
      (s.ctlRefusal w (ctlAddr 0 0 0x540) 4 v = 0 → s.csJob = none → s.ownerEntries < 1564 →
        ∃ j, exec (.ownerKeyChange w i clear) s = .next { s with csJob := some j } ∧ j.setting = 7 ∧ j.insts = [i.toNat] ∧
          j.new = b2n (!clear) ∧ j.detail = if clear then List.replicate 64 0 else s.ownerStage) ∧
      (s.ctlRefusal w (ctlAddr 0 0 0x540) 4 v ≠ 0 ∨ s.csJob ≠ none → exec (.ownerKeyChange w i clear) s = .next s)) ∧
    (s.csJob = none → ∀ ok, exec (.countedSettingCommit ok) s = .next s) ∧
    (∀ j, s.csJob = some j →
      (∃ t, exec (.countedSettingCommit false) s = .next t ∧ t.store = s.store ∧ t.csJob = none ∧ t.fld 0 0 0x450 15 0 = 0x8005) ∧
      (∃ t, exec (.countedSettingCommit true) s = .next t ∧ t.csJob = none ∧ t.fld 0 0 0x450 15 0 = 0 ∧
        (∀ k : Counted, j.setting = csNumber k → k ≠ .retire → s.csInRange k j.new = true →
          t.csValue k = j.new ∧ t.csUsed k = s.csUsed k + 1 ∧ ∃ e, t.store.journal = s.store.journal ++ [e]) ∧
        (j.setting = 6 → j.new < 2 ^ 384 → t.store.retire.toNat = j.new ∧
          t.store.journal.length = s.store.journal.length + j.insts.length ∧ s.store.journal <+: t.store.journal) ∧
        (∀ i : BitVec 2, j.setting = 7 → j.insts = [i.toNat] → j.new ≤ 1 →
          (∃ e, t.store.journal = s.store.journal ++ [e]) ∧
          ∀ n, t.ownerDigest n = if n = i.toNat then (if j.new = 1 then j.detail else []) else s.ownerDigest n)))

/-! ### The whole machine -/

namespace Sys2Proof.Machine

/-- The context passes over an instruction of its own, whatever it is. -/
def Staex (c : Instr) (i : Iss) : Prop := encodeStaex c ≠ none ∧ issuerOf c = i

end Sys2Proof.Machine

/-- R84, whole: p0 reads as 1 and a write to it is ignored; an instruction whose guarding predicate, inverted by PNEG, is 0 takes its slot and changes
nothing; a word with an undefined CLASS or OP or a reserved bit set halts its context with ILLEGAL whatever its predicate. -/
def Obligations.PredicatesGuard : Prop :=
  (∀ (s : State) (c x : Nat), (s.ctx c x).pred 0 = true) ∧
  (∀ (i : Iss) (s : State) (cond : BitVec 3) (sa : BitVec 6) (b : SrcB), CanRun i s → cond.toNat < 6 →
    ∃ t, exec (.cmp i 0 cond sa b) s = .next t ∧ ∀ n : BitVec 3, (ctxAt t i).pred n.toNat = (ctxAt s i).pred n.toNat) ∧
  (∀ (i : Iss) (s : State) (c : Instr), Staex c i → CanRun { i with pneg := !i.pneg } s →
    IssuesCtx i s (exec c s) (pastInstr (ctxAt s i)) ∧ (i.pred ≠ 0 ∨ i.pneg = true)) ∧
  (∀ (s : State) (c : BitVec 7) (x : BitVec 2) (word : W64), c.toNat < 96 →
    let k := s.ctx c.toNat x.toNat
    k.run.isSome = true → k.st = .ready → s.coreServes c.toNat = true → s.overran k = false → s.underReplay c.toNat = false →
    s.turn c.toNat x.toNat = true → s.fetchReason c.toNat k.pc.toNat = 0 → decodeStaex c x word = none → Reportable s k →
    HaltsWith { core := c, ctx := x } s (exec (.illegalInstruction c x word) s) rsILLEGAL)

/-- NOP passes. WAIT.ARR and WAIT.T pass when their bits are set or their registers free, wait otherwise, and resume behind the instruction once that
holds; an instruction held on a busy register issues as if it stood at the program counter now. ARR.CLR clears exactly its range; a pending
bit halts it with ARR_BUSY, a range past bit 4,095 with BAD_OPERAND. A core issues at most one instruction per cc, its contexts in round-robin order
from the one after the context that issued last, and one that may not issue or has not the turn leaves the state as it is (R42, R91, R95 to R97, R114).
The model's own choices it rests on: log 7, 64. -/
def Obligations.ContextsWait : Prop :=
  (∀ (i : Iss) (s : State) (first cntM1 : BitVec 12), CanRun i s →
    let k := ctxAt s i
    let last := first.toNat + cntM1.toNat
    let allSet := ∀ b, first.toNat ≤ b → b ≤ last → (s.core i.core.toNat).arrBit b = true
    let pending := ∃ p ∈ (s.core i.core.toNat).arrPend, first.toNat ≤ p.1 ∧ p.1 ≤ last
    IssuesCtx i s (exec (.nop i) s) (pastInstr k) ∧
    (last ≤ 4095 → allSet → IssuesCtx i s (exec (.waitArr i first cntM1) s) (pastInstr k)) ∧
    (last ≤ 4095 → ¬ allSet → IssuesCtx i s (exec (.waitArr i first cntM1) s) { k with wait := .arr first.toNat last, st := .waiting }) ∧
    (4095 < last → Reportable s k → HaltsWith i s (exec (.waitArr i first cntM1) s) rsBAD_OPERAND) ∧
    (last ≤ 4095 → ¬ pending →
      ∃ t, exec (.arrClr i first cntM1) s = .next t ∧ t = { s with ctxs := t.ctxs, cores := t.cores } ∧ ctxAt t i = issuedAt s (pastInstr k) ∧
        (∀ n, n ≠ i.core.toNat * 4 + i.ctx.toNat → Tbl.get {} t.ctxs n = Tbl.get {} s.ctxs n) ∧
        (∀ n, n ≠ i.core.toNat → t.core n = s.core n) ∧
        t.core i.core.toNat = { s.core i.core.toNat with arr := (t.core i.core.toNat).arr, arrSet := (t.core i.core.toNat).arrSet } ∧
        ∀ b, (t.core i.core.toNat).arrBit b = if first.toNat ≤ b ∧ b ≤ last ∧ (b, s.cycle) ∉ (s.core i.core.toNat).arrSet then false
          else (s.core i.core.toNat).arrBit b) ∧
    (pending → Reportable s k → HaltsWith i s (exec (.arrClr i first cntM1) s) rsARR_BUSY)) ∧
  (∀ (s : State) (c : BitVec 7) (x : BitVec 2) (f l : Nat), c.toNat < 96 →
    let k := s.ctx c.toNat x.toNat
    k.wait = .arr f l → k.st = .waiting →
    ((∀ b, f ≤ b → b ≤ l → (s.core c.toNat).arrBit b = true) →
      ∃ t, exec (.waitArrSatisfied c x) s = .next t ∧
        CtxChange s t c.toNat x.toNat (pastInstr { k with wait := .none, st := .ready })) ∧
    ((∃ b, f ≤ b ∧ b ≤ l ∧ (s.core c.toNat).arrBit b = false) → exec (.waitArrSatisfied c x) s = .next s)) ∧
  (∀ (i : Iss) (s : State) (sa : BitVec 6), i.core.toNat < 96 →
    let k := ctxAt s i
    let free := fun m : W32 => ∀ n, n < 32 → m.getLsbD n = true → ∀ b ∈ k.busy, b.t ≠ n
    let mask := (k.sreg sa.toNat).setWidth 32
    (CanRun i s → free mask → IssuesCtx i s (exec (.waitT i sa) s) (pastInstr k)) ∧
    (CanRun i s → ¬ free mask → IssuesCtx i s (exec (.waitT i sa) s) { k with wait := .tregs mask, st := .waiting }) ∧
    (∀ m, k.run.isSome = true → s.coreServes i.core.toNat = true → s.overran k = false → k.st = .waiting → k.wait = .tregs m → free m →
      LeavesCtx i s (exec (.interlockRelease i.core i.ctx) s) (pastInstr { k with wait := .none, st := .ready })) ∧
    (∀ h, k.run.isSome = true → s.coreServes i.core.toNat = true → s.overran k = false → k.wait = .held h → heldIss h = some i →
      exec (.interlockRelease i.core i.ctx) s = exec h (s.wake i.core.toNat i.ctx.toNat) ∧
      ∃ t, exec (.interlockRelease i.core i.ctx) s = .next t)) ∧
  (∀ (s : State) (c : BitVec 7), c.toNat < 96 →
    let may := fun x : BitVec 2 => s.mayIssue c.toNat x.toNat = true
    let turn := fun x : BitVec 2 => s.turn c.toNat x.toNat = true
    let fresh := ∀ y : BitVec 2, (s.ctx c.toNat y.toNat).issued ≠ some s.cycle ∧ (s.ctx c.toNat y.toNat).passed ≠ some s.cycle
    (∀ x y, may x → may y → turn x → turn y → x = y) ∧
    (fresh → ∀ z, may z → ∃ x, may x ∧ turn x) ∧
    (fresh → ∀ x : BitVec 2, (s.lastIssued c.toNat + 1) % 4 = x.toNat → turn x) ∧
    (∀ (x : BitVec 2) (v : W64), (s.ctx c.toNat x.toNat).issued = some v →
      (∀ (y : BitVec 2) (u : W64), y ≠ x → (s.ctx c.toNat y.toNat).issued = some u → u.toNat < v.toNat) → s.lastIssued c.toNat = x.toNat) ∧
    (∀ y : BitVec 2, (s.ctx c.toNat y.toNat).issued = some s.cycle → ∀ x, ¬ turn x) ∧
    (∀ (i : Iss) (n : Instr), Staex n i → i.core = c → ¬ (may i.ctx ∧ turn i.ctx) → exec n s = .next s))

/-- A NAK entry makes the sender send again the NEED lowest-numbered missing shards, and one more when another is missing, each with RETX set, the
parity shards among them computed anew from the buffered data (R475). -/
def Obligations.NakResends : Prop :=
  ∀ (s : State) (f : CdxFrame) (k : LinkKey) (b : List Byte) (q : FragTx), s.fnRunning .fl = true → f.typ = 3 → Opens s f k b → Fresh s f →
    leField b 0 1 = 1 → s.fl.tx.find? (fun x => x.fseq.toNat == leField b 1 4) = some q → s.flDead = false →
    let v := leField b 5 4
    let missing := (List.range (rsK (fragBytes q.blk).length + s.fld 0x25 0 0x210 28 26)).filter (fun i => bitAt v i)
    ∃ (t : State) (fs : List CdxFrame), exec (.cdxNakReceive f) s = .next t ∧ t.fl.waiting = s.fl.waiting ++ fs.map (fun g => frameOf s g 0) ∧
      fs.length = min (bitsOf v 23 20 + 1) missing.length ∧
      fs.map (fun g => g.part.toNat) = missing.take (bitsOf v 23 20 + 1) ∧
      ∀ g ∈ fs, g.typ = 1 ∧ g.retx = true ∧ g.fseq = q.fseq ∧
        g.body = if g.part.toNat < rsK (fragBytes q.blk).length then (dataShards (fragBytes q.blk)).getD g.part.toNat []
          else parityShard (dataShards (fragBytes q.blk)) (g.part.toNat)

/-- R585, whole: thermal limiting begins with the thermal limit at the P of the last window less 5 %, takes P less 5 % at each window, and its end takes
the thermal limit out of L. -/
def Obligations.ThermalLimits : Prop :=
  ∀ s : State,
    let base := if s.pm.braking then min (s.fld 2 0 0 11 0) (s.fld 2 0 0 27 16) else s.fld 2 0 0 11 0
    (s.pm.thermal = false →
      ∃ t, exec .thermalLimitBegin s = .next t ∧ t = { s with ctl := t.ctl, pm := t.pm } ∧ FlagSet t 2 0 8 2 ∧ t.fld 2 0 4 22 22 = 1 ∧
        t.pm = { s.pm with thermal := true, thermalW := s.fld 2 0 0x10 15 0 * 95 / 100 }) ∧
    (s.pm.thermal = true → exec .thermalLimitBegin s = .next s) ∧
    (∀ r : PowerRead, s.pm.thermal = true →
      ∃ t, exec (.pmControlWindow r) s = .next t ∧ t.pm.thermal = true ∧ t.pm.thermalW = r.watts.toNat * 95 / 100 ∧
        t.fld 2 0 4 11 0 = min base (r.watts.toNat * 95 / 100)) ∧
    (∃ t, exec .thermalLimitEnd s = .next t ∧ t = { s with ctl := t.ctl, pm := { s.pm with thermal := false } } ∧ t.fld 2 0 4 22 22 = 0 ∧
      OnlyWords s t [ctlKey 2 0 4]) ∧
    (∀ r : PowerRead, s.pm.thermal = false → ∃ t, exec (.pmControlWindow r) s = .next t ∧ t.fld 2 0 4 11 0 = base)

/-- Every well-formed command answers a next state in every state, a command that names a core above c95 stops with the fault that says so, no command is
refused, and none touches the queue: what waits behind a command still waits after it (R7).
The model's own choices it rests on: log 7. -/
def Obligations.WellFormedCompletes : Prop :=
  ∀ (c : Instr) (s : State),
    (c.wf = true → ∃ t, exec c s = .next t ∧ t.pending = s.pending) ∧
    (∀ t, exec c s = .next t → t.pending = s.pending) ∧
    (∀ f, exec c s = .fault f → f = .noSuchUnit ∧ c.wf = false) ∧
    (∀ r, exec c s ≠ .refused r)

namespace Sys2Proof.Machine

/-- No counted setting has been changed more often than its limit, and the one that waits for its commit has a change left (R566, R568). -/
def CountsHold (s : State) : Prop :=
  s.store.siteUsed ≤ 8 ∧ s.store.gatewayUsed ≤ 16 ∧ s.store.floorUsed ≤ 64 ∧ s.store.genUsed ≤ 4 ∧ s.store.macUsed ≤ 8 ∧
    ∀ j, s.csJob = some j →
      (j.setting = 1 → s.store.siteUsed < 8) ∧ (j.setting = 2 → s.store.gatewayUsed < 16) ∧ (j.setting = 3 → s.store.floorUsed < 64) ∧
        (j.setting = 4 → s.store.genUsed < 4) ∧ (j.setting = 5 → s.store.macUsed < 8)

end Sys2Proof.Machine

/-- The limits of the counted settings hold in the state after every step when they hold before it, whatever the step is: no write, commit, power cycle,
recovery or takeover lets a setting change once more than its limit (R566 to R570).
The model's own choices it rests on: log 9. -/
def Obligations.CountedLimitsHold : Prop := ∀ s t : State, CountsHold s → step s = .next t → CountsHold t

/-- Encoding a Staex 2 instruction and decoding the word gives the instruction back, with every operand. Each word that decodes is read as an instruction
with an encoding of the same CLASS, OP, PRED and PNEG, and outside the scalar and branch classes, where the fields an operation does not use are ignored, that
encoding is the word itself (R81 to R83, R85). -/
def Obligations.EncodingsRoundTrip : Prop :=
  (∀ (i : Instr) (w : W64), encodeStaex i = some w → decodeStaex (issuerOf i).core (issuerOf i).ctx w = some i) ∧
    ∀ (c : BitVec 7) (x : BitVec 2) (w : W64) (i : Instr), decodeStaex c x w = some i →
      ∃ v, encodeStaex i = some v ∧ bitsOf v.toNat 63 52 = bitsOf w.toNat 63 52 ∧ (2 ≤ bitsOf w.toNat 63 60 → v = w)

/-- Reset: no command waits, memory lists nothing and is canonical, every context is IDLE with its registers 0, no counted setting has been used, and the
register words read as after cold start; the cold start that POWER_GOOD makes of it leaves the same (R5, R47, R79, R87, R96, R347).
The model's own choices it rests on: log 2, 4, 5. -/
def Obligations.ResetValues : Prop :=
  let start := fun s : State =>
    s.pending = [] ∧ Memory.wf s.mem = true ∧ s.ue = [] ∧ s.sce = [] ∧ (∀ a, s.byte a = unlistedByte) ∧ CountsHold s ∧
    (∀ c x, (s.ctx c x).st = .idle ∧ (s.ctx c x).queue = [] ∧ (∀ n, (s.ctx c x).sreg n = 0) ∧ ∀ n, ((s.ctx c x).treg n).d = {}) ∧
    (∀ c b, (s.core c).arrBit b = false) ∧ s.siteId = 0xFF ∧ s.phase = 7 ∧
    (∀ f : Fn, fnExists f = true → s.fnState f = 0) ∧ s.word 0 0 0x114 = 0x04210040 ∧ s.word 0 0 0x104 = 0 ∧
    (∀ p < 16, s.word 0x22 p 0x18 = BitVec.ofNat 32 (20000 * 2 ^ 16 + 3)) ∧
    (∀ c < 96, s.word 0x10 c 0x18 = 0) ∧ ∀ b i o, s.word b i o = ctlDefault (ctlKey b i o)
  start State.reset ∧ ∃ t, exec .powerGood State.reset = .next t ∧ start t
end

