-- ==== Sys2Proof/Laws/Exec.lean ====
section
/-! SUPPORT. What exec does with each command: its meaning, one lemma for each constructor, so that no proof unfolds the case split. -/

namespace Sys2Proof.Machine

@[simp] theorem exec_registerWrite (w : Writer) (addr : W64) (wide : Bool) (val : W64) (s : State) : exec (.registerWrite w addr wide val) s = execRegisterWrite w addr wide val s := rfl
@[simp] theorem exec_w1cFlagClear (w : Writer) (addr : W64) (val setNow : W32) (s : State) : exec (.w1cFlagClear w addr val setNow) s = execW1cFlagClear w addr val setNow s := rfl
@[simp] theorem exec_ctrReset (w : Writer) (addr : W64) (s : State) : exec (.ctrReset w addr) s = execCtrReset w addr s := rfl
@[simp] theorem exec_config (w : Writer) (f : Fn) (s : State) : exec (.config w f) s = execConfig w f s := rfl
@[simp] theorem exec_start (w : Writer) (f : Fn) (s : State) : exec (.start w f) s = execStart w f s := rfl
@[simp] theorem exec_stop (w : Writer) (f : Fn) (s : State) : exec (.stop w f) s = execStop w f s := rfl
@[simp] theorem exec_stopDrainComplete (f : Fn) (s : State) : exec (.stopDrainComplete f) s = execStopDrainComplete f s := rfl
@[simp] theorem exec_msTrainingComplete (r : TrainEnd) (s : State) : exec (.msTrainingComplete r) s = execMsTrainingComplete r s := rfl
@[simp] theorem exec_clockLost (s : State) : exec .clockLost s = execClockLost s := rfl
@[simp] theorem exec_rootPllRelock (s : State) : exec .rootPllRelock s = execRootPllRelock s := rfl
@[simp] theorem exec_commandAdmission (c : BitVec 7) (x : BitVec 2) (s : State) : exec (.commandAdmission c x) s = execCommandAdmission c x s := rfl
@[simp] theorem exec_commandStart (c : BitVec 7) (x : BitVec 2) (s : State) : exec (.commandStart c x) s = execCommandStart c x s := rfl
@[simp] theorem exec_overrunStopped (c : BitVec 7) (x : BitVec 2) (s : State) : exec (.overrunStopped c x) s = execOverrunStopped c x s := rfl
@[simp] theorem exec_illegalInstruction (c : BitVec 7) (x : BitVec 2) (word : W64) (s : State) : exec (.illegalInstruction c x word) s = execIllegalInstruction c x word s := rfl
@[simp] theorem exec_add (i : Iss) (sd sa : BitVec 6) (b : SrcB) (s : State) : exec (.add i sd sa b) s = execAdd i sd sa b s := rfl
@[simp] theorem exec_sub (i : Iss) (sd sa : BitVec 6) (b : SrcB) (s : State) : exec (.sub i sd sa b) s = execSub i sd sa b s := rfl
@[simp] theorem exec_mul (i : Iss) (sd sa : BitVec 6) (b : SrcB) (s : State) : exec (.mul i sd sa b) s = execMul i sd sa b s := rfl
@[simp] theorem exec_and (i : Iss) (sd sa : BitVec 6) (b : SrcB) (s : State) : exec (.and i sd sa b) s = execAnd i sd sa b s := rfl
@[simp] theorem exec_or (i : Iss) (sd sa : BitVec 6) (b : SrcB) (s : State) : exec (.or i sd sa b) s = execOr i sd sa b s := rfl
@[simp] theorem exec_xor (i : Iss) (sd sa : BitVec 6) (b : SrcB) (s : State) : exec (.xor i sd sa b) s = execXor i sd sa b s := rfl
@[simp] theorem exec_shl (i : Iss) (sd sa : BitVec 6) (b : SrcB) (s : State) : exec (.shl i sd sa b) s = execShl i sd sa b s := rfl
@[simp] theorem exec_shr (i : Iss) (sd sa : BitVec 6) (b : SrcB) (s : State) : exec (.shr i sd sa b) s = execShr i sd sa b s := rfl
@[simp] theorem exec_sra (i : Iss) (sd sa : BitVec 6) (b : SrcB) (s : State) : exec (.sra i sd sa b) s = execSra i sd sa b s := rfl
@[simp] theorem exec_li (i : Iss) (sd : BitVec 6) (imm : W32) (s : State) : exec (.li i sd imm) s = execLi i sd imm s := rfl
@[simp] theorem exec_lih (i : Iss) (sd : BitVec 6) (imm : W32) (s : State) : exec (.lih i sd imm) s = execLih i sd imm s := rfl
@[simp] theorem exec_cmp (i : Iss) (pd cond : BitVec 3) (sa : BitVec 6) (b : SrcB) (s : State) : exec (.cmp i pd cond sa b) s = execCmp i pd cond sa b s := rfl
@[simp] theorem exec_ld (i : Iss) (w4 : Bool) (sd sa : BitVec 6) (imm : W32) (s : State) : exec (.ld i w4 sd sa imm) s = execLd i w4 sd sa imm s := rfl
@[simp] theorem exec_st (i : Iss) (w4 immed : Bool) (sa sb : BitVec 6) (imm : W32) (s : State) : exec (.st i w4 immed sa sb imm) s = execSt i w4 immed sa sb imm s := rfl
@[simp] theorem exec_getcc (i : Iss) (sd : BitVec 6) (s : State) : exec (.getcc i sd) s = execGetcc i sd s := rfl
@[simp] theorem exec_getid (i : Iss) (sd : BitVec 6) (s : State) : exec (.getid i sd) s = execGetid i sd s := rfl
@[simp] theorem exec_br (i : Iss) (imm : W32) (s : State) : exec (.br i imm) s = execBr i imm s := rfl
@[simp] theorem exec_jr (i : Iss) (sa : BitVec 6) (s : State) : exec (.jr i sa) s = execJr i sa s := rfl
@[simp] theorem exec_endCmd (i : Iss) (s : State) : exec (.endCmd i) s = execEnd i s := rfl
@[simp] theorem exec_endComplete (c : BitVec 7) (x : BitVec 2) (s : State) : exec (.endComplete c x) s = execEndComplete c x s := rfl
@[simp] theorem exec_loads (i : Iss) (f : LoadsF) (s : State) : exec (.loads i f) s = execLoads i f s := rfl
@[simp] theorem exec_stream (i : Iss) (f : StreamF) (s : State) : exec (.stream i f) s = execStream i f s := rfl
@[simp] theorem exec_drain (i : Iss) (f : DrainF) (s : State) : exec (.drain i f) s = execDrain i f s := rfl
@[simp] theorem exec_engSeed (i : Iss) (sreg : BitVec 6) (eng : BitVec 2) (s : State) : exec (.engSeed i sreg eng) s = execEngSeed i sreg eng s := rfl
@[simp] theorem exec_engineInstrStart (c : BitVec 7) (m : BitVec 2) (s : State) : exec (.engineInstrStart c m) s = execEngineInstrStart c m s := rfl
@[simp] theorem exec_prepassSecondSweep (c : BitVec 7) (m : BitVec 2) (chk : List TileFail) (s : State) : exec (.prepassSecondSweep c m chk) s = execPrepassSecondSweep c m chk s := rfl
@[simp] theorem exec_loadsComplete (c : BitVec 7) (m : BitVec 2) (s : State) : exec (.loadsComplete c m) s = execLoadsComplete c m s := rfl
@[simp] theorem exec_streamComplete (c : BitVec 7) (m : BitVec 2) (chk : List TileFail) (s : State) : exec (.streamComplete c m chk) s = execStreamComplete c m chk s := rfl
@[simp] theorem exec_drainComplete (c : BitVec 7) (m : BitVec 2) (chk : List TileFail) (s : State) : exec (.drainComplete c m chk) s = execDrainComplete c m chk s := rfl
@[simp] theorem exec_tasterCompare (c : BitVec 7) (m : BitVec 2) (s : State) : exec (.tasterCompare c m) s = execTasterCompare c m s := rfl
@[simp] theorem exec_vop (i : Iss) (f : VopF) (s : State) : exec (.vop i f) s = execVop i f s := rfl
@[simp] theorem exec_vopComplete (c : BitVec 7) (s : State) : exec (.vopComplete c) s = execVopComplete c s := rfl
@[simp] theorem exec_move (i : Iss) (f : MoveF) (s : State) : exec (.move i f) s = execMove i f s := rfl
@[simp] theorem exec_moveComplete (c : BitVec 7) (s : State) : exec (.moveComplete c) s = execMoveComplete c s := rfl
@[simp] theorem exec_stash (i : Iss) (f : MoveF) (s : State) : exec (.stash i f) s = execStash i f s := rfl
@[simp] theorem exec_stashComplete (c : BitVec 7) (s : State) : exec (.stashComplete c) s = execStashComplete c s := rfl
@[simp] theorem exec_fetch (i : Iss) (f : MoveF) (s : State) : exec (.fetch i f) s = execFetch i f s := rfl
@[simp] theorem exec_fetchComplete (c : BitVec 7) (s : State) : exec (.fetchComplete c) s = execFetchComplete c s := rfl
@[simp] theorem exec_coll (i : Iss) (f : CollF) (s : State) : exec (.coll i f) s = execColl i f s := rfl
@[simp] theorem exec_collHoldRelease (c : BitVec 7) (x : BitVec 2) (s : State) : exec (.collHoldRelease c x) s = execCollHoldRelease c x s := rfl
@[simp] theorem exec_send (i : Iss) (f : SendF) (s : State) : exec (.send i f) s = execSend i f s := rfl
@[simp] theorem exec_fenceStep (i : Iss) (s : State) : exec (.fenceStep i) s = execFenceStep i s := rfl
@[simp] theorem exec_waitArr (i : Iss) (first cntM1 : BitVec 12) (s : State) : exec (.waitArr i first cntM1) s = execWaitArr i first cntM1 s := rfl
@[simp] theorem exec_waitArrSatisfied (c : BitVec 7) (x : BitVec 2) (s : State) : exec (.waitArrSatisfied c x) s = execWaitArrSatisfied c x s := rfl
@[simp] theorem exec_arrClr (i : Iss) (first cntM1 : BitVec 12) (s : State) : exec (.arrClr i first cntM1) s = execArrClr i first cntM1 s := rfl
@[simp] theorem exec_waitT (i : Iss) (sa : BitVec 6) (s : State) : exec (.waitT i sa) s = execWaitT i sa s := rfl
@[simp] theorem exec_interlockRelease (c : BitVec 7) (x : BitVec 2) (s : State) : exec (.interlockRelease c x) s = execInterlockRelease c x s := rfl
@[simp] theorem exec_waitMsg (i : Iss) (td : BitVec 5) (s : State) : exec (.waitMsg i td) s = execWaitMsg i td s := rfl
@[simp] theorem exec_waitMsgArrival (c : BitVec 7) (x : BitVec 2) (s : State) : exec (.waitMsgArrival c x) s = execWaitMsgArrival c x s := rfl
@[simp] theorem exec_signal (i : Iss) (f : SignalF) (s : State) : exec (.signal i f) s = execSignal i f s := rfl
@[simp] theorem exec_signalDecision (c : BitVec 7) (x : BitVec 2) (s : State) : exec (.signalDecision c x) s = execSignalDecision c x s := rfl
@[simp] theorem exec_nop (i : Iss) (s : State) : exec (.nop i) s = execNop i s := rfl
@[simp] theorem exec_tagSet (i : Iss) (tn : BitVec 5) (sa : BitVec 6) (mask : BitVec 4) (clrf : Bool) (s : State) : exec (.tagSet i tn sa mask clrf) s = execTagSet i tn sa mask clrf s := rfl
@[simp] theorem exec_tagGet (i : Iss) (tn : BitVec 5) (sd : BitVec 6) (half : Bool) (s : State) : exec (.tagGet i tn sd half) s = execTagGet i tn sd half s := rfl
@[simp] theorem exec_tdescLd (i : Iss) (tn : BitVec 5) (sa : BitVec 6) (s : State) : exec (.tdescLd i tn sa) s = execTdescLd i tn sa s := rfl
@[simp] theorem exec_tdescSt (i : Iss) (tn : BitVec 5) (sa : BitVec 6) (s : State) : exec (.tdescSt i tn sa) s = execTdescSt i tn sa s := rfl
@[simp] theorem exec_tdescSetf (i : Iss) (tn : BitVec 5) (sa : BitVec 6) (field : BitVec 4) (s : State) : exec (.tdescSetf i tn sa field) s = execTdescSetf i tn sa field s := rfl
@[simp] theorem exec_scaleRd (i : Iss) (tn : BitVec 5) (sd : BitVec 6) (s : State) : exec (.scaleRd i tn sd) s = execScaleRd i tn sd s := rfl
@[simp] theorem exec_scaleMark (i : Iss) (tn : BitVec 5) (s : State) : exec (.scaleMark i tn) s = execScaleMark i tn s := rfl
@[simp] theorem exec_tile16Mma (i : Iss) (f : TileF) (s : State) : exec (.tile16Mma i f) s = execTile16Mma i f s := rfl
@[simp] theorem exec_tile32Mma (i : Iss) (f : TileF) (s : State) : exec (.tile32Mma i f) s = execTile32Mma i f s := rfl
@[simp] theorem exec_engineMapWrite (w : Writer) (c : BitVec 7) (val : W32) (s : State) : exec (.engineMapWrite w c val) s = execEngineMapWrite w c val s := rfl
@[simp] theorem exec_sqSlotInit (w : Writer) (c : BitVec 7) (val : W32) (s : State) : exec (.sqSlotInit w c val) s = execSqSlotInit w c val s := rfl
@[simp] theorem exec_tasteNWrite (w : Writer) (c : BitVec 7) (n : BitVec 5) (s : State) : exec (.tasteNWrite w c n) s = execTasteNWrite w c n s := rfl
@[simp] theorem exec_knockbackK1CoreDrain (s : State) : exec .knockbackK1CoreDrain s = execKnockbackK1CoreDrain s := rfl
@[simp] theorem exec_knockbackK2FabricDrain (s : State) : exec .knockbackK2FabricDrain s = execKnockbackK2FabricDrain s := rfl
@[simp] theorem exec_knockbackK3HiveDrain (s : State) : exec .knockbackK3HiveDrain s = execKnockbackK3HiveDrain s := rfl
@[simp] theorem exec_knockbackK4BaseInstall (s : State) : exec .knockbackK4BaseInstall s = execKnockbackK4BaseInstall s := rfl
@[simp] theorem exec_knockbackK5Advance (s : State) : exec .knockbackK5Advance s = execKnockbackK5Advance s := rfl
@[simp] theorem exec_knockbackK6Open (s : State) : exec .knockbackK6Open s = execKnockbackK6Open s := rfl
@[simp] theorem exec_driftHoldRepeat (s : State) : exec .driftHoldRepeat s = execDriftHoldRepeat s := rfl
@[simp] theorem exec_scrubRead (addr : W64) (r : ScrubRes) (passEnds : Bool) (s : State) : exec (.scrubRead addr r passEnds) s = execScrubRead addr r passEnds s := rfl
@[simp] theorem exec_refresh (ch : BitVec 9) (bank : BitVec 4) (shortened : Bool) (s : State) : exec (.refresh ch bank shortened) s = execRefresh ch bank shortened s := rfl
@[simp] theorem exec_mainMemoryBurst (ch : BitVec 9) (cls : BurstClass) (behindFetch : Bool) (addr : W64) (r : ReadRes) (s : State) : exec (.mainMemoryBurst ch cls behindFetch addr r) s = execMainMemoryBurst ch cls behindFetch addr r s := rfl
@[simp] theorem exec_portLinkUp (p : Port) (lanes : BitVec 4) (anDone : Bool) (s : State) : exec (.portLinkUp p lanes anDone) s = execPortLinkUp p lanes anDone s := rfl
@[simp] theorem exec_portLinkDown (p : Port) (lanes : BitVec 4) (s : State) : exec (.portLinkDown p lanes) s = execPortLinkDown p lanes s := rfl
@[simp] theorem exec_hostFrameReceive (m : HostMsg) (s : State) : exec (.hostFrameReceive m) s = execHostFrameReceive m s := rfl
@[simp] theorem exec_claim (m : HostMsg) (s : State) : exec (.claim m) s = execClaim m s := rfl
@[simp] theorem exec_release (m : HostMsg) (s : State) : exec (.release m) s = execRelease m s := rfl
@[simp] theorem exec_hostWrite (m : HostMsg) (s : State) : exec (.hostWrite m) s = execHostWrite m s := rfl
@[simp] theorem exec_hostRead (m : HostMsg) (s : State) : exec (.hostRead m) s = execHostRead m s := rfl
@[simp] theorem exec_doorbell (m : HostMsg) (s : State) : exec (.doorbell m) s = execDoorbell m s := rfl
@[simp] theorem exec_query (m : HostMsg) (s : State) : exec (.query m) s = execQuery m s := rfl
@[simp] theorem exec_attest (m : HostMsg) (s : State) : exec (.attest m) s = execAttest m s := rfl
@[simp] theorem exec_relay (m : HostMsg) (s : State) : exec (.relay m) s = execRelay m s := rfl
@[simp] theorem exec_tunnelledHostMessage (b : Block) (s : State) : exec (.tunnelledHostMessage b) s = execTunnelledHostMessage b s := rfl
@[simp] theorem exec_relayResponseForward (b : Block) (s : State) : exec (.relayResponseForward b) s = execRelayResponseForward b s := rfl
@[simp] theorem exec_neighbourSolicitation (p : Port) (target : BitVec 128) (s : State) : exec (.neighbourSolicitation p target) s = execNeighbourSolicitation p target s := rfl
@[simp] theorem exec_claimLapsed (s : State) : exec .claimLapsed s = execClaimLapsed s := rfl
@[simp] theorem exec_eventResend (s : State) : exec .eventResend s = execEventResend s := rfl
@[simp] theorem exec_sfCreqReceive (p : BitVec 4) (f : SfFrame) (s : State) : exec (.sfCreqReceive p f) s = execSfCreqReceive p f s := rfl
@[simp] theorem exec_sfGrant (p : BitVec 4) (s : State) : exec (.sfGrant p) s = execSfGrant p s := rfl
@[simp] theorem exec_sfCgntReceive (p : BitVec 4) (f : SfFrame) (s : State) : exec (.sfCgntReceive p f) s = execSfCgntReceive p f s := rfl
@[simp] theorem exec_sfCrefReceive (p : BitVec 4) (f : SfFrame) (s : State) : exec (.sfCrefReceive p f) s = execSfCrefReceive p f s := rfl
@[simp] theorem exec_sfDataReceive (p : BitVec 4) (f : SfFrame) (s : State) : exec (.sfDataReceive p f) s = execSfDataReceive p f s := rfl
@[simp] theorem exec_sfDackReceive (p : BitVec 4) (f : SfFrame) (s : State) : exec (.sfDackReceive p f) s = execSfDackReceive p f s := rfl
@[simp] theorem exec_sfDnakReceive (p : BitVec 4) (f : SfFrame) (s : State) : exec (.sfDnakReceive p f) s = execSfDnakReceive p f s := rfl
@[simp] theorem exec_sfForeignFrame (p : BitVec 4) (why : ForeignWhy) (s : State) : exec (.sfForeignFrame p why) s = execSfForeignFrame p why s := rfl
@[simp] theorem exec_sfRetransmitTimeout (p : BitVec 4) (reqId : W32) (s : State) : exec (.sfRetransmitTimeout p reqId) s = execSfRetransmitTimeout p reqId s := rfl
@[simp] theorem exec_grantReclaimed (p : BitVec 4) (grantId : W32) (s : State) : exec (.grantReclaimed p grantId) s = execGrantReclaimed p grantId s := rfl
@[simp] theorem exec_pfcPauseReceive (p : BitVec 4) (s : State) : exec (.pfcPauseReceive p) s = execPfcPauseReceive p s := rfl
@[simp] theorem exec_collMessageReceive (g : BitVec 12) (m : CollMsg) (s : State) : exec (.collMessageReceive g m) s = execCollMessageReceive g m s := rfl
@[simp] theorem exec_collComplete (g : BitVec 12) (cseq : W32) (s : State) : exec (.collComplete g cseq) s = execCollComplete g cseq s := rfl
@[simp] theorem exec_collDeadlineExpiry (g : BitVec 12) (cseq : W32) (s : State) : exec (.collDeadlineExpiry g cseq) s = execCollDeadlineExpiry g cseq s := rfl
@[simp] theorem exec_collForwardWindowExpiry (g : BitVec 12) (cseq : W32) (s : State) : exec (.collForwardWindowExpiry g cseq) s = execCollForwardWindowExpiry g cseq s := rfl
@[simp] theorem exec_ringHopExpiry (g : BitVec 12) (cseq : W32) (s : State) : exec (.ringHopExpiry g cseq) s = execRingHopExpiry g cseq s := rfl
@[simp] theorem exec_bypassReceive (g : BitVec 12) (cseq : W32) (sender skipped : BitVec 14) (s : State) : exec (.bypassReceive g cseq sender skipped) s = execBypassReceive g cseq sender skipped s := rfl
@[simp] theorem exec_holdReceive (g : BitVec 12) (cseq : W32) (origin : BitVec 14) (s : State) : exec (.holdReceive g cseq origin) s = execHoldReceive g cseq origin s := rfl
@[simp] theorem exec_mismatchNoticeReceive (g : BitVec 12) (cseq : W32) (index : BitVec 14) (field : BitVec 4) (s : State) : exec (.mismatchNoticeReceive g cseq index field) s = execMismatchNoticeReceive g cseq index field s := rfl
@[simp] theorem exec_stateFetchComplete (h : BitVec 4) (shard : W16) (s : State) : exec (.stateFetchComplete h shard) s = execStateFetchComplete h shard s := rfl
@[simp] theorem exec_parkedGradientQueue (h : BitVec 4) (shard : W16) (s : State) : exec (.parkedGradientQueue h shard) s = execParkedGradientQueue h shard s := rfl
@[simp] theorem exec_hiveUpdate (h : BitVec 4) (s : State) : exec (.hiveUpdate h) s = execHiveUpdate h s := rfl
@[simp] theorem exec_hiveUpdateComplete (h : BitVec 4) (s : State) : exec (.hiveUpdateComplete h) s = execHiveUpdateComplete h s := rfl
@[simp] theorem exec_roundEncode (s : State) : exec .roundEncode s = execRoundEncode s := rfl
@[simp] theorem exec_deltaMerge (b : Block) (s : State) : exec (.deltaMerge b) s = execDeltaMerge b s := rfl
@[simp] theorem exec_mergeClose (span : W16) (s : State) : exec (.mergeClose span) s = execMergeClose span s := rfl
@[simp] theorem exec_mergeWaitExpiry (span : W16) (s : State) : exec (.mergeWaitExpiry span) s = execMergeWaitExpiry span s := rfl
@[simp] theorem exec_baseMessageReceive (b : Block) (s : State) : exec (.baseMessageReceive b) s = execBaseMessageReceive b s := rfl
@[simp] theorem exec_refreshRequestReceive (b : Block) (s : State) : exec (.refreshRequestReceive b) s = execRefreshRequestReceive b s := rfl
@[simp] theorem exec_fgRefresh (w : Writer) (val : W32) (s : State) : exec (.fgRefresh w val) s = execFgRefresh w val s := rfl
@[simp] theorem exec_joinTableReceive (r : JoinReply) (s : State) : exec (.joinTableReceive r) s = execJoinTableReceive r s := rfl
@[simp] theorem exec_gatewayRetryTimer (s : State) : exec .gatewayRetryTimer s = execGatewayRetryTimer s := rfl
@[simp] theorem exec_flEgressAdmit (s : State) : exec .flEgressAdmit s = execFlEgressAdmit s := rfl
@[simp] theorem exec_cdxDataReceive (f : CdxFrame) (s : State) : exec (.cdxDataReceive f) s = execCdxDataReceive f s := rfl
@[simp] theorem exec_cdxAckReceive (f : CdxFrame) (s : State) : exec (.cdxAckReceive f) s = execCdxAckReceive f s := rfl
@[simp] theorem exec_cdxNakReceive (f : CdxFrame) (s : State) : exec (.cdxNakReceive f) s = execCdxNakReceive f s := rfl
@[simp] theorem exec_cdxProbeReceive (f : CdxFrame) (s : State) : exec (.cdxProbeReceive f) s = execCdxProbeReceive f s := rfl
@[simp] theorem exec_cdxProbeEchoReceive (f : CdxFrame) (s : State) : exec (.cdxProbeEchoReceive f) s = execCdxProbeEchoReceive f s := rfl
@[simp] theorem exec_cdxForeignFrame (why : ForeignWhy) (s : State) : exec (.cdxForeignFrame why) s = execCdxForeignFrame why s := rfl
@[simp] theorem exec_ackTimer (s : State) : exec .ackTimer s = execAckTimer s := rfl
@[simp] theorem exec_fragmentOverdue (fseq : W32) (s : State) : exec (.fragmentOverdue fseq) s = execFragmentOverdue fseq s := rfl
@[simp] theorem exec_fragmentRtoExpiry (fseq : W32) (s : State) : exec (.fragmentRtoExpiry fseq) s = execFragmentRtoExpiry fseq s := rfl
@[simp] theorem exec_linkDead (s : State) : exec .linkDead s = execLinkDead s := rfl
@[simp] theorem exec_probeTimer (s : State) : exec .probeTimer s = execProbeTimer s := rfl
@[simp] theorem exec_sessionDead (s : State) : exec .sessionDead s = execSessionDead s := rfl
@[simp] theorem exec_helloTimer (s : State) : exec .helloTimer s = execHelloTimer s := rfl
@[simp] theorem exec_helloReceive (f : CdxFrame) (s : State) : exec (.helloReceive f) s = execHelloReceive f s := rfl
@[simp] theorem exec_finishReceive (f : CdxFrame) (s : State) : exec (.finishReceive f) s = execFinishReceive f s := rfl
@[simp] theorem exec_keyRollover (s : State) : exec .keyRollover s = execKeyRollover s := rfl
@[simp] theorem exec_rxKeyDerive (s : State) : exec .rxKeyDerive s = execRxKeyDerive s := rfl
@[simp] theorem exec_keyctlNextKey (w : Writer) (s : State) : exec (.keyctlNextKey w) s = execKeyctlNextKey w s := rfl
@[simp] theorem exec_keyctlRekey (w : Writer) (s : State) : exec (.keyctlRekey w) s = execKeyctlRekey w s := rfl
@[simp] theorem exec_replay (c : BitVec 7) (m : BitVec 2) (s : State) : exec (.replay c m) s = execReplay c m s := rfl
@[simp] theorem exec_replayComplete (c : BitVec 7) (m : BitVec 2) (r : ReplayRes) (s : State) : exec (.replayComplete c m r) s = execReplayComplete c m r s := rfl
@[simp] theorem exec_retirementRest (c : BitVec 7) (m : BitVec 2) (s : State) : exec (.retirementRest c m) s = execRetirementRest c m s := rfl
@[simp] theorem exec_twinWrite (w : Writer) (c : BitVec 7) (m : BitVec 2) (on : Bool) (s : State) : exec (.twinWrite w c m on) s = execTwinWrite w c m on s := rfl
@[simp] theorem exec_swarmScan (s : State) : exec .swarmScan s = execSwarmScan s := rfl
@[simp] theorem exec_recoveryDrainStart (d : Domain) (s : State) : exec (.recoveryDrainStart d) s = execRecoveryDrainStart d s := rfl
@[simp] theorem exec_recoveryDrainEnd (d : Domain) (s : State) : exec (.recoveryDrainEnd d) s = execRecoveryDrainEnd d s := rfl
@[simp] theorem exec_resetEnd (d : Domain) (s : State) : exec (.resetEnd d) s = execResetEnd d s := rfl
@[simp] theorem exec_coreIsolatedReplay (c : BitVec 7) (s : State) : exec (.coreIsolatedReplay c) s = execCoreIsolatedReplay c s := rfl
@[simp] theorem exec_replayLimit (c : BitVec 7) (s : State) : exec (.replayLimit c) s = execReplayLimit c s := rfl
@[simp] theorem exec_heartbeat (s : State) : exec .heartbeat s = execHeartbeat s := rfl
@[simp] theorem exec_takeover (why : TakeoverWhy) (s : State) : exec (.takeover why) s = execTakeover why s := rfl
@[simp] theorem exec_heartbeatLossSilence (s : State) : exec .heartbeatLossSilence s = execHeartbeatLossSilence s := rfl
@[simp] theorem exec_swCmdRecover (w : Writer) (d : Domain) (s : State) : exec (.swCmdRecover w d) s = execSwCmdRecover w d s := rfl
@[simp] theorem exec_swCmdRecord (w : Writer) (d : Domain) (s : State) : exec (.swCmdRecord w d) s = execSwCmdRecord w d s := rfl
@[simp] theorem exec_swCmdTakeover (w : Writer) (s : State) : exec (.swCmdTakeover w) s = execSwCmdTakeover w s := rfl
@[simp] theorem exec_powerGood (s : State) : exec .powerGood s = execPowerGood s := rfl
@[simp] theorem exec_rootPllLock (s : State) : exec .rootPllLock s = execRootPllLock s := rfl
@[simp] theorem exec_rootOfTrustSelftest (die0 die1 entropy : Bool) (s : State) : exec (.rootOfTrustSelftest die0 die1 entropy) s = execRootOfTrustSelftest die0 die1 entropy s := rfl
@[simp] theorem exec_firmwareVerify (s : State) : exec .firmwareVerify s = execFirmwareVerify s := rfl
@[simp] theorem exec_packageBringup (engines : List EngineReport) (s : State) : exec (.packageBringup engines) s = execPackageBringup engines s := rfl
@[simp] theorem exec_hostPortStart (s : State) : exec .hostPortStart s = execHostPortStart s := rfl
@[simp] theorem exec_fwInstall (w : Writer) (s : State) : exec (.fwInstall w) s = execFwInstall w s := rfl
@[simp] theorem exec_setPreferred (w : Writer) (slot : BitVec 1) (s : State) : exec (.setPreferred w slot) s = execSetPreferred w slot s := rfl
@[simp] theorem exec_countedSettingWrite (w : Writer) (k : Counted) (val : Nat) (s : State) : exec (.countedSettingWrite w k val) s = execCountedSettingWrite w k val s := rfl
@[simp] theorem exec_ownerKeyChange (w : Writer) (slot : BitVec 2) (clear : Bool) (s : State) : exec (.ownerKeyChange w slot clear) s = execOwnerKeyChange w slot clear s := rfl
@[simp] theorem exec_countedSettingCommit (ok : Bool) (s : State) : exec (.countedSettingCommit ok) s = execCountedSettingCommit ok s := rfl
@[simp] theorem exec_pwrEnRise (s : State) : exec .pwrEnRise s = execPwrEnRise s := rfl
@[simp] theorem exec_pwrEnFall (s : State) : exec .pwrEnFall s = execPwrEnFall s := rfl
@[simp] theorem exec_inputUndervoltage (s : State) : exec .inputUndervoltage s = execInputUndervoltage s := rfl
@[simp] theorem exec_inputOvervoltage (s : State) : exec .inputOvervoltage s = execInputOvervoltage s := rfl
@[simp] theorem exec_pmControlWindow (r : PowerRead) (s : State) : exec (.pmControlWindow r) s = execPmControlWindow r s := rfl
@[simp] theorem exec_thermalLimitBegin (s : State) : exec .thermalLimitBegin s = execThermalLimitBegin s := rfl
@[simp] theorem exec_thermalLimitEnd (s : State) : exec .thermalLimitEnd s = execThermalLimitEnd s := rfl
@[simp] theorem exec_thermalTrip (s : State) : exec .thermalTrip s = execThermalTrip s := rfl
@[simp] theorem exec_brakeChange (low : Bool) (s : State) : exec (.brakeChange low) s = execBrakeChange low s := rfl
@[simp] theorem exec_leak (s : State) : exec .leak s = execLeak s := rfl
@[simp] theorem exec_fwActionComplete (s : State) : exec .fwActionComplete s = execFwActionComplete s := rfl
@[simp] theorem exec_leakClear (s : State) : exec .leakClear s = execLeakClear s := rfl
@[simp] theorem exec_pfcPauseExpiry (p : BitVec 4) (s : State) : exec (.pfcPauseExpiry p) s = execPfcPauseExpiry p s := rfl
@[simp] theorem exec_flFrameTransmit (s : State) : exec .flFrameTransmit s = execFlFrameTransmit s := rfl
@[simp] theorem exec_crumbBlockRead (r : CrumbRead) (s : State) : exec (.crumbBlockRead r) s = execCrumbBlockRead r s := rfl

end Sys2Proof.Machine
end

