-- ==== Sys2Proof/Laws/Kept.lean ====
section
/-! SUPPORT. What nearly every operation keeps: the queue of waiting commands, the changes used of each counted setting, and the setting that
waits for its commit. The lemmas of the files KeptBase to KeptRows say it once for each operation. -/

namespace Sys2Proof.Machine

/-- Changes used of the counted settings with a limit (R566, R574). -/
def Store.used (b : Store) : List Nat := [b.siteUsed, b.gatewayUsed, b.floorUsed, b.genUsed, b.macUsed]

/-- `t` has the queue, the changes used and the pending commit of `s`. -/
abbrev Keeps (t s : State) : Prop := t.pending = s.pending ∧ t.store.used = s.store.used ∧ t.csJob = s.csJob

/-- A next state of an outcome has the kept parts of `s`. -/
def outKept (o : Out) (s : State) : Prop :=
  match o with
  | .next t => Keeps t s
  | _ => True

@[simp] theorem outKept_next (t s : State) : outKept (.next t) s ↔ Keeps t s := Iff.rfl
@[simp] theorem outKept_fault (f : Fault) (s : State) : outKept (.fault f) s ↔ True := Iff.rfl
@[simp] theorem outKept_refused (r : Refusal) (s : State) : outKept (.refused r) s ↔ True := Iff.rfl
@[simp] theorem outKept_ite (c : Prop) [Decidable c] (a b : Out) (s : State) :
    outKept (if c then a else b) s ↔ (c → outKept a s) ∧ (¬ c → outKept b s) := by
  split <;> simp [*]

@[simp] theorem pending_ite (c : Prop) [Decidable c] (a b : State) :
    (if c then a else b).pending = if c then a.pending else b.pending := apply_ite _ _ _ _
@[simp] theorem used_ite (c : Prop) [Decidable c] (a b : State) :
    (if c then a else b).store.used = if c then a.store.used else b.store.used := apply_ite (fun s : State => s.store.used) _ _ _
@[simp] theorem csJob_ite (c : Prop) [Decidable c] (a b : State) :
    (if c then a else b).csJob = if c then a.csJob else b.csJob := apply_ite _ _ _ _

theorem Keeps.refl (s : State) : Keeps s s := ⟨rfl, rfl, rfl⟩
theorem Keeps.trans {a b c : State} (h : Keeps a b) (k : Keeps b c) : Keeps a c :=
  ⟨h.1.trans k.1, h.2.1.trans k.2.1, h.2.2.trans k.2.2⟩

theorem pair_eq {α β : Type} {e : α × β} {a : α} {b : β} : e = (a, b) ↔ a = e.1 ∧ b = e.2 := by
  constructor
  · rintro rfl
    exact ⟨rfl, rfl⟩
  · rintro ⟨rfl, rfl⟩
    rfl

theorem snd_ite {α β : Type} (c : Prop) [Decidable c] (p q : α × β) : (if c then p else q).2 = if c then p.2 else q.2 := apply_ite _ _ _ _
theorem fst_ite {α β : Type} (c : Prop) [Decidable c] (p q : α × β) : (if c then p else q).1 = if c then p.1 else q.1 := apply_ite _ _ _ _

theorem keeps_store (t : State) (b : Store) (h : b.used = t.store.used) : Keeps { t with store := b } t := ⟨rfl, h, rfl⟩
theorem keeps_noFwJob (t : State) : Keeps { t with fwJob := none } t := ⟨rfl, rfl, rfl⟩

theorem foldl_keeps {α : Type} {g : State → α → State} (h : ∀ s a, Keeps (g s a) s) (l : List α) (s : State) :
    Keeps (l.foldl g s) s := by
  induction l generalizing s with
  | nil => exact .refl s
  | cons a l ih => exact (ih (g s a)).trans (h s a)

theorem foldl_keeps₁ {α β : Type} {g : State × β → α → State × β} (h : ∀ p a, Keeps (g p a).1 p.1) (l : List α)
    (p : State × β) : Keeps (l.foldl g p).1 p.1 := by
  induction l generalizing p with
  | nil => exact .refl _
  | cons a l ih => exact (ih (g p a)).trans (h p a)

theorem foldl_keeps₂ {α β : Type} {g : β × State → α → β × State} (h : ∀ p a, Keeps (g p a).2 p.2) (l : List α)
    (p : β × State) : Keeps (l.foldl g p).2 p.2 := by
  induction l generalizing p with
  | nil => exact .refl _
  | cons a l ih => exact (ih (g p a)).trans (h p a)

/-! ### The counted settings -/

/-- Changes that the settings with numbers 1 to 5 permit (R566, R572). -/
def csLimits : List Nat := [8, 16, 64, 4, 8]

/-- The changes used are within their limits, and the setting that waits for its commit has a change left. -/
def countedOk (u : List Nat) (j : Option CsJob) : Prop :=
  (∀ k < 5, u.getD k 0 ≤ csLimits.getD k 0) ∧ ∀ c, j = some c → ∀ k < 5, c.setting = k + 1 → u.getD k 0 < csLimits.getD k 0

/-- `t` has the queue of `s`, and its counted settings stay within their limits. -/
abbrev Moves (t s : State) : Prop :=
  t.pending = s.pending ∧ (countedOk s.store.used s.csJob → countedOk t.store.used t.csJob)

/-- A next state of an outcome has the queue of `s` and keeps the counted settings within their limits. -/
def outMoves (o : Out) (s : State) : Prop :=
  match o with
  | .next t => Moves t s
  | _ => True

@[simp] theorem outMoves_next (t s : State) : outMoves (.next t) s ↔ Moves t s := Iff.rfl
@[simp] theorem outMoves_fault (f : Fault) (s : State) : outMoves (.fault f) s ↔ True := Iff.rfl
@[simp] theorem outMoves_refused (r : Refusal) (s : State) : outMoves (.refused r) s ↔ True := Iff.rfl

theorem Keeps.moves {t s : State} (h : Keeps t s) : Moves t s := ⟨h.1, fun k => by rw [h.2.1, h.2.2]; exact k⟩
theorem outKept.moves {o : Out} {s : State} (h : outKept o s) : outMoves o s := by
  cases o with
  | next t => exact Keeps.moves h
  | fault f => trivial
  | refused r => trivial
theorem Moves.refl (s : State) : Moves s s := ⟨rfl, id⟩
theorem Moves.trans {a b c : State} (h : Moves a b) (k : Moves b c) : Moves a c := ⟨h.1.trans k.1, fun x => h.2 (k.2 x)⟩
theorem outMoves.trans {o : Out} {s t : State} (h : outMoves o s) (k : Moves s t) : outMoves o t := by
  cases o with
  | next u => exact Moves.trans h k
  | fault f => trivial
  | refused r => trivial

/-- No setting waits. -/
theorem countedOk.none {u : List Nat} {j : Option CsJob} (h : countedOk u j) : countedOk u none := ⟨h.1, by simp⟩

theorem foldl_moves {α β : Type} {g : β × State → α → β × State} (h : ∀ p a, Moves (g p a).2 p.2) (l : List α)
    (p : β × State) : Moves (l.foldl g p).2 p.2 := by
  induction l generalizing p with
  | nil => exact .refl _
  | cons a l ih => exact (ih (g p a)).trans (h p a)

end Sys2Proof.Machine
end

