-- ==== Sys2Proof/Laws/KeptOps.lean ====
section
/-! SUPPORT. What the operations over words, units, memory, tags, messages and contexts keep: one lemma for each operation (Sys2Proof/Laws/Kept.lean says what is kept). -/

set_option maxRecDepth 8000

namespace Sys2Proof.Machine

/-! ### Ops -/

@[simp] theorem State.setWord_kept (s : State) (blk inst off : Nat) (v : W32) :
    Keeps (State.setWord s blk inst off v) s := by
  simp [Keeps, State.setWord]
@[simp] theorem State.setFld_kept (s : State) (blk inst off hi lo v : Nat) :
    Keeps (State.setFld s blk inst off hi lo v) s := by
  simp [Keeps, State.setFld]
@[simp] theorem State.setWord64_kept (s : State) (blk inst off v : Nat) :
    Keeps (State.setWord64 s blk inst off v) s := by
  simp [Keeps, State.setWord64]
@[simp] theorem State.count64_kept (s : State) (blk inst off n : Nat) :
    Keeps (State.count64 s blk inst off n) s := by
  simp [Keeps, State.count64]
@[simp] theorem State.count32_kept (s : State) (blk inst off n : Nat) :
    Keeps (State.count32 s blk inst off n) s := by
  simp [Keeps, State.count32]
@[simp] theorem State.countFld_kept (s : State) (blk inst off hi lo n : Nat) :
    Keeps (State.countFld s blk inst off hi lo n) s := by
  simp [Keeps, State.countFld]
@[simp] theorem State.setFlag_kept (s : State) (blk inst off b : Nat) :
    Keeps (State.setFlag s blk inst off b) s := by
  simp [Keeps, State.setFlag]
@[simp] theorem State.setFlagN_kept (s : State) (n blk inst off b : Nat) :
    Keeps (State.setFlagN s n blk inst off b) s := by
  unfold State.setFlagN
  (repeat' split) <;> simp_all [Keeps, foldl_keeps, foldl_keeps₁, foldl_keeps₂]
@[simp] theorem State.setFlagIf_kept (s : State) (c : Bool) (blk inst off b : Nat) :
    Keeps (State.setFlagIf s c blk inst off b) s := by
  simp [Keeps, State.setFlagIf]
@[simp] theorem State.addTrail_kept (s : State) (reason kind inst detail : Nat) :
    Keeps (State.addTrail s reason kind inst detail) s := by
  simp [Keeps, State.addTrail]
@[simp] theorem State.setFnState_kept (s : State) (f : Fn) (st : Nat) :
    Keeps (State.setFnState s f st) s := by
  simp [Keeps, State.setFnState]
@[simp] theorem State.setFnReason_kept (s : State) (f : Fn) (r : Nat) :
    Keeps (State.setFnReason s f r) s := by
  simp [Keeps, State.setFnReason]
@[simp] theorem State.setCtx_kept (s : State) (c x : Nat) (k : Ctx) :
    Keeps (State.setCtx s c x k) s := by
  simp [Keeps, State.setCtx]
@[simp] theorem State.updCtx_kept (s : State) (c x : Nat) (f : Ctx → Ctx) :
    Keeps (State.updCtx s c x f) s := by
  simp [Keeps, State.updCtx]
@[simp] theorem State.setCore_kept (s : State) (c : Nat) (k : Core) :
    Keeps (State.setCore s c k) s := by
  simp [Keeps, State.setCore]
@[simp] theorem State.updCore_kept (s : State) (c : Nat) (f : Core → Core) :
    Keeps (State.updCore s c f) s := by
  simp [Keeps, State.updCore]
@[simp] theorem State.setEng_kept (s : State) (c m : Nat) (e : Engine) :
    Keeps (State.setEng s c m e) s := by
  simp [Keeps, State.setEng]
@[simp] theorem State.updEng_kept (s : State) (c m : Nat) (f : Engine → Engine) :
    Keeps (State.updEng s c m f) s := by
  simp [Keeps, State.updEng]
@[simp] theorem State.setPort_kept (s : State) (p : Nat) (k : SfPort) :
    Keeps (State.setPort s p k) s := by
  simp [Keeps, State.setPort]
@[simp] theorem State.updPort_kept (s : State) (p : Nat) (f : SfPort → SfPort) :
    Keeps (State.updPort s p f) s := by
  simp [Keeps, State.updPort]
@[simp] theorem State.nextFree_kept (s : State) :
    Keeps (State.nextFree s).2 s := by
  simp [Keeps, State.nextFree]
theorem State.nextFree_keptp (s : State) {a₁ : Nat} {b₁ : State} (hpair : State.nextFree s = (a₁, b₁)) : Keeps b₁ s := by
  have k := State.nextFree_kept s
  rw [hpair] at k
  exact k
@[simp] theorem State.newId_kept (s : State) :
    Keeps (State.newId s).2 s := by
  simp [Keeps, State.newId]
theorem State.newId_keptp (s : State) {a₁ : Nat} {b₁ : State} (hpair : State.newId s = (a₁, b₁)) : Keeps b₁ s := by
  have k := State.newId_kept s
  rw [hpair] at k
  exact k
@[simp] theorem State.setByte_kept (s : State) (a : Nat) (b : Byte) :
    Keeps (State.setByte s a b) s := by
  simp [Keeps, State.setByte]
@[simp] theorem State.writeBytes_kept (s : State) (a : Nat) (z0 : List Byte) :
    Keeps (State.writeBytes s a z0) s := by
  induction z0 generalizing s a with
  | nil => exact .refl s
  | cons b l ih => exact (ih (s.setByte a b) (a + 1)).trans (State.setByte_kept s a b)
@[simp] theorem State.clearUe_kept (s : State) (a n : Nat) :
    Keeps (State.clearUe s a n) s := by
  simp [Keeps, State.clearUe]
@[simp] theorem State.writeMem_kept (s : State) (a : Nat) (bs : List Byte) :
    Keeps (State.writeMem s a bs) s := by
  simp [Keeps, State.writeMem]
@[simp] theorem State.writeNat_kept (s : State) (a n v : Nat) :
    Keeps (State.writeNat s a n v) s := by
  simp [Keeps, State.writeNat]
@[simp] theorem State.ueEvent_kept (s : State) (g cause : Nat) :
    Keeps (State.ueEvent s g cause) s := by
  simp [Keeps, State.ueEvent]
@[simp] theorem State.correct_kept (s : State) (ws : List Nat) :
    Keeps (State.correct s ws) s := by
  unfold State.correct
  (repeat' split) <;> simp_all [Keeps, foldl_keeps, foldl_keeps₁, foldl_keeps₂]
@[simp] theorem State.noteUe_kept (s : State) (a n : Nat) :
    Keeps (State.noteUe s a n) s := by
  exact (State.correct_kept _ _).trans (foldl_keeps (fun s g => State.ueEvent_kept s g 0) _ _)
@[simp] theorem State.clearRange_kept (s : State) (a n : Nat) :
    Keeps (State.clearRange s a n) s := by
  simp [Keeps, State.clearRange]
@[simp] theorem State.meetUe_kept (s : State) (rs : List (Nat × Nat)) :
    Keeps (State.meetUe s rs).1 s := by
  unfold State.meetUe
  (repeat' split) <;> simp_all [Keeps, foldl_keeps, foldl_keeps₁, foldl_keeps₂]
theorem State.meetUe_keptp (s : State) (rs : List (Nat × Nat)) {a₁ : State} {b₁ : Bool} (hpair : State.meetUe s rs = (a₁, b₁)) : Keeps a₁ s := by
  have k := State.meetUe_kept s rs
  rw [hpair] at k
  exact k

/-! ### CoreOps -/

@[simp] theorem State.opDone_kept (s : State) (c x id : Nat) :
    Keeps (State.opDone s c x id) s := by
  simp [Keeps, State.opDone]
@[simp] theorem State.updTag_kept (s : State) (c x r : Nat) (f : Tag → Tag) :
    Keeps (State.updTag s c x r f) s := by
  simp [Keeps, State.updTag]
@[simp] theorem State.orDst_kept (s : State) (c x r : Nat) (fl : BitVec 12) :
    Keeps (State.orDst s c x r fl) s := by
  simp [Keeps, State.orDst]
@[simp] theorem State.tagWritten_kept (s : State) (c x r : Nat) (fl : BitVec 12) (fmt scale : Nat) :
    Keeps (State.tagWritten s c x r fl fmt scale) s := by
  simp [Keeps, State.tagWritten]
@[simp] theorem State.tagWrote_kept (s : State) (c x r : Nat) (fl : BitVec 12) (fmt scale : Nat) (wrote : Bool) :
    Keeps (State.tagWrote s c x r fl fmt scale wrote) s := by
  unfold State.tagWrote
  (repeat' split) <;> simp_all [Keeps, foldl_keeps, foldl_keeps₁, foldl_keeps₂]
@[simp] theorem State.setArr_kept (s : State) (c b : Nat) :
    Keeps (State.setArr s c b) s := by
  simp [Keeps, State.setArr]
@[simp] theorem State.setArrOpt_kept (s : State) (c : Nat) (b : Option Nat) :
    Keeps (State.setArrOpt s c b) s := by
  unfold State.setArrOpt
  (repeat' split) <;> simp [Keeps]
@[simp] theorem State.dropPending_kept (s : State) (c id : Nat) :
    Keeps (State.dropPending s c id) s := by
  simp [Keeps, State.dropPending]

/-! ### Operands -/

@[simp] theorem State.putElem_kept (s : State) (d : TDesc) (i j v : Nat) :
    Keeps (State.putElem s d i j v) s := by
  simp [Keeps, State.putElem]
@[simp] theorem State.putRow_kept (s : State) (d : TDesc) (i j : Nat) (z0 : List Nat) :
    Keeps (State.putRow s d i j z0) s := by
  induction z0 generalizing s j with
  | nil => exact .refl s
  | cons b l ih => exact (ih (s.putElem d i j b) (j + 1)).trans (State.putElem_kept s d i j b)
@[simp] theorem State.putF32_kept (s : State) (d : TDesc) (i j : Nat) (w : W32) :
    Keeps (State.putF32 s d i j w) s := by
  simp [Keeps, State.putF32]
@[simp] theorem State.convRow_kept (s : State) (d : TDesc) (scale rnd : Nat) (ovf : Bool) (dr : Nat → Nat) (i j0 : Nat) (vs : List Num) :
    Keeps (State.convRow s d scale rnd ovf dr i j0 vs).1 s := by
  unfold State.convRow
  (repeat' split) <;> simp_all [Keeps, foldl_keeps, foldl_keeps₁, foldl_keeps₂]
theorem State.convRow_keptp (s : State) (d : TDesc) (scale rnd : Nat) (ovf : Bool) (dr : Nat → Nat) (i j0 : Nat) (vs : List Num) {a₁ : State} {b₁ : ConvStat} (hpair : State.convRow s d scale rnd ovf dr i j0 vs = (a₁, b₁)) : Keeps a₁ s := by
  have k := State.convRow_kept s d scale rnd ovf dr i j0 vs
  rw [hpair] at k
  exact k
@[simp] theorem State.padRow_kept (s : State) (d : TDesc) (i : Nat) :
    Keeps (State.padRow s d i) s := by
  simp [Keeps, State.padRow]
@[simp] theorem State.noteRects_kept (s : State) (rs : List (TDesc × Rect)) :
    Keeps (State.noteRects s rs) s := by
  unfold State.noteRects
  (repeat' split) <;> simp_all [Keeps, foldl_keeps, foldl_keeps₁, foldl_keeps₂]
@[simp] theorem State.noteRead_kept (s : State) (d : TDesc) :
    Keeps (State.noteRead s d) s := by
  unfold State.noteRead
  (repeat' split) <;> simp_all [Keeps, foldl_keeps, foldl_keeps₁, foldl_keeps₂]

/-! ### Transport -/

@[simp] theorem State.noteRoute_kept (s : State) (p d : Nat) :
    Keeps (State.noteRoute s p d) s := by
  unfold State.noteRoute
  (repeat' split) <;> simp_all [Keeps, foldl_keeps, foldl_keeps₁, foldl_keeps₂]
@[simp] theorem State.emit_kept (s : State) (p : Nat) (f : SfFrame) :
    Keeps (State.emit s p f) s := by
  simp [Keeps, State.emit]
@[simp] theorem State.reemit_kept (s : State) (p : Nat) (f : SfFrame) :
    Keeps (State.reemit s p f) s := by
  simp [Keeps, State.reemit]
@[simp] theorem State.sendFinished_kept (s : State) (c id : Nat) :
    Keeps (State.sendFinished s c id) s := by
  unfold State.sendFinished
  (repeat' split) <;> simp [Keeps]
@[simp] theorem State.msgFinished_kept (s : State) (o : TxOwner) :
    Keeps (State.msgFinished s o) s := by
  unfold State.msgFinished
  (repeat' split) <;> simp [Keeps]
@[simp] theorem State.numbered_kept (s : State) (p : Nat) (far : Bool) (blk : Block) :
    Keeps (State.numbered s p far blk).1 s := by
  unfold State.numbered
  (repeat' split) <;> simp [Keeps]
theorem State.numbered_keptp (s : State) (p : Nat) (far : Bool) (blk : Block) {a₁ : State} {b₁ : Block} (hpair : State.numbered s p far blk = (a₁, b₁)) : Keeps a₁ s := by
  have k := State.numbered_kept s p far blk
  rw [hpair] at k
  exact k
@[simp] theorem State.offerMsg_kept (s : State) (p : Nat) (dst : BitVec 14) (unit : BitVec 4) (index : BitVec 12) (blk : Block) (o : TxOwner) (far : Option (Byte × BitVec 14)) (tried : Nat) (coll : Option CollOut) :
    Keeps (State.offerMsg s p dst unit index blk o far tried coll) s := by
  unfold State.offerMsg
  dsimp only
  (repeat' split) <;> simp_all [Keeps, pair_eq, snd_ite, fst_ite, foldl_keeps, foldl_keeps₁, foldl_keeps₂]
@[simp] theorem State.sendMsg_kept (s : State) (p : Nat) (dst : BitVec 14) (unit : BitVec 4) (index : BitVec 12) (blk : Block) (o : TxOwner) (far : Option (Byte × BitVec 14)) (tried : Nat) :
    Keeps (State.sendMsg s p dst unit index blk o far tried) s := by
  unfold State.sendMsg
  (repeat' split) <;> simp_all [Keeps, foldl_keeps, foldl_keeps₁, foldl_keeps₂]
@[simp] theorem State.sendFar_kept (s : State) (p site : Nat) (blk : Block) (o : TxOwner) (tried : Nat) :
    Keeps (State.sendFar s p site blk o tried) s := by
  unfold State.sendFar
  dsimp only
  (repeat' split) <;> simp_all [Keeps, pair_eq, snd_ite, fst_ite, foldl_keeps, foldl_keeps₁, foldl_keeps₂]
@[simp] theorem State.sendBlock_kept (s : State) (plane site : Nat) (dst : BitVec 14) (unit : BitVec 4) (index : BitVec 12) (blk : Block) (o : TxOwner) :
    Keeps (State.sendBlock s plane site dst unit index blk o) s := by
  unfold State.sendBlock
  (repeat' split) <;> simp_all [Keeps, foldl_keeps, foldl_keeps₁, foldl_keeps₂]

/-! ### HostOps -/

@[simp] theorem State.hpSend_kept (s : State) (dst : HostSrc) (m : HostMsg) :
    Keeps (State.hpSend s dst m) s := by
  unfold State.hpSend
  (repeat' split) <;> simp [Keeps]
@[simp] theorem State.pushEvent_kept (s : State) (dst : HostSrc) (payload : List Byte) :
    Keeps (State.pushEvent s dst payload) s := by
  simp [Keeps, State.pushEvent]
@[simp] theorem State.loseEvent_kept (s : State) :
    Keeps (State.loseEvent s) s := by
  simp [Keeps, State.loseEvent]
@[simp] theorem State.reportLost_kept (s : State) (dst : HostSrc) :
    Keeps (State.reportLost s dst) s := by
  unfold State.reportLost
  (repeat' split) <;> simp_all [Keeps, foldl_keeps, foldl_keeps₁, foldl_keeps₂]
@[simp] theorem State.queueEvent_kept (s : State) (payload : List Byte) :
    Keeps (State.queueEvent s payload) s := by
  unfold State.queueEvent
  (repeat' split) <;> simp [Keeps]
@[simp] theorem State.lateEvent_kept (s : State) (cls ovr src : Nat) :
    Keeps (State.lateEvent s cls ovr src) s := by
  simp [Keeps, State.lateEvent]
@[simp] theorem State.hostLate_kept (s : State) (ovr : Nat) :
    Keeps (State.hostLate s ovr) s := by
  unfold State.hostLate
  (repeat' split) <;> grind [outKept, foldl_keeps, foldl_keeps₁, foldl_keeps₂, State.count64_kept, State.lateEvent_kept]
@[simp] theorem State.respond_kept (s : State) (m : HostMsg) (status : Nat) (payload : List Byte) (keep : Bool) :
    Keeps (State.respond s m status payload keep) s := by
  simp [Keeps, State.respond]

/-! ### CtxOps -/

@[simp] theorem State.offer_kept (s : State) (c x : Nat) (src : OfferSrc) (cmd : Cmd) :
    Keeps (State.offer s c x src cmd) s := by
  simp [Keeps, State.offer]
@[simp] theorem State.setLastReason_kept (s : State) (c x r : Nat) :
    Keeps (State.setLastReason s c x r) s := by
  simp [Keeps, State.setLastReason]
@[simp] theorem State.endCommand_kept (s : State) (c x status : Nat) (st : CtxSt) :
    Keeps (State.endCommand s c x status st) s := by
  unfold State.endCommand
  (repeat' split) <;> simp [Keeps]
@[simp] theorem State.replayEnds_kept (s : State) (c x outcome : Nat) :
    Keeps (State.replayEnds s c x outcome) s := by
  simp [Keeps, State.replayEnds]
@[simp] theorem State.halt_kept (s : State) (c x r : Nat) :
    Keeps (State.halt s c x r) s := by
  simp [Keeps, State.halt]
@[simp] theorem State.passOver_kept (s : State) (c x : Nat) :
    Keeps (State.passOver s c x) s := by
  unfold State.passOver
  (repeat' split) <;> grind [outKept, foldl_keeps, foldl_keeps₁, foldl_keeps₂, State.updCtx_kept]
@[simp] theorem State.noteIssue_kept (s : State) (c x : Nat) :
    Keeps (State.noteIssue s c x) s := by
  unfold State.noteIssue
  (repeat' split) <;> grind [outKept, foldl_keeps, foldl_keeps₁, foldl_keeps₂, State.updCtx_kept]
@[simp] theorem State.advance_kept (s : State) (c x : Nat) :
    Keeps (State.advance s c x) s := by
  simp [Keeps, State.advance]
theorem issueStop_moves (i : Iss) (illegal : Bool) (s : State) (stop : Nat → Nat → Ctx → Bool) (body : Nat → Nat → Ctx → State)
    (hb : ∀ c x k, Moves (body c x k) s) : outMoves (issueStop i illegal s stop body) s := by
  unfold issueStop
  dsimp only
  (repeat' split) <;> first
    | trivial
    | exact .refl _
    | exact hb _ _ _
    | exact Keeps.moves (by simp [Keeps])
@[simp] theorem issueStop_kept (i : Iss) (illegal : Bool) (s : State) (stop : Nat → Nat → Ctx → Bool) (body : Nat → Nat → Ctx → State)
    (s₀ : State) (keep : Keeps s s₀) (hb : ∀ c x k, Keeps (body c x k) s₀) : outKept (issueStop i illegal s stop body) s₀ := by
  unfold issueStop
  dsimp only
  (repeat' split) <;> first
    | trivial
    | exact keep
    | exact hb _ _ _
    | exact Keeps.trans (by simp [Keeps]) keep
@[simp] theorem issue_kept (i : Iss) (illegal : Bool) (s : State) (body : Nat → Nat → Ctx → State) (s₀ : State) (keep : Keeps s s₀) (hb : ∀ c x k, Keeps (body c x k) s₀) :
    outKept (issue i illegal s body) s₀ := by
  obtain ⟨k₁, k₂, k₃⟩ := keep
  unfold issue
  exact issueStop_kept _ _ _ _ _ _ ⟨k₁, k₂, k₃⟩ hb
@[simp] theorem State.waitOn_kept (s : State) (c x : Nat) (w : Wait) :
    Keeps (State.waitOn s c x w) s := by
  simp [Keeps, State.waitOn]
@[simp] theorem State.wake_kept (s : State) (c x : Nat) :
    Keeps (State.wake s c x) s := by
  simp [Keeps, State.wake]

end Sys2Proof.Machine
end

