-- ==== Sys2Proof/Laws/KeptCore.lean ====
section
/-! SUPPORT. What a core: scales, engines, error defence, vector unit, mover, waits keep: one lemma for each operation (Sys2Proof/Laws/Kept.lean says what is kept). -/

set_option maxRecDepth 8000

namespace Sys2Proof.Machine

/-! ### Flags -/

@[simp] theorem State.setSlotFld_kept (s : State) (c i hi lo v : Nat) :
    Keeps (State.setSlotFld s c i hi lo v) s := by
  simp [Keeps, State.setSlotFld]
@[simp] theorem State.resetSlot_kept (s : State) (c i mode headroom hlen : Nat) :
    Keeps (State.resetSlot s c i mode headroom hlen) s := by
  simp [Keeps, State.resetSlot]
@[simp] theorem State.resetSlots_kept (s : State) (c : Nat) (z0 : Nat) :
    Keeps (State.resetSlots s c z0) s := by
  induction z0 with
  | zero => exact .refl s
  | succ n ih => exact (State.resetSlot_kept _ _ _ _ _ _).trans ih
@[simp] theorem State.readSlot_kept (s : State) (c i : Nat) :
    Keeps (State.readSlot s c i) s := by
  unfold State.readSlot
  (repeat' split) <;> simp_all [Keeps, foldl_keeps, foldl_keeps₁, foldl_keeps₂]
@[simp] theorem State.chooseScale_kept (s : State) (c : Nat) (d : TDesc) :
    Keeps (State.chooseScale s c d).2 s := by
  unfold State.chooseScale
  dsimp only
  (repeat' split) <;> simp_all [Keeps, pair_eq, snd_ite, fst_ite, foldl_keeps, foldl_keeps₁, foldl_keeps₂]
theorem State.chooseScale_keptp (s : State) (c : Nat) (d : TDesc) {a₁ : Nat} {b₁ : State} (hpair : State.chooseScale s c d = (a₁, b₁)) : Keeps b₁ s := by
  have k := State.chooseScale_kept s c d
  rw [hpair] at k
  exact k
@[simp] theorem State.choosePrepass_kept (s : State) (c : Nat) (d : TDesc) (a : Nat × Int) :
    Keeps (State.choosePrepass s c d a).2 s := by
  simp [Keeps, State.choosePrepass]
theorem State.choosePrepass_keptp (s : State) (c : Nat) (d : TDesc) (a : Nat × Int) {a₁ : Nat} {b₁ : State} (hpair : State.choosePrepass s c d a = (a₁, b₁)) : Keeps b₁ s := by
  have k := State.choosePrepass_kept s c d a
  rw [hpair] at k
  exact k
@[simp] theorem State.markSource_kept (s : State) (c : Nat) (t : TReg) :
    Keeps (State.markSource s c t) s := by
  simp [Keeps, State.markSource]
@[simp] theorem State.markSources_kept (s : State) (c : Nat) (ts : List TReg) :
    Keeps (State.markSources s c ts) s := by
  unfold State.markSources
  (repeat' split) <;> simp_all [Keeps, foldl_keeps, foldl_keeps₁, foldl_keeps₂]
@[simp] theorem State.memCount_kept (s : State) (a n : Nat) :
    Keeps (State.memCount s a n) s := by
  simp [Keeps, State.memCount]
@[simp] theorem State.memCount64_kept (s : State) (a n : Nat) :
    Keeps (State.memCount64 s a n) s := by
  simp [Keeps, State.memCount64]
@[simp] theorem State.slotComplete_kept (s : State) (c : Nat) (d : TDesc) (a : Nat × Int) (st : ConvStat) (prepass : Bool) :
    Keeps (State.slotComplete s c d a st prepass) s := by
  simp [Keeps, State.slotComplete]
@[simp] theorem State.layerAdd_kept (s : State) (layer : Nat) (st : ConvStat) (prepass : Bool) :
    Keeps (State.layerAdd s layer st prepass) s := by
  simp [Keeps, State.layerAdd]
@[simp] theorem State.layerCountFor_kept (s : State) (c layer : Nat) (st : ConvStat) (prepass : Bool) :
    Keeps (State.layerCountFor s c layer st prepass) s := by
  simp [Keeps, State.layerCountFor]
@[simp] theorem State.convCounts_kept (s : State) (c off : Nat) (layer : Option Nat) (st : ConvStat) (prepass : Bool) :
    Keeps (State.convCounts s c off layer st prepass) s := by
  unfold State.convCounts
  (repeat' split) <;> simp [Keeps]

/-! ### VectorOps -/

/-! ### Comb -/

@[simp] theorem State.putProRow_kept (s : State) (d : TDesc) (i : Nat) (cs : List (Nat × ConvOut)) :
    Keeps (State.putProRow s d i cs) s := by
  unfold State.putProRow
  (repeat' split) <;> simp_all [Keeps, foldl_keeps, foldl_keeps₁, foldl_keeps₂]
@[simp] theorem State.drew_kept (s : State) (n : Nat) :
    Keeps (State.drew s n) s := by
  simp [Keeps, State.drew]
@[simp] theorem State.operandRows_kept (s : State) (c : Nat) (op : EngOp) (o : StreamOp) :
    Keeps (State.operandRows s c op o).2.1 s := by
  unfold State.operandRows
  (repeat' split) <;> simp_all [Keeps, foldl_keeps, foldl_keeps₁, foldl_keeps₂]

/-! ### Tensor -/

@[simp] theorem State.engStall_kept (s : State) (c x : Nat) :
    Keeps (State.engStall s c x) s := by
  simp [Keeps, State.engStall]
@[simp] theorem State.engQueue_kept (s : State) (c x m : Nat) (kind : EngKind) (dsts srcs : List Nat) (tile : Bool) (issue : Engine → Engine) :
    Keeps (State.engQueue s c x m kind dsts srcs tile issue) s := by
  simp [Keeps, State.engQueue]
@[simp] theorem State.tensorGo_kept (s : State) (c x m need : Nat) (i : Instr) (dsts srcs : List Nat) (checks : List Nat) (faulted go : State)  (hf : Keeps faulted s) (hb : Keeps go s):
    Keeps (State.tensorGo s c x m need i dsts srcs checks faulted go) s := by
  unfold State.tensorGo
  (repeat' split) <;> simp_all [Keeps]
@[simp] theorem execLoads_kept (i : Iss) (f : LoadsF) (s : State) (s₀ : State) (keep : Keeps s s₀) :
    outKept (execLoads i f s) s₀ := by
  obtain ⟨k₁, k₂, k₃⟩ := keep
  unfold execLoads
  simp_all [Keeps, foldl_keeps, foldl_keeps₁, foldl_keeps₂]
@[simp] theorem State.dropAttach_kept (s : State) (c x m : Nat) :
    Keeps (State.dropAttach s c x m) s := by
  unfold State.dropAttach
  (repeat' split) <;> simp_all [Keeps, foldl_keeps, foldl_keeps₁, foldl_keeps₂]
@[simp] theorem State.dropBad_kept (s : State) (c x m : Nat) (f : StreamF) :
    Keeps (State.dropBad s c x m f) s := by
  unfold State.dropBad
  (repeat' split) <;> grind [outKept, foldl_keeps, foldl_keeps₁, foldl_keeps₂, State.updCore_kept]
@[simp] theorem execStream_kept (i : Iss) (f : StreamF) (s : State) (s₀ : State) (keep : Keeps s s₀) :
    outKept (execStream i f s) s₀ := by
  obtain ⟨k₁, k₂, k₃⟩ := keep
  unfold execStream
  simp_all [Keeps, foldl_keeps, foldl_keeps₁, foldl_keeps₂]
@[simp] theorem execDrain_kept (i : Iss) (f : DrainF) (s : State) (s₀ : State) (keep : Keeps s s₀) :
    outKept (execDrain i f s) s₀ := by
  obtain ⟨k₁, k₂, k₃⟩ := keep
  unfold execDrain
  simp_all [Keeps, foldl_keeps, foldl_keeps₁, foldl_keeps₂]
@[simp] theorem execEngSeed_kept (i : Iss) (sreg : BitVec 6) (eng : BitVec 2) (s : State) (s₀ : State) (keep : Keeps s s₀) :
    outKept (execEngSeed i sreg eng s) s₀ := by
  obtain ⟨k₁, k₂, k₃⟩ := keep
  unfold execEngSeed
  simp_all [Keeps, foldl_keeps, foldl_keeps₁, foldl_keeps₂]
@[simp] theorem tileForm_kept (i : Iss) (f : TileF) (n : Nat) (held : Instr) (s : State) (s₀ : State) (keep : Keeps s s₀) :
    outKept (tileForm i f n held s) s₀ := by
  obtain ⟨k₁, k₂, k₃⟩ := keep
  unfold tileForm
  simp_all [Keeps, foldl_keeps, foldl_keeps₁, foldl_keeps₂]
@[simp] theorem execTile16Mma_kept (i : Iss) (f : TileF) (s : State) (s₀ : State) (keep : Keeps s s₀) :
    outKept (execTile16Mma i f s) s₀ := by
  obtain ⟨k₁, k₂, k₃⟩ := keep
  unfold execTile16Mma
  (repeat' split) <;> simp_all [Keeps, foldl_keeps, foldl_keeps₁, foldl_keeps₂]
@[simp] theorem execTile32Mma_kept (i : Iss) (f : TileF) (s : State) (s₀ : State) (keep : Keeps s s₀) :
    outKept (execTile32Mma i f s) s₀ := by
  obtain ⟨k₁, k₂, k₃⟩ := keep
  unfold execTile32Mma
  (repeat' split) <;> simp_all [Keeps, foldl_keeps, foldl_keeps₁, foldl_keeps₂]

/-! ### EngineRun -/

@[simp] theorem State.countReplay_kept (s : State) (c m r rows : Nat) :
    Keeps (State.countReplay s c m r rows) s := by
  simp [Keeps, State.countReplay]
@[simp] theorem State.countTres_kept (s : State) (c m : Nat) (ts : List Tag) :
    Keeps (State.countTres s c m ts) s := by
  simp [Keeps, State.countTres]
@[simp] theorem State.attScale_kept (s : State) (c : Nat) (a : Option Attach) :
    Keeps (State.attScale s c a).2.2 s := by
  unfold State.attScale
  dsimp only
  (repeat' split) <;> simp_all [Keeps, pair_eq, snd_ite, fst_ite, foldl_keeps, foldl_keeps₁]
@[simp] theorem State.startStream_kept (s : State) (c m : Nat) (op : EngOp) (o : StreamOp) :
    Keeps (State.startStream s c m op o).2 s := by
  unfold State.startStream
  dsimp only
  (repeat' split) <;> simp_all [Keeps, pair_eq, snd_ite, fst_ite, foldl_keeps, foldl_keeps₁]
theorem State.startStream_keptp (s : State) (c m : Nat) (op : EngOp) (o : StreamOp) {a₁ : EngOp} {b₁ : State} (hpair : State.startStream s c m op o = (a₁, b₁)) : Keeps b₁ s := by
  have k := State.startStream_kept s c m op o
  rw [hpair] at k
  exact k
@[simp] theorem State.startDrain_kept (s : State) (c : Nat) (op : EngOp) (o : DrainOp) :
    Keeps (State.startDrain s c op o).2 s := by
  simp_all [Keeps, State.startDrain, apply_ite, foldl_keeps, foldl_keeps₁, foldl_keeps₂]
theorem State.startDrain_keptp (s : State) (c : Nat) (op : EngOp) (o : DrainOp) {a₁ : EngOp} {b₁ : State} (hpair : State.startDrain s c op o = (a₁, b₁)) : Keeps b₁ s := by
  have k := State.startDrain_kept s c op o
  rw [hpair] at k
  exact k
@[simp] theorem State.startLoads_kept (s : State) (c m : Nat) (op : EngOp) (o : LoadsOp) :
    Keeps (State.startLoads s c m op o).2 s := by
  unfold State.startLoads
  (repeat' split) <;> grind [outKept, foldl_keeps, foldl_keeps₁, foldl_keeps₂, State.countTres_kept, State.markSource_kept, State.updEng_kept]
theorem State.startLoads_keptp (s : State) (c m : Nat) (op : EngOp) (o : LoadsOp) {a₁ : EngOp} {b₁ : State} (hpair : State.startLoads s c m op o = (a₁, b₁)) : Keeps b₁ s := by
  have k := State.startLoads_kept s c m op o
  rw [hpair] at k
  exact k
@[simp] theorem State.feed_kept (s : State) (c m : Nat) :
    Keeps (State.feed s c m) s := by
  unfold State.feed
  (repeat' split) <;> grind [outKept, foldl_keeps, foldl_keeps₁, foldl_keeps₂, State.updEng_kept]
@[simp] theorem State.formStream_kept (s : State) (c m : Nat) (op : EngOp) (o : StreamOp) :
    Keeps (State.formStream s c m op o).2.1 s := by
  simp [Keeps, State.formStream]
@[simp] theorem State.noteFail_kept (s : State) (c m : Nat) (f : CheckFail) :
    Keeps (State.noteFail s c m f) s := by
  simp [Keeps, State.noteFail]
@[simp] theorem State.noteTwin_kept (s : State) (c m : Nat) (f : CheckFail) :
    Keeps (State.noteTwin s c m f) s := by
  simp [Keeps, State.noteTwin]
@[simp] theorem State.noteUnresolved_kept (s : State) (c m : Nat) :
    Keeps (State.noteUnresolved s c m) s := by
  simp [Keeps, State.noteUnresolved]
@[simp] theorem State.holdTile_kept (s : State) (c m id rows : Nat) (sweep1 : Bool) (f : TileFail) :
    Keeps (State.holdTile s c m id rows sweep1 f) s := by
  unfold State.holdTile
  dsimp only
  (repeat' split) <;> simp_all [Keeps, pair_eq, snd_ite, fst_ite, foldl_keeps, foldl_keeps₁, foldl_keeps₂]
@[simp] theorem State.holdRetired_kept (s : State) (c m id rows : Nat) :
    Keeps (State.holdRetired s c m id rows) s := by
  unfold State.holdRetired
  (repeat' split) <;> simp_all [Keeps, foldl_keeps, foldl_keeps₁, foldl_keeps₂]
@[simp] theorem State.writeRow_kept (s : State) (c m : Nat) (op : EngOp) (o : StreamOp) (t : Tally) (r : RowOut) (n : Nat) :
    Keeps (State.writeRow s c m op o t r n).1 s := by
  unfold State.writeRow
  (repeat' split) <;> simp [Keeps]
theorem State.writeRow_keptp (s : State) (c m : Nat) (op : EngOp) (o : StreamOp) (t : Tally) (r : RowOut) (n : Nat) {a₁ : State} {b₁ : Tally} (hpair : State.writeRow s c m op o t r n = (a₁, b₁)) : Keeps a₁ s := by
  have k := State.writeRow_kept s c m op o t r n
  rw [hpair] at k
  exact k
@[simp] theorem State.writeRowVal_kept (s : State) (c : Nat) (op : EngOp) (o : StreamOp) (a : Attach) (v : Conv) (r : RowOut) (n : Nat) :
    Keeps (State.writeRowVal s c op o a v r n).1 s := by
  unfold State.writeRowVal
  (repeat' split) <;> simp_all [Keeps, foldl_keeps, foldl_keeps₁, foldl_keeps₂]
theorem State.writeRowVal_keptp (s : State) (c : Nat) (op : EngOp) (o : StreamOp) (a : Attach) (v : Conv) (r : RowOut) (n : Nat) {a₁ : State} {b₁ : Conv} (hpair : State.writeRowVal s c op o a v r n = (a₁, b₁)) : Keeps a₁ s := by
  have k := State.writeRowVal_kept s c op o a v r n
  rw [hpair] at k
  exact k
@[simp] theorem State.writeStats_kept (s : State) (ts : Opd) (sc fn i : Nat) (st : Stats) (v : Conv) :
    Keeps (State.writeStats s ts sc fn i st v).1 s := by
  unfold State.writeStats
  (repeat' split) <;> simp_all [Keeps, foldl_keeps, foldl_keeps₁, foldl_keeps₂]
theorem State.writeStats_keptp (s : State) (ts : Opd) (sc fn i : Nat) (st : Stats) (v : Conv) {a₁ : State} {b₁ : Conv} (hpair : State.writeStats s ts sc fn i st v = (a₁, b₁)) : Keeps a₁ s := by
  have k := State.writeStats_kept s ts sc fn i st v
  rw [hpair] at k
  exact k
@[simp] theorem State.writeEpi_kept (s : State) (c : Nat) (op : EngOp) (o : StreamOp) (rs : List RowOut) (v : Conv) :
    Keeps (State.writeEpi s c op o rs v).1 s := by
  unfold State.writeEpi
  (repeat' split) <;> simp_all [Keeps, foldl_keeps, foldl_keeps₁, foldl_keeps₂]
theorem State.writeEpi_keptp (s : State) (c : Nat) (op : EngOp) (o : StreamOp) (rs : List RowOut) (v : Conv) {a₁ : State} {b₁ : Conv} (hpair : State.writeEpi s c op o rs v = (a₁, b₁)) : Keeps a₁ s := by
  have k := State.writeEpi_kept s c op o rs v
  rw [hpair] at k
  exact k
@[simp] theorem State.writeRows_kept (s : State) (c m : Nat) (op : EngOp) (o : StreamOp) (keep : Nat → Bool) (t : Tally) (n : Nat) (rs : List RowOut) :
    Keeps (State.writeRows s c m op o keep t n rs).1 s := by
  unfold State.writeRows
  (repeat' split) <;> simp_all [Keeps, foldl_keeps, foldl_keeps₁, foldl_keeps₂]
theorem State.writeRows_keptp (s : State) (c m : Nat) (op : EngOp) (o : StreamOp) (keep : Nat → Bool) (t : Tally) (n : Nat) (rs : List RowOut) {a₁ : State} {b₁ : Tally} (hpair : State.writeRows s c m op o keep t n rs = (a₁, b₁)) : Keeps a₁ s := by
  have k := State.writeRows_kept s c m op o keep t n rs
  rw [hpair] at k
  exact k
@[simp] theorem State.writeDrain_kept (s : State) (op : EngOp) (o : DrainOp) (keep : Nat → Bool) (t : Tally) (n : Nat) (rs : List (List Num)) :
    Keeps (State.writeDrain s op o keep t n rs).1 s := by
  unfold State.writeDrain
  (repeat' split) <;> simp_all [Keeps, foldl_keeps, foldl_keeps₁, foldl_keeps₂]
theorem State.writeDrain_keptp (s : State) (op : EngOp) (o : DrainOp) (keep : Nat → Bool) (t : Tally) (n : Nat) (rs : List (List Num)) {a₁ : State} {b₁ : Tally} (hpair : State.writeDrain s op o keep t n rs = (a₁, b₁)) : Keeps a₁ s := by
  have k := State.writeDrain_kept s op o keep t n rs
  rw [hpair] at k
  exact k
@[simp] theorem State.epiScaled_kept (s : State) (c : Nat) (op : EngOp) (o : StreamOp) (rs : List RowOut) :
    Keeps (State.epiScaled s c op o rs).2 s := by
  unfold State.epiScaled
  (repeat' split) <;> simp_all [Keeps, foldl_keeps, foldl_keeps₁, foldl_keeps₂]
theorem State.epiScaled_keptp (s : State) (c : Nat) (op : EngOp) (o : StreamOp) (rs : List RowOut) {a₁ : EngOp} {b₁ : State} (hpair : State.epiScaled s c op o rs = (a₁, b₁)) : Keeps b₁ s := by
  have k := State.epiScaled_kept s c op o rs
  rw [hpair] at k
  exact k
@[simp] theorem State.convDone_kept (s : State) (c x : Nat) (q : Opd) (v : Conv) (prepass : Bool) (fl : BitVec 12) (scale : Nat) (wrote : Bool) :
    Keeps (State.convDone s c x q v prepass fl scale wrote) s := by
  unfold State.convDone
  (repeat' split) <;> simp_all [Keeps, foldl_keeps, foldl_keeps₁, foldl_keeps₂]
@[simp] theorem State.attachDone_kept (s : State) (c : Nat) (op : EngOp) (o : StreamOp) (t : Tally) (a : Attach) :
    Keeps (State.attachDone s c op o t a) s := by
  unfold State.attachDone
  (repeat' split) <;> simp_all [Keeps, foldl_keeps, foldl_keeps₁, foldl_keeps₂]
@[simp] theorem State.leaveQueue_kept (s : State) (c m : Nat) (op : EngOp) :
    Keeps (State.leaveQueue s c m op) s := by
  simp [Keeps, State.leaveQueue]
@[simp] theorem State.countPair_kept (s : State) (blk c m off n : Nat) :
    Keeps (State.countPair s blk c m off n) s := by
  unfold State.countPair
  (repeat' split) <;> grind [outKept, foldl_keeps, foldl_keeps₁, foldl_keeps₂, State.count64_kept]
@[simp] theorem State.countTiles_kept (s : State) (c m rows : Nat) (live : List TileFail) :
    Keeps (State.countTiles s c m rows live) s := by
  simp [Keeps, State.countTiles]
@[simp] theorem State.completeOp_kept (s : State) (c m : Nat) (op : EngOp) (t : Tally) :
    Keeps (State.completeOp s c m op t) s := by
  unfold State.completeOp
  (repeat' split) <;> simp_all [Keeps, foldl_keeps, foldl_keeps₁, foldl_keeps₂]
@[simp] theorem State.finishOrHold_kept (s : State) (c m : Nat) (op : EngOp) (t : Tally) :
    Keeps (State.finishOrHold s c m op t) s := by
  simp [Keeps, State.finishOrHold]
@[simp] theorem State.tasteSkip_kept (s : State) (c m layer : Nat) :
    Keeps (State.tasteSkip s c m layer) s := by
  simp [Keeps, State.tasteSkip]
@[simp] theorem State.tasteWindow_kept (s : State) (c m n : Nat) :
    Keeps (State.tasteWindow s c m n).2 s := by
  unfold State.tasteWindow
  (repeat' split) <;> grind [outKept, foldl_keeps, foldl_keeps₁, foldl_keeps₂, State.nextFree_kept, State.updEng_kept, State.nextFree_keptp]
theorem State.tasteWindow_keptp (s : State) (c m n : Nat) {a₁ : Nat} {b₁ : State} (hpair : State.tasteWindow s c m n = (a₁, b₁)) : Keeps b₁ s := by
  have k := State.tasteWindow_kept s c m n
  rw [hpair] at k
  exact k
@[simp] theorem State.tasteTile_kept (s : State) (c m : Nat) (o : StreamOp) (vals : List (Num × Num)) (lost : Bool) :
    Keeps (State.tasteTile s c m o vals lost) s := by
  simp [Keeps, State.tasteTile]
@[simp] theorem State.tasteAbandon_kept (s : State) (c m : Nat) :
    Keeps (State.tasteAbandon s c m) s := by
  unfold State.tasteAbandon
  (repeat' split) <;> simp_all [Keeps, foldl_keeps, foldl_keeps₁, foldl_keeps₂]
@[simp] theorem State.tasteStream_kept (s : State) (c m : Nat) (op : EngOp) (o : StreamOp) (rs : List RowOut) (chks : List TileFail) :
    Keeps (State.tasteStream s c m op o rs chks) s := by
  unfold State.tasteStream
  (repeat' split) <;> simp_all [Keeps, foldl_keeps, foldl_keeps₁, foldl_keeps₂]
@[simp] theorem execTasterCompare_kept (c : BitVec 7) (m : BitVec 2) (s : State) (s₀ : State) (keep : Keeps s s₀) :
    outKept (execTasterCompare c m s) s₀ := by
  obtain ⟨k₁, k₂, k₃⟩ := keep
  unfold execTasterCompare
  dsimp only
  (repeat' split) <;> simp_all [Keeps, pair_eq, snd_ite, fst_ite, foldl_keeps, foldl_keeps₁, foldl_keeps₂]
@[simp] theorem State.noteWaited_kept (s : State) (c m : Nat) (op : EngOp) :
    Keeps (State.noteWaited s c m op) s := by
  unfold State.noteWaited
  (repeat' split) <;> simp_all [Keeps, foldl_keeps, foldl_keeps₁, foldl_keeps₂]
@[simp] theorem execEngineInstrStart_kept (c : BitVec 7) (m : BitVec 2) (s : State) (s₀ : State) (keep : Keeps s s₀) :
    outKept (execEngineInstrStart c m s) s₀ := by
  obtain ⟨k₁, k₂, k₃⟩ := keep
  unfold execEngineInstrStart
  dsimp only
  (repeat' split) <;> simp_all [Keeps, pair_eq, snd_ite, fst_ite, foldl_keeps, foldl_keeps₁, foldl_keeps₂]
@[simp] theorem execLoadsComplete_kept (c : BitVec 7) (m : BitVec 2) (s : State) (s₀ : State) (keep : Keeps s s₀) :
    outKept (execLoadsComplete c m s) s₀ := by
  obtain ⟨k₁, k₂, k₃⟩ := keep
  unfold execLoadsComplete
  dsimp only
  (repeat' split) <;> simp_all [Keeps, pair_eq, snd_ite, fst_ite, foldl_keeps, foldl_keeps₁, foldl_keeps₂]
@[simp] theorem State.putOp_kept (s : State) (c m : Nat) (o : EngOp) :
    Keeps (State.putOp s c m o) s := by
  unfold State.putOp
  (repeat' split) <;> simp_all [Keeps, foldl_keeps, foldl_keeps₁, foldl_keeps₂]
@[simp] theorem State.sweepStream_kept (s : State) (c m : Nat) (op : EngOp) (o : StreamOp) :
    Keeps (State.sweepStream s c m op o) s := by
  unfold State.sweepStream
  dsimp only
  (repeat' split) <;> simp_all [Keeps, pair_eq, snd_ite, fst_ite, foldl_keeps, foldl_keeps₁]
@[simp] theorem execPrepassSecondSweep_kept (c : BitVec 7) (m : BitVec 2) (chks : List TileFail) (s : State) (s₀ : State) (keep : Keeps s s₀) :
    outKept (execPrepassSecondSweep c m chks s) s₀ := by
  obtain ⟨k₁, k₂, k₃⟩ := keep
  unfold execPrepassSecondSweep
  dsimp only
  (repeat' split) <;> simp_all [Keeps, pair_eq, snd_ite, fst_ite, foldl_keeps, foldl_keeps₁]
@[simp] theorem State.poisonStream_kept (s : State) (c m : Nat) (op : EngOp) (o : StreamOp) :
    Keeps (State.poisonStream s c m op o) s := by
  unfold State.poisonStream
  (repeat' split) <;> grind [outKept, foldl_keeps, foldl_keeps₁, foldl_keeps₂, State.orDst_kept, State.countPair_kept, State.leaveQueue_kept]
@[simp] theorem State.streamDone_kept (s : State) (c m : Nat) (op : EngOp) (o : StreamOp) (live : List TileFail) :
    Keeps (State.streamDone s c m op o live) s := by
  unfold State.streamDone
  dsimp only
  (repeat' split) <;> simp_all [Keeps, pair_eq, snd_ite, fst_ite, foldl_keeps, foldl_keeps₁]
@[simp] theorem execStreamComplete_kept (c : BitVec 7) (m : BitVec 2) (chks : List TileFail) (s : State) (s₀ : State) (keep : Keeps s s₀) :
    outKept (execStreamComplete c m chks s) s₀ := by
  obtain ⟨k₁, k₂, k₃⟩ := keep
  unfold execStreamComplete
  dsimp only
  (repeat' split) <;> simp_all [Keeps, pair_eq, snd_ite, fst_ite, foldl_keeps, foldl_keeps₁]
@[simp] theorem execDrainComplete_kept (c : BitVec 7) (m : BitVec 2) (chks : List TileFail) (s : State) (s₀ : State) (keep : Keeps s s₀) :
    outKept (execDrainComplete c m chks s) s₀ := by
  obtain ⟨k₁, k₂, k₃⟩ := keep
  unfold execDrainComplete
  dsimp only
  (repeat' split) <;> simp_all [Keeps, pair_eq, snd_ite, fst_ite, foldl_keeps, foldl_keeps₁, foldl_keeps₂]

/-! ### ErrorDefence -/

@[simp] theorem State.domainEvent_kept (s : State) (kind inst st cause reason record ctx : Nat) :
    Keeps (State.domainEvent s kind inst st cause reason record ctx) s := by
  simp [Keeps, State.domainEvent]
@[simp] theorem State.voidOp_kept (s : State) (c : Nat) (op : EngOp) :
    Keeps (State.voidOp s c op) s := by
  unfold State.voidOp
  (repeat' split) <;> simp [Keeps]
@[simp] theorem State.beginRetire_kept (s : State) (c m : Nat) :
    Keeps (State.beginRetire s c m) s := by
  unfold State.beginRetire
  (repeat' split) <;> simp_all [Keeps, foldl_keeps, foldl_keeps₁, foldl_keeps₂]
@[simp] theorem State.strike_kept (s : State) (c m : Nat) :
    Keeps (State.strike s c m) s := by
  simp [Keeps, State.strike]
@[simp] theorem State.judge_kept (s : State) (c m : Nat) (equal : Bool) :
    Keeps (State.judge s c m equal) s := by
  simp [Keeps, State.judge]
@[simp] theorem State.dropEngine_kept (s : State) (c m : Nat) :
    Keeps (State.dropEngine s c m) s := by
  simp [Keeps, State.dropEngine]
@[simp] theorem State.partTwin_kept (s : State) (c l : Nat) :
    Keeps (State.partTwin s c l) s := by
  unfold State.partTwin
  (repeat' split) <;> simp_all [Keeps, foldl_keeps, foldl_keeps₁, foldl_keeps₂]
@[simp] theorem State.disown_kept (s : State) (c m x : Nat) :
    Keeps (State.disown s c m x) s := by
  unfold State.disown
  (repeat' split) <;> simp_all [Keeps, foldl_keeps, foldl_keeps₁, foldl_keeps₂]
@[simp] theorem State.loseTwin_kept (s : State) (c m : Nat) :
    Keeps (State.loseTwin s c m) s := by
  simp [Keeps, State.loseTwin]
@[simp] theorem execRetirementRest_kept (c : BitVec 7) (m : BitVec 2) (s : State) (s₀ : State) (keep : Keeps s s₀) :
    outKept (execRetirementRest c m s) s₀ := by
  obtain ⟨k₁, k₂, k₃⟩ := keep
  unfold execRetirementRest
  (repeat' split) <;> simp_all [Keeps, foldl_keeps, foldl_keeps₁, foldl_keeps₂]
@[simp] theorem State.dropHold_kept (s : State) (c m : Nat) (h : Hold) :
    Keeps (State.dropHold s c m h) s := by
  simp [Keeps, State.dropHold]
@[simp] theorem State.afterReplay_kept (s : State) (c m id : Nat) (f : Tally → Tally) :
    Keeps (State.afterReplay s c m id f) s := by
  unfold State.afterReplay
  (repeat' split) <;> simp [Keeps]
@[simp] theorem State.unresolved_kept (s : State) (c m : Nat) (h : Hold) :
    Keeps (State.unresolved s c m h) s := by
  unfold State.unresolved
  (repeat' split) <;> grind [outKept, foldl_keeps, foldl_keeps₁, foldl_keeps₂, State.dropHold_kept, State.noteUnresolved_kept, State.orDst_kept, State.afterReplay_kept]
@[simp] theorem State.writeReplay_kept (s : State) (c m r : Nat) (pair : Bool) (h : Hold) :
    Keeps (State.writeReplay s c m r pair h) s := by
  unfold State.writeReplay
  dsimp only
  (repeat' split) <;> simp_all [Keeps, pair_eq, snd_ite, fst_ite, foldl_keeps, foldl_keeps₁]
@[simp] theorem State.preempt_kept (s : State) (c r : Nat) :
    Keeps (State.preempt s c r) s := by
  unfold State.preempt
  (repeat' split) <;> simp_all [Keeps, foldl_keeps, foldl_keeps₁, foldl_keeps₂]
@[simp] theorem execReplay_kept (c : BitVec 7) (m : BitVec 2) (s : State) (s₀ : State) (keep : Keeps s s₀) :
    outKept (execReplay c m s) s₀ := by
  obtain ⟨k₁, k₂, k₃⟩ := keep
  unfold execReplay
  dsimp only
  (repeat' split) <;> simp_all [Keeps, pair_eq, snd_ite, fst_ite, foldl_keeps, foldl_keeps₁, foldl_keeps₂]
@[simp] theorem execReplayComplete_kept (c : BitVec 7) (m : BitVec 2) (r : ReplayRes) (s : State) (s₀ : State) (keep : Keeps s s₀) :
    outKept (execReplayComplete c m r s) s₀ := by
  obtain ⟨k₁, k₂, k₃⟩ := keep
  unfold execReplayComplete
  dsimp only
  (repeat' split) <;> simp_all [Keeps, pair_eq, snd_ite, fst_ite, foldl_keeps, foldl_keeps₁, foldl_keeps₂]

/-! ### Vector -/

@[simp] theorem State.attachVop_kept (s : State) (c x : Nat) (f : VopF) :
    Keeps (State.attachVop s c x f) s := by
  unfold State.attachVop
  dsimp only
  (repeat' split) <;> simp_all [Keeps, pair_eq, snd_ite, fst_ite, foldl_keeps, foldl_keeps₁, foldl_keeps₂]
@[simp] theorem State.startVop_kept (s : State) (c x : Nat) (f : VopF) :
    Keeps (State.startVop s c x f) s := by
  unfold State.startVop
  dsimp only
  (repeat' split) <;> simp_all [Keeps, pair_eq, snd_ite, fst_ite, foldl_keeps, foldl_keeps₁, foldl_keeps₂]
@[simp] theorem execVop_kept (i : Iss) (f : VopF) (s : State) (s₀ : State) (keep : Keeps s s₀) :
    outKept (execVop i f s) s₀ := by
  obtain ⟨k₁, k₂, k₃⟩ := keep
  unfold execVop
  simp_all [Keeps, foldl_keeps, foldl_keeps₁, foldl_keeps₂]
@[simp] theorem execVopComplete_kept (c : BitVec 7) (s : State) (s₀ : State) (keep : Keeps s s₀) :
    outKept (execVopComplete c s) s₀ := by
  obtain ⟨k₁, k₂, k₃⟩ := keep
  unfold execVopComplete
  dsimp only
  (repeat' split) <;> simp_all [Keeps, pair_eq, snd_ite, fst_ite, foldl_keeps, foldl_keeps₁, -Option.foldl_toList]

/-! ### Mover -/

@[simp] theorem State.claimArr_kept (s : State) (c id : Nat) (a : Option Nat) :
    Keeps (State.claimArr s c id a) s := by
  unfold State.claimArr
  (repeat' split) <;> simp [Keeps]
@[simp] theorem State.moveGo_kept (s : State) (c x : Nat) (kind : MvKind) (f : MoveF) (held : Instr) (checks : Opd → Opd → List Nat) :
    Keeps (State.moveGo s c x kind f held checks) s := by
  unfold State.moveGo
  dsimp only
  (repeat' split) <;> simp_all [Keeps, pair_eq, snd_ite, fst_ite, foldl_keeps, foldl_keeps₁]
@[simp] theorem execMove_kept (i : Iss) (f : MoveF) (s : State) (s₀ : State) (keep : Keeps s s₀) :
    outKept (execMove i f s) s₀ := by
  obtain ⟨k₁, k₂, k₃⟩ := keep
  unfold execMove
  simp_all [Keeps, foldl_keeps, foldl_keeps₁, foldl_keeps₂]
@[simp] theorem execStash_kept (i : Iss) (f : MoveF) (s : State) (s₀ : State) (keep : Keeps s s₀) :
    outKept (execStash i f s) s₀ := by
  obtain ⟨k₁, k₂, k₃⟩ := keep
  unfold execStash
  simp_all [Keeps, foldl_keeps, foldl_keeps₁, foldl_keeps₂]
@[simp] theorem execFetch_kept (i : Iss) (f : MoveF) (s : State) (s₀ : State) (keep : Keeps s s₀) :
    outKept (execFetch i f s) s₀ := by
  obtain ⟨k₁, k₂, k₃⟩ := keep
  unfold execFetch
  simp_all [Keeps, foldl_keeps, foldl_keeps₁, foldl_keeps₂]
@[simp] theorem State.convTensor_kept (s : State) (seed : W64) (d : TDesc) (sc rnd : Nat) (ovf : Bool) (rows : List (List Num)) :
    Keeps (State.convTensor s seed d sc rnd ovf rows).1 s := by
  unfold State.convTensor
  (repeat' split) <;> simp_all [Keeps, foldl_keeps, foldl_keeps₁, foldl_keeps₂]
theorem State.convTensor_keptp (s : State) (seed : W64) (d : TDesc) (sc rnd : Nat) (ovf : Bool) (rows : List (List Num)) {a₁ : State} {b₁ : ConvStat} (hpair : State.convTensor s seed d sc rnd ovf rows = (a₁, b₁)) : Keeps a₁ s := by
  have k := State.convTensor_kept s seed d sc rnd ovf rows
  rw [hpair] at k
  exact k
@[simp] theorem State.mvDone_kept (s : State) (c : Nat) (o : MvOp) :
    Keeps (State.mvDone s c o) s := by
  simp [Keeps, State.mvDone]
@[simp] theorem execMoveComplete_kept (c : BitVec 7) (s : State) (s₀ : State) (keep : Keeps s s₀) :
    outKept (execMoveComplete c s) s₀ := by
  obtain ⟨k₁, k₂, k₃⟩ := keep
  unfold execMoveComplete
  dsimp only
  (repeat' split) <;> simp_all [Keeps, pair_eq, snd_ite, fst_ite, foldl_keeps, foldl_keeps₁]
@[simp] theorem State.putTag_kept (s : State) (c x r : Nat) (t : Tag) :
    Keeps (State.putTag s c x r t) s := by
  simp [Keeps, State.putTag]
@[simp] theorem execStashComplete_kept (c : BitVec 7) (s : State) (s₀ : State) (keep : Keeps s s₀) :
    outKept (execStashComplete c s) s₀ := by
  obtain ⟨k₁, k₂, k₃⟩ := keep
  unfold execStashComplete
  dsimp only
  (repeat' split) <;> simp_all [Keeps, pair_eq, snd_ite, fst_ite, foldl_keeps, foldl_keeps₁]
@[simp] theorem execFetchComplete_kept (c : BitVec 7) (s : State) (s₀ : State) (keep : Keeps s s₀) :
    outKept (execFetchComplete c s) s₀ := by
  obtain ⟨k₁, k₂, k₃⟩ := keep
  unfold execFetchComplete
  dsimp only
  (repeat' split) <;> simp_all [Keeps, pair_eq, snd_ite, fst_ite, foldl_keeps, foldl_keeps₁, foldl_keeps₂]
@[simp] theorem execSend_kept (i : Iss) (f : SendF) (s : State) (s₀ : State) (keep : Keeps s s₀) :
    outKept (execSend i f s) s₀ := by
  obtain ⟨k₁, k₂, k₃⟩ := keep
  unfold execSend
  simp_all [Keeps, foldl_keeps, foldl_keeps₁, foldl_keeps₂]

/-! ### TagOps -/

@[simp] theorem tagOpStop_kept (i : Iss) (illegal : Bool) (t : BitVec 5) (held : Instr) (s : State) (stop : Nat → Nat → Ctx → Bool) (body : Nat → Nat → Ctx → State) (s₀ : State) (keep : Keeps s s₀) (hb : ∀ c x k, Keeps (body c x k) s₀) :
    outKept (tagOpStop i illegal t held s stop body) s₀ := by
  obtain ⟨k₁, k₂, k₃⟩ := keep
  unfold tagOpStop
  simp_all [Keeps, foldl_keeps, foldl_keeps₁, foldl_keeps₂]
@[simp] theorem tagOp_kept (i : Iss) (illegal : Bool) (t : BitVec 5) (held : Instr) (s : State) (body : Nat → Nat → Ctx → State) (s₀ : State) (keep : Keeps s s₀) (hb : ∀ c x k, Keeps (body c x k) s₀) :
    outKept (tagOp i illegal t held s body) s₀ := by
  obtain ⟨k₁, k₂, k₃⟩ := keep
  unfold tagOp
  simp_all [Keeps, foldl_keeps, foldl_keeps₁, foldl_keeps₂]
@[simp] theorem execTagSet_kept (i : Iss) (tn : BitVec 5) (sa : BitVec 6) (mask : BitVec 4) (clrf : Bool) (s : State) (s₀ : State) (keep : Keeps s s₀) :
    outKept (execTagSet i tn sa mask clrf s) s₀ := by
  obtain ⟨k₁, k₂, k₃⟩ := keep
  unfold execTagSet
  simp_all [Keeps, foldl_keeps, foldl_keeps₁, foldl_keeps₂]
@[simp] theorem execTagGet_kept (i : Iss) (tn : BitVec 5) (sd : BitVec 6) (half : Bool) (s : State) (s₀ : State) (keep : Keeps s s₀) :
    outKept (execTagGet i tn sd half s) s₀ := by
  obtain ⟨k₁, k₂, k₃⟩ := keep
  unfold execTagGet
  simp_all [Keeps, foldl_keeps, foldl_keeps₁, foldl_keeps₂]
@[simp] theorem execTdescLd_kept (i : Iss) (tn : BitVec 5) (sa : BitVec 6) (s : State) (s₀ : State) (keep : Keeps s s₀) :
    outKept (execTdescLd i tn sa s) s₀ := by
  obtain ⟨k₁, k₂, k₃⟩ := keep
  unfold execTdescLd
  simp_all [Keeps, foldl_keeps, foldl_keeps₁, foldl_keeps₂]
@[simp] theorem execTdescSt_kept (i : Iss) (tn : BitVec 5) (sa : BitVec 6) (s : State) (s₀ : State) (keep : Keeps s s₀) :
    outKept (execTdescSt i tn sa s) s₀ := by
  obtain ⟨k₁, k₂, k₃⟩ := keep
  unfold execTdescSt
  simp_all [Keeps, foldl_keeps, foldl_keeps₁, foldl_keeps₂]
@[simp] theorem execTdescSetf_kept (i : Iss) (tn : BitVec 5) (sa : BitVec 6) (field : BitVec 4) (s : State) (s₀ : State) (keep : Keeps s s₀) :
    outKept (execTdescSetf i tn sa field s) s₀ := by
  obtain ⟨k₁, k₂, k₃⟩ := keep
  unfold execTdescSetf
  simp_all [Keeps, foldl_keeps, foldl_keeps₁, foldl_keeps₂]
@[simp] theorem execScaleRd_kept (i : Iss) (tn : BitVec 5) (sd : BitVec 6) (s : State) (s₀ : State) (keep : Keeps s s₀) :
    outKept (execScaleRd i tn sd s) s₀ := by
  obtain ⟨k₁, k₂, k₃⟩ := keep
  unfold execScaleRd
  simp_all [Keeps, foldl_keeps, foldl_keeps₁, foldl_keeps₂]
@[simp] theorem execScaleMark_kept (i : Iss) (tn : BitVec 5) (s : State) (s₀ : State) (keep : Keeps s s₀) :
    outKept (execScaleMark i tn s) s₀ := by
  obtain ⟨k₁, k₂, k₃⟩ := keep
  unfold execScaleMark
  simp_all [Keeps, foldl_keeps, foldl_keeps₁, foldl_keeps₂]

/-! ### Sync -/

@[simp] theorem execWaitArr_kept (i : Iss) (first cntM1 : BitVec 12) (s : State) (s₀ : State) (keep : Keeps s s₀) :
    outKept (execWaitArr i first cntM1 s) s₀ := by
  obtain ⟨k₁, k₂, k₃⟩ := keep
  unfold execWaitArr
  simp_all [Keeps, foldl_keeps, foldl_keeps₁, foldl_keeps₂]
@[simp] theorem execWaitArrSatisfied_kept (c : BitVec 7) (x : BitVec 2) (s : State) (s₀ : State) (keep : Keeps s s₀) :
    outKept (execWaitArrSatisfied c x s) s₀ := by
  obtain ⟨k₁, k₂, k₃⟩ := keep
  unfold execWaitArrSatisfied
  (repeat' split) <;> simp_all [Keeps, foldl_keeps, foldl_keeps₁, foldl_keeps₂]
@[simp] theorem execArrClr_kept (i : Iss) (first cntM1 : BitVec 12) (s : State) (s₀ : State) (keep : Keeps s s₀) :
    outKept (execArrClr i first cntM1 s) s₀ := by
  obtain ⟨k₁, k₂, k₃⟩ := keep
  unfold execArrClr
  simp_all [Keeps, foldl_keeps, foldl_keeps₁, foldl_keeps₂]
@[simp] theorem execWaitT_kept (i : Iss) (sa : BitVec 6) (s : State) (s₀ : State) (keep : Keeps s s₀) :
    outKept (execWaitT i sa s) s₀ := by
  obtain ⟨k₁, k₂, k₃⟩ := keep
  unfold execWaitT
  simp_all [Keeps, foldl_keeps, foldl_keeps₁, foldl_keeps₂]
@[simp] theorem State.takeMsg_kept (s : State) (c x : Nat) (td : BitVec 5) (b : RxBlk) :
    Keeps (State.takeMsg s c x td b) s := by
  simp [Keeps, State.takeMsg]
@[simp] theorem execWaitMsg_kept (i : Iss) (td : BitVec 5) (s : State) (s₀ : State) (keep : Keeps s s₀) :
    outKept (execWaitMsg i td s) s₀ := by
  obtain ⟨k₁, k₂, k₃⟩ := keep
  unfold execWaitMsg
  apply issueStop_kept
  · exact ⟨k₁, k₂, k₃⟩
  all_goals (intros; (repeat' split) <;> simp_all [Keeps, foldl_keeps, foldl_keeps₁, foldl_keeps₂])
@[simp] theorem execWaitMsgArrival_kept (c : BitVec 7) (x : BitVec 2) (s : State) (s₀ : State) (keep : Keeps s s₀) :
    outKept (execWaitMsgArrival c x s) s₀ := by
  obtain ⟨k₁, k₂, k₃⟩ := keep
  unfold execWaitMsgArrival
  (repeat' split) <;> simp_all [Keeps, foldl_keeps, foldl_keeps₁, foldl_keeps₂]
@[simp] theorem execSignal_kept (i : Iss) (f : SignalF) (s : State) (s₀ : State) (keep : Keeps s s₀) :
    outKept (execSignal i f s) s₀ := by
  obtain ⟨k₁, k₂, k₃⟩ := keep
  unfold execSignal
  simp_all [Keeps, foldl_keeps, foldl_keeps₁, foldl_keeps₂]
@[simp] theorem execSignalDecision_kept (c : BitVec 7) (x : BitVec 2) (s : State) (s₀ : State) (keep : Keeps s s₀) :
    outKept (execSignalDecision c x s) s₀ := by
  obtain ⟨k₁, k₂, k₃⟩ := keep
  unfold execSignalDecision
  (repeat' split) <;> grind [outKept, foldl_keeps, foldl_keeps₁, foldl_keeps₂, State.updCtx_kept, State.wake_kept, State.advance_kept]
@[simp] theorem execNop_kept (i : Iss) (s : State) (s₀ : State) (keep : Keeps s s₀) :
    outKept (execNop i s) s₀ := by
  obtain ⟨k₁, k₂, k₃⟩ := keep
  unfold execNop
  simp_all [Keeps, foldl_keeps, foldl_keeps₁, foldl_keeps₂]

/-! ### Contexts -/

@[simp] theorem State.decided_kept (s : State) (o : Offer) (reason : Nat) :
    Keeps (State.decided s o reason) s := by
  unfold State.decided
  (repeat' split) <;> simp [Keeps]
@[simp] theorem execCommandAdmission_kept (c : BitVec 7) (x : BitVec 2) (s : State) (s₀ : State) (keep : Keeps s s₀) :
    outKept (execCommandAdmission c x s) s₀ := by
  obtain ⟨k₁, k₂, k₃⟩ := keep
  unfold execCommandAdmission
  (repeat' split) <;> simp_all [Keeps, foldl_keeps, foldl_keeps₁, foldl_keeps₂]
@[simp] theorem State.startCommand_kept (s : State) (c x : Nat) (q : QCmd) (rest : List QCmd) :
    Keeps (State.startCommand s c x q rest) s := by
  simp [Keeps, State.startCommand]
@[simp] theorem execCommandStart_kept (c : BitVec 7) (x : BitVec 2) (s : State) (s₀ : State) (keep : Keeps s s₀) :
    outKept (execCommandStart c x s) s₀ := by
  obtain ⟨k₁, k₂, k₃⟩ := keep
  unfold execCommandStart
  (repeat' split) <;> grind [outKept, foldl_keeps, foldl_keeps₁, foldl_keeps₂, State.startCommand_kept]
@[simp] theorem execOverrunStopped_kept (c : BitVec 7) (x : BitVec 2) (s : State) (s₀ : State) (keep : Keeps s s₀) :
    outKept (execOverrunStopped c x s) s₀ := by
  obtain ⟨k₁, k₂, k₃⟩ := keep
  unfold execOverrunStopped
  (repeat' split) <;> simp_all [Keeps, foldl_keeps, foldl_keeps₁, foldl_keeps₂]
@[simp] theorem execIllegalInstruction_kept (c : BitVec 7) (x : BitVec 2) (word : W64) (s : State) (s₀ : State) (keep : Keeps s s₀) :
    outKept (execIllegalInstruction c x word s) s₀ := by
  obtain ⟨k₁, k₂, k₃⟩ := keep
  unfold execIllegalInstruction
  (repeat' split) <;> simp_all [Keeps, foldl_keeps, foldl_keeps₁, foldl_keeps₂]

end Sys2Proof.Machine
end

