-- ==== Sys2Proof/Laws/KeptHive.lean ====
section
/-! SUPPORT. What the hives and the collectives keep: one lemma for each operation (Sys2Proof/Laws/Kept.lean says what is kept). -/

set_option maxRecDepth 8000

namespace Sys2Proof.Machine

/-! ### HiveOps -/

@[simp] theorem State.setHive_kept (s : State) (h : Nat) (k : Hive) :
    Keeps (State.setHive s h k) s := by
  simp [Keeps, State.setHive]
@[simp] theorem State.updHive_kept (s : State) (h : Nat) (f : Hive → Hive) :
    Keeps (State.updHive s h f) s := by
  simp [Keeps, State.updHive]
@[simp] theorem State.putMaster_kept (s : State) (h : Nat) (e : OwnE) (i : Nat) (w : W32) (c : W16) :
    Keeps (State.putMaster s h e i w c) s := by
  simp [Keeps, State.putMaster]
@[simp] theorem State.deriveWc_kept (s : State) (h : Nat) (e : OwnE) (rnd m : Nat) (poison : Bool) :
    Keeps (State.deriveWc s h e rnd m poison) s := by
  unfold State.deriveWc
  (repeat' split) <;> simp_all [Keeps, foldl_keeps, foldl_keeps₁, foldl_keeps₂]
@[simp] theorem State.stageIn_kept (s : State) (h : Nat) (e : OwnE) (o : Nat) :
    Keeps (State.stageIn s h e o) s := by
  unfold State.stageIn
  (repeat' split) <;> simp_all [Keeps, foldl_keeps, foldl_keeps₁, foldl_keeps₂]
@[simp] theorem State.stateHome_kept (s : State) (h : Nat) (e : OwnE) :
    Keeps (State.stateHome s h e).1 s := by
  unfold State.stateHome
  dsimp only
  (repeat' split) <;> simp_all [Keeps, pair_eq, snd_ite, fst_ite, foldl_keeps, foldl_keeps₁, foldl_keeps₂]
theorem State.stateHome_keptp (s : State) (h : Nat) (e : OwnE) {a₁ : State} {b₁ : Bool} (hpair : State.stateHome s h e = (a₁, b₁)) : Keeps a₁ s := by
  have k := State.stateHome_kept s h e
  rw [hpair] at k
  exact k
@[simp] theorem State.stateSlot_kept (s : State) (h : Nat) (e : OwnE) :
    Keeps (State.stateSlot s h e) s := by
  unfold State.stateSlot
  (repeat' split) <;> simp_all [Keeps, foldl_keeps, foldl_keeps₁, foldl_keeps₂]
@[simp] theorem State.stagePos_kept (s : State) (h j : Nat) :
    Keeps (State.stagePos s h j) s := by
  simp [Keeps, State.stagePos]
@[simp] theorem State.fetchState_kept (s : State) (h : Nat) (e : OwnE) :
    Keeps (State.fetchState s h e) s := by
  simp [Keeps, State.fetchState]
@[simp] theorem State.placeGradient_kept (s : State) (h : Nat) (e : OwnE) (g : HiveG) :
    Keeps (State.placeGradient s h e g) s := by
  simp [Keeps, State.placeGradient]
@[simp] theorem State.handOff_kept (s : State) (h : Nat) (g : HiveG) :
    Keeps (State.handOff s h g) s := by
  unfold State.handOff
  (repeat' split) <;> simp [Keeps]
@[simp] theorem State.hiveMessage_kept (s : State) (h : Nat) (b : Block) :
    Keeps (State.hiveMessage s h b) s := by
  unfold State.hiveMessage
  (repeat' split) <;> grind [outKept, foldl_keeps, foldl_keeps₁, foldl_keeps₂, State.count64_kept, State.setHive_kept, State.handOff_kept]
@[simp] theorem State.trigger_kept (s : State) (h when_ layer pos step : Nat) :
    Keeps (State.trigger s h when_ layer pos step) s := by
  simp [Keeps, State.trigger]
@[simp] theorem State.writeNorm_kept (s : State) (h : Nat) (a : LayerSum) :
    Keeps (State.writeNorm s h a) s := by
  unfold State.writeNorm
  dsimp only
  (repeat' split) <;> simp_all [Keeps, pair_eq, snd_ite, fst_ite, foldl_keeps, foldl_keeps₁, foldl_keeps₂]
@[simp] theorem State.putSum_kept (s : State) (h : Nat) (a : LayerSum) :
    Keeps (State.putSum s h a) s := by
  simp [Keeps, State.putSum]
@[simp] theorem State.hiveK3_kept (s : State) (h n : Nat) :
    Keeps (State.hiveK3 s h n) s := by
  unfold State.hiveK3
  (repeat' split) <;> simp_all [Keeps, foldl_keeps, foldl_keeps₁, foldl_keeps₂]
@[simp] theorem State.hiveOpen_kept (s : State) (h : Nat) (advanced : Bool) :
    Keeps (State.hiveOpen s h advanced) s := by
  unfold State.hiveOpen
  (repeat' split) <;> simp_all [Keeps, foldl_keeps, foldl_keeps₁, foldl_keeps₂]

/-! ### Hive -/

@[simp] theorem execStateFetchComplete_kept (h : BitVec 4) (shard : W16) (s : State) (s₀ : State) (keep : Keeps s s₀) :
    outKept (execStateFetchComplete h shard s) s₀ := by
  obtain ⟨k₁, k₂, k₃⟩ := keep
  unfold execStateFetchComplete
  dsimp only
  (repeat' split) <;> simp_all [Keeps, pair_eq, snd_ite, fst_ite, foldl_keeps, foldl_keeps₁, foldl_keeps₂]
@[simp] theorem execParkedGradientQueue_kept (h : BitVec 4) (shard : W16) (s : State) (s₀ : State) (keep : Keeps s s₀) :
    outKept (execParkedGradientQueue h shard s) s₀ := by
  obtain ⟨k₁, k₂, k₃⟩ := keep
  unfold execParkedGradientQueue
  (repeat' split) <;> grind [outKept, foldl_keeps, foldl_keeps₁, foldl_keeps₂, State.setHive_kept]
@[simp] theorem execHiveUpdate_kept (h : BitVec 4) (s : State) (s₀ : State) (keep : Keeps s s₀) :
    outKept (execHiveUpdate h s) s₀ := by
  obtain ⟨k₁, k₂, k₃⟩ := keep
  unfold execHiveUpdate
  (repeat' split) <;> simp_all [Keeps, foldl_keeps, foldl_keeps₁, foldl_keeps₂]
@[simp] theorem State.updateElems_kept (s : State) (h : Nat) (e : OwnE) (p : List Byte) (regs : HRegs) (f : W32) (lrExp : Int) (g : List W32) :
    Keeps (State.updateElems s h e p regs f lrExp g).1 s := by
  unfold State.updateElems
  (repeat' split) <;> simp_all [Keeps, foldl_keeps, foldl_keeps₁, foldl_keeps₂]
theorem State.updateElems_keptp (s : State) (h : Nat) (e : OwnE) (p : List Byte) (regs : HRegs) (f : W32) (lrExp : Int) (g : List W32) {a₁ : State} {b₁ : PassSum} (hpair : State.updateElems s h e p regs f lrExp g = (a₁, b₁)) : Keeps a₁ s := by
  have k := State.updateElems_kept s h e p regs f lrExp g
  rw [hpair] at k
  exact k
@[simp] theorem State.applyUpdate_kept (s : State) (h : Nat) (e : OwnE) (r : HiveRun) (a : LayerSum) :
    Keeps (State.applyUpdate s h e r a).1 s := by
  simp [Keeps, State.applyUpdate]
theorem State.applyUpdate_keptp (s : State) (h : Nat) (e : OwnE) (r : HiveRun) (a : LayerSum) {a₁ : State} {b₁ : LayerSum} (hpair : State.applyUpdate s h e r a = (a₁, b₁)) : Keeps a₁ s := by
  have k := State.applyUpdate_kept s h e r a
  rw [hpair] at k
  exact k
@[simp] theorem execHiveUpdateComplete_kept (h : BitVec 4) (s : State) (s₀ : State) (keep : Keeps s s₀) :
    outKept (execHiveUpdateComplete h s) s₀ := by
  obtain ⟨k₁, k₂, k₃⟩ := keep
  unfold execHiveUpdateComplete
  dsimp only
  (repeat' split) <;> simp_all [Keeps, pair_eq, snd_ite, fst_ite, foldl_keeps, foldl_keeps₁, foldl_keeps₂]

/-! ### CollOps -/

@[simp] theorem State.setGroup_kept (s : State) (g : Nat) (k : Group) :
    Keeps (State.setGroup s g k) s := by
  simp [Keeps, State.setGroup]
@[simp] theorem State.updGroup_kept (s : State) (g : Nat) (f : Group → Group) :
    Keeps (State.updGroup s g f) s := by
  simp [Keeps, State.updGroup]
@[simp] theorem State.collOffer_kept (s : State) (g : Nat) (o : CollOut) :
    Keeps (State.collOffer s g o) s := by
  unfold State.collOffer
  (repeat' split) <;> simp_all [Keeps, foldl_keeps, foldl_keeps₁, foldl_keeps₂]
@[simp] theorem State.collSend_kept (s : State) (g : Nat) (k : Coll) (dst : Nat) (ms : List CollMsg) :
    Keeps (State.collSend s g k dst ms) s := by
  unfold State.collSend
  (repeat' split) <;> simp_all [Keeps, foldl_keeps, foldl_keeps₁, foldl_keeps₂]
@[simp] theorem State.countOutst_kept (s : State) (g : Nat) :
    Keeps (State.countOutst s g) s := by
  simp [Keeps, State.countOutst]
@[simp] theorem State.putColl_kept (s : State) (g : Nat) (c : Coll) :
    Keeps (State.putColl s g c) s := by
  simp [Keeps, State.putColl]
@[simp] theorem State.hist16_kept (s : State) (a : Nat) :
    Keeps (State.hist16 s a) s := by
  simp [Keeps, State.hist16]
@[simp] theorem State.noteArrival_kept (s : State) (g : Nat) (k : Coll) (i : Nat) (late : Bool) :
    Keeps (State.noteArrival s g k i late) s := by
  simp [Keeps, State.noteArrival]
@[simp] theorem State.noteMissing_kept (s : State) (g i : Nat) :
    Keeps (State.noteMissing s g i) s := by
  simp [Keeps, State.noteMissing]
@[simp] theorem State.putCodes_kept (s : State) (d : TDesc) (first : Nat) (vs : List W32) :
    Keeps (State.putCodes s d first vs) s := by
  unfold State.putCodes
  (repeat' split) <;> simp_all [Keeps, foldl_keeps, foldl_keeps₁, foldl_keeps₂]
@[simp] theorem State.putScales_kept (s : State) (d : TDesc) (first : Nat) (sc : List Byte) :
    Keeps (State.putScales s d first sc) s := by
  unfold State.putScales
  (repeat' split) <;> simp_all [Keeps, foldl_keeps, foldl_keeps₁, foldl_keeps₂]
@[simp] theorem State.putValues_kept (s : State) (d : TDesc) (z0 : Nat) (z1 : Nat) (z2 : List W32) :
    Keeps (State.putValues s d z0 z1 z2).1 s := by
  induction z0 generalizing s z1 z2 with
  | zero => exact .refl s
  | succ n ih =>
    unfold State.putValues
    split
    · exact .refl s
    · exact (ih _ _ _).trans (State.convRow_kept _ _ _ _ _ _ _ _ _)
theorem State.putValues_keptp (s : State) (d : TDesc) (z0 : Nat) (z1 : Nat) (z2 : List W32) {a₁ : State} {b₁ : ConvStat} (hpair : State.putValues s d z0 z1 z2 = (a₁, b₁)) : Keeps a₁ s := by
  have k := State.putValues_kept s d z0 z1 z2
  rw [hpair] at k
  exact k
@[simp] theorem State.putRecords_kept (s : State) (d : TDesc) (unit first : Nat) (vs : List W32) :
    Keeps (State.putRecords s d unit first vs) s := by
  unfold State.putRecords
  (repeat' split) <;> simp_all [Keeps, foldl_keeps, foldl_keeps₁, foldl_keeps₂]
@[simp] theorem State.writeTD_kept (s : State) (k : Coll) (first : Nat) (vs : List W32) (sc : List Byte) :
    Keeps (State.writeTD s k first vs sc).1 s := by
  unfold State.writeTD
  (repeat' split) <;> simp [Keeps]
theorem State.writeTD_keptp (s : State) (k : Coll) (first : Nat) (vs : List W32) (sc : List Byte) {a₁ : State} {b₁ : ConvStat} (hpair : State.writeTD s k first vs sc = (a₁, b₁)) : Keeps a₁ s := by
  have k := State.writeTD_kept s k first vs sc
  rw [hpair] at k
  exact k
@[simp] theorem State.pieceBits_kept (s : State) (k : Coll) :
    Keeps (State.pieceBits s k) s := by
  unfold State.pieceBits
  (repeat' split) <;> simp_all [Keeps, foldl_keeps, foldl_keeps₁, foldl_keeps₂]
@[simp] theorem State.landCopy_kept (s : State) (k : Coll) (seg first : Nat) (vs : List W32) (sc : List Byte) :
    Keeps (State.landCopy s k seg first vs sc).1 s := by
  unfold State.landCopy
  (repeat' split) <;> grind [outKept, foldl_keeps, foldl_keeps₁, foldl_keeps₂, State.count64_kept, State.writeTD_kept, State.pieceBits_kept, State.writeTD_keptp]
theorem State.landCopy_keptp (s : State) (k : Coll) (seg first : Nat) (vs : List W32) (sc : List Byte) {a₁ : State} {b₁ : Coll} (hpair : State.landCopy s k seg first vs sc = (a₁, b₁)) : Keeps a₁ s := by
  have k := State.landCopy_kept s k seg first vs sc
  rw [hpair] at k
  exact k
@[simp] theorem State.recordMismatch_kept (s : State) (g member field : Nat) (done : Bool) :
    Keeps (State.recordMismatch s g member field done) s := by
  simp [Keeps, State.recordMismatch]
@[simp] theorem State.learnMismatch_kept (s : State) (g : Nat) (k : Coll) (member field : Nat) (tell : Bool) :
    Keeps (State.learnMismatch s g k member field tell).1 s := by
  unfold State.learnMismatch
  (repeat' split) <;> simp_all [Keeps, foldl_keeps, foldl_keeps₁, foldl_keeps₂]
theorem State.learnMismatch_keptp (s : State) (g : Nat) (k : Coll) (member field : Nat) (tell : Bool) {a₁ : State} {b₁ : Coll} (hpair : State.learnMismatch s g k member field tell = (a₁, b₁)) : Keeps a₁ s := by
  have k := State.learnMismatch_kept s g k member field tell
  rw [hpair] at k
  exact k
@[simp] theorem State.countDropped_kept (s : State) (g n : Nat) :
    Keeps (State.countDropped s g n) s := by
  unfold State.countDropped
  (repeat' split) <;> grind [outKept, foldl_keeps, foldl_keeps₁, foldl_keeps₂, State.count64_kept, State.setFlagIf_kept]
@[simp] theorem State.takeCarry_kept (s : State) (g : Nat) (k : Coll) :
    Keeps (State.takeCarry s g k).1 s := by
  unfold State.takeCarry
  (repeat' split) <;> simp_all [Keeps, foldl_keeps, foldl_keeps₁, foldl_keeps₂]
theorem State.takeCarry_keptp (s : State) (g : Nat) (k : Coll) {a₁ : State} {b₁ : Coll} (hpair : State.takeCarry s g k = (a₁, b₁)) : Keeps a₁ s := by
  have k := State.takeCarry_kept s g k
  rw [hpair] at k
  exact k
@[simp] theorem State.foldCarry_kept (s : State) (g : Nat) (k : Coll) (seg : Nat) :
    Keeps (State.foldCarry s g k seg).1 s := by
  simp_all [Keeps, State.foldCarry, apply_ite, foldl_keeps, foldl_keeps₁, foldl_keeps₂]
theorem State.foldCarry_keptp (s : State) (g : Nat) (k : Coll) (seg : Nat) {a₁ : State} {b₁ : Coll} (hpair : State.foldCarry s g k seg = (a₁, b₁)) : Keeps a₁ s := by
  have k := State.foldCarry_kept s g k seg
  rw [hpair] at k
  exact k
@[simp] theorem State.ringFinish_kept (s : State) (g : Nat) (k : Coll) :
    Keeps (State.ringFinish s g k).1 s := by
  simp_all [Keeps, State.ringFinish, apply_ite, foldl_keeps, foldl_keeps₁, foldl_keeps₂]
theorem State.ringFinish_keptp (s : State) (g : Nat) (k : Coll) {a₁ : State} {b₁ : Coll} (hpair : State.ringFinish s g k = (a₁, b₁)) : Keeps a₁ s := by
  have k := State.ringFinish_kept s g k
  rw [hpair] at k
  exact k
@[simp] theorem State.treeDown_kept (s : State) (g : Nat) (k : Coll) (ms : List CollMsg) :
    Keeps (State.treeDown s g k ms) s := by
  unfold State.treeDown
  (repeat' split) <;> simp_all [Keeps, foldl_keeps, foldl_keeps₁, foldl_keeps₂]
@[simp] theorem State.treeReady_kept (s : State) (g : Nat) (k : Coll) :
    Keeps (State.treeReady s g k).1 s := by
  unfold State.treeReady
  dsimp only
  (repeat' split) <;> simp_all [Keeps, pair_eq, snd_ite, fst_ite, foldl_keeps, foldl_keeps₁, foldl_keeps₂]
theorem State.treeReady_keptp (s : State) (g : Nat) (k : Coll) {a₁ : State} {b₁ : Coll} (hpair : State.treeReady s g k = (a₁, b₁)) : Keeps a₁ s := by
  have k := State.treeReady_kept s g k
  rw [hpair] at k
  exact k
@[simp] theorem State.treeStep_kept (s : State) (g : Nat) (k : Coll) :
    Keeps (State.treeStep s g k).1 s := by
  unfold State.treeStep
  (repeat' split) <;> simp [Keeps]
theorem State.treeStep_keptp (s : State) (g : Nat) (k : Coll) {a₁ : State} {b₁ : Coll} (hpair : State.treeStep s g k = (a₁, b₁)) : Keeps a₁ s := by
  have k := State.treeStep_kept s g k
  rw [hpair] at k
  exact k
@[simp] theorem State.sendDirect_kept (s : State) (g : Nat) (k : Coll) (seg : Nat) :
    Keeps (State.sendDirect s g k seg).1 s := by
  simp [Keeps, State.sendDirect]
theorem State.sendDirect_keptp (s : State) (g : Nat) (k : Coll) (seg : Nat) {a₁ : State} {b₁ : Coll} (hpair : State.sendDirect s g k seg = (a₁, b₁)) : Keeps a₁ s := by
  have k := State.sendDirect_kept s g k seg
  rw [hpair] at k
  exact k
@[simp] theorem State.sendDirects_kept (s : State) (g : Nat) (k : Coll) :
    Keeps (State.sendDirects s g k).1 s := by
  simp_all [Keeps, State.sendDirects, apply_ite, foldl_keeps, foldl_keeps₁, foldl_keeps₂]
theorem State.sendDirects_keptp (s : State) (g : Nat) (k : Coll) {a₁ : State} {b₁ : Coll} (hpair : State.sendDirects s g k = (a₁, b₁)) : Keeps a₁ s := by
  have k := State.sendDirects_kept s g k
  rw [hpair] at k
  exact k
@[simp] theorem State.startSeg_kept (s : State) (g : Nat) (k : Coll) (seg : Nat) (part : Bool) :
    Keeps (State.startSeg s g k seg part).1 s := by
  simp [Keeps, State.startSeg]
theorem State.startSeg_keptp (s : State) (g : Nat) (k : Coll) (seg : Nat) (part : Bool) {a₁ : State} {b₁ : Coll} (hpair : State.startSeg s g k seg part = (a₁, b₁)) : Keeps a₁ s := by
  have k := State.startSeg_kept s g k seg part
  rw [hpair] at k
  exact k
@[simp] theorem State.startColl_kept (s : State) (g : Nat) (k : Coll) :
    Keeps (State.startColl s g k).1 s := by
  unfold State.startColl
  dsimp only
  (repeat' split) <;> simp_all [Keeps, pair_eq, snd_ite, fst_ite, foldl_keeps, foldl_keeps₁, foldl_keeps₂]
theorem State.startColl_keptp (s : State) (g : Nat) (k : Coll) {a₁ : State} {b₁ : Coll} (hpair : State.startColl s g k = (a₁, b₁)) : Keeps a₁ s := by
  have k := State.startColl_kept s g k
  rw [hpair] at k
  exact k
@[simp] theorem State.lateContribution_kept (s : State) (g : Nat) (k : Coll) (m : CollMsg) :
    Keeps (State.lateContribution s g k m) s := by
  simp [Keeps, State.lateContribution]
@[simp] theorem State.ringForward_kept (s : State) (g : Nat) (k : Coll) (m : CollMsg) :
    Keeps (State.ringForward s g k m).1 s := by
  unfold State.ringForward
  dsimp only
  (repeat' split) <;> simp_all [Keeps, pair_eq, snd_ite, fst_ite, foldl_keeps, foldl_keeps₁, foldl_keeps₂]
theorem State.ringForward_keptp (s : State) (g : Nat) (k : Coll) (m : CollMsg) {a₁ : State} {b₁ : Coll} (hpair : State.ringForward s g k m = (a₁, b₁)) : Keeps a₁ s := by
  have k := State.ringForward_kept s g k m
  rw [hpair] at k
  exact k
@[simp] theorem State.collDelivered_kept (s : State) (g dst : Nat) (m : CollMsg) :
    Keeps (State.collDelivered s g dst m) s := by
  unfold State.collDelivered
  (repeat' split) <;> simp_all [Keeps, foldl_keeps, foldl_keeps₁, foldl_keeps₂]
@[simp] theorem State.collSent_kept (s : State) (g : Nat) (m : CollMsg) :
    Keeps (State.collSent s g m) s := by
  unfold State.collSent
  (repeat' split) <;> simp_all [Keeps, foldl_keeps, foldl_keeps₁, foldl_keeps₂]
@[simp] theorem State.ringOwn_kept (s : State) (g : Nat) (k : Coll) (m : CollMsg) :
    Keeps (State.ringOwn s g k m).1 s := by
  unfold State.ringOwn
  (repeat' split) <;> grind [outKept, foldl_keeps, foldl_keeps₁, foldl_keeps₂, State.noteArrival_kept, State.ringFinish_kept, State.ringFinish_keptp]
theorem State.ringOwn_keptp (s : State) (g : Nat) (k : Coll) (m : CollMsg) {a₁ : State} {b₁ : Coll} (hpair : State.ringOwn s g k m = (a₁, b₁)) : Keeps a₁ s := by
  have k := State.ringOwn_kept s g k m
  rw [hpair] at k
  exact k
@[simp] theorem State.ringCopy_kept (s : State) (g : Nat) (k : Coll) (m : CollMsg) :
    Keeps (State.ringCopy s g k m).1 s := by
  simp [Keeps, State.ringCopy]
theorem State.ringCopy_keptp (s : State) (g : Nat) (k : Coll) (m : CollMsg) {a₁ : State} {b₁ : Coll} (hpair : State.ringCopy s g k m = (a₁, b₁)) : Keeps a₁ s := by
  have k := State.ringCopy_kept s g k m
  rw [hpair] at k
  exact k
@[simp] theorem State.noteLateChild_kept (s : State) (g : Nat) (k : Coll) (m : CollMsg) :
    Keeps (State.noteLateChild s g k m) s := by
  unfold State.noteLateChild
  (repeat' split) <;> simp_all [Keeps, foldl_keeps, foldl_keeps₁, foldl_keeps₂]
@[simp] theorem State.gatherUp_kept (s : State) (g : Nat) (k : Coll) (m : CollMsg) :
    Keeps (State.gatherUp s g k m).1 s := by
  unfold State.gatherUp
  dsimp only
  (repeat' split) <;> simp_all [Keeps, pair_eq, snd_ite, fst_ite, foldl_keeps, foldl_keeps₁, foldl_keeps₂]
theorem State.gatherUp_keptp (s : State) (g : Nat) (k : Coll) (m : CollMsg) {a₁ : State} {b₁ : Coll} (hpair : State.gatherUp s g k m = (a₁, b₁)) : Keeps a₁ s := by
  have k := State.gatherUp_kept s g k m
  rw [hpair] at k
  exact k
@[simp] theorem State.treeUp_kept (s : State) (g : Nat) (k : Coll) (m : CollMsg) :
    Keeps (State.treeUp s g k m).1 s := by
  unfold State.treeUp
  dsimp only
  (repeat' split) <;> simp_all [Keeps, pair_eq, snd_ite, fst_ite, foldl_keeps, foldl_keeps₁, foldl_keeps₂]
theorem State.treeUp_keptp (s : State) (g : Nat) (k : Coll) (m : CollMsg) {a₁ : State} {b₁ : Coll} (hpair : State.treeUp s g k m = (a₁, b₁)) : Keeps a₁ s := by
  have k := State.treeUp_kept s g k m
  rw [hpair] at k
  exact k
@[simp] theorem State.treeDownMsg_kept (s : State) (g : Nat) (k : Coll) (m : CollMsg) :
    Keeps (State.treeDownMsg s g k m).1 s := by
  unfold State.treeDownMsg
  (repeat' split) <;> grind [outKept, foldl_keeps, foldl_keeps₁, foldl_keeps₂, State.treeDown_kept, State.landCopy_kept, State.landCopy_keptp]
theorem State.treeDownMsg_keptp (s : State) (g : Nat) (k : Coll) (m : CollMsg) {a₁ : State} {b₁ : Coll} (hpair : State.treeDownMsg s g k m = (a₁, b₁)) : Keeps a₁ s := by
  have k := State.treeDownMsg_kept s g k m
  rw [hpair] at k
  exact k
@[simp] theorem State.lateMsg_kept (s : State) (g : Nat) (k : Coll) (m : CollMsg) :
    Keeps (State.lateMsg s g k m).1 s := by
  unfold State.lateMsg
  dsimp only
  (repeat' split) <;> simp_all [Keeps, pair_eq, snd_ite, fst_ite, foldl_keeps, foldl_keeps₁, foldl_keeps₂]
theorem State.lateMsg_keptp (s : State) (g : Nat) (k : Coll) (m : CollMsg) {a₁ : State} {b₁ : Coll} (hpair : State.lateMsg s g k m = (a₁, b₁)) : Keeps a₁ s := by
  have k := State.lateMsg_kept s g k m
  rw [hpair] at k
  exact k
@[simp] theorem State.collMsg_kept (s : State) (g : Nat) (k : Coll) (m : CollMsg) :
    Keeps (State.collMsg s g k m).1 s := by
  unfold State.collMsg
  grind (splits := 30) [outKept, foldl_keeps, foldl_keeps₁, foldl_keeps₂, State.sendDirects_kept, State.count64_kept, State.learnMismatch_kept, State.lateMsg_kept, State.lateContribution_kept, State.ringOwn_kept, State.ringForward_kept, State.collSend_kept, State.ringCopy_kept, State.treeUp_kept, State.treeDownMsg_kept, State.sendDirects_keptp, State.learnMismatch_keptp, State.lateMsg_keptp, State.ringOwn_keptp, State.ringForward_keptp, State.ringCopy_keptp, State.treeUp_keptp, State.treeDownMsg_keptp]
theorem State.collMsg_keptp (s : State) (g : Nat) (k : Coll) (m : CollMsg) {a₁ : State} {b₁ : Coll} (hpair : State.collMsg s g k m = (a₁, b₁)) : Keeps a₁ s := by
  have k := State.collMsg_kept s g k m
  rw [hpair] at k
  exact k
@[simp] theorem State.completeColl_kept (s : State) (g : Nat) (k : Coll) :
    Keeps (State.completeColl s g k) s := by
  unfold State.completeColl
  grind (splits := 30) [outKept, foldl_keeps, foldl_keeps₁, foldl_keeps₂, State.foldCarry_kept, State.writeTD_kept, State.pieceBits_kept, State.count64_kept, State.setFlag_kept, State.handOff_kept, State.putTag_kept, State.opDone_kept, State.setArrOpt_kept, State.updGroup_kept, State.countOutst_kept, State.setFlagIf_kept, State.foldCarry_keptp, State.writeTD_keptp]

/-! ### Collective -/

@[simp] theorem State.collRecv_kept (s : State) (g : Nat) (m : CollMsg) :
    Keeps (State.collRecv s g m) s := by
  unfold State.collRecv
  (repeat' split) <;> grind [outKept, foldl_keeps, foldl_keeps₁, foldl_keeps₂, State.collMsg_kept, State.putColl_kept, State.collMsg_keptp]
@[simp] theorem State.collBypass_kept (s : State) (g : Nat) (cseq : W32) (sender skipped : Nat) :
    Keeps (State.collBypass s g cseq sender skipped) s := by
  unfold State.collBypass
  (repeat' split) <;> simp [Keeps]
@[simp] theorem State.collNotice_kept (s : State) (g : Nat) (cseq : W32) (index field : Nat) :
    Keeps (State.collNotice s g cseq index field) s := by
  unfold State.collNotice
  (repeat' split) <;> grind [outKept, foldl_keeps, foldl_keeps₁, foldl_keeps₂, State.learnMismatch_kept, State.putColl_kept, State.learnMismatch_keptp]
@[simp] theorem State.collBegin_kept (s : State) (g : Nat) (cseq : W32) :
    Keeps (State.collBegin s g cseq) s := by
  unfold State.collBegin
  dsimp only
  refine Keeps.trans (foldl_keeps (fun t m => State.collRecv_kept t g m) _ _) (Keeps.trans (foldl_keeps (fun t n => ?_) _ _) ?_)
  · (repeat' split) <;> simp [Keeps]
  · (repeat' split) <;> simp_all [Keeps, pair_eq]
@[simp] theorem State.endPieces_kept (s : State) (g : Nat) :
    Keeps (State.endPieces s g) s := by
  unfold State.endPieces
  (repeat' split) <;> simp_all [Keeps, foldl_keeps, foldl_keeps₁, foldl_keeps₂]
@[simp] theorem State.joinColl_kept (s : State) (g : Nat) (k : Coll) :
    Keeps (State.joinColl s g k) s := by
  unfold State.joinColl
  (repeat' split) <;> simp_all [Keeps, foldl_keeps, foldl_keeps₁, foldl_keeps₂]
@[simp] theorem State.issueColl_kept (s : State) (c x : Nat) (f : CollF) (ta td : Opd) (g : Nat) :
    Keeps (State.issueColl s c x f ta td g) s := by
  unfold State.issueColl
  dsimp only
  (repeat' split) <;> simp_all [Keeps, pair_eq, snd_ite, fst_ite, foldl_keeps, foldl_keeps₁]
@[simp] theorem execColl_kept (i : Iss) (f : CollF) (s : State) (s₀ : State) (keep : Keeps s s₀) :
    outKept (execColl i f s) s₀ := by
  obtain ⟨k₁, k₂, k₃⟩ := keep
  unfold execColl
  simp_all [Keeps, foldl_keeps, foldl_keeps₁, foldl_keeps₂]
@[simp] theorem execCollHoldRelease_kept (c : BitVec 7) (x : BitVec 2) (s : State) (s₀ : State) (keep : Keeps s s₀) :
    outKept (execCollHoldRelease c x s) s₀ := by
  obtain ⟨k₁, k₂, k₃⟩ := keep
  unfold execCollHoldRelease
  (repeat' split) <;> grind [outKept, foldl_keeps, foldl_keeps₁, foldl_keeps₂, State.wake_kept, execColl_kept]
@[simp] theorem State.collTake_kept (s : State) (g : Nat) (m : CollMsg) :
    Keeps (State.collTake s g m) s := by
  unfold State.collTake
  (repeat' split) <;> grind [outKept, foldl_keeps, foldl_keeps₁, foldl_keeps₂, State.collRecv_kept, State.updGroup_kept]
@[simp] theorem execCollMessageReceive_kept (g : BitVec 12) (m : CollMsg) (s : State) (s₀ : State) (keep : Keeps s s₀) :
    outKept (execCollMessageReceive g m s) s₀ := by
  obtain ⟨k₁, k₂, k₃⟩ := keep
  unfold execCollMessageReceive
  (repeat' split) <;> simp_all [Keeps, foldl_keeps, foldl_keeps₁, foldl_keeps₂]
@[simp] theorem execCollComplete_kept (g : BitVec 12) (cseq : W32) (s : State) (s₀ : State) (keep : Keeps s s₀) :
    outKept (execCollComplete g cseq s) s₀ := by
  obtain ⟨k₁, k₂, k₃⟩ := keep
  unfold execCollComplete
  (repeat' split) <;> simp_all [Keeps, foldl_keeps, foldl_keeps₁, foldl_keeps₂]
@[simp] theorem State.expireColl_kept (s : State) (g : Nat) (k : Coll) :
    Keeps (State.expireColl s g k).1 s := by
  unfold State.expireColl
  (repeat' split) <;> grind [outKept, foldl_keeps, foldl_keeps₁, foldl_keeps₂, State.noteMissing_kept, State.treeReady_kept, State.ringFinish_kept, State.treeReady_keptp, State.ringFinish_keptp]
theorem State.expireColl_keptp (s : State) (g : Nat) (k : Coll) {a₁ : State} {b₁ : Coll} (hpair : State.expireColl s g k = (a₁, b₁)) : Keeps a₁ s := by
  have k := State.expireColl_kept s g k
  rw [hpair] at k
  exact k
@[simp] theorem execCollDeadlineExpiry_kept (g : BitVec 12) (cseq : W32) (s : State) (s₀ : State) (keep : Keeps s s₀) :
    outKept (execCollDeadlineExpiry g cseq s) s₀ := by
  obtain ⟨k₁, k₂, k₃⟩ := keep
  unfold execCollDeadlineExpiry
  (repeat' split) <;> grind [outKept, foldl_keeps, foldl_keeps₁, foldl_keeps₂, State.expireColl_kept, State.putColl_kept, State.completeColl_kept, State.expireColl_keptp]
@[simp] theorem execCollForwardWindowExpiry_kept (g : BitVec 12) (cseq : W32) (s : State) (s₀ : State) (keep : Keeps s s₀) :
    outKept (execCollForwardWindowExpiry g cseq s) s₀ := by
  obtain ⟨k₁, k₂, k₃⟩ := keep
  unfold execCollForwardWindowExpiry
  (repeat' split) <;> grind [outKept, foldl_keeps, foldl_keeps₁, foldl_keeps₂, State.putColl_kept]
@[simp] theorem State.bypassOne_kept (s : State) (g : Nat) (k : Coll) :
    Keeps (State.bypassOne s g k).1 s := by
  unfold State.bypassOne
  dsimp only
  (repeat' split) <;> simp_all [Keeps, pair_eq, snd_ite, fst_ite, foldl_keeps, foldl_keeps₁, foldl_keeps₂]
theorem State.bypassOne_keptp (s : State) (g : Nat) (k : Coll) {a₁ : State} {b₁ : Coll} (hpair : State.bypassOne s g k = (a₁, b₁)) : Keeps a₁ s := by
  have k := State.bypassOne_kept s g k
  rw [hpair] at k
  exact k
@[simp] theorem execRingHopExpiry_kept (g : BitVec 12) (cseq : W32) (s : State) (s₀ : State) (keep : Keeps s s₀) :
    outKept (execRingHopExpiry g cseq s) s₀ := by
  obtain ⟨k₁, k₂, k₃⟩ := keep
  unfold execRingHopExpiry
  (repeat' split) <;> grind [outKept, foldl_keeps, foldl_keeps₁, foldl_keeps₂, State.putColl_kept, State.bypassOne_kept, State.bypassOne_keptp]
@[simp] theorem State.bypassTake_kept (s : State) (g : Nat) (cseq : W32) (sender skipped : Nat) :
    Keeps (State.bypassTake s g cseq sender skipped) s := by
  unfold State.bypassTake
  (repeat' split) <;> grind [outKept, foldl_keeps, foldl_keeps₁, foldl_keeps₂, State.collBypass_kept, State.updGroup_kept]
@[simp] theorem execBypassReceive_kept (g : BitVec 12) (cseq : W32) (sender skipped : BitVec 14) (s : State) (s₀ : State) (keep : Keeps s s₀) :
    outKept (execBypassReceive g cseq sender skipped s) s₀ := by
  obtain ⟨k₁, k₂, k₃⟩ := keep
  unfold execBypassReceive
  (repeat' split) <;> simp_all [Keeps, foldl_keeps, foldl_keeps₁, foldl_keeps₂]
@[simp] theorem State.holdTake_kept (s : State) (g : Nat) (cseq : W32) (origin : Nat) :
    Keeps (State.holdTake s g cseq origin) s := by
  unfold State.holdTake
  (repeat' split) <;> simp_all [Keeps, foldl_keeps, foldl_keeps₁, foldl_keeps₂]
@[simp] theorem execHoldReceive_kept (g : BitVec 12) (cseq : W32) (origin : BitVec 14) (s : State) (s₀ : State) (keep : Keeps s s₀) :
    outKept (execHoldReceive g cseq origin s) s₀ := by
  obtain ⟨k₁, k₂, k₃⟩ := keep
  unfold execHoldReceive
  (repeat' split) <;> simp_all [Keeps, foldl_keeps, foldl_keeps₁, foldl_keeps₂]
@[simp] theorem State.noticeTake_kept (s : State) (g : Nat) (cseq : W32) (index field : Nat) :
    Keeps (State.noticeTake s g cseq index field) s := by
  unfold State.noticeTake
  (repeat' split) <;> grind [outKept, foldl_keeps, foldl_keeps₁, foldl_keeps₂, State.collNotice_kept, State.updGroup_kept]
@[simp] theorem execMismatchNoticeReceive_kept (g : BitVec 12) (cseq : W32) (index : BitVec 14) (field : BitVec 4) (s : State) (s₀ : State) (keep : Keeps s s₀) :
    outKept (execMismatchNoticeReceive g cseq index field s) s₀ := by
  obtain ⟨k₁, k₂, k₃⟩ := keep
  unfold execMismatchNoticeReceive
  (repeat' split) <;> simp_all [Keeps, foldl_keeps, foldl_keeps₁, foldl_keeps₂]
@[simp] theorem State.collArrive_kept (s : State) (g : Nat) (o : CollOut) (b : Block) :
    Keeps (State.collArrive s g o b) s := by
  unfold State.collArrive
  (repeat' split) <;> simp_all [Keeps, foldl_keeps, foldl_keeps₁, foldl_keeps₂]
@[simp] theorem State.collRequested_kept (s : State) (g : Nat) (o : CollOut) :
    Keeps (State.collRequested s g o) s := by
  unfold State.collRequested
  (repeat' split) <;> grind [outKept, foldl_keeps, foldl_keeps₁, foldl_keeps₂, State.putColl_kept]
@[simp] theorem State.groupOff_kept (s : State) (g : Nat) :
    Keeps (State.groupOff s g) s := by
  simp [Keeps, State.groupOff]
@[simp] theorem State.carryK2_kept (s : State) (g : Nat) :
    Keeps (State.carryK2 s g) s := by
  simp [Keeps, State.carryK2]

end Sys2Proof.Machine
end

