-- ==== Sys2Proof/Laws/KeptForager.lean ====
section
/-! SUPPORT. What the forager keep: one lemma for each operation (Sys2Proof/Laws/Kept.lean says what is kept). -/

set_option maxRecDepth 8000

namespace Sys2Proof.Machine

/-! ### ForagerOps -/

@[simp] theorem State.setFgPhase_kept (s : State) (p : Nat) :
    Keeps (State.setFgPhase s p) s := by
  simp [Keeps, State.setFgPhase]
@[simp] theorem State.setBaseRound_kept (s : State) (p r : Nat) :
    Keeps (State.setBaseRound s p r) s := by
  simp [Keeps, State.setBaseRound]
@[simp] theorem State.setMergeRound_kept (s : State) (p r : Nat) :
    Keeps (State.setMergeRound s p r) s := by
  simp [Keeps, State.setMergeRound]
@[simp] theorem State.setGap_kept (s : State) (p : Nat) (b : Bool) :
    Keeps (State.setGap s p b) s := by
  simp [Keeps, State.setGap]
@[simp] theorem State.clearSpans_kept (s : State) :
    Keeps (State.clearSpans s) s := by
  unfold State.clearSpans
  (repeat' split) <;> simp_all [Keeps, foldl_keeps, foldl_keeps₁, foldl_keeps₂]
@[simp] theorem State.putW32_kept (s : State) (a i : Nat) (v : W32) :
    Keeps (State.putW32 s a i v) s := by
  simp [Keeps, State.putW32]
@[simp] theorem State.noteFar_kept (s : State) (b : Block) :
    Keeps (State.noteFar s b) s := by
  simp [Keeps, State.noteFar]
@[simp] theorem State.ownForager_kept (s : State) (b : Block) :
    Keeps (State.ownForager s b) s := by
  unfold State.ownForager
  (repeat' split) <;> simp_all [Keeps, foldl_keeps, foldl_keeps₁, foldl_keeps₂]
@[simp] theorem State.fgSend_kept (s : State) (o : TxOwner) (plane site dst : Nat) (b : Block) :
    Keeps (State.fgSend s o plane site dst b) s := by
  simp [Keeps, State.fgSend]
@[simp] theorem State.sendDelta_kept (s : State) (d : DeltaMsg) :
    Keeps (State.sendDelta s d) s := by
  unfold State.sendDelta
  (repeat' split) <;> simp [Keeps]
@[simp] theorem State.freeSlots_kept (s : State) :
    Keeps (State.freeSlots s) s := by
  simp [Keeps, State.freeSlots]
@[simp] theorem State.fgAcked_kept (s : State) (b : Block) :
    Keeps (State.fgAcked s b) s := by
  simp [Keeps, State.fgAcked]
@[simp] theorem State.fgFailed_kept (s : State) (b : Block) (far : Bool) :
    Keeps (State.fgFailed s b far) s := by
  unfold State.fgFailed
  (repeat' split) <;> simp [Keeps]
@[simp] theorem State.noteOwners_kept (s : State) :
    Keeps (State.noteOwners s) s := by
  unfold State.noteOwners
  (repeat' split) <;> simp_all [Keeps, foldl_keeps, foldl_keeps₁, foldl_keeps₂]
@[simp] theorem State.distribute_kept (s : State) (plane : Nat) (o : TxOwner) (b : Block) :
    Keeps (State.distribute s plane o b) s := by
  unfold State.distribute
  (repeat' split) <;> grind [outKept, foldl_keeps, foldl_keeps₁, foldl_keeps₂, State.fgSend_kept, State.noteOwners_kept]
@[simp] theorem State.encodeBlock_kept (s : State) (f : FgShard) (span first count : Nat) :
    Keeps (State.encodeBlock s f span first count).1 s := by
  unfold State.encodeBlock
  (repeat' split) <;> simp_all [Keeps, foldl_keeps, foldl_keeps₁, foldl_keeps₂]
theorem State.encodeBlock_keptp (s : State) (f : FgShard) (span first count : Nat) {a₁ : State} {b₁ : EncRec} (hpair : State.encodeBlock s f span first count = (a₁, b₁)) : Keeps a₁ s := by
  have k := State.encodeBlock_kept s f span first count
  rw [hpair] at k
  exact k
@[simp] theorem State.encodeShard_kept (s : State) (f : FgShard) (round : Nat) :
    Keeps (State.encodeShard s f round).1 s := by
  simp_all [Keeps, State.encodeShard, apply_ite, foldl_keeps, foldl_keeps₁, foldl_keeps₂]
theorem State.encodeShard_keptp (s : State) (f : FgShard) (round : Nat) {a₁ : State} {b₁ : List EncRec} (hpair : State.encodeShard s f round = (a₁, b₁)) : Keeps a₁ s := by
  have k := State.encodeShard_kept s f round
  rw [hpair] at k
  exact k
@[simp] theorem State.sendSpan_kept (s : State) (q : Span) (round : Nat) (samples : W64) (rs : List EncRec) :
    Keeps (State.sendSpan s q round samples rs) s := by
  unfold State.sendSpan
  (repeat' split) <;> simp_all [Keeps, foldl_keeps, foldl_keeps₁, foldl_keeps₂]
@[simp] theorem State.encodeRound_kept (s : State) (round : Nat) (samples : W64) :
    Keeps (State.encodeRound s round samples) s := by
  unfold State.encodeRound
  (repeat' split) <;> simp_all [Keeps, foldl_keeps, foldl_keeps₁, foldl_keeps₂]
@[simp] theorem State.fgDiscard_kept (s : State) :
    Keeps (State.fgDiscard s) s := by
  simp [Keeps, State.fgDiscard]
@[simp] theorem State.setMerge_kept (s : State) (m : Merge) :
    Keeps (State.setMerge s m) s := by
  simp [Keeps, State.setMerge]
@[simp] theorem State.activate_kept (s : State) (p i : Nat) :
    Keeps (State.activate s p i) s := by
  unfold State.activate
  (repeat' split) <;> simp [Keeps]
@[simp] theorem State.mergeRecord_kept (s : State) (q : Span) (mr : MergeRec) (wt : W32) (r : Rec) :
    Keeps (State.mergeRecord s q mr wt r).1 s := by
  unfold State.mergeRecord
  (repeat' split) <;> grind [outKept, foldl_keeps, foldl_keeps₁, foldl_keeps₂, State.putW32_kept]
theorem State.mergeRecord_keptp (s : State) (q : Span) (mr : MergeRec) (wt : W32) (r : Rec) {a₁ : State} {b₁ : Nat} (hpair : State.mergeRecord s q mr wt r = (a₁, b₁)) : Keeps a₁ s := by
  have k := State.mergeRecord_kept s q mr wt r
  rw [hpair] at k
  exact k
@[simp] theorem State.mergeMessage_kept (s : State) (q : Span) (b : Block) :
    Keeps (State.mergeMessage s q b) s := by
  unfold State.mergeMessage
  extract_lets r i mrd st0 st wt rs mr rs'
  split
  · simp [Keeps]
  · split
    rename_i s0 ue heq0
    have h0 : Keeps s0 s := by
      have h := State.meetUe_kept s (rs'.flatMap (fun r => [(mr.acc + 4 * (r.first - q.first), 4 * r.count), (mr.wsum + 4 * (r.first - q.first), 4 * r.count)]))
      exact (congrArg (fun p : State × Bool => Keeps p.1 s) heq0).mp h
    split
    rename_i s1 bad heq
    have h1 : Keeps s1 s0 := by
      have h := foldl_keeps₁ (g := fun (p : State × Nat) r => ((p.1.mergeRecord q mr wt r).1, p.2 + (p.1.mergeRecord q mr wt r).2))
        (fun p r => State.mergeRecord_kept p.1 q mr wt r) rs' (s0, 0)
      exact (congrArg (fun p : State × Nat => Keeps p.1 s0) heq).mp h
    extract_lets s2 before old e0 e fg0 s3 s4 m m1 s5 s6
    have h2 : Keeps s2 s1 := by simp [s2, Keeps]
    have h3 : Keeps s3 s2 := by simp [s3, Keeps]
    have h4 : Keeps s4 s3 := by
      change Keeps (if _ then _ else s3) s3
      split
      · exact State.activate_kept _ _ _
      · exact .refl _
    have h5 : Keeps s5 s4 := State.setMerge_kept _ _
    have h6 : Keeps s6 s5 := by
      change Keeps (if _ then _ else s5) s5
      split
      · exact Keeps.trans (State.setFlag_kept _ _ _ _ _) (State.count64_kept _ _ _ _ _)
      · exact .refl _
    exact Keeps.trans (State.setFlagIf_kept _ _ _ _ _ _) (h6.trans (h5.trans (h4.trans (h3.trans (h2.trans (h1.trans h0))))))
@[simp] theorem State.runOuter_kept (s : State) (q : Span) (m : Merge) :
    Keeps (State.runOuter s q m) s := by
  unfold State.runOuter
  (repeat' split) <;> simp_all [Keeps, foldl_keeps, foldl_keeps₁, foldl_keeps₂]
@[simp] theorem State.deltaRecs_kept (s : State) (q : Span) (mr : MergeRec) :
    Keeps (State.deltaRecs s q mr).1 s := by
  unfold State.deltaRecs
  (repeat' split) <;> simp_all [Keeps, foldl_keeps, foldl_keeps₁, foldl_keeps₂]
theorem State.deltaRecs_keptp (s : State) (q : Span) (mr : MergeRec) {a₁ : State} {b₁ : List (Rec × Nat)} (hpair : State.deltaRecs s q mr = (a₁, b₁)) : Keeps a₁ s := by
  have k := State.deltaRecs_kept s q mr
  rw [hpair] at k
  exact k
@[simp] theorem State.publishTo_kept (s : State) (q : Span) (site : Nat) (bs : List Block) :
    Keeps (State.publishTo s q site bs) s := by
  unfold State.publishTo
  (repeat' split) <;> grind [outKept, foldl_keeps, foldl_keeps₁, foldl_keeps₂, State.numbered_kept, State.distribute_kept, State.fgSend_kept, State.numbered_keptp]
@[simp] theorem State.publish_kept (s : State) (q : Span) (m : Merge) (base : Nat) :
    Keeps (State.publish s q m base) s := by
  unfold State.publish
  dsimp only
  (repeat' split) <;> simp_all [Keeps, pair_eq, snd_ite, fst_ite, foldl_keeps, foldl_keeps₁, foldl_keeps₂]
@[simp] theorem State.closeSites_kept (s : State) (q : Span) (mr : Nat) :
    Keeps (State.closeSites s q mr) s := by
  unfold State.closeSites
  (repeat' split) <;> simp_all [Keeps, foldl_keeps, foldl_keeps₁, foldl_keeps₂]
@[simp] theorem State.closeMerge_kept (s : State) (q : Span) :
    Keeps (State.closeMerge s q) s := by
  unfold State.closeMerge
  (repeat' split) <;> simp_all [Keeps, foldl_keeps, foldl_keeps₁, foldl_keeps₂]
@[simp] theorem State.requestRefresh_kept (s : State) (q : Span) :
    Keeps (State.requestRefresh s q) s := by
  simp [Keeps, State.requestRefresh]
@[simp] theorem State.fgRefresh_kept (s : State) (v : Nat) :
    Keeps (State.fgRefresh s v) s := by
  unfold State.fgRefresh
  (repeat' split) <;> simp_all [Keeps, foldl_keeps, foldl_keeps₁, foldl_keeps₂]
@[simp] theorem State.installShard_kept (s : State) (q : Span) (k : Kept) (f : FgShard) (lo n : Nat) (fresh : Bool) :
    Keeps (State.installShard s q k f lo n fresh) s := by
  unfold State.installShard
  dsimp only
  (repeat' split) <;> simp_all [Keeps, pair_eq, snd_ite, fst_ite, foldl_keeps, foldl_keeps₁, foldl_keeps₂]
@[simp] theorem State.installBase_kept (s : State) (k : Kept) (fresh : Bool) :
    Keeps (State.installBase s k fresh) s := by
  unfold State.installBase
  (repeat' split) <;> simp_all [Keeps, foldl_keeps, foldl_keeps₁, foldl_keeps₂]
@[simp] theorem State.keepBase_kept (s : State) (b : Block) :
    Keeps (State.keepBase s b) s := by
  simp [Keeps, State.keepBase]
@[simp] theorem State.installQueued_kept (s : State) :
    Keeps (State.installQueued s) s := by
  unfold State.installQueued
  (repeat' split) <;> simp_all [Keeps, foldl_keeps, foldl_keeps₁, foldl_keeps₂]
@[simp] theorem State.fgInit_kept (s : State) :
    Keeps (State.fgInit s) s := by
  unfold State.fgInit
  (repeat' split) <;> simp_all [Keeps, foldl_keeps, foldl_keeps₁, foldl_keeps₂]
@[simp] theorem State.fgStop_kept (s : State) (r : Nat) :
    Keeps (State.fgStop s r) s := by
  simp [Keeps, State.fgStop]
@[simp] theorem State.joinDone_kept (s : State) :
    Keeps (State.joinDone s) s := by
  simp [Keeps, State.joinDone]

/-! ### Forager -/

@[simp] theorem State.takeInbox_kept (s : State) (b : Block) :
    Keeps (State.takeInbox s b) s := by
  simp [Keeps, State.takeInbox]
@[simp] theorem execRoundEncode_kept (s : State) (s₀ : State) (keep : Keeps s s₀) :
    outKept (execRoundEncode s) s₀ := by
  obtain ⟨k₁, k₂, k₃⟩ := keep
  unfold execRoundEncode
  (repeat' split) <;> simp_all [Keeps, foldl_keeps, foldl_keeps₁, foldl_keeps₂]
@[simp] theorem execDeltaMerge_kept (b : Block) (s : State) (s₀ : State) (keep : Keeps s s₀) :
    outKept (execDeltaMerge b s) s₀ := by
  obtain ⟨k₁, k₂, k₃⟩ := keep
  unfold execDeltaMerge
  (repeat' split) <;> grind [outKept, foldl_keeps, foldl_keeps₁, foldl_keeps₂, State.takeInbox_kept, State.fgDiscard_kept, State.mergeMessage_kept]
@[simp] theorem execMergeClose_kept (span : W16) (s : State) (s₀ : State) (keep : Keeps s s₀) :
    outKept (execMergeClose span s) s₀ := by
  obtain ⟨k₁, k₂, k₃⟩ := keep
  unfold execMergeClose
  (repeat' split) <;> simp_all [Keeps, foldl_keeps, foldl_keeps₁, foldl_keeps₂]
@[simp] theorem execMergeWaitExpiry_kept (span : W16) (s : State) (s₀ : State) (keep : Keeps s s₀) :
    outKept (execMergeWaitExpiry span s) s₀ := by
  obtain ⟨k₁, k₂, k₃⟩ := keep
  unfold execMergeWaitExpiry
  (repeat' split) <;> simp_all [Keeps, foldl_keeps, foldl_keeps₁, foldl_keeps₂]
@[simp] theorem State.joinBase_kept (s : State) (q : Span) (b : Block) :
    Keeps (State.joinBase s q b) s := by
  unfold State.joinBase
  dsimp only
  (repeat' split) <;> simp_all [Keeps, pair_eq, snd_ite, fst_ite, foldl_keeps, foldl_keeps₁, foldl_keeps₂]
@[simp] theorem execBaseMessageReceive_kept (b : Block) (s : State) (s₀ : State) (keep : Keeps s s₀) :
    outKept (execBaseMessageReceive b s) s₀ := by
  obtain ⟨k₁, k₂, k₃⟩ := keep
  unfold execBaseMessageReceive
  dsimp only
  (repeat' split) <;> simp_all [Keeps, pair_eq, snd_ite, fst_ite, foldl_keeps, foldl_keeps₁, foldl_keeps₂]
@[simp] theorem execRefreshRequestReceive_kept (b : Block) (s : State) (s₀ : State) (keep : Keeps s s₀) :
    outKept (execRefreshRequestReceive b s) s₀ := by
  obtain ⟨k₁, k₂, k₃⟩ := keep
  unfold execRefreshRequestReceive
  dsimp only
  (repeat' split) <;> simp_all [Keeps, pair_eq, snd_ite, fst_ite, foldl_keeps, foldl_keeps₁, foldl_keeps₂]
@[simp] theorem execFgRefresh_kept (u_w : Writer) (val : W32) (s : State) (s₀ : State) (keep : Keeps s s₀) :
    outKept (execFgRefresh u_w val s) s₀ := by
  obtain ⟨k₁, k₂, k₃⟩ := keep
  unfold execFgRefresh
  (repeat' split) <;> simp_all [Keeps, foldl_keeps, foldl_keeps₁, foldl_keeps₂]
@[simp] theorem State.joinWritten_kept (s : State) (entries : List Byte) (round : W16) :
    Keeps (State.joinWritten s entries round) s := by
  unfold State.joinWritten
  (repeat' split) <;> simp_all [Keeps, foldl_keeps, foldl_keeps₁, foldl_keeps₂]
@[simp] theorem State.joinSpans_kept (s : State) (round : W16) :
    Keeps (State.joinSpans s round) s := by
  unfold State.joinSpans
  (repeat' split) <;> simp_all [Keeps, foldl_keeps, foldl_keeps₁, foldl_keeps₂]
@[simp] theorem State.joinBegins_kept (s : State) (round : W16) :
    Keeps (State.joinBegins s round) s := by
  unfold State.joinBegins
  (repeat' split) <;> simp_all [Keeps, foldl_keeps, foldl_keeps₁, foldl_keeps₂]
@[simp] theorem execJoinTableReceive_kept (r : JoinReply) (s : State) (s₀ : State) (keep : Keeps s s₀) :
    outKept (execJoinTableReceive r s) s₀ := by
  obtain ⟨k₁, k₂, k₃⟩ := keep
  unfold execJoinTableReceive
  (repeat' split) <;> simp_all [Keeps, foldl_keeps, foldl_keeps₁, foldl_keeps₂]
@[simp] theorem execGatewayRetryTimer_kept (s : State) (s₀ : State) (keep : Keeps s s₀) :
    outKept (execGatewayRetryTimer s) s₀ := by
  obtain ⟨k₁, k₂, k₃⟩ := keep
  unfold execGatewayRetryTimer
  (repeat' split) <;> simp_all [Keeps, foldl_keeps, foldl_keeps₁, foldl_keeps₂]

end Sys2Proof.Machine
end

