-- ==== Sys2Proof/Laws/KeptFabric.lean ====
section
/-! SUPPORT. What the fabric, the far link and the knock-back keep: one lemma for each operation (Sys2Proof/Laws/Kept.lean says what is kept). -/

set_option maxRecDepth 8000

namespace Sys2Proof.Machine

/-! ### FarOps -/

@[simp] theorem State.updFl_kept (s : State) (f : Fl → Fl) :
    Keeps (State.updFl s f) s := by
  simp [Keeps, State.updFl]
@[simp] theorem State.showKeys_kept (s : State) :
    Keeps (State.showKeys s) s := by
  simp [Keeps, State.showKeys]
@[simp] theorem State.flQueue_kept (s : State) (f : CdxFrame) (cls : Nat) :
    Keeps (State.flQueue s f cls) s := by
  simp [Keeps, State.flQueue]
@[simp] theorem State.sendShards_kept (s : State) (q : FragTx) (is : List Nat) (retx : Bool) :
    Keeps (State.sendShards s q is retx) s := by
  unfold State.sendShards
  (repeat' split) <;> simp_all [Keeps, foldl_keeps, foldl_keeps₁, foldl_keeps₂]
@[simp] theorem State.restartTimer_kept (s : State) (fseq : W32) :
    Keeps (State.restartTimer s fseq) s := by
  unfold State.restartTimer
  (repeat' split) <;> simp_all [Keeps, foldl_keeps, foldl_keeps₁, foldl_keeps₂]
@[simp] theorem State.sendFragment_kept (s : State) (q : FragTx) :
    Keeps (State.sendFragment s q) s := by
  simp [Keeps, State.sendFragment]
@[simp] theorem State.farStore_kept (s : State) (b : Block) :
    Keeps (State.farStore s b) s := by
  simp [Keeps, State.farStore]
@[simp] theorem State.rollKey_kept (s : State) (frame : Bool) :
    Keeps (State.rollKey s frame) s := by
  simp [Keeps, State.rollKey]
@[simp] theorem State.flEmit_kept (s : State) (q : FlFrame) :
    Keeps (State.flEmit s q) s := by
  simp [Keeps, State.flEmit]
@[simp] theorem State.flOpen_kept (s : State) (f : CdxFrame) :
    Keeps (State.flOpen s f).1 s := by
  unfold State.flOpen
  (repeat' split) <;> grind [outKept, foldl_keeps, foldl_keeps₁, foldl_keeps₂, State.count64_kept, State.setFlag_kept, State.updFl_kept, State.setFld_kept]
theorem State.flOpen_keptp (s : State) (f : CdxFrame) {a₁ : State} {b₁ : Option (List Byte)} (hpair : State.flOpen s f = (a₁, b₁)) : Keeps a₁ s := by
  have k := State.flOpen_kept s f
  rw [hpair] at k
  exact k
@[simp] theorem State.queueAck_kept (s : State) :
    Keeps (State.queueAck s) s := by
  simp [Keeps, State.queueAck]
@[simp] theorem State.rttSample_kept (s : State) (r : Nat) :
    Keeps (State.rttSample s r) s := by
  simp [Keeps, State.rttSample]
@[simp] theorem State.echoSample_kept (s : State) (echo hold : Nat) :
    Keeps (State.echoSample s echo hold) s := by
  simp [Keeps, State.echoSample]
@[simp] theorem State.makeHello_kept (s : State) (h : Hello) :
    Keeps (State.makeHello s h).1 s := by
  simp [Keeps, State.makeHello]
theorem State.makeHello_keptp (s : State) (h : Hello) {a₁ : State} {b₁ : Hello} (hpair : State.makeHello s h = (a₁, b₁)) : Keeps a₁ s := by
  have k := State.makeHello_kept s h
  rw [hpair] at k
  exact k
@[simp] theorem State.noteAllow_kept (s : State) :
    Keeps (State.noteAllow s) s := by
  unfold State.noteAllow
  (repeat' split) <;> simp_all [Keeps, foldl_keeps, foldl_keeps₁, foldl_keeps₂]
@[simp] theorem State.newKeys_kept (s : State) (h : Hello) :
    Keeps (State.newKeys s h) s := by
  simp [Keeps, State.newKeys]
@[simp] theorem State.sendFinish_kept (s : State) (h : Hello) :
    Keeps (State.sendFinish s h) s := by
  simp [Keeps, State.sendFinish]
@[simp] theorem State.sessionUp_kept (s : State) :
    Keeps (State.sessionUp s) s := by
  unfold State.sessionUp
  (repeat' split) <;> simp_all [Keeps, foldl_keeps, foldl_keeps₁, foldl_keeps₂]
@[simp] theorem State.sessionDown_kept (s : State) :
    Keeps (State.sessionDown s) s := by
  simp [Keeps, State.sessionDown]

/-! ### FabricOps -/

@[simp] theorem State.landRx_kept (s : State) (c x : Nat) (pos : Option Nat) (b : Block) :
    Keeps (State.landRx s c x pos b) s := by
  unfold State.landRx
  (repeat' split) <;> grind [outKept, foldl_keeps, foldl_keeps₁, foldl_keeps₂, State.writeMem_kept, State.updCore_kept]
@[simp] theorem State.deliver_kept (s : State) (bad : Bool) (unit index : Nat) (pos : Option Nat) (b : Block) :
    Keeps (State.deliver s bad unit index pos b) s := by
  simp [Keeps, State.deliver]
@[simp] theorem State.txFailed_kept (s : State) (p : Nat) (t : SfTx) :
    Keeps (State.txFailed s p t) s := by
  unfold State.txFailed
  (repeat' split) <;> simp [Keeps]
@[simp] theorem State.txDone_kept (s : State) (t : SfTx) :
    Keeps (State.txDone s t) s := by
  unfold State.txDone
  (repeat' split) <;> simp_all [Keeps, foldl_keeps, foldl_keeps₁, foldl_keeps₂]
@[simp] theorem State.dropTx_kept (s : State) (p : Nat) (reqId : W32) :
    Keeps (State.dropTx s p reqId) s := by
  simp [Keeps, State.dropTx]
@[simp] theorem State.putTx_kept (s : State) (p : Nat) (t : SfTx) :
    Keeps (State.putTx s p t) s := by
  simp [Keeps, State.putTx]
@[simp] theorem State.sendData_kept (s : State) (p : Nat) (t : SfTx) (grant : W32) (from_ : Nat) (retx : Bool) :
    Keeps (State.sendData s p t grant from_ retx) s := by
  unfold State.sendData
  (repeat' split) <;> simp_all [Keeps, foldl_keeps, foldl_keeps₁, foldl_keeps₂]
@[simp] theorem State.answer_kept (s : State) (p : Nat) (f : SfFrame) (typ : BitVec 4) (grant : W32) (reason offset : Nat) :
    Keeps (State.answer s p f typ grant reason offset) s := by
  simp [Keeps, State.answer]
@[simp] theorem State.grant_kept (s : State) (p : Nat) (q : SfFrame × Bool) :
    Keeps (State.grant s p q) s := by
  simp [Keeps, State.grant]
@[simp] theorem State.refuseHeld_kept (s : State) (p : Nat) :
    Keeps (State.refuseHeld s p) s := by
  unfold State.refuseHeld
  (repeat' split) <;> simp_all [Keeps, foldl_keeps, foldl_keeps₁, foldl_keeps₂]
@[simp] theorem State.refuseAll_kept (s : State) :
    Keeps (State.refuseAll s) s := by
  unfold State.refuseAll
  (repeat' split) <;> simp_all [Keeps, foldl_keeps, foldl_keeps₁, foldl_keeps₂]
@[simp] theorem State.grantOldest_kept (s : State) (p : Nat) :
    Keeps (State.grantOldest s p) s := by
  unfold State.grantOldest
  (repeat' split) <;> simp [Keeps]
@[simp] theorem State.endGrant_kept (s : State) (p : Nat) (g : SfGrant) :
    Keeps (State.endGrant s p g) s := by
  simp [Keeps, State.endGrant]
@[simp] theorem State.finishGrant_kept (s : State) (p : Nat) (g : SfGrant) :
    Keeps (State.finishGrant s p g) s := by
  unfold State.finishGrant
  dsimp only
  (repeat' split) <;> simp_all [Keeps, pair_eq, snd_ite, fst_ite, foldl_keeps, foldl_keeps₁, foldl_keeps₂]
@[simp] theorem State.forwardFar_kept (s : State) (b : Block) (fseq : W32) :
    Keeps (State.forwardFar s b fseq) s := by
  simp [Keeps, State.forwardFar]

/-! ### FarLink -/

@[simp] theorem State.takeSelfFar_kept (s : State) (z0 : Nat) :
    Keeps (State.takeSelfFar s z0) s := by
  induction z0 generalizing s with
  | zero => exact .refl s
  | succ n ih =>
    unfold State.takeSelfFar
    split
    · exact .refl s
    · split
      · exact (ih _).trans (State.farStore_kept _ _)
      · exact .refl s
@[simp] theorem execFlEgressAdmit_kept (s : State) (s₀ : State) (keep : Keeps s s₀) :
    outKept (execFlEgressAdmit s) s₀ := by
  obtain ⟨k₁, k₂, k₃⟩ := keep
  unfold execFlEgressAdmit
  (repeat' split) <;> grind [outKept, foldl_keeps, foldl_keeps₁, foldl_keeps₂, State.takeSelfFar_kept, State.updFl_kept]
@[simp] theorem execFlFrameTransmit_kept (s : State) (s₀ : State) (keep : Keeps s s₀) :
    outKept (execFlFrameTransmit s) s₀ := by
  obtain ⟨k₁, k₂, k₃⟩ := keep
  unfold execFlFrameTransmit
  (repeat' split) <;> simp_all [Keeps, foldl_keeps, foldl_keeps₁, foldl_keeps₂]
@[simp] theorem State.onFrame_kept (s : State) (f : CdxFrame) (typ : Nat) (body : State → List Byte → State) (s₀ : State) (keep : Keeps s s₀) (hb : ∀ t l, Keeps (body t l) t) :
    outKept (State.onFrame s f typ body) s₀ := by
  obtain ⟨k₁, k₂, k₃⟩ := keep
  unfold State.onFrame
  (repeat' split) <;> grind [outKept, foldl_keeps, foldl_keeps₁, foldl_keeps₂, State.count64_kept, State.flOpen_kept, State.flOpen_keptp]
@[simp] theorem State.storeFragment_kept (s : State) (q : FragRx) :
    Keeps (State.storeFragment s q) s := by
  simp [Keeps, State.storeFragment]
@[simp] theorem execCdxDataReceive_kept (f : CdxFrame) (s : State) (s₀ : State) (keep : Keeps s s₀) :
    outKept (execCdxDataReceive f s) s₀ := by
  obtain ⟨k₁, k₂, k₃⟩ := keep
  unfold execCdxDataReceive
  refine State.onFrame_kept _ _ _ _ _ ⟨k₁, k₂, k₃⟩ (fun t l => ?_)
  have h0 : Keeps (if f.retx then t else t.updFl (fun l => { l with echo := some (f.txCC, t.cycle) })) t := by
    split <;> simp [Keeps]
  extract_lets u k u1 old held q u2
  change Keeps u t at h0
  split
  · exact Keeps.trans (State.count64_kept _ _ _ _ _) h0
  · have h1 : Keeps u1 u := State.updFl_kept _ _
    have h2 : Keeps u2 u1 := State.updFl_kept _ _
    split
    · exact h0
    · split
      · exact Keeps.trans (State.count64_kept _ _ _ _ _) h0
      · split
        · exact Keeps.trans (State.setFlag_kept _ _ _ _ _) (Keeps.trans (State.count64_kept _ _ _ _ _) (h1.trans h0))
        · split
          · exact Keeps.trans (State.storeFragment_kept _ _) (h2.trans (h1.trans h0))
          · exact h2.trans (h1.trans h0)
@[simp] theorem execCdxAckReceive_kept (f : CdxFrame) (s : State) (s₀ : State) (keep : Keeps s s₀) :
    outKept (execCdxAckReceive f s) s₀ := by
  obtain ⟨k₁, k₂, k₃⟩ := keep
  unfold execCdxAckReceive
  simp_all [Keeps, foldl_keeps, foldl_keeps₁, foldl_keeps₂]
@[simp] theorem State.nakEntry_kept (s : State) (e : List Byte) :
    Keeps (State.nakEntry s e) s := by
  unfold State.nakEntry
  (repeat' split) <;> simp [Keeps]
@[simp] theorem execCdxNakReceive_kept (f : CdxFrame) (s : State) (s₀ : State) (keep : Keeps s s₀) :
    outKept (execCdxNakReceive f s) s₀ := by
  obtain ⟨k₁, k₂, k₃⟩ := keep
  unfold execCdxNakReceive
  simp_all [Keeps, foldl_keeps, foldl_keeps₁, foldl_keeps₂]
@[simp] theorem execCdxProbeReceive_kept (f : CdxFrame) (s : State) (s₀ : State) (keep : Keeps s s₀) :
    outKept (execCdxProbeReceive f s) s₀ := by
  obtain ⟨k₁, k₂, k₃⟩ := keep
  unfold execCdxProbeReceive
  simp_all [Keeps, foldl_keeps, foldl_keeps₁, foldl_keeps₂]
@[simp] theorem execCdxProbeEchoReceive_kept (f : CdxFrame) (s : State) (s₀ : State) (keep : Keeps s s₀) :
    outKept (execCdxProbeEchoReceive f s) s₀ := by
  obtain ⟨k₁, k₂, k₃⟩ := keep
  unfold execCdxProbeEchoReceive
  simp_all [Keeps, foldl_keeps, foldl_keeps₁, foldl_keeps₂]
@[simp] theorem execCdxForeignFrame_kept (why : ForeignWhy) (s : State) (s₀ : State) (keep : Keeps s s₀) :
    outKept (execCdxForeignFrame why s) s₀ := by
  obtain ⟨k₁, k₂, k₃⟩ := keep
  unfold execCdxForeignFrame
  (repeat' split) <;> simp_all [Keeps, foldl_keeps, foldl_keeps₁, foldl_keeps₂]
@[simp] theorem execAckTimer_kept (s : State) (s₀ : State) (keep : Keeps s s₀) :
    outKept (execAckTimer s) s₀ := by
  obtain ⟨k₁, k₂, k₃⟩ := keep
  unfold execAckTimer
  (repeat' split) <;> simp_all [Keeps, foldl_keeps, foldl_keeps₁, foldl_keeps₂]
@[simp] theorem execFragmentOverdue_kept (fseq : W32) (s : State) (s₀ : State) (keep : Keeps s s₀) :
    outKept (execFragmentOverdue fseq s) s₀ := by
  obtain ⟨k₁, k₂, k₃⟩ := keep
  unfold execFragmentOverdue
  (repeat' split) <;> simp_all [Keeps, foldl_keeps, foldl_keeps₁, foldl_keeps₂]
@[simp] theorem execFragmentRtoExpiry_kept (fseq : W32) (s : State) (s₀ : State) (keep : Keeps s s₀) :
    outKept (execFragmentRtoExpiry fseq s) s₀ := by
  obtain ⟨k₁, k₂, k₃⟩ := keep
  unfold execFragmentRtoExpiry
  (repeat' split) <;> simp_all [Keeps, foldl_keeps, foldl_keeps₁, foldl_keeps₂]
@[simp] theorem execLinkDead_kept (s : State) (s₀ : State) (keep : Keeps s s₀) :
    outKept (execLinkDead s) s₀ := by
  obtain ⟨k₁, k₂, k₃⟩ := keep
  unfold execLinkDead
  (repeat' split) <;> simp_all [Keeps, foldl_keeps, foldl_keeps₁, foldl_keeps₂]
@[simp] theorem execProbeTimer_kept (s : State) (s₀ : State) (keep : Keeps s s₀) :
    outKept (execProbeTimer s) s₀ := by
  obtain ⟨k₁, k₂, k₃⟩ := keep
  unfold execProbeTimer
  (repeat' split) <;> simp_all [Keeps, foldl_keeps, foldl_keeps₁, foldl_keeps₂]
@[simp] theorem execSessionDead_kept (s : State) (s₀ : State) (keep : Keeps s s₀) :
    outKept (execSessionDead s) s₀ := by
  obtain ⟨k₁, k₂, k₃⟩ := keep
  unfold execSessionDead
  (repeat' split) <;> simp_all [Keeps, foldl_keeps, foldl_keeps₁, foldl_keeps₂]
@[simp] theorem execHelloTimer_kept (s : State) (s₀ : State) (keep : Keeps s s₀) :
    outKept (execHelloTimer s) s₀ := by
  obtain ⟨k₁, k₂, k₃⟩ := keep
  unfold execHelloTimer
  (repeat' split) <;> grind [outKept, foldl_keeps, foldl_keeps₁, foldl_keeps₂, State.makeHello_kept, State.nextFree_kept, State.setFld_kept, State.updFl_kept, State.flQueue_kept, State.makeHello_keptp, State.nextFree_keptp]
@[simp] theorem State.helloWhole_kept (s : State) (h : Hello) (b : List Byte) :
    Keeps (State.helloWhole s h b) s := by
  unfold State.helloWhole
  dsimp only
  (repeat' split) <;> simp_all [Keeps, pair_eq, snd_ite, fst_ite, foldl_keeps, foldl_keeps₁, foldl_keeps₂]
@[simp] theorem State.rekeyWhole_kept (s : State) (h : Hello) (b : List Byte) :
    Keeps (State.rekeyWhole s h b) s := by
  unfold State.rekeyWhole
  dsimp only
  (repeat' split) <;> simp_all [Keeps, pair_eq, snd_ite, fst_ite, foldl_keeps, foldl_keeps₁, foldl_keeps₂]
@[simp] theorem execHelloReceive_kept (f : CdxFrame) (s : State) (s₀ : State) (keep : Keeps s s₀) :
    outKept (execHelloReceive f s) s₀ := by
  obtain ⟨k₁, k₂, k₃⟩ := keep
  have keep : Keeps s s₀ := ⟨k₁, k₂, k₃⟩
  unfold execHelloReceive
  dsimp only
  split
  · exact keep
  · split
    · exact Keeps.trans (State.count64_kept _ _ _ _ _) keep
    · split
      · (repeat' split) <;> first
          | exact keep
          | exact Keeps.trans (State.updFl_kept _ _) keep
          | exact Keeps.trans (State.helloWhole_kept _ _ _) keep
      · refine State.onFrame_kept _ _ _ _ _ keep (fun t l => ?_)
        split
        · exact State.updFl_kept _ _
        · exact State.rekeyWhole_kept _ _ _
@[simp] theorem execFinishReceive_kept (f : CdxFrame) (s : State) (s₀ : State) (keep : Keeps s s₀) :
    outKept (execFinishReceive f s) s₀ := by
  obtain ⟨k₁, k₂, k₃⟩ := keep
  have keep : Keeps s s₀ := ⟨k₁, k₂, k₃⟩
  unfold execFinishReceive
  dsimp only
  split
  · split
    · exact keep
    · rename_i h _
      split
      · exact keep
      · refine State.onFrame_kept _ _ _ _ _ ?_ (fun t l => ?_)
        · split
          · exact keep
          · exact Keeps.trans (State.updFl_kept _ _) keep
        · split
          · exact .refl t
          · refine Keeps.trans (State.sessionUp_kept _) ?_
            split
            · exact .refl t
            · exact State.sendFinish_kept _ _
  · refine State.onFrame_kept _ _ _ _ _ keep (fun t l => ?_)
    (repeat' split) <;> first
      | exact .refl t
      | exact State.updFl_kept _ _
@[simp] theorem execKeyRollover_kept (s : State) (s₀ : State) (keep : Keeps s s₀) :
    outKept (execKeyRollover s) s₀ := by
  obtain ⟨k₁, k₂, k₃⟩ := keep
  unfold execKeyRollover
  (repeat' split) <;> simp_all [Keeps, foldl_keeps, foldl_keeps₁, foldl_keeps₂]
@[simp] theorem execRxKeyDerive_kept (s : State) (s₀ : State) (keep : Keeps s s₀) :
    outKept (execRxKeyDerive s) s₀ := by
  obtain ⟨k₁, k₂, k₃⟩ := keep
  unfold execRxKeyDerive
  (repeat' split) <;> simp_all [Keeps, foldl_keeps, foldl_keeps₁, foldl_keeps₂]
@[simp] theorem State.nextKey_kept (s : State) :
    Keeps (State.nextKey s) s := by
  simp [Keeps, State.nextKey]
@[simp] theorem State.startRekey_kept (s : State) :
    Keeps (State.startRekey s) s := by
  simp_all [Keeps, State.startRekey, apply_ite, foldl_keeps, foldl_keeps₁, foldl_keeps₂]
@[simp] theorem execKeyctlNextKey_kept (u_w : Writer) (s : State) (s₀ : State) (keep : Keeps s s₀) :
    outKept (execKeyctlNextKey u_w s) s₀ := by
  obtain ⟨k₁, k₂, k₃⟩ := keep
  unfold execKeyctlNextKey
  (repeat' split) <;> simp_all [Keeps, foldl_keeps, foldl_keeps₁, foldl_keeps₂]
@[simp] theorem execKeyctlRekey_kept (u_w : Writer) (s : State) (s₀ : State) (keep : Keeps s s₀) :
    outKept (execKeyctlRekey u_w s) s₀ := by
  obtain ⟨k₁, k₂, k₃⟩ := keep
  unfold execKeyctlRekey
  (repeat' split) <;> simp_all [Keeps, foldl_keeps, foldl_keeps₁, foldl_keeps₂]

/-! ### Fabric -/

@[simp] theorem sfFrame_kept (p : BitVec 4) (f : SfFrame) (typ : BitVec 4) (s : State) (body : Nat → State → State) (s₀ : State) (keep : Keeps s s₀) (hb : ∀ n t, Keeps (body n t) t) :
    outKept (sfFrame p f typ s body) s₀ := by
  obtain ⟨k₁, k₂, k₃⟩ := keep
  unfold sfFrame
  (repeat' split) <;> simp_all [Keeps, foldl_keeps, foldl_keeps₁, foldl_keeps₂]
@[simp] theorem execSfCreqReceive_kept (p : BitVec 4) (f : SfFrame) (s : State) (s₀ : State) (keep : Keeps s s₀) :
    outKept (execSfCreqReceive p f s) s₀ := by
  obtain ⟨k₁, k₂, k₃⟩ := keep
  unfold execSfCreqReceive
  apply sfFrame_kept
  · exact ⟨k₁, k₂, k₃⟩
  all_goals (intros; (repeat' split) <;> grind [outKept, foldl_keeps, foldl_keeps₁, foldl_keeps₂, State.answer_kept, State.collRequested_kept, State.updPort_kept, State.grantOldest_kept, sfFrame_kept])
@[simp] theorem execSfGrant_kept (p : BitVec 4) (s : State) (s₀ : State) (keep : Keeps s s₀) :
    outKept (execSfGrant p s) s₀ := by
  obtain ⟨k₁, k₂, k₃⟩ := keep
  unfold execSfGrant
  (repeat' split) <;> simp_all [Keeps, foldl_keeps, foldl_keeps₁, foldl_keeps₂]
@[simp] theorem execSfCgntReceive_kept (p : BitVec 4) (f : SfFrame) (s : State) (s₀ : State) (keep : Keeps s s₀) :
    outKept (execSfCgntReceive p f s) s₀ := by
  obtain ⟨k₁, k₂, k₃⟩ := keep
  unfold execSfCgntReceive
  apply sfFrame_kept
  · exact ⟨k₁, k₂, k₃⟩
  all_goals (intros; (repeat' split) <;> simp_all [Keeps, foldl_keeps, foldl_keeps₁, foldl_keeps₂])
@[simp] theorem execSfCrefReceive_kept (p : BitVec 4) (f : SfFrame) (s : State) (s₀ : State) (keep : Keeps s s₀) :
    outKept (execSfCrefReceive p f s) s₀ := by
  obtain ⟨k₁, k₂, k₃⟩ := keep
  unfold execSfCrefReceive
  apply sfFrame_kept
  · exact ⟨k₁, k₂, k₃⟩
  all_goals (intros; (repeat' split) <;> simp_all [Keeps, foldl_keeps, foldl_keeps₁, foldl_keeps₂])
@[simp] theorem State.dnak_kept (s : State) (p : Nat) (g : SfGrant) (off : Nat) :
    Keeps (State.dnak s p g off) s := by
  unfold State.dnak
  (repeat' split) <;> grind [outKept, foldl_keeps, foldl_keeps₁, foldl_keeps₂, State.updPort_kept, State.answer_kept]
@[simp] theorem execSfDataReceive_kept (p : BitVec 4) (f : SfFrame) (s : State) (s₀ : State) (keep : Keeps s s₀) :
    outKept (execSfDataReceive p f s) s₀ := by
  obtain ⟨k₁, k₂, k₃⟩ := keep
  unfold execSfDataReceive
  apply sfFrame_kept
  · exact ⟨k₁, k₂, k₃⟩
  all_goals (intros; (repeat' split) <;> simp_all [Keeps, foldl_keeps, foldl_keeps₁, foldl_keeps₂])
@[simp] theorem execSfDackReceive_kept (p : BitVec 4) (f : SfFrame) (s : State) (s₀ : State) (keep : Keeps s s₀) :
    outKept (execSfDackReceive p f s) s₀ := by
  obtain ⟨k₁, k₂, k₃⟩ := keep
  unfold execSfDackReceive
  apply sfFrame_kept
  · exact ⟨k₁, k₂, k₃⟩
  all_goals (intros; (repeat' split) <;> simp_all [Keeps, foldl_keeps, foldl_keeps₁, foldl_keeps₂])
@[simp] theorem execSfDnakReceive_kept (p : BitVec 4) (f : SfFrame) (s : State) (s₀ : State) (keep : Keeps s s₀) :
    outKept (execSfDnakReceive p f s) s₀ := by
  obtain ⟨k₁, k₂, k₃⟩ := keep
  unfold execSfDnakReceive
  apply sfFrame_kept
  · exact ⟨k₁, k₂, k₃⟩
  all_goals (intros; (repeat' split) <;> simp_all [Keeps, foldl_keeps, foldl_keeps₁, foldl_keeps₂])
@[simp] theorem execSfForeignFrame_kept (p : BitVec 4) (why : ForeignWhy) (s : State) (s₀ : State) (keep : Keeps s s₀) :
    outKept (execSfForeignFrame p why s) s₀ := by
  obtain ⟨k₁, k₂, k₃⟩ := keep
  unfold execSfForeignFrame
  (repeat' split) <;> simp_all [Keeps, foldl_keeps, foldl_keeps₁, foldl_keeps₂]
@[simp] theorem execSfRetransmitTimeout_kept (p : BitVec 4) (reqId : W32) (s : State) (s₀ : State) (keep : Keeps s s₀) :
    outKept (execSfRetransmitTimeout p reqId s) s₀ := by
  obtain ⟨k₁, k₂, k₃⟩ := keep
  unfold execSfRetransmitTimeout
  (repeat' split) <;> grind [outKept, foldl_keeps, foldl_keeps₁, foldl_keeps₂, State.count64_kept, State.setFlag_kept, State.addTrail_kept, State.dropTx_kept, State.txFailed_kept, State.putTx_kept, State.reemit_kept]
@[simp] theorem execGrantReclaimed_kept (p : BitVec 4) (grantId : W32) (s : State) (s₀ : State) (keep : Keeps s s₀) :
    outKept (execGrantReclaimed p grantId s) s₀ := by
  obtain ⟨k₁, k₂, k₃⟩ := keep
  unfold execGrantReclaimed
  (repeat' split) <;> grind [outKept, foldl_keeps, foldl_keeps₁, foldl_keeps₂, State.endGrant_kept, State.count64_kept, State.setFlag_kept]
@[simp] theorem execPfcPauseReceive_kept (p : BitVec 4) (s : State) (s₀ : State) (keep : Keeps s s₀) :
    outKept (execPfcPauseReceive p s) s₀ := by
  obtain ⟨k₁, k₂, k₃⟩ := keep
  unfold execPfcPauseReceive
  (repeat' split) <;> simp_all [Keeps, foldl_keeps, foldl_keeps₁, foldl_keeps₂]
@[simp] theorem execPfcPauseExpiry_kept (p : BitVec 4) (s : State) (s₀ : State) (keep : Keeps s s₀) :
    outKept (execPfcPauseExpiry p s) s₀ := by
  obtain ⟨k₁, k₂, k₃⟩ := keep
  unfold execPfcPauseExpiry
  (repeat' split) <;> simp_all [Keeps, foldl_keeps, foldl_keeps₁, foldl_keeps₂]
@[simp] theorem State.setLinkWord_kept (s : State) (p : Port) (v : W32) :
    Keeps (State.setLinkWord s p v) s := by
  unfold State.setLinkWord
  (repeat' split) <;> simp [Keeps]
@[simp] theorem State.setTx_kept (s : State) (p : Port) (on : Bool) :
    Keeps (State.setTx s p on) s := by
  simp [Keeps, State.setTx]
@[simp] theorem execPortLinkUp_kept (p : Port) (lanes : BitVec 4) (anDone : Bool) (s : State) (s₀ : State) (keep : Keeps s s₀) :
    outKept (execPortLinkUp p lanes anDone s) s₀ := by
  obtain ⟨k₁, k₂, k₃⟩ := keep
  unfold execPortLinkUp
  (repeat' split) <;> simp_all [Keeps, foldl_keeps, foldl_keeps₁, foldl_keeps₂]
@[simp] theorem execPortLinkDown_kept (p : Port) (lanes : BitVec 4) (s : State) (s₀ : State) (keep : Keeps s s₀) :
    outKept (execPortLinkDown p lanes s) s₀ := by
  obtain ⟨k₁, k₂, k₃⟩ := keep
  unfold execPortLinkDown
  grind (splits := 30) [outKept, foldl_keeps, foldl_keeps₁, foldl_keeps₂, State.setLinkWord_kept, State.setFlagIf_kept]
@[simp] theorem execNeighbourSolicitation_kept (p : Port) (target : BitVec 128) (s : State) (s₀ : State) (keep : Keeps s s₀) :
    outKept (execNeighbourSolicitation p target s) s₀ := by
  obtain ⟨k₁, k₂, k₃⟩ := keep
  unfold execNeighbourSolicitation
  (repeat' split) <;> simp_all [Keeps, Store.used]

/-! ### Knockback -/

@[simp] theorem State.setPhase_kept (s : State) (p : Nat) :
    Keeps (State.setPhase s p) s := by
  simp [Keeps, State.setPhase]
@[simp] theorem State.beginK0_kept (s : State) (c x : Nat) :
    Keeps (State.beginK0 s c x) s := by
  simp_all [Keeps, State.beginK0, apply_ite, foldl_keeps, foldl_keeps₁, foldl_keeps₂]
@[simp] theorem execFenceStep_kept (i : Iss) (s : State) (s₀ : State) (keep : Keeps s s₀) :
    outKept (execFenceStep i s) s₀ := by
  obtain ⟨k₁, k₂, k₃⟩ := keep
  unfold execFenceStep
  simp_all [Keeps, foldl_keeps, foldl_keeps₁, foldl_keeps₂]
@[simp] theorem execKnockbackK1CoreDrain_kept (s : State) (s₀ : State) (keep : Keeps s s₀) :
    outKept (execKnockbackK1CoreDrain s) s₀ := by
  obtain ⟨k₁, k₂, k₃⟩ := keep
  unfold execKnockbackK1CoreDrain
  (repeat' split) <;> simp_all [Keeps, foldl_keeps, foldl_keeps₁, foldl_keeps₂]
@[simp] theorem execKnockbackK2FabricDrain_kept (s : State) (s₀ : State) (keep : Keeps s s₀) :
    outKept (execKnockbackK2FabricDrain s) s₀ := by
  obtain ⟨k₁, k₂, k₃⟩ := keep
  unfold execKnockbackK2FabricDrain
  (repeat' split) <;> simp_all [Keeps, foldl_keeps, foldl_keeps₁, foldl_keeps₂]
@[simp] theorem State.hivesK3_kept (s : State) :
    Keeps (State.hivesK3 s) s := by
  unfold State.hivesK3
  (repeat' split) <;> simp_all [Keeps, foldl_keeps, foldl_keeps₁, foldl_keeps₂]
@[simp] theorem execKnockbackK3HiveDrain_kept (s : State) (s₀ : State) (keep : Keeps s s₀) :
    outKept (execKnockbackK3HiveDrain s) s₀ := by
  obtain ⟨k₁, k₂, k₃⟩ := keep
  unfold execKnockbackK3HiveDrain
  (repeat' split) <;> simp_all [Keeps, foldl_keeps, foldl_keeps₁, foldl_keeps₂]
@[simp] theorem State.queueBases_kept (s : State) :
    Keeps (State.queueBases s) s := by
  simp [Keeps, State.queueBases]
@[simp] theorem State.installK4_kept (s : State) :
    Keeps (State.installK4 s) s := by
  simp [Keeps, State.installK4]
@[simp] theorem execKnockbackK4BaseInstall_kept (s : State) (s₀ : State) (keep : Keeps s s₀) :
    outKept (execKnockbackK4BaseInstall s) s₀ := by
  obtain ⟨k₁, k₂, k₃⟩ := keep
  unfold execKnockbackK4BaseInstall
  (repeat' split) <;> simp_all [Keeps, foldl_keeps, foldl_keeps₁, foldl_keeps₂]
@[simp] theorem State.roundKnockback_kept (s : State) :
    Keeps (State.roundKnockback s) s := by
  unfold State.roundKnockback
  (repeat' split) <;> simp_all [Keeps, foldl_keeps, foldl_keeps₁, foldl_keeps₂]
@[simp] theorem State.advanceStep_kept (s : State) :
    Keeps (State.advanceStep s) s := by
  unfold State.advanceStep
  (repeat' split) <;> simp_all [Keeps, foldl_keeps, foldl_keeps₁, foldl_keeps₂]
@[simp] theorem execKnockbackK5Advance_kept (s : State) (s₀ : State) (keep : Keeps s s₀) :
    outKept (execKnockbackK5Advance s) s₀ := by
  obtain ⟨k₁, k₂, k₃⟩ := keep
  unfold execKnockbackK5Advance
  grind (splits := 30) [outKept, foldl_keeps, foldl_keeps₁, foldl_keeps₂, State.advanceStep_kept, State.setFld_kept, State.setFlag_kept, State.setPhase_kept]
@[simp] theorem State.openCtx_kept (s : State) (c x : Nat) :
    Keeps (State.openCtx s c x) s := by
  simp [Keeps, State.openCtx]
@[simp] theorem execKnockbackK6Open_kept (s : State) (s₀ : State) (keep : Keeps s s₀) :
    outKept (execKnockbackK6Open s) s₀ := by
  obtain ⟨k₁, k₂, k₃⟩ := keep
  unfold execKnockbackK6Open
  (repeat' split) <;> simp_all [Keeps, foldl_keeps, foldl_keeps₁, foldl_keeps₂]
@[simp] theorem State.againK4_kept (s : State) :
    Keeps (State.againK4 s) s := by
  unfold State.againK4
  (repeat' split) <;> simp_all [Keeps, foldl_keeps, foldl_keeps₁, foldl_keeps₂]
@[simp] theorem State.repeatK4_kept (s : State) :
    Keeps (State.repeatK4 s) s := by
  unfold State.repeatK4
  (repeat' split) <;> simp_all [Keeps, foldl_keeps, foldl_keeps₁, foldl_keeps₂]
@[simp] theorem execDriftHoldRepeat_kept (s : State) (s₀ : State) (keep : Keeps s s₀) :
    outKept (execDriftHoldRepeat s) s₀ := by
  obtain ⟨k₁, k₂, k₃⟩ := keep
  unfold execDriftHoldRepeat
  (repeat' split) <;> simp_all [Keeps, foldl_keeps, foldl_keeps₁, foldl_keeps₂]

end Sys2Proof.Machine
end

