-- ==== Sys2Proof/Laws/KeptControl.lean ====
section
/-! SUPPORT. What functions, recovery, the boot store and control space keep: one lemma for each operation (Sys2Proof/Laws/Kept.lean says what is kept). -/

set_option maxRecDepth 8000

namespace Sys2Proof.Machine

/-! ### FnOps -/

@[simp] theorem State.enableTx_kept (s : State) (p : Port) :
    Keeps (State.enableTx s p) s := by
  simp [Keeps, State.enableTx]
@[simp] theorem State.startEffect_kept (s : State) (f : Fn) :
    Keeps (State.startEffect s f) s := by
  unfold State.startEffect
  dsimp only
  (repeat' split) <;> simp_all [Keeps, pair_eq, snd_ite, fst_ite, foldl_keeps, foldl_keeps₁, foldl_keeps₂]
@[simp] theorem State.beginTraining_kept (s : State) :
    Keeps (State.beginTraining s) s := by
  simp [Keeps, State.beginTraining]
@[simp] theorem State.noteStart_kept (s : State) (f : Fn) :
    Keeps (State.noteStart s f) s := by
  unfold State.noteStart
  (repeat' split) <;> simp_all [Keeps, foldl_keeps, foldl_keeps₁, foldl_keeps₂]
@[simp] theorem State.setFnStates_kept (s : State) (f : Fn) (st : Nat) :
    Keeps (State.setFnStates s f st) s := by
  unfold State.setFnStates
  (repeat' split) <;> simp_all [Keeps, foldl_keeps, foldl_keeps₁, foldl_keeps₂]
@[simp] theorem State.startFn_kept (s : State) (f : Fn) :
    Keeps (State.startFn s f).2 s := by
  unfold State.startFn
  dsimp only
  (repeat' split) <;> simp_all [Keeps, pair_eq, snd_ite, fst_ite, foldl_keeps, foldl_keeps₁, foldl_keeps₂]
theorem State.startFn_keptp (s : State) (f : Fn) {a₁ : Nat} {b₁ : State} (hpair : State.startFn s f = (a₁, b₁)) : Keeps b₁ s := by
  have k := State.startFn_kept s f
  rw [hpair] at k
  exact k
@[simp] theorem State.beginDrain_kept (s : State) (f : Fn) :
    Keeps (State.beginDrain s f) s := by
  unfold State.beginDrain
  (repeat' split) <;> simp [Keeps]
@[simp] theorem State.stopFn_kept (s : State) (f : Fn) :
    Keeps (State.stopFn s f) s := by
  unfold State.stopFn
  (repeat' split) <;> simp_all [Keeps, foldl_keeps, foldl_keeps₁, foldl_keeps₂]
@[simp] theorem State.fnCommand_kept (s : State) (w : Writer) (f : Fn) (cmd : Nat) :
    Keeps (State.fnCommand s w f cmd).2 s := by
  unfold State.fnCommand
  (repeat' split) <;> grind [outKept, foldl_keeps, foldl_keeps₁, foldl_keeps₂, State.setFnReason_kept, State.setFnStates_kept, State.startFn_kept, State.stopFn_kept, State.startFn_keptp]
theorem State.fnCommand_keptp (s : State) (w : Writer) (f : Fn) (cmd : Nat) {a₁ : Nat} {b₁ : State} (hpair : State.fnCommand s w f cmd = (a₁, b₁)) : Keeps b₁ s := by
  have k := State.fnCommand_kept s w f cmd
  rw [hpair] at k
  exact k

/-! ### Functions -/

@[simp] theorem fnRow_kept (w : Writer) (f : Fn) (cmd : Nat) (s : State) (s₀ : State) (keep : Keeps s s₀) :
    outKept (fnRow w f cmd s) s₀ := by
  obtain ⟨k₁, k₂, k₃⟩ := keep
  unfold fnRow
  (repeat' split) <;> simp_all [Keeps, foldl_keeps, foldl_keeps₁, foldl_keeps₂]
@[simp] theorem execConfig_kept (w : Writer) (f : Fn) (s : State) (s₀ : State) (keep : Keeps s s₀) :
    outKept (execConfig w f s) s₀ := by
  obtain ⟨k₁, k₂, k₃⟩ := keep
  unfold execConfig
  (repeat' split) <;> simp_all [Keeps, Store.used]
@[simp] theorem execStart_kept (w : Writer) (f : Fn) (s : State) (s₀ : State) (keep : Keeps s s₀) :
    outKept (execStart w f s) s₀ := by
  obtain ⟨k₁, k₂, k₃⟩ := keep
  unfold execStart
  (repeat' split) <;> simp_all [Keeps, Store.used]
@[simp] theorem execStop_kept (w : Writer) (f : Fn) (s : State) (s₀ : State) (keep : Keeps s s₀) :
    outKept (execStop w f s) s₀ := by
  obtain ⟨k₁, k₂, k₃⟩ := keep
  unfold execStop
  (repeat' split) <;> simp_all [Keeps, Store.used]
@[simp] theorem State.restEffect_kept (s : State) (f : Fn) :
    Keeps (State.restEffect s f) s := by
  unfold State.restEffect
  (repeat' split) <;> simp [Keeps]
@[simp] theorem execStopDrainComplete_kept (f : Fn) (s : State) (s₀ : State) (keep : Keeps s s₀) :
    outKept (execStopDrainComplete f s) s₀ := by
  obtain ⟨k₁, k₂, k₃⟩ := keep
  unfold execStopDrainComplete
  (repeat' split) <;> simp_all [Keeps, foldl_keeps, foldl_keeps₁, foldl_keeps₂]
@[simp] theorem State.zeroWatch_kept (s : State) :
    Keeps (State.zeroWatch s) s := by
  simp [Keeps, State.zeroWatch]
@[simp] theorem State.msTrained_kept (s : State) (ms : Nat) :
    Keeps (State.msTrained s ms) s := by
  simp [Keeps, State.msTrained]
@[simp] theorem State.msFailed_kept (s : State) (ch : Nat) :
    Keeps (State.msFailed s ch) s := by
  simp [Keeps, State.msFailed]

/-! ### SwarmOps -/

@[simp] theorem State.takeCrumb_kept (s : State) (cause kind inst : Nat) :
    Keeps (State.takeCrumb s cause kind inst).1 s := by
  unfold State.takeCrumb
  (repeat' split) <;> simp [Keeps]
theorem State.takeCrumb_keptp (s : State) (cause kind inst : Nat) {a₁ : State} {b₁ : Nat} (hpair : State.takeCrumb s cause kind inst = (a₁, b₁)) : Keeps a₁ s := by
  have k := State.takeCrumb_kept s cause kind inst
  rw [hpair] at k
  exact k
@[simp] theorem State.domainChange_kept (s : State) (r : Recovery) (st reason : Nat) :
    Keeps (State.domainChange s r st reason) s := by
  simp [Keeps, State.domainChange]
@[simp] theorem State.haltHung_kept (s : State) (n : Nat) :
    Keeps (State.haltHung s n) s := by
  simp [Keeps, State.haltHung]
@[simp] theorem State.dropMember_kept (s : State) (c x : Nat) :
    Keeps (State.dropMember s c x) s := by
  simp [Keeps, State.dropMember]
@[simp] theorem State.beginRecovery_kept (s : State) (d : Domain) (cause : Nat) (hangRecord : Option Nat) :
    Keeps (State.beginRecovery s d cause hangRecord) s := by
  unfold State.beginRecovery
  dsimp only
  (repeat' split) <;> simp_all [Keeps, pair_eq, snd_ite, fst_ite, foldl_keeps, foldl_keeps₁]
@[simp] theorem State.updRec_kept (s : State) (d : Domain) (f : Recovery → Recovery) :
    Keeps (State.updRec s d f) s := by
  simp [Keeps, State.updRec]
@[simp] theorem State.clockLostAgain_kept (s : State) (d : Domain) :
    Keeps (State.clockLostAgain s d) s := by
  unfold State.clockLostAgain
  (repeat' split) <;> grind [outKept, foldl_keeps, foldl_keeps₁, foldl_keeps₂, State.takeCrumb_kept, State.addTrail_kept, State.updRec_kept, State.takeCrumb_keptp]
@[simp] theorem State.beginDrainClock_kept (s : State) (r : Recovery) :
    Keeps (State.beginDrainClock s r) s := by
  unfold State.beginDrainClock
  (repeat' split) <;> simp_all [Keeps, foldl_keeps, foldl_keeps₁, foldl_keeps₂]
@[simp] theorem State.countPoisoned_kept (s : State) (n : Nat) :
    Keeps (State.countPoisoned s n) s := by
  unfold State.countPoisoned
  (repeat' split) <;> simp_all [Keeps, foldl_keeps, foldl_keeps₁, foldl_keeps₂]
@[simp] theorem State.poisonOp_kept (s : State) (c named : Nat) (o : EngOp) :
    Keeps (State.poisonOp s c named o) s := by
  unfold State.poisonOp
  (repeat' split) <;> simp_all [Keeps, foldl_keeps, foldl_keeps₁, foldl_keeps₂]
@[simp] theorem State.resetEngine_kept (s : State) (c m : Nat) :
    Keeps (State.resetEngine s c m) s := by
  simp [Keeps, State.resetEngine]
@[simp] theorem State.drainEngine_kept (s : State) (c m named : Nat) :
    Keeps (State.drainEngine s c m named) s := by
  unfold State.drainEngine
  (repeat' split) <;> simp_all [Keeps, foldl_keeps, foldl_keeps₁, foldl_keeps₂]
@[simp] theorem State.endAll_kept (s : State) (c x : Nat) :
    Keeps (State.endAll s c x) s := by
  unfold State.endAll
  (repeat' split) <;> simp_all [Keeps, foldl_keeps, foldl_keeps₁, foldl_keeps₂]
@[simp] theorem State.expireOffers_kept (s : State) (c x : Nat) :
    Keeps (State.expireOffers s c x) s := by
  unfold State.expireOffers
  (repeat' split) <;> simp_all [Keeps, foldl_keeps, foldl_keeps₁, foldl_keeps₂]
@[simp] theorem State.resetCoreUnits_kept (s : State) (c : Nat) :
    Keeps (State.resetCoreUnits s c) s := by
  unfold State.resetCoreUnits
  (repeat' split) <;> simp_all [Keeps, foldl_keeps, foldl_keeps₁, foldl_keeps₂]
@[simp] theorem State.deadColls_kept (s : State) (p : Coll → Bool) (f : Coll → Coll) :
    Keeps (State.deadColls s p f) s := by
  simp [Keeps, State.deadColls]
@[simp] theorem State.drainCore_kept (s : State) (c : Nat) (suspects : List Nat) :
    Keeps (State.drainCore s c suspects) s := by
  unfold State.drainCore
  (repeat' split) <;> simp_all [Keeps, foldl_keeps, foldl_keeps₁, foldl_keeps₂]
@[simp] theorem State.drainHive_kept (s : State) (h : Nat) :
    Keeps (State.drainHive s h) s := by
  simp [Keeps, State.drainHive]
@[simp] theorem State.drainForager_kept (s : State) :
    Keeps (State.drainForager s) s := by
  simp [Keeps, State.drainForager]
@[simp] theorem State.drainHp_kept (s : State) :
    Keeps (State.drainHp s) s := by
  unfold State.drainHp
  (repeat' split) <;> simp_all [Keeps, foldl_keeps, foldl_keeps₁, foldl_keeps₂]
@[simp] theorem State.endGrants_kept (s : State) (fns : List Fn) :
    Keeps (State.endGrants s fns) s := by
  simp [Keeps, State.endGrants]
@[simp] theorem State.resetModule_kept (s : State) (keep : Bool) :
    Keeps (State.resetModule s keep) s := by
  unfold State.resetModule
  (repeat' split) <;> simp_all [Keeps, foldl_keeps, foldl_keeps₁, foldl_keeps₂]
@[simp] theorem State.drainEnds_kept (s : State) (r : Recovery) :
    Keeps (State.drainEnds s r) s := by
  unfold State.drainEnds
  grind (splits := 30) [outKept, foldl_keeps, foldl_keeps₁, foldl_keeps₂, State.drainEngine_kept, State.drainCore_kept, State.drainHive_kept, State.drainForager_kept, State.drainHp_kept, State.resetModule_kept, State.endGrants_kept, State.addTrail_kept, State.updRec_kept]
@[simp] theorem State.takeover_kept (s : State) :
    Keeps (State.takeover s) s := by
  simp [Keeps, State.takeover]
@[simp] theorem State.restartHive_kept (s : State) (h : Nat) :
    Keeps (State.restartHive s h) s := by
  unfold State.restartHive
  (repeat' split) <;> simp_all [Keeps, foldl_keeps, foldl_keeps₁, foldl_keeps₂]
@[simp] theorem State.restartForager_kept (s : State) :
    Keeps (State.restartForager s) s := by
  unfold State.restartForager
  (repeat' split) <;> simp_all [Keeps, foldl_keeps, foldl_keeps₁, foldl_keeps₂]
@[simp] theorem State.internalStart_kept (s : State) (module_ : Bool) (f : Fn) :
    Keeps (State.internalStart s module_ f) s := by
  unfold State.internalStart
  (repeat' split) <;> simp_all [Keeps, foldl_keeps, foldl_keeps₁, foldl_keeps₂]
@[simp] theorem State.recoveryOver_kept (s : State) (r : Recovery) :
    Keeps (State.recoveryOver s r) s := by
  simp [Keeps, State.recoveryOver]
@[simp] theorem State.replaysOver_kept (s : State) (r : Recovery) :
    Keeps (State.replaysOver s r) s := by
  unfold State.replaysOver
  (repeat' split) <;> simp_all [Keeps, foldl_keeps, foldl_keeps₁, foldl_keeps₂]
@[simp] theorem State.restartDomain_kept (s : State) (r : Recovery) :
    Keeps (State.restartDomain s r) s := by
  unfold State.restartDomain
  (repeat' split) <;> simp_all [Keeps, foldl_keeps, foldl_keeps₁, foldl_keeps₂]
@[simp] theorem State.resetEnds_kept (s : State) (r : Recovery) :
    Keeps (State.resetEnds s r) s := by
  simp [Keeps, State.resetEnds]

/-! ### StartOps -/

@[simp] theorem State.trailControl_kept (s : State) (reason : Nat) :
    Keeps (State.trailControl s reason) s := by
  simp [Keeps, State.trailControl]
@[simp] theorem State.fwCommand_kept (s : State) (action slot : Nat) :
    Keeps (State.fwCommand s action slot).2 s := by
  unfold State.fwCommand
  (repeat' split) <;> simp [Keeps]
theorem State.fwCommand_keptp (s : State) (action slot : Nat) {a₁ : Nat} {b₁ : State} (hpair : State.fwCommand s action slot = (a₁, b₁)) : Keeps b₁ s := by
  have k := State.fwCommand_kept s action slot
  rw [hpair] at k
  exact k
@[simp] theorem State.fwEnds_kept (s : State) (j : FwJob) :
    Keeps (State.fwEnds s j) s := by
  have h : ∀ t : State, Keeps (if j.reason = 0x8002 then t.trailControl 0x8002 else t) t := by
    intro t
    split <;> simp [Keeps]
  have h0 : Keeps ({ s with fwJob := none } : State) s := keeps_noFwJob s
  have h1 := (h (({ s with fwJob := none } : State).setFld 0 0 0x320 15 0 j.reason)).trans ((State.setFld_kept _ 0 0 0x320 15 0 j.reason).trans h0)
  unfold State.fwEnds
  dsimp only at h1 ⊢
  generalize (if j.reason = 0x8002 then (({ s with fwJob := none } : State).setFld 0 0 0x320 15 0 j.reason).trailControl 0x8002 else (({ s with fwJob := none } : State).setFld 0 0 0x320 15 0 j.reason)) = t at h1 ⊢
  (repeat' split) <;> first | exact h1 | exact (keeps_store _ _ rfl).trans h1
theorem State.csWrite_kept (s : State) (w : Writer) (k : Counted) (v : Nat) :
    Moves (State.csWrite s w k v).2 s := by
  have key : s.csReason k v = 0 → s.csUsed k < csLimit k := by
    intro hr
    by_contra hx
    simp only [State.csReason, firstReason, decide_eq_true (Nat.not_lt.mp hx)] at hr
    grind [rsBUSY, rsBAD_STATE, rsBAD_SETTING, rsLIMIT_USED]
  unfold State.csWrite
  split
  · refine Keeps.moves ?_
    split <;> simp [Keeps]
  · dsimp only
    split
    · rename_i hv hr
      refine Keeps.moves ?_
      split <;> simp [Keeps]
    · rename_i hv hr
      have hl := key (by simpa using hr)
      refine ⟨rfl, fun h => ⟨h.1, ?_⟩⟩
      intro c hc n hn hs
      cases hc
      cases k <;> simp [csNumber, csLimit, State.csUsed] at hs hl <;> (try omega) <;> subst hs <;> simpa [Store.used, csLimits] using hl
theorem State.csWrite_keptp (s : State) (w : Writer) (k : Counted) (v : Nat) {a₁ : Nat} {b₁ : State} (hpair : State.csWrite s w k v = (a₁, b₁)) : Moves b₁ s := by
  have k := State.csWrite_kept s w k v
  rw [hpair] at k
  exact k
theorem State.ownerCommand_kept (s : State) (w : Writer) (slot : Nat) (clear : Bool) :
    Moves (State.ownerCommand s w slot clear).2 s := by
  unfold State.ownerCommand
  split
  · exact .refl s
  · split
    · exact .refl s
    · refine ⟨rfl, fun h => ⟨h.1, ?_⟩⟩
      rintro c hc n hn hs
      obtain rfl : _ = c := Option.some.inj hc
      simp at hs
      omega
theorem State.ownerCommand_keptp (s : State) (w : Writer) (slot : Nat) (clear : Bool) {a₁ : Nat} {b₁ : State} (hpair : State.ownerCommand s w slot clear = (a₁, b₁)) : Moves b₁ s := by
  have k := State.ownerCommand_kept s w slot clear
  rw [hpair] at k
  exact k
@[simp] theorem State.addJournal_kept (s : State) (e : List Byte) :
    Keeps (State.addJournal s e) s := by
  unfold State.addJournal
  (repeat' split) <;> simp_all [Keeps, Store.used]
@[simp] theorem State.journalOne_kept (s : State) (j : CsJob) (used limit : Nat) (detail : List Byte) :
    Keeps (State.journalOne s j used limit detail) s := by
  simp [Keeps, State.journalOne]
@[simp] theorem State.commitRetire_kept (s : State) (j : CsJob) :
    Keeps (State.commitRetire s j) s := by
  unfold State.commitRetire
  refine (foldl_keeps (fun t e => ?_) _ _).trans ((keeps_store _ _ rfl).trans (foldl_keeps (fun t e => ?_) _ _))
  · split <;> simp [Keeps]
  · simp [Keeps]
theorem State.addJournal_used (s : State) (e : List Byte) : (s.addJournal e).store = { s.store with journal := s.store.journal ++ [e] } := rfl
theorem State.commitJob_kept (s : State) (j : CsJob) :
    (s.commitJob j).pending = s.pending ∧ (s.commitJob j).csJob = s.csJob ∧
      (countedOk s.store.used (some j) → ∀ k < 5, (s.commitJob j).store.used.getD k 0 ≤ csLimits.getD k 0) := by
  have hr := State.commitRetire_kept s j
  refine ⟨?_, ?_, fun h k hk => ?_⟩
  · unfold State.commitJob
    split <;> first | exact hr.1 | rfl
  · unfold State.commitJob
    split <;> first | exact hr.2.2 | rfl
  · obtain ⟨h1, h2⟩ := h
    have h3 := h2 j rfl
    unfold State.commitJob
    split <;> rename_i hs
    all_goals first
      | (rw [hr.2.1]; exact h1 k hk)
      | exact h1 k hk
      | (have a0 := h1 0 (by decide)
         have a1 := h1 1 (by decide)
         have a2 := h1 2 (by decide)
         have a3 := h1 3 (by decide)
         have a4 := h1 4 (by decide)
         have b0 := h3 0 (by decide)
         have b1 := h3 1 (by decide)
         have b2 := h3 2 (by decide)
         have b3 := h3 3 (by decide)
         have b4 := h3 4 (by decide)
         simp [Store.used, csLimits, hs] at a0 a1 a2 a3 a4 b0 b1 b2 b3 b4
         interval_cases k <;> simp [Store.used, csLimits, State.journalOne, State.addJournal] <;> omega)
theorem execCountedSettingCommit_kept (ok : Bool) (s : State) (s₀ : State) (keep : Moves s s₀) :
    outMoves (execCountedSettingCommit ok s) s₀ := by
  obtain ⟨k₁, k₂⟩ := keep
  unfold execCountedSettingCommit
  split
  · exact ⟨k₁, k₂⟩
  · rename_i j hj
    rw [hj] at k₂
    obtain ⟨u, hu⟩ : ∃ u : State, u = { s with csJob := none } := ⟨_, rfl⟩
    have hp : u.pending = s.pending := by rw [hu]
    have hs : u.store = s.store := by rw [hu]
    have hn : u.csJob = none := by rw [hu]
    dsimp only
    rw [← hu]
    have c := State.commitJob_kept u j
    split
    · have e := State.setFld_kept (u.commitJob j) 0 0 0x450 15 0 0
      refine ⟨e.1.trans (c.1.trans (hp.trans k₁)), fun h => ⟨fun k hk => ?_, ?_⟩⟩
      · rw [e.2.1]
        exact c.2.2 (hs ▸ k₂ h) k hk
      · rw [e.2.2, c.2.1, hn]
        simp
    · have e := State.setFld_kept u 0 0 0x450 15 0 0x8005
      have e' := (State.trailControl_kept (u.setFld 0 0 0x450 15 0 0x8005) 0x8005).trans e
      refine ⟨e'.1.trans (hp.trans k₁), fun h => ?_⟩
      rw [e'.2.1, e'.2.2, hn, hs]
      exact (k₂ h).none
@[simp] theorem execFwActionComplete_kept (s : State) (s₀ : State) (keep : Keeps s s₀) :
    outKept (execFwActionComplete s) s₀ := by
  obtain ⟨k₁, k₂, k₃⟩ := keep
  unfold execFwActionComplete
  (repeat' split) <;> simp_all [Keeps, foldl_keeps, foldl_keeps₁, foldl_keeps₂]

/-! ### Scalar -/

@[simp] theorem scalar_kept (i : Iss) (sd : BitVec 6) (f : Ctx → W64) (s : State) (s₀ : State) (keep : Keeps s s₀) :
    outKept (scalar i sd f s) s₀ := by
  obtain ⟨k₁, k₂, k₃⟩ := keep
  unfold scalar
  simp_all [Keeps, foldl_keeps, foldl_keeps₁, foldl_keeps₂]
@[simp] theorem execAdd_kept (i : Iss) (sd sa : BitVec 6) (b : SrcB) (s : State) (s₀ : State) (keep : Keeps s s₀) :
    outKept (execAdd i sd sa b s) s₀ := by
  obtain ⟨k₁, k₂, k₃⟩ := keep
  unfold execAdd
  (repeat' split) <;> simp_all [Keeps, Store.used]
@[simp] theorem execSub_kept (i : Iss) (sd sa : BitVec 6) (b : SrcB) (s : State) (s₀ : State) (keep : Keeps s s₀) :
    outKept (execSub i sd sa b s) s₀ := by
  obtain ⟨k₁, k₂, k₃⟩ := keep
  unfold execSub
  (repeat' split) <;> simp_all [Keeps, Store.used]
@[simp] theorem execMul_kept (i : Iss) (sd sa : BitVec 6) (b : SrcB) (s : State) (s₀ : State) (keep : Keeps s s₀) :
    outKept (execMul i sd sa b s) s₀ := by
  obtain ⟨k₁, k₂, k₃⟩ := keep
  unfold execMul
  (repeat' split) <;> simp_all [Keeps, Store.used]
@[simp] theorem execAnd_kept (i : Iss) (sd sa : BitVec 6) (b : SrcB) (s : State) (s₀ : State) (keep : Keeps s s₀) :
    outKept (execAnd i sd sa b s) s₀ := by
  obtain ⟨k₁, k₂, k₃⟩ := keep
  unfold execAnd
  (repeat' split) <;> simp_all [Keeps, Store.used]
@[simp] theorem execOr_kept (i : Iss) (sd sa : BitVec 6) (b : SrcB) (s : State) (s₀ : State) (keep : Keeps s s₀) :
    outKept (execOr i sd sa b s) s₀ := by
  obtain ⟨k₁, k₂, k₃⟩ := keep
  unfold execOr
  (repeat' split) <;> simp_all [Keeps, Store.used]
@[simp] theorem execXor_kept (i : Iss) (sd sa : BitVec 6) (b : SrcB) (s : State) (s₀ : State) (keep : Keeps s s₀) :
    outKept (execXor i sd sa b s) s₀ := by
  obtain ⟨k₁, k₂, k₃⟩ := keep
  unfold execXor
  (repeat' split) <;> simp_all [Keeps, Store.used]
@[simp] theorem execShl_kept (i : Iss) (sd sa : BitVec 6) (b : SrcB) (s : State) (s₀ : State) (keep : Keeps s s₀) :
    outKept (execShl i sd sa b s) s₀ := by
  obtain ⟨k₁, k₂, k₃⟩ := keep
  unfold execShl
  (repeat' split) <;> simp_all [Keeps, Store.used]
@[simp] theorem execShr_kept (i : Iss) (sd sa : BitVec 6) (b : SrcB) (s : State) (s₀ : State) (keep : Keeps s s₀) :
    outKept (execShr i sd sa b s) s₀ := by
  obtain ⟨k₁, k₂, k₃⟩ := keep
  unfold execShr
  (repeat' split) <;> simp_all [Keeps, Store.used]
@[simp] theorem execSra_kept (i : Iss) (sd sa : BitVec 6) (b : SrcB) (s : State) (s₀ : State) (keep : Keeps s s₀) :
    outKept (execSra i sd sa b s) s₀ := by
  obtain ⟨k₁, k₂, k₃⟩ := keep
  unfold execSra
  (repeat' split) <;> simp_all [Keeps, Store.used]
@[simp] theorem execLi_kept (i : Iss) (sd : BitVec 6) (imm : W32) (s : State) (s₀ : State) (keep : Keeps s s₀) :
    outKept (execLi i sd imm s) s₀ := by
  obtain ⟨k₁, k₂, k₃⟩ := keep
  unfold execLi
  (repeat' split) <;> simp_all [Keeps, Store.used]
@[simp] theorem execLih_kept (i : Iss) (sd : BitVec 6) (imm : W32) (s : State) (s₀ : State) (keep : Keeps s s₀) :
    outKept (execLih i sd imm s) s₀ := by
  obtain ⟨k₁, k₂, k₃⟩ := keep
  unfold execLih
  (repeat' split) <;> simp_all [Keeps, Store.used]
@[simp] theorem execCmp_kept (i : Iss) (pd cond : BitVec 3) (sa : BitVec 6) (b : SrcB) (s : State) (s₀ : State) (keep : Keeps s s₀) :
    outKept (execCmp i pd cond sa b s) s₀ := by
  obtain ⟨k₁, k₂, k₃⟩ := keep
  unfold execCmp
  simp_all [Keeps, foldl_keeps, foldl_keeps₁, foldl_keeps₂]
@[simp] theorem execLd_kept (i : Iss) (w4 : Bool) (sd sa : BitVec 6) (imm : W32) (s : State) (s₀ : State) (keep : Keeps s s₀) :
    outKept (execLd i w4 sd sa imm s) s₀ := by
  obtain ⟨k₁, k₂, k₃⟩ := keep
  unfold execLd
  simp_all [Keeps, foldl_keeps, foldl_keeps₁, foldl_keeps₂]
@[simp] theorem execGetcc_kept (i : Iss) (sd : BitVec 6) (s : State) (s₀ : State) (keep : Keeps s s₀) :
    outKept (execGetcc i sd s) s₀ := by
  obtain ⟨k₁, k₂, k₃⟩ := keep
  unfold execGetcc
  (repeat' split) <;> simp_all [Keeps, Store.used]
@[simp] theorem execGetid_kept (i : Iss) (sd : BitVec 6) (s : State) (s₀ : State) (keep : Keeps s s₀) :
    outKept (execGetid i sd s) s₀ := by
  obtain ⟨k₁, k₂, k₃⟩ := keep
  unfold execGetid
  (repeat' split) <;> simp_all [Keeps, Store.used]
@[simp] theorem State.branchTo_kept (s : State) (c x t : Nat) :
    Keeps (State.branchTo s c x t) s := by
  simp [Keeps, State.branchTo]
@[simp] theorem execBr_kept (i : Iss) (imm : W32) (s : State) (s₀ : State) (keep : Keeps s s₀) :
    outKept (execBr i imm s) s₀ := by
  obtain ⟨k₁, k₂, k₃⟩ := keep
  unfold execBr
  simp_all [Keeps, foldl_keeps, foldl_keeps₁, foldl_keeps₂]
@[simp] theorem execJr_kept (i : Iss) (sa : BitVec 6) (s : State) (s₀ : State) (keep : Keeps s s₀) :
    outKept (execJr i sa s) s₀ := by
  obtain ⟨k₁, k₂, k₃⟩ := keep
  unfold execJr
  simp_all [Keeps, foldl_keeps, foldl_keeps₁, foldl_keeps₂]
@[simp] theorem execEnd_kept (i : Iss) (s : State) (s₀ : State) (keep : Keeps s s₀) :
    outKept (execEnd i s) s₀ := by
  obtain ⟨k₁, k₂, k₃⟩ := keep
  unfold execEnd
  simp_all [Keeps, foldl_keeps, foldl_keeps₁, foldl_keeps₂]
@[simp] theorem execEndComplete_kept (c : BitVec 7) (x : BitVec 2) (s : State) (s₀ : State) (keep : Keeps s s₀) :
    outKept (execEndComplete c x s) s₀ := by
  obtain ⟨k₁, k₂, k₃⟩ := keep
  unfold execEndComplete
  (repeat' split) <;> simp_all [Keeps, foldl_keeps, foldl_keeps₁, foldl_keeps₂]

/-! ### CtlWrite -/

@[simp] theorem State.resetCounters_kept (s : State) (b i o : Nat) :
    Keeps (State.resetCounters s b i o) s := by
  unfold State.resetCounters
  (repeat' split) <;> simp [Keeps]
@[simp] theorem State.storeWord_kept (s : State) (b i o v : Nat) :
    Keeps (State.storeWord s b i o v) s := by
  simp [Keeps, State.storeWord]
@[simp] theorem State.mapEngines_kept (s : State) (c : Nat) (old new : Nat) :
    Keeps (State.mapEngines s c old new) s := by
  unfold State.mapEngines
  (repeat' split) <;> simp_all [Keeps, foldl_keeps, foldl_keeps₁, foldl_keeps₂]
@[simp] theorem State.twinEffect_kept (s : State) (i old v : Nat) :
    Keeps (State.twinEffect s i old v) s := by
  unfold State.twinEffect
  (repeat' split) <;> simp_all [Keeps, foldl_keeps, foldl_keeps₁, foldl_keeps₂]
@[simp] theorem State.swCommand_kept (s : State) (v : Nat) :
    Keeps (State.swCommand s v) s := by
  simp [Keeps, State.swCommand]
@[simp] theorem State.newWindows_kept (s : State) (c : Nat) :
    Keeps (State.newWindows s c) s := by
  unfold State.newWindows
  (repeat' split) <;> simp_all [Keeps, foldl_keeps, foldl_keeps₁, foldl_keeps₂]
@[simp] theorem State.wordEffect_kept (s : State) (b i o old v : Nat) :
    Keeps (State.wordEffect s b i o old v) s := by
  simp [Keeps, State.wordEffect]
theorem State.applyWord_kept (s : State) (w : Writer) (q : Nat × Nat × Nat × Nat) :
    Moves (State.applyWord s w q).2 s := by
  have kw : ∀ b i o v old, Keeps ((if bitAt v 31 then (s.storeWord b i o v).resetCounters b i o else s.storeWord b i o v).wordEffect b i o old v) s := by
    intro b i o v old
    split <;> simp [Keeps]
  unfold State.applyWord
  obtain ⟨b, i, o, v⟩ := q
  dsimp only
  have kw := kw b i o v (s.word b i o).toNat
  generalize ((if bitAt v 31 then (s.storeWord b i o v).resetCounters b i o else s.storeWord b i o v).wordEffect b i o (s.word b i o).toNat v) = t at kw ⊢
  (repeat' split) <;> first
    | exact (State.ownerCommand_kept _ _ _ _).trans kw.moves
    | exact Keeps.moves kw
    | exact Keeps.moves ((State.fnCommand_kept _ _ _ _).trans kw)
    | exact Keeps.moves (Keeps.trans (by simp [Keeps]) kw)
theorem State.applyWord_keptp (s : State) (w : Writer) (q : Nat × Nat × Nat × Nat) {a₁ : Nat} {b₁ : State} (hpair : State.applyWord s w q = (a₁, b₁)) : Moves b₁ s := by
  have k := State.applyWord_kept s w q
  rw [hpair] at k
  exact k
theorem State.ctlApply_kept (s : State) (w : Writer) (a n v : Nat) :
    Moves (State.ctlApply s w a n v).2 s := by
  have kf := foldl_moves (g := fun (p : Nat × State) q => ((if p.1 = 0 then (p.2.applyWord w q).1 else p.1), (p.2.applyWord w q).2))
    (fun p q => State.applyWord_kept p.2 w q) (ctlWords a n v) (0, s)
  unfold State.ctlApply
  dsimp only
  split
  · exact kf
  · exact (State.csWrite_kept _ _ _ _).trans kf
theorem State.ctlApply_keptp (s : State) (w : Writer) (a n v : Nat) {a₁ : Nat} {b₁ : State} (hpair : State.ctlApply s w a n v = (a₁, b₁)) : Moves b₁ s := by
  have k := State.ctlApply_kept s w a n v
  rw [hpair] at k
  exact k
theorem State.ctlWrite_kept (s : State) (w : Writer) (a n v : Nat) :
    Moves (State.ctlWrite s w a n v).2 s := by
  unfold State.ctlWrite
  dsimp only
  split
  · exact State.ctlApply_kept _ _ _ _ _
  · exact .refl s
theorem State.ctlWrite_keptp (s : State) (w : Writer) (a n v : Nat) {a₁ : Nat} {b₁ : State} (hpair : State.ctlWrite s w a n v = (a₁, b₁)) : Moves b₁ s := by
  have k := State.ctlWrite_kept s w a n v
  rw [hpair] at k
  exact k

/-! ### Control -/

theorem execRegisterWrite_kept (w : Writer) (addr : W64) (wide : Bool) (val : W64) (s : State) (s₀ : State) (keep : Moves s s₀) :
    outMoves (execRegisterWrite w addr wide val s) s₀ := by
  obtain ⟨k₁, k₂⟩ := keep
  unfold execRegisterWrite
  (repeat' split) <;> first | trivial | exact ⟨k₁, k₂⟩ | exact (State.ctlWrite_kept _ _ _ _ _).trans ⟨k₁, k₂⟩
theorem execW1cFlagClear_kept (w : Writer) (addr : W64) (val setNow : W32) (s : State) (s₀ : State) (keep : Moves s s₀) :
    outMoves (execW1cFlagClear w addr val setNow s) s₀ := by
  obtain ⟨k₁, k₂⟩ := keep
  unfold execW1cFlagClear
  dsimp only
  (repeat' split) <;> first
    | exact ⟨k₁, k₂⟩
    | exact (Keeps.moves (foldl_keeps (fun t e => by simp [Keeps]) _ _)).trans ((State.ctlWrite_kept _ _ _ _ _).trans ⟨k₁, k₂⟩)
theorem execCtrReset_kept (w : Writer) (addr : W64) (s : State) (s₀ : State) (keep : Moves s s₀) :
    outMoves (execCtrReset w addr s) s₀ := by
  obtain ⟨k₁, k₂⟩ := keep
  unfold execCtrReset
  dsimp only
  (repeat' split) <;> first | trivial | exact ⟨k₁, k₂⟩ | exact (State.ctlWrite_kept _ _ _ _ _).trans ⟨k₁, k₂⟩
theorem execEngineMapWrite_kept (w : Writer) (c : BitVec 7) (val : W32) (s : State) (s₀ : State) (keep : Moves s s₀) :
    outMoves (execEngineMapWrite w c val s) s₀ := by
  obtain ⟨k₁, k₂⟩ := keep
  unfold execEngineMapWrite
  (repeat' split) <;> first | trivial | exact ⟨k₁, k₂⟩ | exact (State.ctlWrite_kept _ _ _ _ _).trans ⟨k₁, k₂⟩
theorem execSqSlotInit_kept (w : Writer) (c : BitVec 7) (val : W32) (s : State) (s₀ : State) (keep : Moves s s₀) :
    outMoves (execSqSlotInit w c val s) s₀ := by
  obtain ⟨k₁, k₂⟩ := keep
  unfold execSqSlotInit
  (repeat' split) <;> first | trivial | exact ⟨k₁, k₂⟩ | exact (State.ctlWrite_kept _ _ _ _ _).trans ⟨k₁, k₂⟩
theorem execTasteNWrite_kept (w : Writer) (c : BitVec 7) (n : BitVec 5) (s : State) (s₀ : State) (keep : Moves s s₀) :
    outMoves (execTasteNWrite w c n s) s₀ := by
  obtain ⟨k₁, k₂⟩ := keep
  unfold execTasteNWrite
  (repeat' split) <;> first | trivial | exact ⟨k₁, k₂⟩ | exact (State.ctlWrite_kept _ _ _ _ _).trans ⟨k₁, k₂⟩
theorem execTwinWrite_kept (w : Writer) (c : BitVec 7) (m : BitVec 2) (on : Bool) (s : State) (s₀ : State) (keep : Moves s s₀) :
    outMoves (execTwinWrite w c m on s) s₀ := by
  obtain ⟨k₁, k₂⟩ := keep
  unfold execTwinWrite
  dsimp only
  (repeat' split) <;> first | trivial | exact ⟨k₁, k₂⟩ | exact (State.ctlWrite_kept _ _ _ _ _).trans ⟨k₁, k₂⟩
theorem execSwCmdRecover_kept (w : Writer) (d : Domain) (s : State) (s₀ : State) (keep : Moves s s₀) :
    outMoves (execSwCmdRecover w d s) s₀ := by
  obtain ⟨k₁, k₂⟩ := keep
  unfold execSwCmdRecover
  (repeat' split) <;> first | trivial | exact ⟨k₁, k₂⟩ | exact (State.ctlWrite_kept _ _ _ _ _).trans ⟨k₁, k₂⟩
theorem execSwCmdRecord_kept (w : Writer) (d : Domain) (s : State) (s₀ : State) (keep : Moves s s₀) :
    outMoves (execSwCmdRecord w d s) s₀ := by
  obtain ⟨k₁, k₂⟩ := keep
  unfold execSwCmdRecord
  (repeat' split) <;> first | trivial | exact ⟨k₁, k₂⟩ | exact (State.ctlWrite_kept _ _ _ _ _).trans ⟨k₁, k₂⟩
theorem execSwCmdTakeover_kept (w : Writer) (s : State) (s₀ : State) (keep : Moves s s₀) :
    outMoves (execSwCmdTakeover w s) s₀ := by
  obtain ⟨k₁, k₂⟩ := keep
  unfold execSwCmdTakeover
  (repeat' split) <;> first | trivial | exact ⟨k₁, k₂⟩ | exact (State.ctlWrite_kept _ _ _ _ _).trans ⟨k₁, k₂⟩
theorem execFwInstall_kept (w : Writer) (s : State) (s₀ : State) (keep : Moves s s₀) :
    outMoves (execFwInstall w s) s₀ := by
  obtain ⟨k₁, k₂⟩ := keep
  unfold execFwInstall
  (repeat' split) <;> first | trivial | exact ⟨k₁, k₂⟩ | exact (State.ctlWrite_kept _ _ _ _ _).trans ⟨k₁, k₂⟩
theorem execSetPreferred_kept (w : Writer) (slot : BitVec 1) (s : State) (s₀ : State) (keep : Moves s s₀) :
    outMoves (execSetPreferred w slot s) s₀ := by
  obtain ⟨k₁, k₂⟩ := keep
  unfold execSetPreferred
  (repeat' split) <;> first | trivial | exact ⟨k₁, k₂⟩ | exact (State.ctlWrite_kept _ _ _ _ _).trans ⟨k₁, k₂⟩
theorem execCountedSettingWrite_kept (w : Writer) (k : Counted) (val : Nat) (s : State) (s₀ : State) (keep : Moves s s₀) :
    outMoves (execCountedSettingWrite w k val s) s₀ := by
  obtain ⟨k₁, k₂⟩ := keep
  unfold execCountedSettingWrite
  split
  · exact (State.csWrite_kept _ _ _ _).trans ⟨k₁, k₂⟩
  · exact ⟨k₁, k₂⟩
theorem execOwnerKeyChange_kept (w : Writer) (slot : BitVec 2) (clear : Bool) (s : State) (s₀ : State) (keep : Moves s s₀) :
    outMoves (execOwnerKeyChange w slot clear s) s₀ := by
  obtain ⟨k₁, k₂⟩ := keep
  unfold execOwnerKeyChange
  (repeat' split) <;> first | trivial | exact ⟨k₁, k₂⟩ | exact (State.ctlWrite_kept _ _ _ _ _).trans ⟨k₁, k₂⟩

/-! ### Stores -/

theorem State.stControl_kept (s : State) (w : Writer) (a n v : Nat) :
    Moves (State.stControl s w a n v).2 s := by
  unfold State.stControl
  dsimp only
  split <;> exact State.ctlWrite_kept _ _ _ _ _
theorem State.stControl_keptp (s : State) (w : Writer) (a n v : Nat) {a₁ : Nat} {b₁ : State} (hpair : State.stControl s w a n v = (a₁, b₁)) : Moves b₁ s := by
  have k := State.stControl_kept s w a n v
  rw [hpair] at k
  exact k
theorem execSt_kept (i : Iss) (w4 immed : Bool) (sa sb : BitVec 6) (imm : W32) (s : State) (s₀ : State) (keep : Moves s s₀) :
    outMoves (execSt i w4 immed sa sb imm s) s₀ := by
  obtain ⟨k₁, k₂⟩ := keep
  refine (issueStop_moves i immed s _ _ (fun c x k => ?_)).trans ⟨k₁, k₂⟩
  dsimp only
  split
  · exact Keeps.moves (State.halt_kept _ _ _ _)
  · split
    · split
      · exact (Keeps.moves (State.advance_kept _ _ _)).trans (State.stControl_kept _ _ _ _ _)
      · exact (Keeps.moves (State.halt_kept _ _ _ _)).trans (State.stControl_kept _ _ _ _ _)
    · split
      · exact Keeps.moves (State.halt_kept _ _ _ _)
      · exact Keeps.moves (by simp [Keeps])

end Sys2Proof.Machine
end

