-- ==== Sys2Proof/Laws/KeptModule.lean ====
section
/-! SUPPORT. What the host port, replay, memory events, start-up, power and the clock tick keep: one lemma for each operation (Sys2Proof/Laws/Kept.lean says what is kept). -/

set_option maxRecDepth 8000

namespace Sys2Proof.Machine

/-! ### HostPort -/

@[simp] theorem State.takeEack_kept (s : State) (m : HostMsg) :
    Keeps (State.takeEack s m) s := by
  simp [Keeps, State.takeEack]
@[simp] theorem State.noteClaimant_kept (s : State) (m : HostMsg) :
    Keeps (State.noteClaimant s m) s := by
  simp [Keeps, State.noteClaimant]
@[simp] theorem State.takeRequest_kept (s : State) (m : HostMsg) :
    Keeps (State.takeRequest s m) s := by
  simp [Keeps, State.takeRequest]
@[simp] theorem State.windowed_kept (s : State) (m : HostMsg) :
    Keeps (State.windowed s m) s := by
  unfold State.windowed
  (repeat' split) <;> simp [Keeps]
@[simp] theorem State.hostAdmit_kept (s : State) (m : HostMsg) :
    Keeps (State.hostAdmit s m) s := by
  simp [Keeps, State.hostAdmit]
@[simp] theorem execHostFrameReceive_kept (m : HostMsg) (s : State) (s₀ : State) (keep : Keeps s s₀) :
    outKept (execHostFrameReceive m s) s₀ := by
  obtain ⟨k₁, k₂, k₃⟩ := keep
  unfold execHostFrameReceive
  (repeat' split) <;> simp_all [Keeps, foldl_keeps, foldl_keeps₁, foldl_keeps₂]
theorem hostOp_moves (op : Nat) (m : HostMsg) (s : State) (f : HostMsg → State → State) (hb : ∀ m t, Moves (f m t) t) :
    outMoves (hostOp op m s f) s := by
  have ha : Keeps (if s.hp.inProg.contains (s.hostNormal m) then s else s.hostAdmit (s.hostNormal m)) s := by
    split
    · exact .refl s
    · simp [Keeps]
  unfold hostOp
  dsimp only
  generalize (if s.hp.inProg.contains (s.hostNormal m) then s else s.hostAdmit (s.hostNormal m)) = t at ha ⊢
  (repeat' split) <;> first
    | exact .refl _
    | exact (hb _ _).trans ha.moves
    | exact ha.moves
@[simp] theorem hostOp_kept (op : Nat) (m : HostMsg) (s : State) (f : HostMsg → State → State) (s₀ : State) (keep : Keeps s s₀)
    (hb : ∀ m t, Keeps (f m t) t) : outKept (hostOp op m s f) s₀ := by
  have ha : Keeps (if s.hp.inProg.contains (s.hostNormal m) then s else s.hostAdmit (s.hostNormal m)) s := by
    split
    · exact .refl s
    · simp [Keeps]
  unfold hostOp
  dsimp only
  generalize (if s.hp.inProg.contains (s.hostNormal m) then s else s.hostAdmit (s.hostNormal m)) = t at ha ⊢
  (repeat' split) <;> first
    | exact keep
    | exact (hb _ _).trans (ha.trans keep)
    | exact ha.trans keep
@[simp] theorem State.endClaim_kept (s : State) :
    Keeps (State.endClaim s) s := by
  simp [Keeps, State.endClaim]
@[simp] theorem State.lapse_kept (s : State) :
    Keeps (State.lapse s) s := by
  simp [Keeps, State.lapse]
@[simp] theorem execClaimLapsed_kept (s : State) (s₀ : State) (keep : Keeps s s₀) :
    outKept (execClaimLapsed s) s₀ := by
  obtain ⟨k₁, k₂, k₃⟩ := keep
  unfold execClaimLapsed
  (repeat' split) <;> simp_all [Keeps, foldl_keeps, foldl_keeps₁, foldl_keeps₂]
@[simp] theorem execRelease_kept (m : HostMsg) (s : State) (s₀ : State) (keep : Keeps s s₀) :
    outKept (execRelease m s) s₀ := by
  obtain ⟨k₁, k₂, k₃⟩ := keep
  unfold execRelease
  simp_all [Keeps, foldl_keeps, foldl_keeps₁, foldl_keeps₂]
@[simp] theorem State.unsquelch_kept (s : State) :
    Keeps (State.unsquelch s) s := by
  unfold State.unsquelch
  (repeat' split) <;> grind [outKept, foldl_keeps, foldl_keeps₁, foldl_keeps₂, State.setTx_kept]
@[simp] theorem State.acceptClaim_kept (s : State) (m : HostMsg) :
    Keeps (State.acceptClaim s m) s := by
  simp [Keeps, State.acceptClaim]
@[simp] theorem execClaim_kept (m : HostMsg) (s : State) (s₀ : State) (keep : Keeps s s₀) :
    outKept (execClaim m s) s₀ := by
  obtain ⟨k₁, k₂, k₃⟩ := keep
  unfold execClaim
  simp_all [Keeps, foldl_keeps, foldl_keeps₁, foldl_keeps₂]
theorem State.hostStore_kept (s : State) (a : Nat) (bs : List Byte) :
    Moves (State.hostStore s a bs).2 s := by
  unfold State.hostStore
  split
  · exact State.ctlWrite_kept _ _ _ _ _
  · dsimp only
    refine Keeps.moves ?_
    split <;> simp [Keeps]
theorem State.hostStore_keptp (s : State) (a : Nat) (bs : List Byte) {a₁ : Nat} {b₁ : State} (hpair : State.hostStore s a bs = (a₁, b₁)) : Moves b₁ s := by
  have k := State.hostStore_kept s a bs
  rw [hpair] at k
  exact k
theorem execHostWrite_kept (m : HostMsg) (s : State) (s₀ : State) (keep : Moves s s₀) :
    outMoves (execHostWrite m s) s₀ := by
  obtain ⟨k₁, k₂⟩ := keep
  refine (hostOp_moves 3 m s _ (fun m t => ?_)).trans ⟨k₁, k₂⟩
  split
  · exact Keeps.moves (by simp [Keeps])
  · exact (Keeps.moves (State.respond_kept _ _ _ _ _)).trans (State.hostStore_kept _ _ _)
@[simp] theorem execHostRead_kept (m : HostMsg) (s : State) (s₀ : State) (keep : Keeps s s₀) :
    outKept (execHostRead m s) s₀ := by
  obtain ⟨k₁, k₂, k₃⟩ := keep
  unfold execHostRead
  simp_all [Keeps, foldl_keeps, foldl_keeps₁, foldl_keeps₂]
@[simp] theorem execDoorbell_kept (m : HostMsg) (s : State) (s₀ : State) (keep : Keeps s s₀) :
    outKept (execDoorbell m s) s₀ := by
  obtain ⟨k₁, k₂, k₃⟩ := keep
  unfold execDoorbell
  simp_all [Keeps, foldl_keeps, foldl_keeps₁, foldl_keeps₂]
@[simp] theorem execQuery_kept (m : HostMsg) (s : State) (s₀ : State) (keep : Keeps s s₀) :
    outKept (execQuery m s) s₀ := by
  obtain ⟨k₁, k₂, k₃⟩ := keep
  unfold execQuery
  simp_all [Keeps, foldl_keeps, foldl_keeps₁, foldl_keeps₂]
@[simp] theorem execAttest_kept (m : HostMsg) (s : State) (s₀ : State) (keep : Keeps s s₀) :
    outKept (execAttest m s) s₀ := by
  obtain ⟨k₁, k₂, k₃⟩ := keep
  unfold execAttest
  simp_all [Keeps, foldl_keeps, foldl_keeps₁, foldl_keeps₂]
@[simp] theorem execRelay_kept (m : HostMsg) (s : State) (s₀ : State) (keep : Keeps s s₀) :
    outKept (execRelay m s) s₀ := by
  obtain ⟨k₁, k₂, k₃⟩ := keep
  unfold execRelay
  simp_all [Keeps, foldl_keeps, foldl_keeps₁, foldl_keeps₂]
@[simp] theorem State.takeFront_kept (s : State) (b : Block) :
    Keeps (State.takeFront s b) s := by
  simp [Keeps, State.takeFront]
@[simp] theorem execTunnelledHostMessage_kept (b : Block) (s : State) (s₀ : State) (keep : Keeps s s₀) :
    outKept (execTunnelledHostMessage b s) s₀ := by
  obtain ⟨k₁, k₂, k₃⟩ := keep
  unfold execTunnelledHostMessage
  (repeat' split) <;> simp_all [Keeps, foldl_keeps, foldl_keeps₁, foldl_keeps₂]
@[simp] theorem execRelayResponseForward_kept (b : Block) (s : State) (s₀ : State) (keep : Keeps s s₀) :
    outKept (execRelayResponseForward b s) s₀ := by
  obtain ⟨k₁, k₂, k₃⟩ := keep
  unfold execRelayResponseForward
  (repeat' split) <;> grind [outKept, foldl_keeps, foldl_keeps₁, foldl_keeps₂, State.takeFront_kept, State.count64_kept, State.hpSend_kept]
@[simp] theorem execEventResend_kept (s : State) (s₀ : State) (keep : Keeps s s₀) :
    outKept (execEventResend s) s₀ := by
  obtain ⟨k₁, k₂, k₃⟩ := keep
  unfold execEventResend
  (repeat' split) <;> simp_all [Keeps, foldl_keeps, foldl_keeps₁, foldl_keeps₂]

/-! ### Release -/

@[simp] theorem reissue_kept (i : Instr) (s : State) (s₀ : State) (keep : Keeps s s₀) :
    outKept (reissue i s) s₀ := by
  obtain ⟨k₁, k₂, k₃⟩ := keep
  unfold reissue
  (repeat' split) <;> simp_all [Keeps, Store.used]
@[simp] theorem execInterlockRelease_kept (c : BitVec 7) (x : BitVec 2) (s : State) (s₀ : State) (keep : Keeps s s₀) :
    outKept (execInterlockRelease c x s) s₀ := by
  obtain ⟨k₁, k₂, k₃⟩ := keep
  unfold execInterlockRelease
  (repeat' split) <;> grind [outKept, foldl_keeps, foldl_keeps₁, foldl_keeps₂, State.wake_kept, State.advance_kept, reissue_kept]

/-! ### MemoryEvents -/

@[simp] theorem State.markUe_kept (s : State) (g : Nat) :
    Keeps (State.markUe s g) s := by
  simp [Keeps, State.markUe]
@[simp] theorem State.ceEvent_kept (s : State) (ch : Nat) :
    Keeps (State.ceEvent s ch) s := by
  simp [Keeps, State.ceEvent]
@[simp] theorem State.linkRetry_kept (s : State) :
    Keeps (State.linkRetry s) s := by
  simp [Keeps, State.linkRetry]
@[simp] theorem State.readGranule_kept (s : State) (g : Nat) (r : ReadRes) (cause : Nat) :
    Keeps (State.readGranule s g r cause) s := by
  unfold State.readGranule
  (repeat' split) <;> grind [outKept, foldl_keeps, foldl_keeps₁, foldl_keeps₂, State.linkRetry_kept, State.ceEvent_kept, State.markUe_kept, State.ueEvent_kept]
@[simp] theorem State.waitedBurst_kept (s : State) (waited : Bool) :
    Keeps (State.waitedBurst s waited) s := by
  unfold State.waitedBurst
  (repeat' split) <;> grind [outKept, foldl_keeps, foldl_keeps₁, foldl_keeps₂, State.count64_kept]
@[simp] theorem execScrubRead_kept (addr : W64) (r : ScrubRes) (passEnds : Bool) (s : State) (s₀ : State) (keep : Keeps s s₀) :
    outKept (execScrubRead addr r passEnds s) s₀ := by
  obtain ⟨k₁, k₂, k₃⟩ := keep
  unfold execScrubRead
  (repeat' split) <;> simp_all [Keeps, foldl_keeps, foldl_keeps₁, foldl_keeps₂]
@[simp] theorem execRefresh_kept (ch : BitVec 9) (u_bank : BitVec 4) (shortened : Bool) (s : State) (s₀ : State) (keep : Keeps s s₀) :
    outKept (execRefresh ch u_bank shortened s) s₀ := by
  obtain ⟨k₁, k₂, k₃⟩ := keep
  unfold execRefresh
  (repeat' split) <;> simp_all [Keeps, foldl_keeps, foldl_keeps₁, foldl_keeps₂]
@[simp] theorem execMainMemoryBurst_kept (ch : BitVec 9) (cls : BurstClass) (behindFetch : Bool) (addr : W64) (r : ReadRes) (s : State) (s₀ : State) (keep : Keeps s s₀) :
    outKept (execMainMemoryBurst ch cls behindFetch addr r s) s₀ := by
  obtain ⟨k₁, k₂, k₃⟩ := keep
  unfold execMainMemoryBurst
  (repeat' split) <;> simp_all [Keeps, foldl_keeps, foldl_keeps₁, foldl_keeps₂]

/-! ### Swarm -/

@[simp] theorem State.escalate_kept (s : State) (d : Domain) :
    Keeps (State.escalate s d) s := by
  simp [Keeps, State.escalate]
@[simp] theorem State.hang_kept (s : State) (ids : List Nat) :
    Keeps (State.hang s ids) s := by
  unfold State.hang
  (repeat' split) <;> grind [outKept, foldl_keeps, foldl_keeps₁, foldl_keeps₂, State.count64_kept, State.setFlag_kept, State.takeCrumb_kept, State.domainEvent_kept, State.beginRecovery_kept, State.takeCrumb_keptp]
@[simp] theorem State.escStep_kept (s : State) (now : Nat) (hung : List (List Nat)) (e : Escalation) :
    Keeps (State.escStep s now hung e) s := by
  unfold State.escStep
  (repeat' split) <;> simp [Keeps]
@[simp] theorem State.hungReplays_kept (s : State) (hung : List (List Nat)) :
    Keeps (State.hungReplays s hung) s := by
  unfold State.hungReplays
  (repeat' split) <;> grind [outKept, foldl_keeps, foldl_keeps₁, foldl_keeps₂, State.replayEnds_kept]
@[simp] theorem execSwarmScan_kept (s : State) (s₀ : State) (keep : Keeps s s₀) :
    outKept (execSwarmScan s) s₀ := by
  obtain ⟨k₁, k₂, k₃⟩ := keep
  unfold execSwarmScan
  (repeat' split) <;> simp_all [Keeps, foldl_keeps, foldl_keeps₁, foldl_keeps₂]

/-! ### Recovery -/

@[simp] theorem execRecoveryDrainStart_kept (d : Domain) (s : State) (s₀ : State) (keep : Keeps s s₀) :
    outKept (execRecoveryDrainStart d s) s₀ := by
  obtain ⟨k₁, k₂, k₃⟩ := keep
  unfold execRecoveryDrainStart
  (repeat' split) <;> simp_all [Keeps, foldl_keeps, foldl_keeps₁, foldl_keeps₂]
@[simp] theorem execRecoveryDrainEnd_kept (d : Domain) (s : State) (s₀ : State) (keep : Keeps s s₀) :
    outKept (execRecoveryDrainEnd d s) s₀ := by
  obtain ⟨k₁, k₂, k₃⟩ := keep
  unfold execRecoveryDrainEnd
  (repeat' split) <;> simp_all [Keeps, foldl_keeps, foldl_keeps₁, foldl_keeps₂]
@[simp] theorem execResetEnd_kept (d : Domain) (s : State) (s₀ : State) (keep : Keeps s s₀) :
    outKept (execResetEnd d s) s₀ := by
  obtain ⟨k₁, k₂, k₃⟩ := keep
  unfold execResetEnd
  (repeat' split) <;> simp_all [Keeps, foldl_keeps, foldl_keeps₁, foldl_keeps₂]
@[simp] theorem execMsTrainingComplete_kept (t : TrainEnd) (s : State) (s₀ : State) (keep : Keeps s s₀) :
    outKept (execMsTrainingComplete t s) s₀ := by
  obtain ⟨k₁, k₂, k₃⟩ := keep
  unfold execMsTrainingComplete
  (repeat' split) <;> grind [outKept, foldl_keeps, foldl_keeps₁, foldl_keeps₂, State.msTrained_kept, State.msFailed_kept, State.setFnState_kept, State.restartDomain_kept]
@[simp] theorem State.beginReplay_kept (s : State) (c x : Nat) (r : Recovery) :
    Keeps (State.beginReplay s c x r) s := by
  unfold State.beginReplay
  (repeat' split) <;> grind [outKept, foldl_keeps, foldl_keeps₁, foldl_keeps₂, State.resetCoreUnits_kept, State.updRec_kept, State.updCtx_kept, State.replayEnds_kept]
@[simp] theorem execCoreIsolatedReplay_kept (c : BitVec 7) (s : State) (s₀ : State) (keep : Keeps s s₀) :
    outKept (execCoreIsolatedReplay c s) s₀ := by
  obtain ⟨k₁, k₂, k₃⟩ := keep
  unfold execCoreIsolatedReplay
  (repeat' split) <;> simp_all [Keeps, foldl_keeps, foldl_keeps₁, foldl_keeps₂]
@[simp] theorem execReplayLimit_kept (c : BitVec 7) (s : State) (s₀ : State) (keep : Keeps s s₀) :
    outKept (execReplayLimit c s) s₀ := by
  obtain ⟨k₁, k₂, k₃⟩ := keep
  unfold execReplayLimit
  (repeat' split) <;> simp_all [Keeps, foldl_keeps, foldl_keeps₁, foldl_keeps₂]
@[simp] theorem State.crumbDone_kept (s : State) (j : CrumbJob) :
    Keeps (State.crumbDone s j) s := by
  unfold State.crumbDone
  (repeat' split) <;> simp [Keeps]
@[simp] theorem execCrumbBlockRead_kept (r : CrumbRead) (s : State) (s₀ : State) (keep : Keeps s s₀) :
    outKept (execCrumbBlockRead r s) s₀ := by
  obtain ⟨k₁, k₂, k₃⟩ := keep
  unfold execCrumbBlockRead
  (repeat' split) <;> simp_all [Keeps, foldl_keeps, foldl_keeps₁, foldl_keeps₂]
@[simp] theorem execHeartbeat_kept (s : State) (s₀ : State) (keep : Keeps s s₀) :
    outKept (execHeartbeat s) s₀ := by
  obtain ⟨k₁, k₂, k₃⟩ := keep
  unfold execHeartbeat
  (repeat' split) <;> simp_all [Keeps, Store.used]
@[simp] theorem execTakeover_kept (why : TakeoverWhy) (s : State) (s₀ : State) (keep : Keeps s s₀) :
    outKept (execTakeover why s) s₀ := by
  obtain ⟨k₁, k₂, k₃⟩ := keep
  unfold execTakeover
  (repeat' split) <;> simp_all [Keeps, foldl_keeps, foldl_keeps₁, foldl_keeps₂]
@[simp] theorem State.squelchAll_kept (s : State) :
    Keeps (State.squelchAll s) s := by
  unfold State.squelchAll
  (repeat' split) <;> simp_all [Keeps, foldl_keeps, foldl_keeps₁, foldl_keeps₂]
@[simp] theorem execHeartbeatLossSilence_kept (s : State) (s₀ : State) (keep : Keeps s s₀) :
    outKept (execHeartbeatLossSilence s) s₀ := by
  obtain ⟨k₁, k₂, k₃⟩ := keep
  unfold execHeartbeatLossSilence
  (repeat' split) <;> simp_all [Keeps, foldl_keeps, foldl_keeps₁, foldl_keeps₂]

/-! ### Startup -/

theorem State.coldState_kept (s : State) :
    Moves (State.coldState s) s := by
  refine ⟨rfl, fun h => h.none⟩
theorem execPowerGood_kept (s : State) (s₀ : State) (keep : Moves s s₀) :
    outMoves (execPowerGood s) s₀ := by
  obtain ⟨k₁, k₂⟩ := keep
  unfold execPowerGood
  split
  · exact ⟨k₁, k₂⟩
  · exact ⟨k₁, fun h => (k₂ h).none⟩
@[simp] theorem execPwrEnRise_kept (s : State) (s₀ : State) (keep : Keeps s s₀) :
    outKept (execPwrEnRise s) s₀ := by
  obtain ⟨k₁, k₂, k₃⟩ := keep
  unfold execPwrEnRise
  (repeat' split) <;> simp_all [Keeps, Store.used]
theorem execPwrEnFall_kept (s : State) (s₀ : State) (keep : Moves s s₀) :
    outMoves (execPwrEnFall s) s₀ := by
  obtain ⟨k₁, k₂⟩ := keep
  exact ⟨k₁, fun h => (k₂ h).none⟩
theorem State.inputStop_kept (s : State) (cut : Bool) :
    Moves (State.inputStop s cut) s := by
  unfold State.inputStop
  split
  · exact ⟨rfl, id⟩
  · exact ⟨rfl, fun h => h.none⟩
theorem execInputUndervoltage_kept (s : State) (s₀ : State) (keep : Moves s s₀) :
    outMoves (execInputUndervoltage s) s₀ := by
  obtain ⟨k₁, k₂⟩ := keep
  exact (State.inputStop_kept _ _).trans ⟨k₁, k₂⟩
theorem execInputOvervoltage_kept (s : State) (s₀ : State) (keep : Moves s s₀) :
    outMoves (execInputOvervoltage s) s₀ := by
  obtain ⟨k₁, k₂⟩ := keep
  exact (State.inputStop_kept _ _).trans ⟨k₁, k₂⟩
@[simp] theorem execRootPllLock_kept (s : State) (s₀ : State) (keep : Keeps s s₀) :
    outKept (execRootPllLock s) s₀ := by
  obtain ⟨k₁, k₂, k₃⟩ := keep
  unfold execRootPllLock
  (repeat' split) <;> simp_all [Keeps, Store.used]
@[simp] theorem execRootOfTrustSelftest_kept (die0 die1 entropy : Bool) (s : State) (s₀ : State) (keep : Keeps s s₀) :
    outKept (execRootOfTrustSelftest die0 die1 entropy s) s₀ := by
  obtain ⟨k₁, k₂, k₃⟩ := keep
  unfold execRootOfTrustSelftest
  (repeat' split) <;> simp_all [Keeps, foldl_keeps, foldl_keeps₁, foldl_keeps₂]
@[simp] theorem execFirmwareVerify_kept (s : State) (s₀ : State) (keep : Keeps s s₀) :
    outKept (execFirmwareVerify s) s₀ := by
  obtain ⟨k₁, k₂, k₃⟩ := keep
  unfold execFirmwareVerify
  (repeat' split) <;> simp_all [Keeps, Store.used]
@[simp] theorem State.seedAll_kept (s : State) :
    Keeps (State.seedAll s) s := by
  unfold State.seedAll
  (repeat' split) <;> simp_all [Keeps, foldl_keeps, foldl_keeps₁, foldl_keeps₂]
@[simp] theorem State.absentEngine_kept (s : State) (e : Nat) :
    Keeps (State.absentEngine s e) s := by
  simp [Keeps, State.absentEngine]
@[simp] theorem execPackageBringup_kept (engines : List EngineReport) (s : State) (s₀ : State) (keep : Keeps s s₀) :
    outKept (execPackageBringup engines s) s₀ := by
  obtain ⟨k₁, k₂, k₃⟩ := keep
  unfold execPackageBringup
  (repeat' split) <;> simp_all [Keeps, foldl_keeps, foldl_keeps₁, foldl_keeps₂]
@[simp] theorem execHostPortStart_kept (s : State) (s₀ : State) (keep : Keeps s s₀) :
    outKept (execHostPortStart s) s₀ := by
  obtain ⟨k₁, k₂, k₃⟩ := keep
  unfold execHostPortStart
  (repeat' split) <;> simp_all [Keeps, foldl_keeps, foldl_keeps₁, foldl_keeps₂]
@[simp] theorem execClockLost_kept (s : State) (s₀ : State) (keep : Keeps s s₀) :
    outKept (execClockLost s) s₀ := by
  obtain ⟨k₁, k₂, k₃⟩ := keep
  unfold execClockLost
  (repeat' split) <;> simp_all [Keeps, foldl_keeps, foldl_keeps₁, foldl_keeps₂]
@[simp] theorem execRootPllRelock_kept (s : State) (s₀ : State) (keep : Keeps s s₀) :
    outKept (execRootPllRelock s) s₀ := by
  obtain ⟨k₁, k₂, k₃⟩ := keep
  unfold execRootPllRelock
  (repeat' split) <;> simp_all [Keeps, foldl_keeps, foldl_keeps₁, foldl_keeps₂]

/-! ### Power -/

@[simp] theorem State.takeSlack_kept (s : State) (slack : Nat) :
    Keeps (State.takeSlack s slack) s := by
  unfold State.takeSlack
  (repeat' split) <;> simp_all [Keeps, foldl_keeps, foldl_keeps₁, foldl_keeps₂]
@[simp] theorem State.measured_kept (s : State) (r : PowerRead) :
    Keeps (State.measured s r) s := by
  simp [Keeps, State.measured]
@[simp] theorem State.noteUnmet_kept (s : State) (exceeds : Bool) (slack : Nat) :
    Keeps (State.noteUnmet s exceeds slack) s := by
  simp [Keeps, State.noteUnmet]
@[simp] theorem execPmControlWindow_kept (r : PowerRead) (s : State) (s₀ : State) (keep : Keeps s s₀) :
    outKept (execPmControlWindow r s) s₀ := by
  obtain ⟨k₁, k₂, k₃⟩ := keep
  unfold execPmControlWindow
  (repeat' split) <;> simp_all [Keeps, foldl_keeps, foldl_keeps₁, foldl_keeps₂]
@[simp] theorem execThermalLimitBegin_kept (s : State) (s₀ : State) (keep : Keeps s s₀) :
    outKept (execThermalLimitBegin s) s₀ := by
  obtain ⟨k₁, k₂, k₃⟩ := keep
  unfold execThermalLimitBegin
  (repeat' split) <;> simp_all [Keeps, foldl_keeps, foldl_keeps₁, foldl_keeps₂]
@[simp] theorem execThermalLimitEnd_kept (s : State) (s₀ : State) (keep : Keeps s s₀) :
    outKept (execThermalLimitEnd s) s₀ := by
  obtain ⟨k₁, k₂, k₃⟩ := keep
  unfold execThermalLimitEnd
  (repeat' split) <;> simp_all [Keeps, foldl_keeps, foldl_keeps₁, foldl_keeps₂]
@[simp] theorem State.setBrake_kept (s : State) (brake leak : Bool) :
    Keeps (State.setBrake s brake leak) s := by
  simp [Keeps, State.setBrake]
@[simp] theorem execBrakeChange_kept (low : Bool) (s : State) (s₀ : State) (keep : Keeps s s₀) :
    outKept (execBrakeChange low s) s₀ := by
  obtain ⟨k₁, k₂, k₃⟩ := keep
  unfold execBrakeChange
  (repeat' split) <;> simp_all [Keeps, foldl_keeps, foldl_keeps₁, foldl_keeps₂]
@[simp] theorem execLeak_kept (s : State) (s₀ : State) (keep : Keeps s s₀) :
    outKept (execLeak s) s₀ := by
  obtain ⟨k₁, k₂, k₃⟩ := keep
  unfold execLeak
  (repeat' split) <;> simp_all [Keeps, foldl_keeps, foldl_keeps₁, foldl_keeps₂]
@[simp] theorem execLeakClear_kept (s : State) (s₀ : State) (keep : Keeps s s₀) :
    outKept (execLeakClear s) s₀ := by
  obtain ⟨k₁, k₂, k₃⟩ := keep
  unfold execLeakClear
  (repeat' split) <;> simp_all [Keeps, foldl_keeps, foldl_keeps₁, foldl_keeps₂]
theorem execThermalTrip_kept (s : State) (s₀ : State) (keep : Moves s s₀) :
    outMoves (execThermalTrip s) s₀ := by
  obtain ⟨k₁, k₂⟩ := keep
  unfold execThermalTrip
  split
  · exact ⟨k₁, k₂⟩
  · exact ⟨k₁, k₂⟩

/-! ### Tick -/

@[simp] theorem State.ccIf_kept (s : State) (c : Bool) (blk inst off : Nat) :
    Keeps (State.ccIf s c blk inst off) s := by
  simp [Keeps, State.ccIf]
@[simp] theorem State.portCc_kept (s : State) :
    Keeps (State.portCc s) s := by
  unfold State.portCc
  (repeat' split) <;> simp_all [Keeps, foldl_keeps, foldl_keeps₁, foldl_keeps₂]
@[simp] theorem State.hiveCc_kept (s : State) :
    Keeps (State.hiveCc s) s := by
  unfold State.hiveCc
  (repeat' split) <;> simp_all [Keeps, foldl_keeps, foldl_keeps₁, foldl_keeps₂]
@[simp] theorem State.isolateCc_kept (s : State) :
    Keeps (State.isolateCc s) s := by
  unfold State.isolateCc
  (repeat' split) <;> simp_all [Keeps, foldl_keeps, foldl_keeps₁, foldl_keeps₂]
@[simp] theorem State.engineCc_kept (s : State) :
    Keeps (State.engineCc s) s := by
  unfold State.engineCc
  (repeat' split) <;> simp_all [Keeps, foldl_keeps, foldl_keeps₁, foldl_keeps₂]
@[simp] theorem State.moduleCc_kept (s : State) :
    Keeps (State.moduleCc s) s := by
  simp [Keeps, State.moduleCc]
@[simp] theorem State.tick_kept (s : State) :
    Keeps (State.tick s) s := by
  simp [Keeps, State.tick]

end Sys2Proof.Machine
end

