-- ==== Sys2Proof/Laws/Table.lean ====
section
/-! SUPPORT. Laws of sparse tables: reading what was written, leaving the rest alone, and the canonical form. -/

namespace Sys2Proof.Machine

variable {α : Type}

@[simp] theorem Tbl.get_put_same (d v : α) (t : Tbl α) (k : Nat) : Tbl.get d (Tbl.put t k v) k = v := by
  induction t with
  | nil => simp [Tbl.put, Tbl.get]
  | cons p t ih =>
    obtain ⟨a, w⟩ := p
    simp only [Tbl.put]
    split
    · simp [Tbl.get]
    · split
      · simp [Tbl.get]
      · rename_i h; simp [Tbl.get, h, ih]

theorem Tbl.get_put_ne (d v : α) (t : Tbl α) {k j : Nat} (h : j ≠ k) : Tbl.get d (Tbl.put t k v) j = Tbl.get d t j := by
  induction t with
  | nil => simp [Tbl.put, Tbl.get, Ne.symm h]
  | cons p t ih =>
    obtain ⟨a, w⟩ := p
    simp only [Tbl.put]
    split
    · simp [Tbl.get, Ne.symm h]
    · split
      · rename_i h2; subst h2; simp [Tbl.get, Ne.symm h]
      · by_cases hj : a = j <;> simp [Tbl.get, hj, ih]

@[simp] theorem Tbl.get_erase_same (d : α) (t : Tbl α) (k : Nat) : Tbl.get d (Tbl.erase t k) k = d := by
  induction t with
  | nil => rfl
  | cons p t ih =>
    obtain ⟨a, w⟩ := p
    by_cases ha : a = k <;> simp [Tbl.erase, Tbl.get, ha, ih]

theorem Tbl.get_erase_ne (d : α) (t : Tbl α) {k j : Nat} (h : j ≠ k) : Tbl.get d (Tbl.erase t k) j = Tbl.get d t j := by
  induction t with
  | nil => rfl
  | cons p t ih =>
    obtain ⟨a, w⟩ := p
    by_cases ha : a = k
    · subst ha; simp [Tbl.erase, Tbl.get, Ne.symm h, ih]
    · by_cases hj : a = j
      · subst hj; simp [Tbl.erase, Tbl.get, ha]
      · simp [Tbl.erase, Tbl.get, ha, hj, ih]

section
variable [DecidableEq α]

/-- Reading what was just written. -/
@[simp] theorem Tbl.get_set_same (d v : α) (t : Tbl α) (k : Nat) : Tbl.get d (Tbl.set d t k v) k = v := by
  unfold Tbl.set
  split
  · rename_i hv; rw [hv]; exact Tbl.get_erase_same d t k
  · simp

/-- A write leaves every other key alone. -/
@[simp] theorem Tbl.get_set_ne (d d' v : α) (t : Tbl α) {k j : Nat} (h : j ≠ k) : Tbl.get d (Tbl.set d' t k v) j = Tbl.get d t j := by
  unfold Tbl.set
  split
  · exact Tbl.get_erase_ne d t h
  · exact Tbl.get_put_ne d v t h

theorem Tbl.wfFrom_mono {d : Nat → α} {lo lo' : Nat} {t : Tbl α} (h : Tbl.wfFrom d lo t = true) (hl : lo' ≤ lo) :
    Tbl.wfFrom d lo' t = true := by
  cases t with
  | nil => rfl
  | cons p t =>
    obtain ⟨a, v⟩ := p
    simp only [Tbl.wfFrom, Bool.and_eq_true, decide_eq_true_eq] at h ⊢
    exact ⟨⟨Nat.le_trans hl h.1.1, h.1.2⟩, h.2⟩

theorem Tbl.wfFrom_put {d : Nat → α} {v : α} {k : Nat} (hv : v ≠ d k) {lo : Nat} {t : Tbl α} (h : Tbl.wfFrom d lo t = true)
    (hk : lo ≤ k) : Tbl.wfFrom d lo (Tbl.put t k v) = true := by
  induction t generalizing lo with
  | nil => simp [Tbl.put, Tbl.wfFrom, hk, hv]
  | cons p t ih =>
    obtain ⟨a, w⟩ := p
    simp only [Tbl.wfFrom, Bool.and_eq_true, decide_eq_true_eq] at h
    simp only [Tbl.put]
    split
    · rename_i hlt
      simp only [Tbl.wfFrom, Bool.and_eq_true, decide_eq_true_eq]
      exact ⟨⟨hk, hv⟩, ⟨by omega, h.1.2⟩, h.2⟩
    · split
      · rename_i heq; subst heq
        simp only [Tbl.wfFrom, Bool.and_eq_true, decide_eq_true_eq]
        exact ⟨⟨hk, hv⟩, h.2⟩
      · simp only [Tbl.wfFrom, Bool.and_eq_true, decide_eq_true_eq]
        exact ⟨h.1, ih h.2 (by omega)⟩

theorem Tbl.wfFrom_erase {d : Nat → α} {k lo : Nat} {t : Tbl α} (h : Tbl.wfFrom d lo t = true) :
    Tbl.wfFrom d lo (Tbl.erase t k) = true := by
  induction t generalizing lo with
  | nil => rfl
  | cons p t ih =>
    obtain ⟨a, w⟩ := p
    simp only [Tbl.wfFrom, Bool.and_eq_true, decide_eq_true_eq] at h
    simp only [Tbl.erase]
    split
    · exact Tbl.wfFrom_mono (ih h.2) (by omega)
    · simp only [Tbl.wfFrom, Bool.and_eq_true, decide_eq_true_eq]
      exact ⟨h.1, ih h.2⟩

theorem Tbl.wfFrom_filter {d : Nat → α} {p : Nat × α → Bool} {lo : Nat} {t : Tbl α} (h : Tbl.wfFrom d lo t = true) :
    Tbl.wfFrom d lo (t.filter p) = true := by
  induction t generalizing lo with
  | nil => rfl
  | cons q t ih =>
    obtain ⟨a, w⟩ := q
    simp only [Tbl.wfFrom, Bool.and_eq_true, decide_eq_true_eq] at h
    simp only [List.filter]
    split
    · simp only [Tbl.wfFrom, Bool.and_eq_true, decide_eq_true_eq]
      exact ⟨h.1, ih h.2⟩
    · exact Tbl.wfFrom_mono (ih h.2) (by omega)

/-- A write keeps the canonical form. -/
theorem Tbl.wf_set {d v : α} {t : Tbl α} {k : Nat} (h : Tbl.wf d t = true) : Tbl.wf d (Tbl.set d t k v) = true := by
  unfold Tbl.set Tbl.wf
  split
  · exact Tbl.wfFrom_erase h
  · rename_i hv; exact Tbl.wfFrom_put hv h (Nat.zero_le _)

end

end Sys2Proof.Machine
end

