-- ==== Sys2Proof/Laws/Memory.lean ====
section
/-! SUPPORT. Laws of memory (R51, R270): what a byte reads as after a write, what a write leaves alone, and the canonical form, which every
memory operation keeps and which the memory after reset has. -/

namespace Sys2Proof.Machine

theorem byte_setByte (s : State) (a j : Nat) (b : Byte) : (s.setByte a b).byte j = if j = a then b else s.byte j := by
  unfold State.setByte State.byte
  split
  · rename_i h
    simp [h]
  · rename_i h
    simp [h]

/-- A byte after a write of bytes from `a` upwards. -/
theorem byte_writeBytes (s : State) (a j : Nat) (bs : List Byte) :
    (s.writeBytes a bs).byte j = if a ≤ j ∧ j < a + bs.length then bs.getD (j - a) 0 else s.byte j := by
  induction bs generalizing s a with
  | nil =>
    have h : ¬ (a ≤ j ∧ j < a + ([] : List Byte).length) := by
      simp only [List.length_nil]
      omega
    rw [if_neg h]
    rfl
  | cons b bs ih =>
    show ((s.setByte a b).writeBytes (a + 1) bs).byte j = _
    rw [ih, byte_setByte]
    by_cases h1 : j = a
    · subst h1
      simp
    · by_cases h4 : a + 1 ≤ j ∧ j < a + 1 + bs.length
      · have h5 : a ≤ j ∧ j < a + (b :: bs).length := by simp; omega
        obtain ⟨d, hd⟩ : ∃ d, j - a = d + 1 := ⟨j - a - 1, by omega⟩
        have h6 : j - (a + 1) = d := by omega
        rw [if_pos h4, if_pos h5, hd, h6]
        rfl
      · have h5 : ¬ (a ≤ j ∧ j < a + (b :: bs).length) := by simp; omega
        rw [if_neg h4, if_neg h5, if_neg h1]

@[simp] theorem byte_clearUe (s : State) (a n j : Nat) : (s.clearUe a n).byte j = s.byte j := rfl

/-- A byte after a write. -/
theorem byte_writeMem (s : State) (a j : Nat) (bs : List Byte) :
    (s.writeMem a bs).byte j = if a ≤ j ∧ j < a + bs.length then bs.getD (j - a) 0 else s.byte j := byte_writeBytes s a j bs

/-- What is read depends on the bytes only. -/
theorem readMem_congr {s t : State} {a n : Nat} (h : ∀ j, a ≤ j → j < a + n → s.byte j = t.byte j) : s.readMem a n = t.readMem a n := by
  induction n generalizing a with
  | zero => rfl
  | succ n ih =>
    show s.byte a :: s.readMem (a + 1) n = t.byte a :: t.readMem (a + 1) n
    rw [h a (Nat.le_refl a) (by omega), ih (fun j h1 h2 => h j (by omega) (by omega))]

/-- Reading back what was written. -/
theorem readMem_writeMem (s : State) (a : Nat) (bs : List Byte) : (s.writeMem a bs).readMem a bs.length = bs := by
  have key : ∀ (t : State) (bs : List Byte) (a : Nat), (∀ j, a ≤ j → j < a + bs.length → t.byte j = bs.getD (j - a) 0) →
      t.readMem a bs.length = bs := by
    intro t bs
    induction bs with
    | nil => intros; rfl
    | cons b bs ih =>
      intro a h
      show t.byte a :: t.readMem (a + 1) bs.length = b :: bs
      rw [ih (a + 1) (fun j h1 h2 => ?_)]
      · rw [h a (Nat.le_refl a) (by simp)]
        simp
      · rw [h j (by omega) (by simp; omega)]
        obtain ⟨d, hd⟩ : ∃ d, j - a = d + 1 := ⟨j - a - 1, by omega⟩
        have h6 : j - (a + 1) = d := by omega
        rw [hd, h6]
        rfl
  exact key _ _ _ (fun j h1 h2 => by rw [byte_writeMem, if_pos ⟨h1, h2⟩])

/-- Reading a part of what was written. -/
theorem readMem_writeMem_part (s : State) (a : Nat) (bs : List Byte) {k n : Nat} (h : k + n ≤ bs.length) :
    (s.writeMem a bs).readMem (a + k) n = (bs.drop k).take n := by
  induction n generalizing k with
  | zero => simp [State.readMem]
  | succ n ih =>
    show (s.writeMem a bs).byte (a + k) :: (s.writeMem a bs).readMem (a + k + 1) n = _
    have hk : k < bs.length := by omega
    rw [Nat.add_assoc, ih (by omega), byte_writeMem, if_pos ⟨by omega, by omega⟩, List.drop_eq_getElem_cons hk, List.take_succ_cons]
    congr 1
    have e : a + k - a = k := by omega
    rw [e, List.getD_eq_getElem _ _ hk]

theorem leBytes_length (n v : Nat) : (leBytes n v).length = n := by
  induction n generalizing v with
  | zero => rfl
  | succ n ih => simp [leBytes, ih]

theorem leNat_leBytes (n v : Nat) : leNat (leBytes n v) = v % 256 ^ n := by
  induction n generalizing v with
  | zero => simp [leBytes, leNat, Nat.mod_one]
  | succ n ih =>
    show (BitVec.ofNat 8 v).toNat + 256 * leNat (leBytes n (v / 256)) = _
    rw [ih, pow_succ, mul_comm (256 ^ n) 256, Nat.mod_mul, BitVec.toNat_ofNat]

/-- Reading back a number that was written. -/
theorem readNat_writeNat (s : State) (a n v : Nat) : (s.writeNat a n v).readNat a n = v % 256 ^ n := by
  have h := readMem_writeMem s a (leBytes n v)
  rw [leBytes_length] at h
  unfold State.readNat State.writeNat
  rw [h, leNat_leBytes]

/-- A write changes memory and the words and granules in error alone. -/
theorem writeBytes_frame (s : State) (a : Nat) (bs : List Byte) : s.writeBytes a bs = { s with mem := (s.writeBytes a bs).mem } := by
  induction bs generalizing s a with
  | nil => rfl
  | cons b bs ih =>
    show (s.setByte a b).writeBytes (a + 1) bs = { s with mem := ((s.setByte a b).writeBytes (a + 1) bs).mem }
    rw [ih]
    rfl

theorem writeMem_frame (s : State) (a : Nat) (bs : List Byte) :
    s.writeMem a bs = { s with mem := (s.writeMem a bs).mem, ue := (s.writeMem a bs).ue, sce := (s.writeMem a bs).sce } := by
  have h := writeBytes_frame s a bs
  unfold State.writeMem State.clearUe
  rw [h]

/-- Whether an access is served depends on the control registers and the state of the memory-port dies alone (R52, R270, R296). -/
theorem accessReason_congr {s t : State} (h1 : t.ctl = s.ctl) (h2 : t.dieSt = s.dieSt) (a n : Nat) : t.accessReason a n = s.accessReason a n := by
  have hw : ∀ b i o, t.word b i o = s.word b i o := fun b i o => by unfold State.word; rw [h1]
  have hf : ∀ b i o h l, t.fld b i o h l = s.fld b i o h l := fun b i o h l => by unfold State.fld; rw [hw]
  have hd : ∀ o, t.dieOf o = s.dieOf o := fun o => by unfold State.dieOf State.spread; rw [hf]
  have he : ∀ m, t.die m = s.die m := fun m => by unfold State.die; rw [h2]
  have hr : ∀ n o, t.dieRefusal o n = s.dieRefusal o n := by
    intro n
    induction n with
    | zero => intro o; rfl
    | succ n ih =>
      intro o
      unfold State.dieRefusal
      rw [hd, he, ih]
  have hh : t.dieHolds a n = s.dieHolds a n := by unfold State.dieHolds; rw [hr, h2]
  unfold State.accessReason State.storeRefusal
  simp only [hf, hr, hh]

theorem wf_setByte {s : State} (a : Nat) (b : Byte) (h : Memory.wf s.mem = true) : Memory.wf (s.setByte a b).mem = true :=
  Tbl.wf_set h

theorem wf_writeBytes {s : State} (a : Nat) (bs : List Byte) (h : Memory.wf s.mem = true) : Memory.wf (s.writeBytes a bs).mem = true := by
  induction bs generalizing s a with
  | nil => exact h
  | cons b bs ih => exact ih (a + 1) (wf_setByte a b h)

theorem wf_writeMem {s : State} (a : Nat) (bs : List Byte) (h : Memory.wf s.mem = true) : Memory.wf (s.writeMem a bs).mem = true :=
  wf_writeBytes a bs h

theorem wf_writeNat {s : State} (a n v : Nat) (h : Memory.wf s.mem = true) : Memory.wf (s.writeNat a n v).mem = true :=
  wf_writeMem a _ h

theorem wf_reset : Memory.wf State.reset.mem = true := rfl

end Sys2Proof.Machine
end

