-- ==== Sys2Proof/Laws/Registers.lean ====
section
/-! SUPPORT. Laws of the register words: a word, a field or a 64-bit counter after it is written, and every other word left alone. -/

namespace Sys2Proof.Machine

/-! ### Only register words change -/

/-- `t` is `s` but for its register words. -/
def OnlyCtl (t s : State) : Prop := t = { s with ctl := t.ctl }

theorem OnlyCtl.refl (s : State) : OnlyCtl s s := rfl
theorem OnlyCtl.trans {a b c : State} (h : OnlyCtl a b) (k : OnlyCtl b c) : OnlyCtl a c := by
  unfold OnlyCtl at *
  rw [h, k]

theorem setWord_onlyCtl (s : State) (b i o : Nat) (v : W32) : OnlyCtl (s.setWord b i o v) s := rfl
theorem setFld_onlyCtl (s : State) (b i o h l v : Nat) : OnlyCtl (s.setFld b i o h l v) s := rfl
theorem setWord64_onlyCtl (s : State) (b i o v : Nat) : OnlyCtl (s.setWord64 b i o v) s := rfl
theorem count64_onlyCtl (s : State) (b i o n : Nat) : OnlyCtl (s.count64 b i o n) s := by
  unfold State.count64
  split <;> rfl
theorem count32_onlyCtl (s : State) (b i o n : Nat) : OnlyCtl (s.count32 b i o n) s := by
  unfold State.count32
  split <;> rfl
theorem setFlag_onlyCtl (s : State) (b i o n : Nat) : OnlyCtl (s.setFlag b i o n) s :=
  (count32_onlyCtl _ _ _ _ _).trans (setFld_onlyCtl _ _ _ _ _ _ _)
theorem setFlagN_onlyCtl (s : State) (n b i o k : Nat) : OnlyCtl (s.setFlagN n b i o k) s := by
  unfold State.setFlagN
  split
  · rfl
  · exact (count32_onlyCtl _ _ _ _ _).trans (setFld_onlyCtl _ _ _ _ _ _ _)
theorem setFlagIf_onlyCtl (s : State) (c : Bool) (b i o n : Nat) : OnlyCtl (s.setFlagIf c b i o n) s := by
  unfold State.setFlagIf
  split
  · exact setFlag_onlyCtl _ _ _ _ _
  · rfl
theorem setFnState_onlyCtl (s : State) (f : Fn) (st : Nat) : OnlyCtl (s.setFnState f st) s := rfl
theorem setFnReason_onlyCtl (s : State) (f : Fn) (r : Nat) : OnlyCtl (s.setFnReason f r) s := rfl
theorem foldl_onlyCtl {α : Type} {g : State → α → State} (h : ∀ s a, OnlyCtl (g s a) s) (l : List α) (s : State) :
    OnlyCtl (l.foldl g s) s := by
  induction l generalizing s with
  | nil => exact .refl s
  | cons a l ih => exact (ih (g s a)).trans (h s a)

/-! ### Words -/

@[simp] theorem word_setWord_same (s : State) (b i o : Nat) (v : W32) : (s.setWord b i o v).word b i o = v := by
  simp [State.setWord, State.word]

/-- A word at another key is unchanged. -/
theorem word_setWord_key (s : State) {b i o b' i' o' : Nat} (v : W32) (h : ctlKey b' i' o' ≠ ctlKey b i o) :
    (s.setWord b i o v).word b' i' o' = s.word b' i' o' := by
  simp [State.setWord, State.word, h]

/-- A word of another block, of another of its numbers or at another offset is unchanged (R51). -/
theorem word_setWord_ne (s : State) {b i o b' i' o' : Nat} (v : W32) (hi : i < 4096) (hi' : i' < 4096) (ho : o < 65536) (ho' : o' < 65536)
    (h : ¬ (b' = b ∧ i' = i ∧ o' = o)) : (s.setWord b i o v).word b' i' o' = s.word b' i' o' := by
  apply word_setWord_key
  unfold ctlKey
  omega

theorem word_ctl (s t : State) (h : t.ctl = s.ctl) (b i o : Nat) : t.word b i o = s.word b i o := by unfold State.word; rw [h]
theorem fld_ctl (s t : State) (h : t.ctl = s.ctl) (b i o hi lo : Nat) : t.fld b i o hi lo = s.fld b i o hi lo := by
  unfold State.fld
  rw [word_ctl s t h]

/-! ### Fields -/

theorem setBits_lt {v hi lo x : Nat} (hv : v < 2 ^ 32) (hh : hi < 32) (hl : lo ≤ hi) : setBits v hi lo x < 2 ^ 32 := by
  obtain ⟨w, rfl⟩ : ∃ w, hi = lo + w := ⟨hi - lo, by omega⟩
  have e1 : lo + w + 1 - lo = w + 1 := by omega
  have e2 : 2 ^ 32 = 2 ^ lo * (2 ^ (w + 1) * 2 ^ (31 - (lo + w))) := by
    rw [← pow_add, ← pow_add]
    congr 1
    omega
  have e3 : 2 ^ (lo + w + 1) = 2 ^ lo * 2 ^ (w + 1) := by rw [← pow_add]; rfl
  unfold setBits
  simp only [e1]
  rw [e2] at hv ⊢
  rw [e3]
  have ha : v % 2 ^ lo < 2 ^ lo := Nat.mod_lt _ (by positivity)
  have hb : x % 2 ^ (w + 1) < 2 ^ (w + 1) := Nat.mod_lt _ (by positivity)
  have hc : v / (2 ^ lo * 2 ^ (w + 1)) < 2 ^ (31 - (lo + w)) := by
    rw [Nat.div_lt_iff_lt_mul (by positivity)]
    calc v < 2 ^ lo * (2 ^ (w + 1) * 2 ^ (31 - (lo + w))) := hv
      _ = 2 ^ (31 - (lo + w)) * (2 ^ lo * 2 ^ (w + 1)) := by ring
  generalize v % 2 ^ lo = p at *
  generalize x % 2 ^ (w + 1) = q at *
  generalize v / (2 ^ lo * 2 ^ (w + 1)) = r at *
  generalize 2 ^ lo = A at *
  generalize 2 ^ (w + 1) = B at *
  generalize 2 ^ (31 - (lo + w)) = C at *
  have h1 : p + q * A ≤ A - 1 + (B - 1) * A := by
    have := Nat.mul_le_mul_right A (show q ≤ B - 1 by omega)
    omega
  have h2 : r * (A * B) ≤ (C - 1) * (A * B) := Nat.mul_le_mul_right _ (by omega)
  have hA : 0 < A := by omega
  have hB : 0 < B := by omega
  have hC : 0 < C := by omega
  have h3 : (B - 1) * A + A = B * A := by
    obtain ⟨B, rfl⟩ : ∃ B', B = B' + 1 := ⟨B - 1, by omega⟩
    simp [Nat.add_mul]
  have h4 : (C - 1) * (A * B) + A * B = C * (A * B) := by
    obtain ⟨C, rfl⟩ : ∃ C', C = C' + 1 := ⟨C - 1, by omega⟩
    simp [Nat.add_mul]
  have h5 : A * (B * C) = C * (A * B) := by ring
  have h6 : B * A = A * B := Nat.mul_comm _ _
  omega

theorem bitsOf_setBits_same (v x : Nat) {hi lo : Nat} (h : lo ≤ hi) : bitsOf (setBits v hi lo x) hi lo = x % 2 ^ (hi + 1 - lo) := by
  obtain ⟨w, rfl⟩ : ∃ w, hi = lo + w := ⟨hi - lo, by omega⟩
  have e1 : lo + w + 1 - lo = w + 1 := by omega
  have e3 : 2 ^ (lo + w + 1) = 2 ^ lo * 2 ^ (w + 1) := by rw [← pow_add]; rfl
  unfold bitsOf setBits
  simp only [e1]
  rw [e3]
  have e4 : v % 2 ^ lo + x % 2 ^ (w + 1) * 2 ^ lo + v / (2 ^ lo * 2 ^ (w + 1)) * (2 ^ lo * 2 ^ (w + 1))
      = v % 2 ^ lo + 2 ^ lo * (x % 2 ^ (w + 1) + 2 ^ (w + 1) * (v / (2 ^ lo * 2 ^ (w + 1)))) := by ring
  rw [e4, Nat.add_mul_div_left _ _ (by positivity), Nat.div_eq_of_lt (Nat.mod_lt _ (by positivity)), Nat.zero_add, Nat.add_mul_mod_self_left, Nat.mod_mod]

/-- A field after it is written. -/
theorem fld_setFld_same (s : State) (b i o : Nat) {hi lo : Nat} (v : Nat) (hh : hi < 32) (hl : lo ≤ hi) :
    (s.setFld b i o hi lo v).fld b i o hi lo = v % 2 ^ (hi + 1 - lo) := by
  unfold State.setFld State.fld
  rw [word_setWord_same, BitVec.toNat_ofNat, Nat.mod_eq_of_lt (setBits_lt (s.word b i o).isLt hh hl), bitsOf_setBits_same _ _ hl]

/-- A field of another word is unchanged. -/
theorem fld_setFld_key (s : State) {b i o b' i' o' : Nat} (hi lo v hi' lo' : Nat) (h : ctlKey b' i' o' ≠ ctlKey b i o) :
    (s.setFld b i o hi lo v).fld b' i' o' hi' lo' = s.fld b' i' o' hi' lo' := by
  unfold State.setFld State.fld
  rw [word_setWord_key _ _ h]

/-! ### 64-bit counters -/

theorem word64_setWord64 (s : State) (b i o v : Nat) : (s.setWord64 b i o v).word64 b i o = v % 2 ^ 64 := by
  unfold State.setWord64 State.word64
  have h : ctlKey b i o ≠ ctlKey b i (o + 4) := by unfold ctlKey; omega
  rw [word_setWord_same, word_setWord_key _ _ h, word_setWord_same, BitVec.toNat_ofNat, BitVec.toNat_ofNat]
  omega

theorem word64_lt (s : State) (b i o : Nat) : s.word64 b i o < 2 ^ 64 := by
  unfold State.word64
  have h1 := (s.word b i o).isLt
  have h2 := (s.word b i (o + 4)).isLt
  omega

/-- A 64-bit counter after an event: it holds at its maximum (R182). -/
theorem word64_count64 (s : State) (b i o n : Nat) : (s.count64 b i o n).word64 b i o = min (s.word64 b i o + n) (2 ^ 64 - 1) := by
  unfold State.count64
  split
  · rename_i h
    have := word64_lt s b i o
    subst h
    omega
  · rw [word64_setWord64]
    omega

/-- Another word is unchanged by a counted event. -/
theorem word_count64_key (s : State) {b i o b' i' o' : Nat} (n : Nat) (h : ctlKey b' i' o' ≠ ctlKey b i o)
    (h' : ctlKey b' i' o' ≠ ctlKey b i (o + 4)) : (s.count64 b i o n).word b' i' o' = s.word b' i' o' := by
  unfold State.count64
  split
  · rfl
  · unfold State.setWord64
    rw [word_setWord_key _ _ h', word_setWord_key _ _ h]

theorem word_count32_key (s : State) {b i o b' i' o' : Nat} (n : Nat) (h : ctlKey b' i' o' ≠ ctlKey b i o) :
    (s.count32 b i o n).word b' i' o' = s.word b' i' o' := by
  unfold State.count32
  split
  · rfl
  · rw [word_setWord_key _ _ h]

/-- A 32-bit counter after an event: it holds at its maximum (R17). -/
theorem word_count32_same (s : State) (b i o n : Nat) :
    ((s.count32 b i o n).word b i o).toNat = min ((s.word b i o).toNat + n) (2 ^ 32 - 1) := by
  unfold State.count32
  split
  · rename_i h
    have := (s.word b i o).isLt
    subst h
    omega
  · rw [word_setWord_same, BitVec.toNat_ofNat]
    omega

end Sys2Proof.Machine
end

