-- ==== Sys2Proof/Laws/Numeric.lean ====
section
/-! SUPPORT. What the numeric operations of a core change: memory, the register words that count and flag, and the number of the next free
value. -/

namespace Sys2Proof.Machine

/-- `t` differs from `s` in memory, register words and the next free value's number alone. -/
def NumOnly (t s : State) : Prop := t = { s with mem := t.mem, ue := t.ue, sce := t.sce, ctl := t.ctl, freeCtr := t.freeCtr }

theorem NumOnly.refl (s : State) : NumOnly s s := rfl

theorem NumOnly.trans {a b c : State} (h : NumOnly a b) (k : NumOnly b c) : NumOnly a c := by
  unfold NumOnly at *
  rw [k] at h
  rw [h]

theorem OnlyCtl.numOnly {t s : State} (h : OnlyCtl t s) : NumOnly t s := by
  unfold NumOnly OnlyCtl at *
  rw [h]

theorem foldl_numOnly {α : Type} {g : State → α → State} (h : ∀ s a, NumOnly (g s a) s) (l : List α) (s : State) : NumOnly (l.foldl g s) s := by
  induction l generalizing s with
  | nil => exact .refl s
  | cons a l ih => exact (ih _).trans (h s a)

theorem foldl_numOnly₁ {α β : Type} {g : State × β → α → State × β} (h : ∀ p a, NumOnly (g p a).1 p.1) (l : List α) (p : State × β) :
    NumOnly (l.foldl g p).1 p.1 := by
  induction l generalizing p with
  | nil => exact .refl _
  | cons a l ih => exact (ih _).trans (h p a)

theorem writeMem_numOnly (s : State) (a : Nat) (bs : List Byte) : NumOnly (s.writeMem a bs) s := by
  unfold NumOnly
  rw [writeMem_frame]

theorem writeNat_numOnly (s : State) (a n v : Nat) : NumOnly (s.writeNat a n v) s := writeMem_numOnly s a _

theorem drew_numOnly (s : State) (n : Nat) : NumOnly (s.drew n) s := rfl

theorem count64_numOnly (s : State) (b i o n : Nat) : NumOnly (s.count64 b i o n) s := (count64_onlyCtl s b i o n).numOnly
theorem setFlag_numOnly (s : State) (b i o n : Nat) : NumOnly (s.setFlag b i o n) s := (setFlag_onlyCtl s b i o n).numOnly
theorem setFlagIf_numOnly (s : State) (c : Bool) (b i o n : Nat) : NumOnly (s.setFlagIf c b i o n) s := (setFlagIf_onlyCtl s c b i o n).numOnly

theorem ueEvent_numOnly (s : State) (g k : Nat) : NumOnly (s.ueEvent g k) s := by
  unfold State.ueEvent
  split
  swap
  · exact (setFlag_numOnly _ _ _ _ _).trans (count64_numOnly _ _ _ _ _)
  refine OnlyCtl.numOnly (OnlyCtl.trans (setWord_onlyCtl _ _ _ _ _) (OnlyCtl.trans (setWord64_onlyCtl _ _ _ _ _) ?_))
  exact OnlyCtl.trans (setFlag_onlyCtl _ _ _ _ _) (count64_onlyCtl _ _ _ _ _)

theorem correct_numOnly (s : State) (ws : List Nat) : NumOnly (s.correct ws) s := by
  unfold State.correct
  split
  · exact .refl s
  · exact NumOnly.trans rfl ((setFlagN_onlyCtl _ _ _ _ _ _).numOnly.trans (count64_numOnly _ _ _ _ _))

theorem noteUe_numOnly (s : State) (a n : Nat) : NumOnly (s.noteUe a n) s :=
  (correct_numOnly _ _).trans (foldl_numOnly (fun s g => ueEvent_numOnly s g 0) _ _)

theorem readSlot_numOnly (s : State) (c i : Nat) : NumOnly (s.readSlot c i) s := noteUe_numOnly _ _ _

theorem putElem_numOnly (s : State) (d : TDesc) (i j v : Nat) : NumOnly (s.putElem d i j v) s := writeNat_numOnly _ _ _ _

theorem putRow_numOnly (s : State) (d : TDesc) (i j : Nat) (vs : List Nat) : NumOnly (s.putRow d i j vs) s := by
  induction vs generalizing s j with
  | nil => exact .refl s
  | cons v vs ih => exact (ih _ _).trans (putElem_numOnly _ _ _ _ _)

theorem convRow_numOnly (s : State) (d : TDesc) (sc rnd : Nat) (ovf : Bool) (dr : Nat → Nat) (i j : Nat) (vs : List Num) :
    NumOnly (s.convRow d sc rnd ovf dr i j vs).1 s := by
  unfold State.convRow
  split
  · exact foldl_numOnly₁ (g := fun (p : State × ConvStat) (b : Nat × List Num) =>
      let o := convertBlock d.fmt.toNat sc true rnd ovf (fun k => dr (b.1 - j + k)) b.2
      let s1 := p.1.putRow d i b.1 o.codes
      (s1.writeMem (scaleAddr d i b.1) [BitVec.ofNat 8 o.bscale], p.2.join o.stat))
      (fun p b => (writeMem_numOnly _ _ _).trans (putRow_numOnly _ _ _ _ _)) _ (s, {})
  · exact putRow_numOnly _ _ _ _ _

theorem padRow_numOnly (s : State) (d : TDesc) (i : Nat) : NumOnly (s.padRow d i) s := by
  unfold State.padRow
  dsimp only
  split
  · exact writeMem_numOnly _ _ _
  · exact .refl s

theorem convTensor_numOnly (s : State) (seed : W64) (d : TDesc) (sc rnd : Nat) (ovf : Bool) (rows : List (List Num)) :
    NumOnly (s.convTensor seed d sc rnd ovf rows).1 s := by
  unfold State.convTensor
  refine (drew_numOnly _ _).trans ?_
  exact foldl_numOnly₁ (g := fun (p : State × ConvStat) (r : List Num × Nat) =>
    let (s', st) := p.1.convRow d sc rnd ovf (fun k => s.draws seed (r.2 * d.cols.toNat + k)) r.2 0 r.1
    (s'.padRow d r.2, p.2.join st)) (fun p r => (padRow_numOnly _ _ _).trans (convRow_numOnly _ _ _ _ _ _ _ _ _)) _ (s, ({} : ConvStat))

theorem setSlotFld_numOnly (s : State) (c i h l v : Nat) : NumOnly (s.setSlotFld c i h l v) s := writeNat_numOnly _ _ _ _

theorem chooseScale_numOnly (s : State) (c : Nat) (d : TDesc) : NumOnly (s.chooseScale c d).2 s := by
  unfold State.chooseScale
  split
  · exact .refl s
  · dsimp only
    split
    · exact readSlot_numOnly _ _ _
    · exact (setSlotFld_numOnly _ _ _ _ _ _).trans (readSlot_numOnly _ _ _)

theorem choosePrepass_numOnly (s : State) (c : Nat) (d : TDesc) (a : Nat × Int) : NumOnly (s.choosePrepass c d a).2 s := by
  unfold State.choosePrepass
  extract_lets i s0 v
  have h0 : NumOnly s0 s := by
    change NumOnly (if _ then s else _) s
    split
    · exact .refl s
    · exact readSlot_numOnly _ _ _
  clear_value s0
  dsimp only
  split
  · exact h0
  · exact (setSlotFld_numOnly _ _ _ _ _ _).trans h0

theorem memCount_numOnly (s : State) (a n : Nat) : NumOnly (s.memCount a n) s := by
  unfold State.memCount
  split
  · exact .refl s
  · exact (writeNat_numOnly _ _ _ _).trans (noteUe_numOnly _ _ _)

theorem memCount64_numOnly (s : State) (a n : Nat) : NumOnly (s.memCount64 a n) s := by
  unfold State.memCount64
  split
  · exact .refl s
  · exact (writeNat_numOnly _ _ _ _).trans (noteUe_numOnly _ _ _)

theorem slotComplete_numOnly (s : State) (c : Nat) (d : TDesc) (a : Nat × Int) (st : ConvStat) (p : Bool) :
    NumOnly (s.slotComplete c d a st p) s := by
  unfold State.slotComplete
  split
  · exact .refl s
  · extract_lets i ad s0 h v s1 s2 s3 s4 s5 s6 s7 s8 s9
    have k : NumOnly s9 s :=
      (memCount_numOnly _ _ _).trans ((memCount_numOnly _ _ _).trans ((memCount_numOnly _ _ _).trans ((memCount_numOnly _ _ _).trans
        ((setSlotFld_numOnly _ _ _ _ _ _).trans ((setSlotFld_numOnly _ _ _ _ _ _).trans ((setSlotFld_numOnly _ _ _ _ _ _).trans
          ((setSlotFld_numOnly _ _ _ _ _ _).trans ((writeNat_numOnly _ _ _ _).trans (readSlot_numOnly _ _ _)))))))))
    clear_value s9
    split
    · split
      · exact (setSlotFld_numOnly _ _ _ _ _ _).trans k
      · exact k
    · split
      · exact (setSlotFld_numOnly _ _ _ _ _ _).trans k
      · split
        · exact (setSlotFld_numOnly _ _ _ _ _ _).trans k
        · exact k

theorem layerAdd_numOnly (s : State) (l : Nat) (st : ConvStat) (p : Bool) : NumOnly (s.layerAdd l st p) s := by
  unfold State.layerAdd
  split
  · exact .refl s
  · exact (memCount64_numOnly _ _ _).trans ((memCount64_numOnly _ _ _).trans ((memCount64_numOnly _ _ _).trans (memCount64_numOnly _ _ _)))

theorem convCounts_numOnly (s : State) (c off : Nat) (l : Option Nat) (st : ConvStat) (p : Bool) : NumOnly (s.convCounts c off l st p) s := by
  unfold State.convCounts
  refine (setFlagIf_numOnly _ _ _ _ _ _).trans ((setFlagIf_numOnly _ _ _ _ _ _).trans ((setFlagIf_numOnly _ _ _ _ _ _).trans
    ((setFlagIf_numOnly _ _ _ _ _ _).trans ?_)))
  have k := (count64_numOnly _ 0x10 c (off + 16) st.nNonfinite).trans ((count64_numOnly _ 0x10 c (off + 8) st.nUnf).trans
    (count64_numOnly s 0x10 c off st.nOvf))
  cases l with
  | none => exact k
  | some l => exact ((setFlagIf_numOnly _ _ _ _ _ _).trans (layerAdd_numOnly _ _ _ _)).trans k

theorem markSource_numOnly (s : State) (c : Nat) (t : TReg) : NumOnly (s.markSource c t) s := by
  unfold State.markSource
  dsimp only
  split
  · split
    · exact (setSlotFld_numOnly _ _ _ _ _ _).trans (readSlot_numOnly _ _ _)
    · exact readSlot_numOnly _ _ _
  · exact .refl s

theorem markSources_numOnly (s : State) (c : Nat) (ts : List TReg) : NumOnly (s.markSources c ts) s :=
  foldl_numOnly (fun s t => markSource_numOnly s c t) _ _

/-! ### What they leave to be read -/

theorem NumOnly.ctx {t s : State} (h : NumOnly t s) (c x : Nat) : t.ctx c x = s.ctx c x := by rw [h]; rfl
theorem NumOnly.core {t s : State} (h : NumOnly t s) (c : Nat) : t.core c = s.core c := by rw [h]; rfl
theorem NumOnly.eng {t s : State} (h : NumOnly t s) (c m : Nat) : t.eng c m = s.eng c m := by rw [h]; rfl
theorem NumOnly.ctxs {t s : State} (h : NumOnly t s) : t.ctxs = s.ctxs := by rw [h]
theorem NumOnly.cores {t s : State} (h : NumOnly t s) : t.cores = s.cores := by rw [h]
theorem NumOnly.engines {t s : State} (h : NumOnly t s) : t.engines = s.engines := by rw [h]

end Sys2Proof.Machine
end

