-- ==== Sys2Proof/Laws/PerInstr.lean ====
section
/-! SUPPORT. Statements about commands as syntax, one lemma for each constructor. The family IssuerExists: a well-formed Staex 2
instruction issues on a core that exists (R7, R82). -/

namespace Sys2Proof.Laws.IssuerExists

/-- A well-formed command that has a Staex 2 encoding names an existing core as its issuer. -/
def Statement (c : Instr) : Prop := c.wf = true → (encodeStaex c).isSome = true → (issuerOf c).core.toNat < 96

theorem registerWrite (w : Writer) (addr : W64) (wide : Bool) (val : W64) : Statement (.registerWrite w addr wide val) := fun _ h => absurd h Bool.false_ne_true
theorem w1cFlagClear (w : Writer) (addr : W64) (val setNow : W32) : Statement (.w1cFlagClear w addr val setNow) := fun _ h => absurd h Bool.false_ne_true
theorem ctrReset (w : Writer) (addr : W64) : Statement (.ctrReset w addr) := fun _ h => absurd h Bool.false_ne_true
theorem config (w : Writer) (f : Fn) : Statement (.config w f) := fun _ h => absurd h Bool.false_ne_true
theorem start (w : Writer) (f : Fn) : Statement (.start w f) := fun _ h => absurd h Bool.false_ne_true
theorem stop (w : Writer) (f : Fn) : Statement (.stop w f) := fun _ h => absurd h Bool.false_ne_true
theorem stopDrainComplete (f : Fn) : Statement (.stopDrainComplete f) := fun _ h => absurd h Bool.false_ne_true
theorem msTrainingComplete (r : TrainEnd) : Statement (.msTrainingComplete r) := fun _ h => absurd h Bool.false_ne_true
theorem clockLost : Statement .clockLost := fun _ h => absurd h Bool.false_ne_true
theorem rootPllRelock : Statement .rootPllRelock := fun _ h => absurd h Bool.false_ne_true
theorem commandAdmission (c : BitVec 7) (x : BitVec 2) : Statement (.commandAdmission c x) := fun _ h => absurd h Bool.false_ne_true
theorem commandStart (c : BitVec 7) (x : BitVec 2) : Statement (.commandStart c x) := fun _ h => absurd h Bool.false_ne_true
theorem overrunStopped (c : BitVec 7) (x : BitVec 2) : Statement (.overrunStopped c x) := fun _ h => absurd h Bool.false_ne_true
theorem illegalInstruction (c : BitVec 7) (x : BitVec 2) (word : W64) : Statement (.illegalInstruction c x word) := fun _ h => absurd h Bool.false_ne_true
theorem add (i : Iss) (sd sa : BitVec 6) (b : SrcB) : Statement (.add i sd sa b) := fun h _ => of_decide_eq_true h
theorem sub (i : Iss) (sd sa : BitVec 6) (b : SrcB) : Statement (.sub i sd sa b) := fun h _ => of_decide_eq_true h
theorem mul (i : Iss) (sd sa : BitVec 6) (b : SrcB) : Statement (.mul i sd sa b) := fun h _ => of_decide_eq_true h
theorem and (i : Iss) (sd sa : BitVec 6) (b : SrcB) : Statement (.and i sd sa b) := fun h _ => of_decide_eq_true h
theorem or (i : Iss) (sd sa : BitVec 6) (b : SrcB) : Statement (.or i sd sa b) := fun h _ => of_decide_eq_true h
theorem xor (i : Iss) (sd sa : BitVec 6) (b : SrcB) : Statement (.xor i sd sa b) := fun h _ => of_decide_eq_true h
theorem shl (i : Iss) (sd sa : BitVec 6) (b : SrcB) : Statement (.shl i sd sa b) := fun h _ => of_decide_eq_true h
theorem shr (i : Iss) (sd sa : BitVec 6) (b : SrcB) : Statement (.shr i sd sa b) := fun h _ => of_decide_eq_true h
theorem sra (i : Iss) (sd sa : BitVec 6) (b : SrcB) : Statement (.sra i sd sa b) := fun h _ => of_decide_eq_true h
theorem li (i : Iss) (sd : BitVec 6) (imm : W32) : Statement (.li i sd imm) := fun h _ => of_decide_eq_true h
theorem lih (i : Iss) (sd : BitVec 6) (imm : W32) : Statement (.lih i sd imm) := fun h _ => of_decide_eq_true h
theorem cmp (i : Iss) (pd cond : BitVec 3) (sa : BitVec 6) (b : SrcB) : Statement (.cmp i pd cond sa b) := fun h _ => of_decide_eq_true h
theorem ld (i : Iss) (w4 : Bool) (sd sa : BitVec 6) (imm : W32) : Statement (.ld i w4 sd sa imm) := fun h _ => of_decide_eq_true h
theorem st (i : Iss) (w4 immed : Bool) (sa sb : BitVec 6) (imm : W32) : Statement (.st i w4 immed sa sb imm) := fun h _ => of_decide_eq_true h
theorem getcc (i : Iss) (sd : BitVec 6) : Statement (.getcc i sd) := fun h _ => of_decide_eq_true h
theorem getid (i : Iss) (sd : BitVec 6) : Statement (.getid i sd) := fun h _ => of_decide_eq_true h
theorem br (i : Iss) (imm : W32) : Statement (.br i imm) := fun h _ => of_decide_eq_true h
theorem jr (i : Iss) (sa : BitVec 6) : Statement (.jr i sa) := fun h _ => of_decide_eq_true h
theorem endCmd (i : Iss) : Statement (.endCmd i) := fun h _ => of_decide_eq_true h
theorem endComplete (c : BitVec 7) (x : BitVec 2) : Statement (.endComplete c x) := fun _ h => absurd h Bool.false_ne_true
theorem loads (i : Iss) (f : LoadsF) : Statement (.loads i f) := fun h _ => of_decide_eq_true h
theorem stream (i : Iss) (f : StreamF) : Statement (.stream i f) := fun h _ => of_decide_eq_true h
theorem drain (i : Iss) (f : DrainF) : Statement (.drain i f) := fun h _ => of_decide_eq_true h
theorem engSeed (i : Iss) (sreg : BitVec 6) (eng : BitVec 2) : Statement (.engSeed i sreg eng) := fun h _ => of_decide_eq_true h
theorem engineInstrStart (c : BitVec 7) (m : BitVec 2) : Statement (.engineInstrStart c m) := fun _ h => absurd h Bool.false_ne_true
theorem prepassSecondSweep (c : BitVec 7) (m : BitVec 2) (chk : List TileFail) : Statement (.prepassSecondSweep c m chk) := fun _ h => absurd h Bool.false_ne_true
theorem loadsComplete (c : BitVec 7) (m : BitVec 2) : Statement (.loadsComplete c m) := fun _ h => absurd h Bool.false_ne_true
theorem streamComplete (c : BitVec 7) (m : BitVec 2) (chk : List TileFail) : Statement (.streamComplete c m chk) := fun _ h => absurd h Bool.false_ne_true
theorem drainComplete (c : BitVec 7) (m : BitVec 2) (chk : List TileFail) : Statement (.drainComplete c m chk) := fun _ h => absurd h Bool.false_ne_true
theorem tasterCompare (c : BitVec 7) (m : BitVec 2) : Statement (.tasterCompare c m) := fun _ h => absurd h Bool.false_ne_true
theorem vop (i : Iss) (f : VopF) : Statement (.vop i f) := fun h _ => of_decide_eq_true h
theorem vopComplete (c : BitVec 7) : Statement (.vopComplete c) := fun _ h => absurd h Bool.false_ne_true
theorem move (i : Iss) (f : MoveF) : Statement (.move i f) := fun h _ => of_decide_eq_true h
theorem moveComplete (c : BitVec 7) : Statement (.moveComplete c) := fun _ h => absurd h Bool.false_ne_true
theorem stash (i : Iss) (f : MoveF) : Statement (.stash i f) := fun h _ => of_decide_eq_true h
theorem stashComplete (c : BitVec 7) : Statement (.stashComplete c) := fun _ h => absurd h Bool.false_ne_true
theorem fetch (i : Iss) (f : MoveF) : Statement (.fetch i f) := fun h _ => of_decide_eq_true h
theorem fetchComplete (c : BitVec 7) : Statement (.fetchComplete c) := fun _ h => absurd h Bool.false_ne_true
theorem coll (i : Iss) (f : CollF) : Statement (.coll i f) := fun h _ => of_decide_eq_true h
theorem collHoldRelease (c : BitVec 7) (x : BitVec 2) : Statement (.collHoldRelease c x) := fun _ h => absurd h Bool.false_ne_true
theorem send (i : Iss) (f : SendF) : Statement (.send i f) := fun h _ => of_decide_eq_true h
theorem fenceStep (i : Iss) : Statement (.fenceStep i) := fun h _ => of_decide_eq_true h
theorem waitArr (i : Iss) (first cntM1 : BitVec 12) : Statement (.waitArr i first cntM1) := fun h _ => of_decide_eq_true h
theorem waitArrSatisfied (c : BitVec 7) (x : BitVec 2) : Statement (.waitArrSatisfied c x) := fun _ h => absurd h Bool.false_ne_true
theorem arrClr (i : Iss) (first cntM1 : BitVec 12) : Statement (.arrClr i first cntM1) := fun h _ => of_decide_eq_true h
theorem waitT (i : Iss) (sa : BitVec 6) : Statement (.waitT i sa) := fun h _ => of_decide_eq_true h
theorem interlockRelease (c : BitVec 7) (x : BitVec 2) : Statement (.interlockRelease c x) := fun _ h => absurd h Bool.false_ne_true
theorem waitMsg (i : Iss) (td : BitVec 5) : Statement (.waitMsg i td) := fun h _ => of_decide_eq_true h
theorem waitMsgArrival (c : BitVec 7) (x : BitVec 2) : Statement (.waitMsgArrival c x) := fun _ h => absurd h Bool.false_ne_true
theorem signal (i : Iss) (f : SignalF) : Statement (.signal i f) := fun h _ => of_decide_eq_true h
theorem signalDecision (c : BitVec 7) (x : BitVec 2) : Statement (.signalDecision c x) := fun _ h => absurd h Bool.false_ne_true
theorem nop (i : Iss) : Statement (.nop i) := fun h _ => of_decide_eq_true h
theorem tagSet (i : Iss) (tn : BitVec 5) (sa : BitVec 6) (mask : BitVec 4) (clrf : Bool) : Statement (.tagSet i tn sa mask clrf) := fun h _ => of_decide_eq_true h
theorem tagGet (i : Iss) (tn : BitVec 5) (sd : BitVec 6) (half : Bool) : Statement (.tagGet i tn sd half) := fun h _ => of_decide_eq_true h
theorem tdescLd (i : Iss) (tn : BitVec 5) (sa : BitVec 6) : Statement (.tdescLd i tn sa) := fun h _ => of_decide_eq_true h
theorem tdescSt (i : Iss) (tn : BitVec 5) (sa : BitVec 6) : Statement (.tdescSt i tn sa) := fun h _ => of_decide_eq_true h
theorem tdescSetf (i : Iss) (tn : BitVec 5) (sa : BitVec 6) (field : BitVec 4) : Statement (.tdescSetf i tn sa field) := fun h _ => of_decide_eq_true h
theorem scaleRd (i : Iss) (tn : BitVec 5) (sd : BitVec 6) : Statement (.scaleRd i tn sd) := fun h _ => of_decide_eq_true h
theorem scaleMark (i : Iss) (tn : BitVec 5) : Statement (.scaleMark i tn) := fun h _ => of_decide_eq_true h
theorem tile16Mma (i : Iss) (f : TileF) : Statement (.tile16Mma i f) := fun h _ => of_decide_eq_true h
theorem tile32Mma (i : Iss) (f : TileF) : Statement (.tile32Mma i f) := fun h _ => of_decide_eq_true h
theorem engineMapWrite (w : Writer) (c : BitVec 7) (val : W32) : Statement (.engineMapWrite w c val) := fun _ h => absurd h Bool.false_ne_true
theorem sqSlotInit (w : Writer) (c : BitVec 7) (val : W32) : Statement (.sqSlotInit w c val) := fun _ h => absurd h Bool.false_ne_true
theorem tasteNWrite (w : Writer) (c : BitVec 7) (n : BitVec 5) : Statement (.tasteNWrite w c n) := fun _ h => absurd h Bool.false_ne_true
theorem knockbackK1CoreDrain : Statement .knockbackK1CoreDrain := fun _ h => absurd h Bool.false_ne_true
theorem knockbackK2FabricDrain : Statement .knockbackK2FabricDrain := fun _ h => absurd h Bool.false_ne_true
theorem knockbackK3HiveDrain : Statement .knockbackK3HiveDrain := fun _ h => absurd h Bool.false_ne_true
theorem knockbackK4BaseInstall : Statement .knockbackK4BaseInstall := fun _ h => absurd h Bool.false_ne_true
theorem knockbackK5Advance : Statement .knockbackK5Advance := fun _ h => absurd h Bool.false_ne_true
theorem knockbackK6Open : Statement .knockbackK6Open := fun _ h => absurd h Bool.false_ne_true
theorem driftHoldRepeat : Statement .driftHoldRepeat := fun _ h => absurd h Bool.false_ne_true
theorem scrubRead (addr : W64) (r : ScrubRes) (passEnds : Bool) : Statement (.scrubRead addr r passEnds) := fun _ h => absurd h Bool.false_ne_true
theorem refresh (ch : BitVec 9) (bank : BitVec 4) (shortened : Bool) : Statement (.refresh ch bank shortened) := fun _ h => absurd h Bool.false_ne_true
theorem mainMemoryBurst (ch : BitVec 9) (cls : BurstClass) (behindFetch : Bool) (addr : W64) (r : ReadRes) : Statement (.mainMemoryBurst ch cls behindFetch addr r) := fun _ h => absurd h Bool.false_ne_true
theorem portLinkUp (p : Port) (lanes : BitVec 4) (anDone : Bool) : Statement (.portLinkUp p lanes anDone) := fun _ h => absurd h Bool.false_ne_true
theorem portLinkDown (p : Port) (lanes : BitVec 4) : Statement (.portLinkDown p lanes) := fun _ h => absurd h Bool.false_ne_true
theorem hostFrameReceive (m : HostMsg) : Statement (.hostFrameReceive m) := fun _ h => absurd h Bool.false_ne_true
theorem claim (m : HostMsg) : Statement (.claim m) := fun _ h => absurd h Bool.false_ne_true
theorem release (m : HostMsg) : Statement (.release m) := fun _ h => absurd h Bool.false_ne_true
theorem hostWrite (m : HostMsg) : Statement (.hostWrite m) := fun _ h => absurd h Bool.false_ne_true
theorem hostRead (m : HostMsg) : Statement (.hostRead m) := fun _ h => absurd h Bool.false_ne_true
theorem doorbell (m : HostMsg) : Statement (.doorbell m) := fun _ h => absurd h Bool.false_ne_true
theorem query (m : HostMsg) : Statement (.query m) := fun _ h => absurd h Bool.false_ne_true
theorem attest (m : HostMsg) : Statement (.attest m) := fun _ h => absurd h Bool.false_ne_true
theorem relay (m : HostMsg) : Statement (.relay m) := fun _ h => absurd h Bool.false_ne_true
theorem tunnelledHostMessage (b : Block) : Statement (.tunnelledHostMessage b) := fun _ h => absurd h Bool.false_ne_true
theorem relayResponseForward (b : Block) : Statement (.relayResponseForward b) := fun _ h => absurd h Bool.false_ne_true
theorem neighbourSolicitation (p : Port) (target : BitVec 128) : Statement (.neighbourSolicitation p target) := fun _ h => absurd h Bool.false_ne_true
theorem claimLapsed : Statement .claimLapsed := fun _ h => absurd h Bool.false_ne_true
theorem eventResend : Statement .eventResend := fun _ h => absurd h Bool.false_ne_true
theorem sfCreqReceive (p : BitVec 4) (f : SfFrame) : Statement (.sfCreqReceive p f) := fun _ h => absurd h Bool.false_ne_true
theorem sfGrant (p : BitVec 4) : Statement (.sfGrant p) := fun _ h => absurd h Bool.false_ne_true
theorem sfCgntReceive (p : BitVec 4) (f : SfFrame) : Statement (.sfCgntReceive p f) := fun _ h => absurd h Bool.false_ne_true
theorem sfCrefReceive (p : BitVec 4) (f : SfFrame) : Statement (.sfCrefReceive p f) := fun _ h => absurd h Bool.false_ne_true
theorem sfDataReceive (p : BitVec 4) (f : SfFrame) : Statement (.sfDataReceive p f) := fun _ h => absurd h Bool.false_ne_true
theorem sfDackReceive (p : BitVec 4) (f : SfFrame) : Statement (.sfDackReceive p f) := fun _ h => absurd h Bool.false_ne_true
theorem sfDnakReceive (p : BitVec 4) (f : SfFrame) : Statement (.sfDnakReceive p f) := fun _ h => absurd h Bool.false_ne_true
theorem sfForeignFrame (p : BitVec 4) (why : ForeignWhy) : Statement (.sfForeignFrame p why) := fun _ h => absurd h Bool.false_ne_true
theorem sfRetransmitTimeout (p : BitVec 4) (reqId : W32) : Statement (.sfRetransmitTimeout p reqId) := fun _ h => absurd h Bool.false_ne_true
theorem grantReclaimed (p : BitVec 4) (grantId : W32) : Statement (.grantReclaimed p grantId) := fun _ h => absurd h Bool.false_ne_true
theorem pfcPauseReceive (p : BitVec 4) : Statement (.pfcPauseReceive p) := fun _ h => absurd h Bool.false_ne_true
theorem collMessageReceive (g : BitVec 12) (m : CollMsg) : Statement (.collMessageReceive g m) := fun _ h => absurd h Bool.false_ne_true
theorem collComplete (g : BitVec 12) (cseq : W32) : Statement (.collComplete g cseq) := fun _ h => absurd h Bool.false_ne_true
theorem collDeadlineExpiry (g : BitVec 12) (cseq : W32) : Statement (.collDeadlineExpiry g cseq) := fun _ h => absurd h Bool.false_ne_true
theorem collForwardWindowExpiry (g : BitVec 12) (cseq : W32) : Statement (.collForwardWindowExpiry g cseq) := fun _ h => absurd h Bool.false_ne_true
theorem ringHopExpiry (g : BitVec 12) (cseq : W32) : Statement (.ringHopExpiry g cseq) := fun _ h => absurd h Bool.false_ne_true
theorem bypassReceive (g : BitVec 12) (cseq : W32) (sender skipped : BitVec 14) : Statement (.bypassReceive g cseq sender skipped) := fun _ h => absurd h Bool.false_ne_true
theorem holdReceive (g : BitVec 12) (cseq : W32) (origin : BitVec 14) : Statement (.holdReceive g cseq origin) := fun _ h => absurd h Bool.false_ne_true
theorem mismatchNoticeReceive (g : BitVec 12) (cseq : W32) (index : BitVec 14) (field : BitVec 4) : Statement (.mismatchNoticeReceive g cseq index field) := fun _ h => absurd h Bool.false_ne_true
theorem stateFetchComplete (h : BitVec 4) (shard : W16) : Statement (.stateFetchComplete h shard) := fun _ h => absurd h Bool.false_ne_true
theorem parkedGradientQueue (h : BitVec 4) (shard : W16) : Statement (.parkedGradientQueue h shard) := fun _ h => absurd h Bool.false_ne_true
theorem hiveUpdate (h : BitVec 4) : Statement (.hiveUpdate h) := fun _ h => absurd h Bool.false_ne_true
theorem hiveUpdateComplete (h : BitVec 4) : Statement (.hiveUpdateComplete h) := fun _ h => absurd h Bool.false_ne_true
theorem roundEncode : Statement .roundEncode := fun _ h => absurd h Bool.false_ne_true
theorem deltaMerge (b : Block) : Statement (.deltaMerge b) := fun _ h => absurd h Bool.false_ne_true
theorem mergeClose (span : W16) : Statement (.mergeClose span) := fun _ h => absurd h Bool.false_ne_true
theorem mergeWaitExpiry (span : W16) : Statement (.mergeWaitExpiry span) := fun _ h => absurd h Bool.false_ne_true
theorem baseMessageReceive (b : Block) : Statement (.baseMessageReceive b) := fun _ h => absurd h Bool.false_ne_true
theorem refreshRequestReceive (b : Block) : Statement (.refreshRequestReceive b) := fun _ h => absurd h Bool.false_ne_true
theorem fgRefresh (w : Writer) (val : W32) : Statement (.fgRefresh w val) := fun _ h => absurd h Bool.false_ne_true
theorem joinTableReceive (r : JoinReply) : Statement (.joinTableReceive r) := fun _ h => absurd h Bool.false_ne_true
theorem gatewayRetryTimer : Statement .gatewayRetryTimer := fun _ h => absurd h Bool.false_ne_true
theorem flEgressAdmit : Statement .flEgressAdmit := fun _ h => absurd h Bool.false_ne_true
theorem cdxDataReceive (f : CdxFrame) : Statement (.cdxDataReceive f) := fun _ h => absurd h Bool.false_ne_true
theorem cdxAckReceive (f : CdxFrame) : Statement (.cdxAckReceive f) := fun _ h => absurd h Bool.false_ne_true
theorem cdxNakReceive (f : CdxFrame) : Statement (.cdxNakReceive f) := fun _ h => absurd h Bool.false_ne_true
theorem cdxProbeReceive (f : CdxFrame) : Statement (.cdxProbeReceive f) := fun _ h => absurd h Bool.false_ne_true
theorem cdxProbeEchoReceive (f : CdxFrame) : Statement (.cdxProbeEchoReceive f) := fun _ h => absurd h Bool.false_ne_true
theorem cdxForeignFrame (why : ForeignWhy) : Statement (.cdxForeignFrame why) := fun _ h => absurd h Bool.false_ne_true
theorem ackTimer : Statement .ackTimer := fun _ h => absurd h Bool.false_ne_true
theorem fragmentOverdue (fseq : W32) : Statement (.fragmentOverdue fseq) := fun _ h => absurd h Bool.false_ne_true
theorem fragmentRtoExpiry (fseq : W32) : Statement (.fragmentRtoExpiry fseq) := fun _ h => absurd h Bool.false_ne_true
theorem linkDead : Statement .linkDead := fun _ h => absurd h Bool.false_ne_true
theorem probeTimer : Statement .probeTimer := fun _ h => absurd h Bool.false_ne_true
theorem sessionDead : Statement .sessionDead := fun _ h => absurd h Bool.false_ne_true
theorem helloTimer : Statement .helloTimer := fun _ h => absurd h Bool.false_ne_true
theorem helloReceive (f : CdxFrame) : Statement (.helloReceive f) := fun _ h => absurd h Bool.false_ne_true
theorem finishReceive (f : CdxFrame) : Statement (.finishReceive f) := fun _ h => absurd h Bool.false_ne_true
theorem keyRollover : Statement .keyRollover := fun _ h => absurd h Bool.false_ne_true
theorem rxKeyDerive : Statement .rxKeyDerive := fun _ h => absurd h Bool.false_ne_true
theorem keyctlNextKey (w : Writer) : Statement (.keyctlNextKey w) := fun _ h => absurd h Bool.false_ne_true
theorem keyctlRekey (w : Writer) : Statement (.keyctlRekey w) := fun _ h => absurd h Bool.false_ne_true
theorem replay (c : BitVec 7) (m : BitVec 2) : Statement (.replay c m) := fun _ h => absurd h Bool.false_ne_true
theorem replayComplete (c : BitVec 7) (m : BitVec 2) (r : ReplayRes) : Statement (.replayComplete c m r) := fun _ h => absurd h Bool.false_ne_true
theorem retirementRest (c : BitVec 7) (m : BitVec 2) : Statement (.retirementRest c m) := fun _ h => absurd h Bool.false_ne_true
theorem twinWrite (w : Writer) (c : BitVec 7) (m : BitVec 2) (on : Bool) : Statement (.twinWrite w c m on) := fun _ h => absurd h Bool.false_ne_true
theorem swarmScan : Statement .swarmScan := fun _ h => absurd h Bool.false_ne_true
theorem recoveryDrainStart (d : Domain) : Statement (.recoveryDrainStart d) := fun _ h => absurd h Bool.false_ne_true
theorem recoveryDrainEnd (d : Domain) : Statement (.recoveryDrainEnd d) := fun _ h => absurd h Bool.false_ne_true
theorem resetEnd (d : Domain) : Statement (.resetEnd d) := fun _ h => absurd h Bool.false_ne_true
theorem coreIsolatedReplay (c : BitVec 7) : Statement (.coreIsolatedReplay c) := fun _ h => absurd h Bool.false_ne_true
theorem replayLimit (c : BitVec 7) : Statement (.replayLimit c) := fun _ h => absurd h Bool.false_ne_true
theorem heartbeat : Statement .heartbeat := fun _ h => absurd h Bool.false_ne_true
theorem takeover (why : TakeoverWhy) : Statement (.takeover why) := fun _ h => absurd h Bool.false_ne_true
theorem heartbeatLossSilence : Statement .heartbeatLossSilence := fun _ h => absurd h Bool.false_ne_true
theorem swCmdRecover (w : Writer) (d : Domain) : Statement (.swCmdRecover w d) := fun _ h => absurd h Bool.false_ne_true
theorem swCmdRecord (w : Writer) (d : Domain) : Statement (.swCmdRecord w d) := fun _ h => absurd h Bool.false_ne_true
theorem swCmdTakeover (w : Writer) : Statement (.swCmdTakeover w) := fun _ h => absurd h Bool.false_ne_true
theorem powerGood : Statement .powerGood := fun _ h => absurd h Bool.false_ne_true
theorem rootPllLock : Statement .rootPllLock := fun _ h => absurd h Bool.false_ne_true
theorem rootOfTrustSelftest (die0 die1 entropy : Bool) : Statement (.rootOfTrustSelftest die0 die1 entropy) := fun _ h => absurd h Bool.false_ne_true
theorem firmwareVerify : Statement .firmwareVerify := fun _ h => absurd h Bool.false_ne_true
theorem packageBringup (engines : List EngineReport) : Statement (.packageBringup engines) := fun _ h => absurd h Bool.false_ne_true
theorem hostPortStart : Statement .hostPortStart := fun _ h => absurd h Bool.false_ne_true
theorem fwInstall (w : Writer) : Statement (.fwInstall w) := fun _ h => absurd h Bool.false_ne_true
theorem setPreferred (w : Writer) (slot : BitVec 1) : Statement (.setPreferred w slot) := fun _ h => absurd h Bool.false_ne_true
theorem countedSettingWrite (w : Writer) (k : Counted) (val : Nat) : Statement (.countedSettingWrite w k val) := fun _ h => absurd h Bool.false_ne_true
theorem ownerKeyChange (w : Writer) (slot : BitVec 2) (clear : Bool) : Statement (.ownerKeyChange w slot clear) := fun _ h => absurd h Bool.false_ne_true
theorem countedSettingCommit (ok : Bool) : Statement (.countedSettingCommit ok) := fun _ h => absurd h Bool.false_ne_true
theorem pwrEnRise : Statement .pwrEnRise := fun _ h => absurd h Bool.false_ne_true
theorem pwrEnFall : Statement .pwrEnFall := fun _ h => absurd h Bool.false_ne_true
theorem inputUndervoltage : Statement .inputUndervoltage := fun _ h => absurd h Bool.false_ne_true
theorem inputOvervoltage : Statement .inputOvervoltage := fun _ h => absurd h Bool.false_ne_true
theorem pmControlWindow (r : PowerRead) : Statement (.pmControlWindow r) := fun _ h => absurd h Bool.false_ne_true
theorem thermalLimitBegin : Statement .thermalLimitBegin := fun _ h => absurd h Bool.false_ne_true
theorem thermalLimitEnd : Statement .thermalLimitEnd := fun _ h => absurd h Bool.false_ne_true
theorem thermalTrip : Statement .thermalTrip := fun _ h => absurd h Bool.false_ne_true
theorem brakeChange (low : Bool) : Statement (.brakeChange low) := fun _ h => absurd h Bool.false_ne_true
theorem leak : Statement .leak := fun _ h => absurd h Bool.false_ne_true
theorem fwActionComplete : Statement .fwActionComplete := fun _ h => absurd h Bool.false_ne_true
theorem leakClear : Statement .leakClear := fun _ h => absurd h Bool.false_ne_true
theorem pfcPauseExpiry (p : BitVec 4) : Statement (.pfcPauseExpiry p) := fun _ h => absurd h Bool.false_ne_true
theorem flFrameTransmit : Statement .flFrameTransmit := fun _ h => absurd h Bool.false_ne_true
theorem crumbBlockRead (r : CrumbRead) : Statement (.crumbBlockRead r) := fun _ h => absurd h Bool.false_ne_true

end Sys2Proof.Laws.IssuerExists
end

