-- ==== Sys2Proof/Laws/State.lean ====
section
/-! SUPPORT. What one update of the state does to each of its fields and to what reads them. -/

namespace Sys2Proof.Machine

variable (s : State)

/-! ### State.setWord -/

@[simp] theorem State.setWord_pending (b i o : Nat) (v : W32) : (s.setWord b i o v).pending = s.pending := rfl
@[simp] theorem State.setWord_freeCtr (b i o : Nat) (v : W32) : (s.setWord b i o v).freeCtr = s.freeCtr := rfl
@[simp] theorem State.setWord_nextId (b i o : Nat) (v : W32) : (s.setWord b i o v).nextId = s.nextId := rfl
@[simp] theorem State.setWord_cycle (b i o : Nat) (v : W32) : (s.setWord b i o v).cycle = s.cycle := rfl
@[simp] theorem State.setWord_rsv (b i o : Nat) (v : W32) : (s.setWord b i o v).rsv = s.rsv := rfl
@[simp] theorem State.setWord_mem (b i o : Nat) (v : W32) : (s.setWord b i o v).mem = s.mem := rfl
@[simp] theorem State.setWord_ue (b i o : Nat) (v : W32) : (s.setWord b i o v).ue = s.ue := rfl
@[simp] theorem State.setWord_sce (b i o : Nat) (v : W32) : (s.setWord b i o v).sce = s.sce := rfl
@[simp] theorem State.setWord_ctxs (b i o : Nat) (v : W32) : (s.setWord b i o v).ctxs = s.ctxs := rfl
@[simp] theorem State.setWord_cores (b i o : Nat) (v : W32) : (s.setWord b i o v).cores = s.cores := rfl
@[simp] theorem State.setWord_engines (b i o : Nat) (v : W32) : (s.setWord b i o v).engines = s.engines := rfl
@[simp] theorem State.setWord_hp (b i o : Nat) (v : W32) : (s.setWord b i o v).hp = s.hp := rfl
@[simp] theorem State.setWord_hpOut (b i o : Nat) (v : W32) : (s.setWord b i o v).hpOut = s.hpOut := rfl
@[simp] theorem State.setWord_ports (b i o : Nat) (v : W32) : (s.setWord b i o v).ports = s.ports := rfl
@[simp] theorem State.setWord_sfOut (b i o : Nat) (v : W32) : (s.setWord b i o v).sfOut = s.sfOut := rfl
@[simp] theorem State.setWord_sfSeq (b i o : Nat) (v : W32) : (s.setWord b i o v).sfSeq = s.sfSeq := rfl
@[simp] theorem State.setWord_dieSt (b i o : Nat) (v : W32) : (s.setWord b i o v).dieSt = s.dieSt := rfl
@[simp] theorem State.setWord_selfFar (b i o : Nat) (v : W32) : (s.setWord b i o v).selfFar = s.selfFar := rfl
@[simp] theorem State.setWord_kbStep (b i o : Nat) (v : W32) : (s.setWord b i o v).kbStep = s.kbStep := rfl
@[simp] theorem State.setWord_kbEval (b i o : Nat) (v : W32) : (s.setWord b i o v).kbEval = s.kbEval := rfl
@[simp] theorem State.setWord_kbRepeat (b i o : Nat) (v : W32) : (s.setWord b i o v).kbRepeat = s.kbRepeat := rfl
@[simp] theorem State.setWord_groups (b i o : Nat) (v : W32) : (s.setWord b i o v).groups = s.groups := rfl
@[simp] theorem State.setWord_hives (b i o : Nat) (v : W32) : (s.setWord b i o v).hives = s.hives := rfl
@[simp] theorem State.setWord_fg (b i o : Nat) (v : W32) : (s.setWord b i o v).fg = s.fg := rfl
@[simp] theorem State.setWord_fl (b i o : Nat) (v : W32) : (s.setWord b i o v).fl = s.fl := rfl
@[simp] theorem State.setWord_flOut (b i o : Nat) (v : W32) : (s.setWord b i o v).flOut = s.flOut := rfl
@[simp] theorem State.setWord_advOut (b i o : Nat) (v : W32) : (s.setWord b i o v).advOut = s.advOut := rfl
@[simp] theorem State.setWord_frontIn (b i o : Nat) (v : W32) : (s.setWord b i o v).frontIn = s.frontIn := rfl
@[simp] theorem State.setWord_sw (b i o : Nat) (v : W32) : (s.setWord b i o v).sw = s.sw := rfl
@[simp] theorem State.setWord_boot (b i o : Nat) (v : W32) : (s.setWord b i o v).boot = s.boot := rfl
@[simp] theorem State.setWord_store (b i o : Nat) (v : W32) : (s.setWord b i o v).store = s.store := rfl
@[simp] theorem State.setWord_csJob (b i o : Nat) (v : W32) : (s.setWord b i o v).csJob = s.csJob := rfl
@[simp] theorem State.setWord_fwJob (b i o : Nat) (v : W32) : (s.setWord b i o v).fwJob = s.fwJob := rfl
@[simp] theorem State.setWord_ms (b i o : Nat) (v : W32) : (s.setWord b i o v).ms = s.ms := rfl
@[simp] theorem State.setWord_pm (b i o : Nat) (v : W32) : (s.setWord b i o v).pm = s.pm := rfl
@[simp] theorem State.setWord_ctx (b i o : Nat) (v : W32) (c₁ x₁ : Nat) : (s.setWord b i o v).ctx c₁ x₁ = s.ctx c₁ x₁ := rfl
@[simp] theorem State.setWord_core (b i o : Nat) (v : W32) (c₁ : Nat) : (s.setWord b i o v).core c₁ = s.core c₁ := rfl
@[simp] theorem State.setWord_eng (b i o : Nat) (v : W32) (c₁ m₁ : Nat) : (s.setWord b i o v).eng c₁ m₁ = s.eng c₁ m₁ := rfl
@[simp] theorem State.setWord_port (b i o : Nat) (v : W32) (p₁ : Nat) : (s.setWord b i o v).port p₁ = s.port p₁ := rfl
@[simp] theorem State.setWord_group (b i o : Nat) (v : W32) (g₁ : Nat) : (s.setWord b i o v).group g₁ = s.group g₁ := rfl
@[simp] theorem State.setWord_hive (b i o : Nat) (v : W32) (h₁ : Nat) : (s.setWord b i o v).hive h₁ = s.hive h₁ := rfl
@[simp] theorem State.setWord_byte (b i o : Nat) (v : W32) (a₁ : Nat) : (s.setWord b i o v).byte a₁ = s.byte a₁ := rfl

/-! ### State.setFld -/

@[simp] theorem State.setFld_pending (b i o h l v : Nat) : (s.setFld b i o h l v).pending = s.pending := rfl
@[simp] theorem State.setFld_freeCtr (b i o h l v : Nat) : (s.setFld b i o h l v).freeCtr = s.freeCtr := rfl
@[simp] theorem State.setFld_nextId (b i o h l v : Nat) : (s.setFld b i o h l v).nextId = s.nextId := rfl
@[simp] theorem State.setFld_cycle (b i o h l v : Nat) : (s.setFld b i o h l v).cycle = s.cycle := rfl
@[simp] theorem State.setFld_rsv (b i o h l v : Nat) : (s.setFld b i o h l v).rsv = s.rsv := rfl
@[simp] theorem State.setFld_mem (b i o h l v : Nat) : (s.setFld b i o h l v).mem = s.mem := rfl
@[simp] theorem State.setFld_ue (b i o h l v : Nat) : (s.setFld b i o h l v).ue = s.ue := rfl
@[simp] theorem State.setFld_sce (b i o h l v : Nat) : (s.setFld b i o h l v).sce = s.sce := rfl
@[simp] theorem State.setFld_ctxs (b i o h l v : Nat) : (s.setFld b i o h l v).ctxs = s.ctxs := rfl
@[simp] theorem State.setFld_cores (b i o h l v : Nat) : (s.setFld b i o h l v).cores = s.cores := rfl
@[simp] theorem State.setFld_engines (b i o h l v : Nat) : (s.setFld b i o h l v).engines = s.engines := rfl
@[simp] theorem State.setFld_hp (b i o h l v : Nat) : (s.setFld b i o h l v).hp = s.hp := rfl
@[simp] theorem State.setFld_hpOut (b i o h l v : Nat) : (s.setFld b i o h l v).hpOut = s.hpOut := rfl
@[simp] theorem State.setFld_ports (b i o h l v : Nat) : (s.setFld b i o h l v).ports = s.ports := rfl
@[simp] theorem State.setFld_sfOut (b i o h l v : Nat) : (s.setFld b i o h l v).sfOut = s.sfOut := rfl
@[simp] theorem State.setFld_sfSeq (b i o h l v : Nat) : (s.setFld b i o h l v).sfSeq = s.sfSeq := rfl
@[simp] theorem State.setFld_dieSt (b i o h l v : Nat) : (s.setFld b i o h l v).dieSt = s.dieSt := rfl
@[simp] theorem State.setFld_selfFar (b i o h l v : Nat) : (s.setFld b i o h l v).selfFar = s.selfFar := rfl
@[simp] theorem State.setFld_kbStep (b i o h l v : Nat) : (s.setFld b i o h l v).kbStep = s.kbStep := rfl
@[simp] theorem State.setFld_kbEval (b i o h l v : Nat) : (s.setFld b i o h l v).kbEval = s.kbEval := rfl
@[simp] theorem State.setFld_kbRepeat (b i o h l v : Nat) : (s.setFld b i o h l v).kbRepeat = s.kbRepeat := rfl
@[simp] theorem State.setFld_groups (b i o h l v : Nat) : (s.setFld b i o h l v).groups = s.groups := rfl
@[simp] theorem State.setFld_hives (b i o h l v : Nat) : (s.setFld b i o h l v).hives = s.hives := rfl
@[simp] theorem State.setFld_fg (b i o h l v : Nat) : (s.setFld b i o h l v).fg = s.fg := rfl
@[simp] theorem State.setFld_fl (b i o h l v : Nat) : (s.setFld b i o h l v).fl = s.fl := rfl
@[simp] theorem State.setFld_flOut (b i o h l v : Nat) : (s.setFld b i o h l v).flOut = s.flOut := rfl
@[simp] theorem State.setFld_advOut (b i o h l v : Nat) : (s.setFld b i o h l v).advOut = s.advOut := rfl
@[simp] theorem State.setFld_frontIn (b i o h l v : Nat) : (s.setFld b i o h l v).frontIn = s.frontIn := rfl
@[simp] theorem State.setFld_sw (b i o h l v : Nat) : (s.setFld b i o h l v).sw = s.sw := rfl
@[simp] theorem State.setFld_boot (b i o h l v : Nat) : (s.setFld b i o h l v).boot = s.boot := rfl
@[simp] theorem State.setFld_store (b i o h l v : Nat) : (s.setFld b i o h l v).store = s.store := rfl
@[simp] theorem State.setFld_csJob (b i o h l v : Nat) : (s.setFld b i o h l v).csJob = s.csJob := rfl
@[simp] theorem State.setFld_fwJob (b i o h l v : Nat) : (s.setFld b i o h l v).fwJob = s.fwJob := rfl
@[simp] theorem State.setFld_ms (b i o h l v : Nat) : (s.setFld b i o h l v).ms = s.ms := rfl
@[simp] theorem State.setFld_pm (b i o h l v : Nat) : (s.setFld b i o h l v).pm = s.pm := rfl
@[simp] theorem State.setFld_ctx (b i o h l v : Nat) (c₁ x₁ : Nat) : (s.setFld b i o h l v).ctx c₁ x₁ = s.ctx c₁ x₁ := rfl
@[simp] theorem State.setFld_core (b i o h l v : Nat) (c₁ : Nat) : (s.setFld b i o h l v).core c₁ = s.core c₁ := rfl
@[simp] theorem State.setFld_eng (b i o h l v : Nat) (c₁ m₁ : Nat) : (s.setFld b i o h l v).eng c₁ m₁ = s.eng c₁ m₁ := rfl
@[simp] theorem State.setFld_port (b i o h l v : Nat) (p₁ : Nat) : (s.setFld b i o h l v).port p₁ = s.port p₁ := rfl
@[simp] theorem State.setFld_group (b i o h l v : Nat) (g₁ : Nat) : (s.setFld b i o h l v).group g₁ = s.group g₁ := rfl
@[simp] theorem State.setFld_hive (b i o h l v : Nat) (h₁ : Nat) : (s.setFld b i o h l v).hive h₁ = s.hive h₁ := rfl
@[simp] theorem State.setFld_byte (b i o h l v : Nat) (a₁ : Nat) : (s.setFld b i o h l v).byte a₁ = s.byte a₁ := rfl

/-! ### State.setFnState -/

@[simp] theorem State.setFnState_pending (f : Fn) (v : Nat) : (s.setFnState f v).pending = s.pending := rfl
@[simp] theorem State.setFnState_freeCtr (f : Fn) (v : Nat) : (s.setFnState f v).freeCtr = s.freeCtr := rfl
@[simp] theorem State.setFnState_nextId (f : Fn) (v : Nat) : (s.setFnState f v).nextId = s.nextId := rfl
@[simp] theorem State.setFnState_cycle (f : Fn) (v : Nat) : (s.setFnState f v).cycle = s.cycle := rfl
@[simp] theorem State.setFnState_rsv (f : Fn) (v : Nat) : (s.setFnState f v).rsv = s.rsv := rfl
@[simp] theorem State.setFnState_mem (f : Fn) (v : Nat) : (s.setFnState f v).mem = s.mem := rfl
@[simp] theorem State.setFnState_ue (f : Fn) (v : Nat) : (s.setFnState f v).ue = s.ue := rfl
@[simp] theorem State.setFnState_sce (f : Fn) (v : Nat) : (s.setFnState f v).sce = s.sce := rfl
@[simp] theorem State.setFnState_ctxs (f : Fn) (v : Nat) : (s.setFnState f v).ctxs = s.ctxs := rfl
@[simp] theorem State.setFnState_cores (f : Fn) (v : Nat) : (s.setFnState f v).cores = s.cores := rfl
@[simp] theorem State.setFnState_engines (f : Fn) (v : Nat) : (s.setFnState f v).engines = s.engines := rfl
@[simp] theorem State.setFnState_hp (f : Fn) (v : Nat) : (s.setFnState f v).hp = s.hp := rfl
@[simp] theorem State.setFnState_hpOut (f : Fn) (v : Nat) : (s.setFnState f v).hpOut = s.hpOut := rfl
@[simp] theorem State.setFnState_ports (f : Fn) (v : Nat) : (s.setFnState f v).ports = s.ports := rfl
@[simp] theorem State.setFnState_sfOut (f : Fn) (v : Nat) : (s.setFnState f v).sfOut = s.sfOut := rfl
@[simp] theorem State.setFnState_sfSeq (f : Fn) (v : Nat) : (s.setFnState f v).sfSeq = s.sfSeq := rfl
@[simp] theorem State.setFnState_dieSt (f : Fn) (v : Nat) : (s.setFnState f v).dieSt = s.dieSt := rfl
@[simp] theorem State.setFnState_selfFar (f : Fn) (v : Nat) : (s.setFnState f v).selfFar = s.selfFar := rfl
@[simp] theorem State.setFnState_kbStep (f : Fn) (v : Nat) : (s.setFnState f v).kbStep = s.kbStep := rfl
@[simp] theorem State.setFnState_kbEval (f : Fn) (v : Nat) : (s.setFnState f v).kbEval = s.kbEval := rfl
@[simp] theorem State.setFnState_kbRepeat (f : Fn) (v : Nat) : (s.setFnState f v).kbRepeat = s.kbRepeat := rfl
@[simp] theorem State.setFnState_groups (f : Fn) (v : Nat) : (s.setFnState f v).groups = s.groups := rfl
@[simp] theorem State.setFnState_hives (f : Fn) (v : Nat) : (s.setFnState f v).hives = s.hives := rfl
@[simp] theorem State.setFnState_fg (f : Fn) (v : Nat) : (s.setFnState f v).fg = s.fg := rfl
@[simp] theorem State.setFnState_fl (f : Fn) (v : Nat) : (s.setFnState f v).fl = s.fl := rfl
@[simp] theorem State.setFnState_flOut (f : Fn) (v : Nat) : (s.setFnState f v).flOut = s.flOut := rfl
@[simp] theorem State.setFnState_advOut (f : Fn) (v : Nat) : (s.setFnState f v).advOut = s.advOut := rfl
@[simp] theorem State.setFnState_frontIn (f : Fn) (v : Nat) : (s.setFnState f v).frontIn = s.frontIn := rfl
@[simp] theorem State.setFnState_sw (f : Fn) (v : Nat) : (s.setFnState f v).sw = s.sw := rfl
@[simp] theorem State.setFnState_boot (f : Fn) (v : Nat) : (s.setFnState f v).boot = s.boot := rfl
@[simp] theorem State.setFnState_store (f : Fn) (v : Nat) : (s.setFnState f v).store = s.store := rfl
@[simp] theorem State.setFnState_csJob (f : Fn) (v : Nat) : (s.setFnState f v).csJob = s.csJob := rfl
@[simp] theorem State.setFnState_fwJob (f : Fn) (v : Nat) : (s.setFnState f v).fwJob = s.fwJob := rfl
@[simp] theorem State.setFnState_ms (f : Fn) (v : Nat) : (s.setFnState f v).ms = s.ms := rfl
@[simp] theorem State.setFnState_pm (f : Fn) (v : Nat) : (s.setFnState f v).pm = s.pm := rfl
@[simp] theorem State.setFnState_ctx (f : Fn) (v : Nat) (c₁ x₁ : Nat) : (s.setFnState f v).ctx c₁ x₁ = s.ctx c₁ x₁ := rfl
@[simp] theorem State.setFnState_core (f : Fn) (v : Nat) (c₁ : Nat) : (s.setFnState f v).core c₁ = s.core c₁ := rfl
@[simp] theorem State.setFnState_eng (f : Fn) (v : Nat) (c₁ m₁ : Nat) : (s.setFnState f v).eng c₁ m₁ = s.eng c₁ m₁ := rfl
@[simp] theorem State.setFnState_port (f : Fn) (v : Nat) (p₁ : Nat) : (s.setFnState f v).port p₁ = s.port p₁ := rfl
@[simp] theorem State.setFnState_group (f : Fn) (v : Nat) (g₁ : Nat) : (s.setFnState f v).group g₁ = s.group g₁ := rfl
@[simp] theorem State.setFnState_hive (f : Fn) (v : Nat) (h₁ : Nat) : (s.setFnState f v).hive h₁ = s.hive h₁ := rfl
@[simp] theorem State.setFnState_byte (f : Fn) (v : Nat) (a₁ : Nat) : (s.setFnState f v).byte a₁ = s.byte a₁ := rfl

/-! ### State.setCtx -/

@[simp] theorem State.setCtx_pending (c x : Nat) (k : Ctx) : (s.setCtx c x k).pending = s.pending := rfl
@[simp] theorem State.setCtx_freeCtr (c x : Nat) (k : Ctx) : (s.setCtx c x k).freeCtr = s.freeCtr := rfl
@[simp] theorem State.setCtx_nextId (c x : Nat) (k : Ctx) : (s.setCtx c x k).nextId = s.nextId := rfl
@[simp] theorem State.setCtx_cycle (c x : Nat) (k : Ctx) : (s.setCtx c x k).cycle = s.cycle := rfl
@[simp] theorem State.setCtx_ctl (c x : Nat) (k : Ctx) : (s.setCtx c x k).ctl = s.ctl := rfl
@[simp] theorem State.setCtx_rsv (c x : Nat) (k : Ctx) : (s.setCtx c x k).rsv = s.rsv := rfl
@[simp] theorem State.setCtx_mem (c x : Nat) (k : Ctx) : (s.setCtx c x k).mem = s.mem := rfl
@[simp] theorem State.setCtx_ue (c x : Nat) (k : Ctx) : (s.setCtx c x k).ue = s.ue := rfl
@[simp] theorem State.setCtx_sce (c x : Nat) (k : Ctx) : (s.setCtx c x k).sce = s.sce := rfl
@[simp] theorem State.setCtx_cores (c x : Nat) (k : Ctx) : (s.setCtx c x k).cores = s.cores := rfl
@[simp] theorem State.setCtx_engines (c x : Nat) (k : Ctx) : (s.setCtx c x k).engines = s.engines := rfl
@[simp] theorem State.setCtx_hp (c x : Nat) (k : Ctx) : (s.setCtx c x k).hp = s.hp := rfl
@[simp] theorem State.setCtx_hpOut (c x : Nat) (k : Ctx) : (s.setCtx c x k).hpOut = s.hpOut := rfl
@[simp] theorem State.setCtx_ports (c x : Nat) (k : Ctx) : (s.setCtx c x k).ports = s.ports := rfl
@[simp] theorem State.setCtx_sfOut (c x : Nat) (k : Ctx) : (s.setCtx c x k).sfOut = s.sfOut := rfl
@[simp] theorem State.setCtx_sfSeq (c x : Nat) (k : Ctx) : (s.setCtx c x k).sfSeq = s.sfSeq := rfl
@[simp] theorem State.setCtx_dieSt (c x : Nat) (k : Ctx) : (s.setCtx c x k).dieSt = s.dieSt := rfl
@[simp] theorem State.setCtx_selfFar (c x : Nat) (k : Ctx) : (s.setCtx c x k).selfFar = s.selfFar := rfl
@[simp] theorem State.setCtx_kbStep (c x : Nat) (k : Ctx) : (s.setCtx c x k).kbStep = s.kbStep := rfl
@[simp] theorem State.setCtx_kbEval (c x : Nat) (k : Ctx) : (s.setCtx c x k).kbEval = s.kbEval := rfl
@[simp] theorem State.setCtx_kbRepeat (c x : Nat) (k : Ctx) : (s.setCtx c x k).kbRepeat = s.kbRepeat := rfl
@[simp] theorem State.setCtx_groups (c x : Nat) (k : Ctx) : (s.setCtx c x k).groups = s.groups := rfl
@[simp] theorem State.setCtx_hives (c x : Nat) (k : Ctx) : (s.setCtx c x k).hives = s.hives := rfl
@[simp] theorem State.setCtx_fg (c x : Nat) (k : Ctx) : (s.setCtx c x k).fg = s.fg := rfl
@[simp] theorem State.setCtx_fl (c x : Nat) (k : Ctx) : (s.setCtx c x k).fl = s.fl := rfl
@[simp] theorem State.setCtx_flOut (c x : Nat) (k : Ctx) : (s.setCtx c x k).flOut = s.flOut := rfl
@[simp] theorem State.setCtx_advOut (c x : Nat) (k : Ctx) : (s.setCtx c x k).advOut = s.advOut := rfl
@[simp] theorem State.setCtx_frontIn (c x : Nat) (k : Ctx) : (s.setCtx c x k).frontIn = s.frontIn := rfl
@[simp] theorem State.setCtx_sw (c x : Nat) (k : Ctx) : (s.setCtx c x k).sw = s.sw := rfl
@[simp] theorem State.setCtx_boot (c x : Nat) (k : Ctx) : (s.setCtx c x k).boot = s.boot := rfl
@[simp] theorem State.setCtx_store (c x : Nat) (k : Ctx) : (s.setCtx c x k).store = s.store := rfl
@[simp] theorem State.setCtx_csJob (c x : Nat) (k : Ctx) : (s.setCtx c x k).csJob = s.csJob := rfl
@[simp] theorem State.setCtx_fwJob (c x : Nat) (k : Ctx) : (s.setCtx c x k).fwJob = s.fwJob := rfl
@[simp] theorem State.setCtx_ms (c x : Nat) (k : Ctx) : (s.setCtx c x k).ms = s.ms := rfl
@[simp] theorem State.setCtx_pm (c x : Nat) (k : Ctx) : (s.setCtx c x k).pm = s.pm := rfl
@[simp] theorem State.setCtx_word (c x : Nat) (k : Ctx) (b₁ i₁ o₁ : Nat) : (s.setCtx c x k).word b₁ i₁ o₁ = s.word b₁ i₁ o₁ := rfl
@[simp] theorem State.setCtx_fld (c x : Nat) (k : Ctx) (b₁ i₁ o₁ h₁ l₁ : Nat) : (s.setCtx c x k).fld b₁ i₁ o₁ h₁ l₁ = s.fld b₁ i₁ o₁ h₁ l₁ := rfl
@[simp] theorem State.setCtx_word64 (c x : Nat) (k : Ctx) (b₁ i₁ o₁ : Nat) : (s.setCtx c x k).word64 b₁ i₁ o₁ = s.word64 b₁ i₁ o₁ := rfl
@[simp] theorem State.setCtx_fnState (c x : Nat) (k : Ctx) (f₁ : Fn) : (s.setCtx c x k).fnState f₁ = s.fnState f₁ := rfl
@[simp] theorem State.setCtx_core (c x : Nat) (k : Ctx) (c₁ : Nat) : (s.setCtx c x k).core c₁ = s.core c₁ := rfl
@[simp] theorem State.setCtx_eng (c x : Nat) (k : Ctx) (c₁ m₁ : Nat) : (s.setCtx c x k).eng c₁ m₁ = s.eng c₁ m₁ := rfl
@[simp] theorem State.setCtx_port (c x : Nat) (k : Ctx) (p₁ : Nat) : (s.setCtx c x k).port p₁ = s.port p₁ := rfl
@[simp] theorem State.setCtx_group (c x : Nat) (k : Ctx) (g₁ : Nat) : (s.setCtx c x k).group g₁ = s.group g₁ := rfl
@[simp] theorem State.setCtx_hive (c x : Nat) (k : Ctx) (h₁ : Nat) : (s.setCtx c x k).hive h₁ = s.hive h₁ := rfl
@[simp] theorem State.setCtx_byte (c x : Nat) (k : Ctx) (a₁ : Nat) : (s.setCtx c x k).byte a₁ = s.byte a₁ := rfl

/-! ### State.updCtx -/

@[simp] theorem State.updCtx_pending (c x : Nat) (f : Ctx → Ctx) : (s.updCtx c x f).pending = s.pending := rfl
@[simp] theorem State.updCtx_freeCtr (c x : Nat) (f : Ctx → Ctx) : (s.updCtx c x f).freeCtr = s.freeCtr := rfl
@[simp] theorem State.updCtx_nextId (c x : Nat) (f : Ctx → Ctx) : (s.updCtx c x f).nextId = s.nextId := rfl
@[simp] theorem State.updCtx_cycle (c x : Nat) (f : Ctx → Ctx) : (s.updCtx c x f).cycle = s.cycle := rfl
@[simp] theorem State.updCtx_ctl (c x : Nat) (f : Ctx → Ctx) : (s.updCtx c x f).ctl = s.ctl := rfl
@[simp] theorem State.updCtx_rsv (c x : Nat) (f : Ctx → Ctx) : (s.updCtx c x f).rsv = s.rsv := rfl
@[simp] theorem State.updCtx_mem (c x : Nat) (f : Ctx → Ctx) : (s.updCtx c x f).mem = s.mem := rfl
@[simp] theorem State.updCtx_ue (c x : Nat) (f : Ctx → Ctx) : (s.updCtx c x f).ue = s.ue := rfl
@[simp] theorem State.updCtx_sce (c x : Nat) (f : Ctx → Ctx) : (s.updCtx c x f).sce = s.sce := rfl
@[simp] theorem State.updCtx_cores (c x : Nat) (f : Ctx → Ctx) : (s.updCtx c x f).cores = s.cores := rfl
@[simp] theorem State.updCtx_engines (c x : Nat) (f : Ctx → Ctx) : (s.updCtx c x f).engines = s.engines := rfl
@[simp] theorem State.updCtx_hp (c x : Nat) (f : Ctx → Ctx) : (s.updCtx c x f).hp = s.hp := rfl
@[simp] theorem State.updCtx_hpOut (c x : Nat) (f : Ctx → Ctx) : (s.updCtx c x f).hpOut = s.hpOut := rfl
@[simp] theorem State.updCtx_ports (c x : Nat) (f : Ctx → Ctx) : (s.updCtx c x f).ports = s.ports := rfl
@[simp] theorem State.updCtx_sfOut (c x : Nat) (f : Ctx → Ctx) : (s.updCtx c x f).sfOut = s.sfOut := rfl
@[simp] theorem State.updCtx_sfSeq (c x : Nat) (f : Ctx → Ctx) : (s.updCtx c x f).sfSeq = s.sfSeq := rfl
@[simp] theorem State.updCtx_dieSt (c x : Nat) (f : Ctx → Ctx) : (s.updCtx c x f).dieSt = s.dieSt := rfl
@[simp] theorem State.updCtx_selfFar (c x : Nat) (f : Ctx → Ctx) : (s.updCtx c x f).selfFar = s.selfFar := rfl
@[simp] theorem State.updCtx_kbStep (c x : Nat) (f : Ctx → Ctx) : (s.updCtx c x f).kbStep = s.kbStep := rfl
@[simp] theorem State.updCtx_kbEval (c x : Nat) (f : Ctx → Ctx) : (s.updCtx c x f).kbEval = s.kbEval := rfl
@[simp] theorem State.updCtx_kbRepeat (c x : Nat) (f : Ctx → Ctx) : (s.updCtx c x f).kbRepeat = s.kbRepeat := rfl
@[simp] theorem State.updCtx_groups (c x : Nat) (f : Ctx → Ctx) : (s.updCtx c x f).groups = s.groups := rfl
@[simp] theorem State.updCtx_hives (c x : Nat) (f : Ctx → Ctx) : (s.updCtx c x f).hives = s.hives := rfl
@[simp] theorem State.updCtx_fg (c x : Nat) (f : Ctx → Ctx) : (s.updCtx c x f).fg = s.fg := rfl
@[simp] theorem State.updCtx_fl (c x : Nat) (f : Ctx → Ctx) : (s.updCtx c x f).fl = s.fl := rfl
@[simp] theorem State.updCtx_flOut (c x : Nat) (f : Ctx → Ctx) : (s.updCtx c x f).flOut = s.flOut := rfl
@[simp] theorem State.updCtx_advOut (c x : Nat) (f : Ctx → Ctx) : (s.updCtx c x f).advOut = s.advOut := rfl
@[simp] theorem State.updCtx_frontIn (c x : Nat) (f : Ctx → Ctx) : (s.updCtx c x f).frontIn = s.frontIn := rfl
@[simp] theorem State.updCtx_sw (c x : Nat) (f : Ctx → Ctx) : (s.updCtx c x f).sw = s.sw := rfl
@[simp] theorem State.updCtx_boot (c x : Nat) (f : Ctx → Ctx) : (s.updCtx c x f).boot = s.boot := rfl
@[simp] theorem State.updCtx_store (c x : Nat) (f : Ctx → Ctx) : (s.updCtx c x f).store = s.store := rfl
@[simp] theorem State.updCtx_csJob (c x : Nat) (f : Ctx → Ctx) : (s.updCtx c x f).csJob = s.csJob := rfl
@[simp] theorem State.updCtx_fwJob (c x : Nat) (f : Ctx → Ctx) : (s.updCtx c x f).fwJob = s.fwJob := rfl
@[simp] theorem State.updCtx_ms (c x : Nat) (f : Ctx → Ctx) : (s.updCtx c x f).ms = s.ms := rfl
@[simp] theorem State.updCtx_pm (c x : Nat) (f : Ctx → Ctx) : (s.updCtx c x f).pm = s.pm := rfl
@[simp] theorem State.updCtx_word (c x : Nat) (f : Ctx → Ctx) (b₁ i₁ o₁ : Nat) : (s.updCtx c x f).word b₁ i₁ o₁ = s.word b₁ i₁ o₁ := rfl
@[simp] theorem State.updCtx_fld (c x : Nat) (f : Ctx → Ctx) (b₁ i₁ o₁ h₁ l₁ : Nat) : (s.updCtx c x f).fld b₁ i₁ o₁ h₁ l₁ = s.fld b₁ i₁ o₁ h₁ l₁ := rfl
@[simp] theorem State.updCtx_word64 (c x : Nat) (f : Ctx → Ctx) (b₁ i₁ o₁ : Nat) : (s.updCtx c x f).word64 b₁ i₁ o₁ = s.word64 b₁ i₁ o₁ := rfl
@[simp] theorem State.updCtx_fnState (c x : Nat) (f : Ctx → Ctx) (f₁ : Fn) : (s.updCtx c x f).fnState f₁ = s.fnState f₁ := rfl
@[simp] theorem State.updCtx_core (c x : Nat) (f : Ctx → Ctx) (c₁ : Nat) : (s.updCtx c x f).core c₁ = s.core c₁ := rfl
@[simp] theorem State.updCtx_eng (c x : Nat) (f : Ctx → Ctx) (c₁ m₁ : Nat) : (s.updCtx c x f).eng c₁ m₁ = s.eng c₁ m₁ := rfl
@[simp] theorem State.updCtx_port (c x : Nat) (f : Ctx → Ctx) (p₁ : Nat) : (s.updCtx c x f).port p₁ = s.port p₁ := rfl
@[simp] theorem State.updCtx_group (c x : Nat) (f : Ctx → Ctx) (g₁ : Nat) : (s.updCtx c x f).group g₁ = s.group g₁ := rfl
@[simp] theorem State.updCtx_hive (c x : Nat) (f : Ctx → Ctx) (h₁ : Nat) : (s.updCtx c x f).hive h₁ = s.hive h₁ := rfl
@[simp] theorem State.updCtx_byte (c x : Nat) (f : Ctx → Ctx) (a₁ : Nat) : (s.updCtx c x f).byte a₁ = s.byte a₁ := rfl

/-! ### State.updCore -/

@[simp] theorem State.updCore_pending (c : Nat) (f : Core → Core) : (s.updCore c f).pending = s.pending := rfl
@[simp] theorem State.updCore_freeCtr (c : Nat) (f : Core → Core) : (s.updCore c f).freeCtr = s.freeCtr := rfl
@[simp] theorem State.updCore_nextId (c : Nat) (f : Core → Core) : (s.updCore c f).nextId = s.nextId := rfl
@[simp] theorem State.updCore_cycle (c : Nat) (f : Core → Core) : (s.updCore c f).cycle = s.cycle := rfl
@[simp] theorem State.updCore_ctl (c : Nat) (f : Core → Core) : (s.updCore c f).ctl = s.ctl := rfl
@[simp] theorem State.updCore_rsv (c : Nat) (f : Core → Core) : (s.updCore c f).rsv = s.rsv := rfl
@[simp] theorem State.updCore_mem (c : Nat) (f : Core → Core) : (s.updCore c f).mem = s.mem := rfl
@[simp] theorem State.updCore_ue (c : Nat) (f : Core → Core) : (s.updCore c f).ue = s.ue := rfl
@[simp] theorem State.updCore_sce (c : Nat) (f : Core → Core) : (s.updCore c f).sce = s.sce := rfl
@[simp] theorem State.updCore_ctxs (c : Nat) (f : Core → Core) : (s.updCore c f).ctxs = s.ctxs := rfl
@[simp] theorem State.updCore_engines (c : Nat) (f : Core → Core) : (s.updCore c f).engines = s.engines := rfl
@[simp] theorem State.updCore_hp (c : Nat) (f : Core → Core) : (s.updCore c f).hp = s.hp := rfl
@[simp] theorem State.updCore_hpOut (c : Nat) (f : Core → Core) : (s.updCore c f).hpOut = s.hpOut := rfl
@[simp] theorem State.updCore_ports (c : Nat) (f : Core → Core) : (s.updCore c f).ports = s.ports := rfl
@[simp] theorem State.updCore_sfOut (c : Nat) (f : Core → Core) : (s.updCore c f).sfOut = s.sfOut := rfl
@[simp] theorem State.updCore_sfSeq (c : Nat) (f : Core → Core) : (s.updCore c f).sfSeq = s.sfSeq := rfl
@[simp] theorem State.updCore_dieSt (c : Nat) (f : Core → Core) : (s.updCore c f).dieSt = s.dieSt := rfl
@[simp] theorem State.updCore_selfFar (c : Nat) (f : Core → Core) : (s.updCore c f).selfFar = s.selfFar := rfl
@[simp] theorem State.updCore_kbStep (c : Nat) (f : Core → Core) : (s.updCore c f).kbStep = s.kbStep := rfl
@[simp] theorem State.updCore_kbEval (c : Nat) (f : Core → Core) : (s.updCore c f).kbEval = s.kbEval := rfl
@[simp] theorem State.updCore_kbRepeat (c : Nat) (f : Core → Core) : (s.updCore c f).kbRepeat = s.kbRepeat := rfl
@[simp] theorem State.updCore_groups (c : Nat) (f : Core → Core) : (s.updCore c f).groups = s.groups := rfl
@[simp] theorem State.updCore_hives (c : Nat) (f : Core → Core) : (s.updCore c f).hives = s.hives := rfl
@[simp] theorem State.updCore_fg (c : Nat) (f : Core → Core) : (s.updCore c f).fg = s.fg := rfl
@[simp] theorem State.updCore_fl (c : Nat) (f : Core → Core) : (s.updCore c f).fl = s.fl := rfl
@[simp] theorem State.updCore_flOut (c : Nat) (f : Core → Core) : (s.updCore c f).flOut = s.flOut := rfl
@[simp] theorem State.updCore_advOut (c : Nat) (f : Core → Core) : (s.updCore c f).advOut = s.advOut := rfl
@[simp] theorem State.updCore_frontIn (c : Nat) (f : Core → Core) : (s.updCore c f).frontIn = s.frontIn := rfl
@[simp] theorem State.updCore_sw (c : Nat) (f : Core → Core) : (s.updCore c f).sw = s.sw := rfl
@[simp] theorem State.updCore_boot (c : Nat) (f : Core → Core) : (s.updCore c f).boot = s.boot := rfl
@[simp] theorem State.updCore_store (c : Nat) (f : Core → Core) : (s.updCore c f).store = s.store := rfl
@[simp] theorem State.updCore_csJob (c : Nat) (f : Core → Core) : (s.updCore c f).csJob = s.csJob := rfl
@[simp] theorem State.updCore_fwJob (c : Nat) (f : Core → Core) : (s.updCore c f).fwJob = s.fwJob := rfl
@[simp] theorem State.updCore_ms (c : Nat) (f : Core → Core) : (s.updCore c f).ms = s.ms := rfl
@[simp] theorem State.updCore_pm (c : Nat) (f : Core → Core) : (s.updCore c f).pm = s.pm := rfl
@[simp] theorem State.updCore_word (c : Nat) (f : Core → Core) (b₁ i₁ o₁ : Nat) : (s.updCore c f).word b₁ i₁ o₁ = s.word b₁ i₁ o₁ := rfl
@[simp] theorem State.updCore_fld (c : Nat) (f : Core → Core) (b₁ i₁ o₁ h₁ l₁ : Nat) : (s.updCore c f).fld b₁ i₁ o₁ h₁ l₁ = s.fld b₁ i₁ o₁ h₁ l₁ := rfl
@[simp] theorem State.updCore_word64 (c : Nat) (f : Core → Core) (b₁ i₁ o₁ : Nat) : (s.updCore c f).word64 b₁ i₁ o₁ = s.word64 b₁ i₁ o₁ := rfl
@[simp] theorem State.updCore_fnState (c : Nat) (f : Core → Core) (f₁ : Fn) : (s.updCore c f).fnState f₁ = s.fnState f₁ := rfl
@[simp] theorem State.updCore_ctx (c : Nat) (f : Core → Core) (c₁ x₁ : Nat) : (s.updCore c f).ctx c₁ x₁ = s.ctx c₁ x₁ := rfl
@[simp] theorem State.updCore_eng (c : Nat) (f : Core → Core) (c₁ m₁ : Nat) : (s.updCore c f).eng c₁ m₁ = s.eng c₁ m₁ := rfl
@[simp] theorem State.updCore_port (c : Nat) (f : Core → Core) (p₁ : Nat) : (s.updCore c f).port p₁ = s.port p₁ := rfl
@[simp] theorem State.updCore_group (c : Nat) (f : Core → Core) (g₁ : Nat) : (s.updCore c f).group g₁ = s.group g₁ := rfl
@[simp] theorem State.updCore_hive (c : Nat) (f : Core → Core) (h₁ : Nat) : (s.updCore c f).hive h₁ = s.hive h₁ := rfl
@[simp] theorem State.updCore_byte (c : Nat) (f : Core → Core) (a₁ : Nat) : (s.updCore c f).byte a₁ = s.byte a₁ := rfl

/-! ### State.updEng -/

@[simp] theorem State.updEng_pending (c m : Nat) (f : Engine → Engine) : (s.updEng c m f).pending = s.pending := rfl
@[simp] theorem State.updEng_freeCtr (c m : Nat) (f : Engine → Engine) : (s.updEng c m f).freeCtr = s.freeCtr := rfl
@[simp] theorem State.updEng_nextId (c m : Nat) (f : Engine → Engine) : (s.updEng c m f).nextId = s.nextId := rfl
@[simp] theorem State.updEng_cycle (c m : Nat) (f : Engine → Engine) : (s.updEng c m f).cycle = s.cycle := rfl
@[simp] theorem State.updEng_ctl (c m : Nat) (f : Engine → Engine) : (s.updEng c m f).ctl = s.ctl := rfl
@[simp] theorem State.updEng_rsv (c m : Nat) (f : Engine → Engine) : (s.updEng c m f).rsv = s.rsv := rfl
@[simp] theorem State.updEng_mem (c m : Nat) (f : Engine → Engine) : (s.updEng c m f).mem = s.mem := rfl
@[simp] theorem State.updEng_ue (c m : Nat) (f : Engine → Engine) : (s.updEng c m f).ue = s.ue := rfl
@[simp] theorem State.updEng_sce (c m : Nat) (f : Engine → Engine) : (s.updEng c m f).sce = s.sce := rfl
@[simp] theorem State.updEng_ctxs (c m : Nat) (f : Engine → Engine) : (s.updEng c m f).ctxs = s.ctxs := rfl
@[simp] theorem State.updEng_cores (c m : Nat) (f : Engine → Engine) : (s.updEng c m f).cores = s.cores := rfl
@[simp] theorem State.updEng_hp (c m : Nat) (f : Engine → Engine) : (s.updEng c m f).hp = s.hp := rfl
@[simp] theorem State.updEng_hpOut (c m : Nat) (f : Engine → Engine) : (s.updEng c m f).hpOut = s.hpOut := rfl
@[simp] theorem State.updEng_ports (c m : Nat) (f : Engine → Engine) : (s.updEng c m f).ports = s.ports := rfl
@[simp] theorem State.updEng_sfOut (c m : Nat) (f : Engine → Engine) : (s.updEng c m f).sfOut = s.sfOut := rfl
@[simp] theorem State.updEng_sfSeq (c m : Nat) (f : Engine → Engine) : (s.updEng c m f).sfSeq = s.sfSeq := rfl
@[simp] theorem State.updEng_dieSt (c m : Nat) (f : Engine → Engine) : (s.updEng c m f).dieSt = s.dieSt := rfl
@[simp] theorem State.updEng_selfFar (c m : Nat) (f : Engine → Engine) : (s.updEng c m f).selfFar = s.selfFar := rfl
@[simp] theorem State.updEng_kbStep (c m : Nat) (f : Engine → Engine) : (s.updEng c m f).kbStep = s.kbStep := rfl
@[simp] theorem State.updEng_kbEval (c m : Nat) (f : Engine → Engine) : (s.updEng c m f).kbEval = s.kbEval := rfl
@[simp] theorem State.updEng_kbRepeat (c m : Nat) (f : Engine → Engine) : (s.updEng c m f).kbRepeat = s.kbRepeat := rfl
@[simp] theorem State.updEng_groups (c m : Nat) (f : Engine → Engine) : (s.updEng c m f).groups = s.groups := rfl
@[simp] theorem State.updEng_hives (c m : Nat) (f : Engine → Engine) : (s.updEng c m f).hives = s.hives := rfl
@[simp] theorem State.updEng_fg (c m : Nat) (f : Engine → Engine) : (s.updEng c m f).fg = s.fg := rfl
@[simp] theorem State.updEng_fl (c m : Nat) (f : Engine → Engine) : (s.updEng c m f).fl = s.fl := rfl
@[simp] theorem State.updEng_flOut (c m : Nat) (f : Engine → Engine) : (s.updEng c m f).flOut = s.flOut := rfl
@[simp] theorem State.updEng_advOut (c m : Nat) (f : Engine → Engine) : (s.updEng c m f).advOut = s.advOut := rfl
@[simp] theorem State.updEng_frontIn (c m : Nat) (f : Engine → Engine) : (s.updEng c m f).frontIn = s.frontIn := rfl
@[simp] theorem State.updEng_sw (c m : Nat) (f : Engine → Engine) : (s.updEng c m f).sw = s.sw := rfl
@[simp] theorem State.updEng_boot (c m : Nat) (f : Engine → Engine) : (s.updEng c m f).boot = s.boot := rfl
@[simp] theorem State.updEng_store (c m : Nat) (f : Engine → Engine) : (s.updEng c m f).store = s.store := rfl
@[simp] theorem State.updEng_csJob (c m : Nat) (f : Engine → Engine) : (s.updEng c m f).csJob = s.csJob := rfl
@[simp] theorem State.updEng_fwJob (c m : Nat) (f : Engine → Engine) : (s.updEng c m f).fwJob = s.fwJob := rfl
@[simp] theorem State.updEng_ms (c m : Nat) (f : Engine → Engine) : (s.updEng c m f).ms = s.ms := rfl
@[simp] theorem State.updEng_pm (c m : Nat) (f : Engine → Engine) : (s.updEng c m f).pm = s.pm := rfl
@[simp] theorem State.updEng_word (c m : Nat) (f : Engine → Engine) (b₁ i₁ o₁ : Nat) : (s.updEng c m f).word b₁ i₁ o₁ = s.word b₁ i₁ o₁ := rfl
@[simp] theorem State.updEng_fld (c m : Nat) (f : Engine → Engine) (b₁ i₁ o₁ h₁ l₁ : Nat) : (s.updEng c m f).fld b₁ i₁ o₁ h₁ l₁ = s.fld b₁ i₁ o₁ h₁ l₁ := rfl
@[simp] theorem State.updEng_word64 (c m : Nat) (f : Engine → Engine) (b₁ i₁ o₁ : Nat) : (s.updEng c m f).word64 b₁ i₁ o₁ = s.word64 b₁ i₁ o₁ := rfl
@[simp] theorem State.updEng_fnState (c m : Nat) (f : Engine → Engine) (f₁ : Fn) : (s.updEng c m f).fnState f₁ = s.fnState f₁ := rfl
@[simp] theorem State.updEng_ctx (c m : Nat) (f : Engine → Engine) (c₁ x₁ : Nat) : (s.updEng c m f).ctx c₁ x₁ = s.ctx c₁ x₁ := rfl
@[simp] theorem State.updEng_core (c m : Nat) (f : Engine → Engine) (c₁ : Nat) : (s.updEng c m f).core c₁ = s.core c₁ := rfl
@[simp] theorem State.updEng_port (c m : Nat) (f : Engine → Engine) (p₁ : Nat) : (s.updEng c m f).port p₁ = s.port p₁ := rfl
@[simp] theorem State.updEng_group (c m : Nat) (f : Engine → Engine) (g₁ : Nat) : (s.updEng c m f).group g₁ = s.group g₁ := rfl
@[simp] theorem State.updEng_hive (c m : Nat) (f : Engine → Engine) (h₁ : Nat) : (s.updEng c m f).hive h₁ = s.hive h₁ := rfl
@[simp] theorem State.updEng_byte (c m : Nat) (f : Engine → Engine) (a₁ : Nat) : (s.updEng c m f).byte a₁ = s.byte a₁ := rfl

/-! ### State.updPort -/

@[simp] theorem State.updPort_pending (p : Nat) (f : SfPort → SfPort) : (s.updPort p f).pending = s.pending := rfl
@[simp] theorem State.updPort_freeCtr (p : Nat) (f : SfPort → SfPort) : (s.updPort p f).freeCtr = s.freeCtr := rfl
@[simp] theorem State.updPort_nextId (p : Nat) (f : SfPort → SfPort) : (s.updPort p f).nextId = s.nextId := rfl
@[simp] theorem State.updPort_cycle (p : Nat) (f : SfPort → SfPort) : (s.updPort p f).cycle = s.cycle := rfl
@[simp] theorem State.updPort_ctl (p : Nat) (f : SfPort → SfPort) : (s.updPort p f).ctl = s.ctl := rfl
@[simp] theorem State.updPort_rsv (p : Nat) (f : SfPort → SfPort) : (s.updPort p f).rsv = s.rsv := rfl
@[simp] theorem State.updPort_mem (p : Nat) (f : SfPort → SfPort) : (s.updPort p f).mem = s.mem := rfl
@[simp] theorem State.updPort_ue (p : Nat) (f : SfPort → SfPort) : (s.updPort p f).ue = s.ue := rfl
@[simp] theorem State.updPort_sce (p : Nat) (f : SfPort → SfPort) : (s.updPort p f).sce = s.sce := rfl
@[simp] theorem State.updPort_ctxs (p : Nat) (f : SfPort → SfPort) : (s.updPort p f).ctxs = s.ctxs := rfl
@[simp] theorem State.updPort_cores (p : Nat) (f : SfPort → SfPort) : (s.updPort p f).cores = s.cores := rfl
@[simp] theorem State.updPort_engines (p : Nat) (f : SfPort → SfPort) : (s.updPort p f).engines = s.engines := rfl
@[simp] theorem State.updPort_hp (p : Nat) (f : SfPort → SfPort) : (s.updPort p f).hp = s.hp := rfl
@[simp] theorem State.updPort_hpOut (p : Nat) (f : SfPort → SfPort) : (s.updPort p f).hpOut = s.hpOut := rfl
@[simp] theorem State.updPort_sfOut (p : Nat) (f : SfPort → SfPort) : (s.updPort p f).sfOut = s.sfOut := rfl
@[simp] theorem State.updPort_sfSeq (p : Nat) (f : SfPort → SfPort) : (s.updPort p f).sfSeq = s.sfSeq := rfl
@[simp] theorem State.updPort_dieSt (p : Nat) (f : SfPort → SfPort) : (s.updPort p f).dieSt = s.dieSt := rfl
@[simp] theorem State.updPort_selfFar (p : Nat) (f : SfPort → SfPort) : (s.updPort p f).selfFar = s.selfFar := rfl
@[simp] theorem State.updPort_kbStep (p : Nat) (f : SfPort → SfPort) : (s.updPort p f).kbStep = s.kbStep := rfl
@[simp] theorem State.updPort_kbEval (p : Nat) (f : SfPort → SfPort) : (s.updPort p f).kbEval = s.kbEval := rfl
@[simp] theorem State.updPort_kbRepeat (p : Nat) (f : SfPort → SfPort) : (s.updPort p f).kbRepeat = s.kbRepeat := rfl
@[simp] theorem State.updPort_groups (p : Nat) (f : SfPort → SfPort) : (s.updPort p f).groups = s.groups := rfl
@[simp] theorem State.updPort_hives (p : Nat) (f : SfPort → SfPort) : (s.updPort p f).hives = s.hives := rfl
@[simp] theorem State.updPort_fg (p : Nat) (f : SfPort → SfPort) : (s.updPort p f).fg = s.fg := rfl
@[simp] theorem State.updPort_fl (p : Nat) (f : SfPort → SfPort) : (s.updPort p f).fl = s.fl := rfl
@[simp] theorem State.updPort_flOut (p : Nat) (f : SfPort → SfPort) : (s.updPort p f).flOut = s.flOut := rfl
@[simp] theorem State.updPort_advOut (p : Nat) (f : SfPort → SfPort) : (s.updPort p f).advOut = s.advOut := rfl
@[simp] theorem State.updPort_frontIn (p : Nat) (f : SfPort → SfPort) : (s.updPort p f).frontIn = s.frontIn := rfl
@[simp] theorem State.updPort_sw (p : Nat) (f : SfPort → SfPort) : (s.updPort p f).sw = s.sw := rfl
@[simp] theorem State.updPort_boot (p : Nat) (f : SfPort → SfPort) : (s.updPort p f).boot = s.boot := rfl
@[simp] theorem State.updPort_store (p : Nat) (f : SfPort → SfPort) : (s.updPort p f).store = s.store := rfl
@[simp] theorem State.updPort_csJob (p : Nat) (f : SfPort → SfPort) : (s.updPort p f).csJob = s.csJob := rfl
@[simp] theorem State.updPort_fwJob (p : Nat) (f : SfPort → SfPort) : (s.updPort p f).fwJob = s.fwJob := rfl
@[simp] theorem State.updPort_ms (p : Nat) (f : SfPort → SfPort) : (s.updPort p f).ms = s.ms := rfl
@[simp] theorem State.updPort_pm (p : Nat) (f : SfPort → SfPort) : (s.updPort p f).pm = s.pm := rfl
@[simp] theorem State.updPort_word (p : Nat) (f : SfPort → SfPort) (b₁ i₁ o₁ : Nat) : (s.updPort p f).word b₁ i₁ o₁ = s.word b₁ i₁ o₁ := rfl
@[simp] theorem State.updPort_fld (p : Nat) (f : SfPort → SfPort) (b₁ i₁ o₁ h₁ l₁ : Nat) : (s.updPort p f).fld b₁ i₁ o₁ h₁ l₁ = s.fld b₁ i₁ o₁ h₁ l₁ := rfl
@[simp] theorem State.updPort_word64 (p : Nat) (f : SfPort → SfPort) (b₁ i₁ o₁ : Nat) : (s.updPort p f).word64 b₁ i₁ o₁ = s.word64 b₁ i₁ o₁ := rfl
@[simp] theorem State.updPort_fnState (p : Nat) (f : SfPort → SfPort) (f₁ : Fn) : (s.updPort p f).fnState f₁ = s.fnState f₁ := rfl
@[simp] theorem State.updPort_ctx (p : Nat) (f : SfPort → SfPort) (c₁ x₁ : Nat) : (s.updPort p f).ctx c₁ x₁ = s.ctx c₁ x₁ := rfl
@[simp] theorem State.updPort_core (p : Nat) (f : SfPort → SfPort) (c₁ : Nat) : (s.updPort p f).core c₁ = s.core c₁ := rfl
@[simp] theorem State.updPort_eng (p : Nat) (f : SfPort → SfPort) (c₁ m₁ : Nat) : (s.updPort p f).eng c₁ m₁ = s.eng c₁ m₁ := rfl
@[simp] theorem State.updPort_group (p : Nat) (f : SfPort → SfPort) (g₁ : Nat) : (s.updPort p f).group g₁ = s.group g₁ := rfl
@[simp] theorem State.updPort_hive (p : Nat) (f : SfPort → SfPort) (h₁ : Nat) : (s.updPort p f).hive h₁ = s.hive h₁ := rfl
@[simp] theorem State.updPort_byte (p : Nat) (f : SfPort → SfPort) (a₁ : Nat) : (s.updPort p f).byte a₁ = s.byte a₁ := rfl

/-! ### State.updGroup -/

@[simp] theorem State.updGroup_pending (g : Nat) (f : Group → Group) : (s.updGroup g f).pending = s.pending := rfl
@[simp] theorem State.updGroup_freeCtr (g : Nat) (f : Group → Group) : (s.updGroup g f).freeCtr = s.freeCtr := rfl
@[simp] theorem State.updGroup_nextId (g : Nat) (f : Group → Group) : (s.updGroup g f).nextId = s.nextId := rfl
@[simp] theorem State.updGroup_cycle (g : Nat) (f : Group → Group) : (s.updGroup g f).cycle = s.cycle := rfl
@[simp] theorem State.updGroup_ctl (g : Nat) (f : Group → Group) : (s.updGroup g f).ctl = s.ctl := rfl
@[simp] theorem State.updGroup_rsv (g : Nat) (f : Group → Group) : (s.updGroup g f).rsv = s.rsv := rfl
@[simp] theorem State.updGroup_mem (g : Nat) (f : Group → Group) : (s.updGroup g f).mem = s.mem := rfl
@[simp] theorem State.updGroup_ue (g : Nat) (f : Group → Group) : (s.updGroup g f).ue = s.ue := rfl
@[simp] theorem State.updGroup_sce (g : Nat) (f : Group → Group) : (s.updGroup g f).sce = s.sce := rfl
@[simp] theorem State.updGroup_ctxs (g : Nat) (f : Group → Group) : (s.updGroup g f).ctxs = s.ctxs := rfl
@[simp] theorem State.updGroup_cores (g : Nat) (f : Group → Group) : (s.updGroup g f).cores = s.cores := rfl
@[simp] theorem State.updGroup_engines (g : Nat) (f : Group → Group) : (s.updGroup g f).engines = s.engines := rfl
@[simp] theorem State.updGroup_hp (g : Nat) (f : Group → Group) : (s.updGroup g f).hp = s.hp := rfl
@[simp] theorem State.updGroup_hpOut (g : Nat) (f : Group → Group) : (s.updGroup g f).hpOut = s.hpOut := rfl
@[simp] theorem State.updGroup_ports (g : Nat) (f : Group → Group) : (s.updGroup g f).ports = s.ports := rfl
@[simp] theorem State.updGroup_sfOut (g : Nat) (f : Group → Group) : (s.updGroup g f).sfOut = s.sfOut := rfl
@[simp] theorem State.updGroup_sfSeq (g : Nat) (f : Group → Group) : (s.updGroup g f).sfSeq = s.sfSeq := rfl
@[simp] theorem State.updGroup_dieSt (g : Nat) (f : Group → Group) : (s.updGroup g f).dieSt = s.dieSt := rfl
@[simp] theorem State.updGroup_selfFar (g : Nat) (f : Group → Group) : (s.updGroup g f).selfFar = s.selfFar := rfl
@[simp] theorem State.updGroup_kbStep (g : Nat) (f : Group → Group) : (s.updGroup g f).kbStep = s.kbStep := rfl
@[simp] theorem State.updGroup_kbEval (g : Nat) (f : Group → Group) : (s.updGroup g f).kbEval = s.kbEval := rfl
@[simp] theorem State.updGroup_kbRepeat (g : Nat) (f : Group → Group) : (s.updGroup g f).kbRepeat = s.kbRepeat := rfl
@[simp] theorem State.updGroup_hives (g : Nat) (f : Group → Group) : (s.updGroup g f).hives = s.hives := rfl
@[simp] theorem State.updGroup_fg (g : Nat) (f : Group → Group) : (s.updGroup g f).fg = s.fg := rfl
@[simp] theorem State.updGroup_fl (g : Nat) (f : Group → Group) : (s.updGroup g f).fl = s.fl := rfl
@[simp] theorem State.updGroup_flOut (g : Nat) (f : Group → Group) : (s.updGroup g f).flOut = s.flOut := rfl
@[simp] theorem State.updGroup_advOut (g : Nat) (f : Group → Group) : (s.updGroup g f).advOut = s.advOut := rfl
@[simp] theorem State.updGroup_frontIn (g : Nat) (f : Group → Group) : (s.updGroup g f).frontIn = s.frontIn := rfl
@[simp] theorem State.updGroup_sw (g : Nat) (f : Group → Group) : (s.updGroup g f).sw = s.sw := rfl
@[simp] theorem State.updGroup_boot (g : Nat) (f : Group → Group) : (s.updGroup g f).boot = s.boot := rfl
@[simp] theorem State.updGroup_store (g : Nat) (f : Group → Group) : (s.updGroup g f).store = s.store := rfl
@[simp] theorem State.updGroup_csJob (g : Nat) (f : Group → Group) : (s.updGroup g f).csJob = s.csJob := rfl
@[simp] theorem State.updGroup_fwJob (g : Nat) (f : Group → Group) : (s.updGroup g f).fwJob = s.fwJob := rfl
@[simp] theorem State.updGroup_ms (g : Nat) (f : Group → Group) : (s.updGroup g f).ms = s.ms := rfl
@[simp] theorem State.updGroup_pm (g : Nat) (f : Group → Group) : (s.updGroup g f).pm = s.pm := rfl
@[simp] theorem State.updGroup_word (g : Nat) (f : Group → Group) (b₁ i₁ o₁ : Nat) : (s.updGroup g f).word b₁ i₁ o₁ = s.word b₁ i₁ o₁ := rfl
@[simp] theorem State.updGroup_fld (g : Nat) (f : Group → Group) (b₁ i₁ o₁ h₁ l₁ : Nat) : (s.updGroup g f).fld b₁ i₁ o₁ h₁ l₁ = s.fld b₁ i₁ o₁ h₁ l₁ := rfl
@[simp] theorem State.updGroup_word64 (g : Nat) (f : Group → Group) (b₁ i₁ o₁ : Nat) : (s.updGroup g f).word64 b₁ i₁ o₁ = s.word64 b₁ i₁ o₁ := rfl
@[simp] theorem State.updGroup_fnState (g : Nat) (f : Group → Group) (f₁ : Fn) : (s.updGroup g f).fnState f₁ = s.fnState f₁ := rfl
@[simp] theorem State.updGroup_ctx (g : Nat) (f : Group → Group) (c₁ x₁ : Nat) : (s.updGroup g f).ctx c₁ x₁ = s.ctx c₁ x₁ := rfl
@[simp] theorem State.updGroup_core (g : Nat) (f : Group → Group) (c₁ : Nat) : (s.updGroup g f).core c₁ = s.core c₁ := rfl
@[simp] theorem State.updGroup_eng (g : Nat) (f : Group → Group) (c₁ m₁ : Nat) : (s.updGroup g f).eng c₁ m₁ = s.eng c₁ m₁ := rfl
@[simp] theorem State.updGroup_port (g : Nat) (f : Group → Group) (p₁ : Nat) : (s.updGroup g f).port p₁ = s.port p₁ := rfl
@[simp] theorem State.updGroup_hive (g : Nat) (f : Group → Group) (h₁ : Nat) : (s.updGroup g f).hive h₁ = s.hive h₁ := rfl
@[simp] theorem State.updGroup_byte (g : Nat) (f : Group → Group) (a₁ : Nat) : (s.updGroup g f).byte a₁ = s.byte a₁ := rfl

/-! ### State.updHive -/

@[simp] theorem State.updHive_pending (h : Nat) (f : Hive → Hive) : (s.updHive h f).pending = s.pending := rfl
@[simp] theorem State.updHive_freeCtr (h : Nat) (f : Hive → Hive) : (s.updHive h f).freeCtr = s.freeCtr := rfl
@[simp] theorem State.updHive_nextId (h : Nat) (f : Hive → Hive) : (s.updHive h f).nextId = s.nextId := rfl
@[simp] theorem State.updHive_cycle (h : Nat) (f : Hive → Hive) : (s.updHive h f).cycle = s.cycle := rfl
@[simp] theorem State.updHive_ctl (h : Nat) (f : Hive → Hive) : (s.updHive h f).ctl = s.ctl := rfl
@[simp] theorem State.updHive_rsv (h : Nat) (f : Hive → Hive) : (s.updHive h f).rsv = s.rsv := rfl
@[simp] theorem State.updHive_mem (h : Nat) (f : Hive → Hive) : (s.updHive h f).mem = s.mem := rfl
@[simp] theorem State.updHive_ue (h : Nat) (f : Hive → Hive) : (s.updHive h f).ue = s.ue := rfl
@[simp] theorem State.updHive_sce (h : Nat) (f : Hive → Hive) : (s.updHive h f).sce = s.sce := rfl
@[simp] theorem State.updHive_ctxs (h : Nat) (f : Hive → Hive) : (s.updHive h f).ctxs = s.ctxs := rfl
@[simp] theorem State.updHive_cores (h : Nat) (f : Hive → Hive) : (s.updHive h f).cores = s.cores := rfl
@[simp] theorem State.updHive_engines (h : Nat) (f : Hive → Hive) : (s.updHive h f).engines = s.engines := rfl
@[simp] theorem State.updHive_hp (h : Nat) (f : Hive → Hive) : (s.updHive h f).hp = s.hp := rfl
@[simp] theorem State.updHive_hpOut (h : Nat) (f : Hive → Hive) : (s.updHive h f).hpOut = s.hpOut := rfl
@[simp] theorem State.updHive_ports (h : Nat) (f : Hive → Hive) : (s.updHive h f).ports = s.ports := rfl
@[simp] theorem State.updHive_sfOut (h : Nat) (f : Hive → Hive) : (s.updHive h f).sfOut = s.sfOut := rfl
@[simp] theorem State.updHive_sfSeq (h : Nat) (f : Hive → Hive) : (s.updHive h f).sfSeq = s.sfSeq := rfl
@[simp] theorem State.updHive_dieSt (h : Nat) (f : Hive → Hive) : (s.updHive h f).dieSt = s.dieSt := rfl
@[simp] theorem State.updHive_selfFar (h : Nat) (f : Hive → Hive) : (s.updHive h f).selfFar = s.selfFar := rfl
@[simp] theorem State.updHive_kbStep (h : Nat) (f : Hive → Hive) : (s.updHive h f).kbStep = s.kbStep := rfl
@[simp] theorem State.updHive_kbEval (h : Nat) (f : Hive → Hive) : (s.updHive h f).kbEval = s.kbEval := rfl
@[simp] theorem State.updHive_kbRepeat (h : Nat) (f : Hive → Hive) : (s.updHive h f).kbRepeat = s.kbRepeat := rfl
@[simp] theorem State.updHive_groups (h : Nat) (f : Hive → Hive) : (s.updHive h f).groups = s.groups := rfl
@[simp] theorem State.updHive_fg (h : Nat) (f : Hive → Hive) : (s.updHive h f).fg = s.fg := rfl
@[simp] theorem State.updHive_fl (h : Nat) (f : Hive → Hive) : (s.updHive h f).fl = s.fl := rfl
@[simp] theorem State.updHive_flOut (h : Nat) (f : Hive → Hive) : (s.updHive h f).flOut = s.flOut := rfl
@[simp] theorem State.updHive_advOut (h : Nat) (f : Hive → Hive) : (s.updHive h f).advOut = s.advOut := rfl
@[simp] theorem State.updHive_frontIn (h : Nat) (f : Hive → Hive) : (s.updHive h f).frontIn = s.frontIn := rfl
@[simp] theorem State.updHive_sw (h : Nat) (f : Hive → Hive) : (s.updHive h f).sw = s.sw := rfl
@[simp] theorem State.updHive_boot (h : Nat) (f : Hive → Hive) : (s.updHive h f).boot = s.boot := rfl
@[simp] theorem State.updHive_store (h : Nat) (f : Hive → Hive) : (s.updHive h f).store = s.store := rfl
@[simp] theorem State.updHive_csJob (h : Nat) (f : Hive → Hive) : (s.updHive h f).csJob = s.csJob := rfl
@[simp] theorem State.updHive_fwJob (h : Nat) (f : Hive → Hive) : (s.updHive h f).fwJob = s.fwJob := rfl
@[simp] theorem State.updHive_ms (h : Nat) (f : Hive → Hive) : (s.updHive h f).ms = s.ms := rfl
@[simp] theorem State.updHive_pm (h : Nat) (f : Hive → Hive) : (s.updHive h f).pm = s.pm := rfl
@[simp] theorem State.updHive_word (h : Nat) (f : Hive → Hive) (b₁ i₁ o₁ : Nat) : (s.updHive h f).word b₁ i₁ o₁ = s.word b₁ i₁ o₁ := rfl
@[simp] theorem State.updHive_fld (h : Nat) (f : Hive → Hive) (b₁ i₁ o₁ h₁ l₁ : Nat) : (s.updHive h f).fld b₁ i₁ o₁ h₁ l₁ = s.fld b₁ i₁ o₁ h₁ l₁ := rfl
@[simp] theorem State.updHive_word64 (h : Nat) (f : Hive → Hive) (b₁ i₁ o₁ : Nat) : (s.updHive h f).word64 b₁ i₁ o₁ = s.word64 b₁ i₁ o₁ := rfl
@[simp] theorem State.updHive_fnState (h : Nat) (f : Hive → Hive) (f₁ : Fn) : (s.updHive h f).fnState f₁ = s.fnState f₁ := rfl
@[simp] theorem State.updHive_ctx (h : Nat) (f : Hive → Hive) (c₁ x₁ : Nat) : (s.updHive h f).ctx c₁ x₁ = s.ctx c₁ x₁ := rfl
@[simp] theorem State.updHive_core (h : Nat) (f : Hive → Hive) (c₁ : Nat) : (s.updHive h f).core c₁ = s.core c₁ := rfl
@[simp] theorem State.updHive_eng (h : Nat) (f : Hive → Hive) (c₁ m₁ : Nat) : (s.updHive h f).eng c₁ m₁ = s.eng c₁ m₁ := rfl
@[simp] theorem State.updHive_port (h : Nat) (f : Hive → Hive) (p₁ : Nat) : (s.updHive h f).port p₁ = s.port p₁ := rfl
@[simp] theorem State.updHive_group (h : Nat) (f : Hive → Hive) (g₁ : Nat) : (s.updHive h f).group g₁ = s.group g₁ := rfl
@[simp] theorem State.updHive_byte (h : Nat) (f : Hive → Hive) (a₁ : Nat) : (s.updHive h f).byte a₁ = s.byte a₁ := rfl

/-! ### State.setByte -/

@[simp] theorem State.setByte_pending (a : Nat) (b : Byte) : (s.setByte a b).pending = s.pending := rfl
@[simp] theorem State.setByte_freeCtr (a : Nat) (b : Byte) : (s.setByte a b).freeCtr = s.freeCtr := rfl
@[simp] theorem State.setByte_nextId (a : Nat) (b : Byte) : (s.setByte a b).nextId = s.nextId := rfl
@[simp] theorem State.setByte_cycle (a : Nat) (b : Byte) : (s.setByte a b).cycle = s.cycle := rfl
@[simp] theorem State.setByte_ctl (a : Nat) (b : Byte) : (s.setByte a b).ctl = s.ctl := rfl
@[simp] theorem State.setByte_rsv (a : Nat) (b : Byte) : (s.setByte a b).rsv = s.rsv := rfl
@[simp] theorem State.setByte_ue (a : Nat) (b : Byte) : (s.setByte a b).ue = s.ue := rfl
@[simp] theorem State.setByte_sce (a : Nat) (b : Byte) : (s.setByte a b).sce = s.sce := rfl
@[simp] theorem State.setByte_ctxs (a : Nat) (b : Byte) : (s.setByte a b).ctxs = s.ctxs := rfl
@[simp] theorem State.setByte_cores (a : Nat) (b : Byte) : (s.setByte a b).cores = s.cores := rfl
@[simp] theorem State.setByte_engines (a : Nat) (b : Byte) : (s.setByte a b).engines = s.engines := rfl
@[simp] theorem State.setByte_hp (a : Nat) (b : Byte) : (s.setByte a b).hp = s.hp := rfl
@[simp] theorem State.setByte_hpOut (a : Nat) (b : Byte) : (s.setByte a b).hpOut = s.hpOut := rfl
@[simp] theorem State.setByte_ports (a : Nat) (b : Byte) : (s.setByte a b).ports = s.ports := rfl
@[simp] theorem State.setByte_sfOut (a : Nat) (b : Byte) : (s.setByte a b).sfOut = s.sfOut := rfl
@[simp] theorem State.setByte_sfSeq (a : Nat) (b : Byte) : (s.setByte a b).sfSeq = s.sfSeq := rfl
@[simp] theorem State.setByte_dieSt (a : Nat) (b : Byte) : (s.setByte a b).dieSt = s.dieSt := rfl
@[simp] theorem State.setByte_selfFar (a : Nat) (b : Byte) : (s.setByte a b).selfFar = s.selfFar := rfl
@[simp] theorem State.setByte_kbStep (a : Nat) (b : Byte) : (s.setByte a b).kbStep = s.kbStep := rfl
@[simp] theorem State.setByte_kbEval (a : Nat) (b : Byte) : (s.setByte a b).kbEval = s.kbEval := rfl
@[simp] theorem State.setByte_kbRepeat (a : Nat) (b : Byte) : (s.setByte a b).kbRepeat = s.kbRepeat := rfl
@[simp] theorem State.setByte_groups (a : Nat) (b : Byte) : (s.setByte a b).groups = s.groups := rfl
@[simp] theorem State.setByte_hives (a : Nat) (b : Byte) : (s.setByte a b).hives = s.hives := rfl
@[simp] theorem State.setByte_fg (a : Nat) (b : Byte) : (s.setByte a b).fg = s.fg := rfl
@[simp] theorem State.setByte_fl (a : Nat) (b : Byte) : (s.setByte a b).fl = s.fl := rfl
@[simp] theorem State.setByte_flOut (a : Nat) (b : Byte) : (s.setByte a b).flOut = s.flOut := rfl
@[simp] theorem State.setByte_advOut (a : Nat) (b : Byte) : (s.setByte a b).advOut = s.advOut := rfl
@[simp] theorem State.setByte_frontIn (a : Nat) (b : Byte) : (s.setByte a b).frontIn = s.frontIn := rfl
@[simp] theorem State.setByte_sw (a : Nat) (b : Byte) : (s.setByte a b).sw = s.sw := rfl
@[simp] theorem State.setByte_boot (a : Nat) (b : Byte) : (s.setByte a b).boot = s.boot := rfl
@[simp] theorem State.setByte_store (a : Nat) (b : Byte) : (s.setByte a b).store = s.store := rfl
@[simp] theorem State.setByte_csJob (a : Nat) (b : Byte) : (s.setByte a b).csJob = s.csJob := rfl
@[simp] theorem State.setByte_fwJob (a : Nat) (b : Byte) : (s.setByte a b).fwJob = s.fwJob := rfl
@[simp] theorem State.setByte_ms (a : Nat) (b : Byte) : (s.setByte a b).ms = s.ms := rfl
@[simp] theorem State.setByte_pm (a : Nat) (b : Byte) : (s.setByte a b).pm = s.pm := rfl
@[simp] theorem State.setByte_word (a : Nat) (b : Byte) (b₁ i₁ o₁ : Nat) : (s.setByte a b).word b₁ i₁ o₁ = s.word b₁ i₁ o₁ := rfl
@[simp] theorem State.setByte_fld (a : Nat) (b : Byte) (b₁ i₁ o₁ h₁ l₁ : Nat) : (s.setByte a b).fld b₁ i₁ o₁ h₁ l₁ = s.fld b₁ i₁ o₁ h₁ l₁ := rfl
@[simp] theorem State.setByte_word64 (a : Nat) (b : Byte) (b₁ i₁ o₁ : Nat) : (s.setByte a b).word64 b₁ i₁ o₁ = s.word64 b₁ i₁ o₁ := rfl
@[simp] theorem State.setByte_fnState (a : Nat) (b : Byte) (f₁ : Fn) : (s.setByte a b).fnState f₁ = s.fnState f₁ := rfl
@[simp] theorem State.setByte_ctx (a : Nat) (b : Byte) (c₁ x₁ : Nat) : (s.setByte a b).ctx c₁ x₁ = s.ctx c₁ x₁ := rfl
@[simp] theorem State.setByte_core (a : Nat) (b : Byte) (c₁ : Nat) : (s.setByte a b).core c₁ = s.core c₁ := rfl
@[simp] theorem State.setByte_eng (a : Nat) (b : Byte) (c₁ m₁ : Nat) : (s.setByte a b).eng c₁ m₁ = s.eng c₁ m₁ := rfl
@[simp] theorem State.setByte_port (a : Nat) (b : Byte) (p₁ : Nat) : (s.setByte a b).port p₁ = s.port p₁ := rfl
@[simp] theorem State.setByte_group (a : Nat) (b : Byte) (g₁ : Nat) : (s.setByte a b).group g₁ = s.group g₁ := rfl
@[simp] theorem State.setByte_hive (a : Nat) (b : Byte) (h₁ : Nat) : (s.setByte a b).hive h₁ = s.hive h₁ := rfl

/-! ### State.advance -/

@[simp] theorem State.advance_pending (c x : Nat) : (s.advance c x).pending = s.pending := rfl
@[simp] theorem State.advance_freeCtr (c x : Nat) : (s.advance c x).freeCtr = s.freeCtr := rfl
@[simp] theorem State.advance_nextId (c x : Nat) : (s.advance c x).nextId = s.nextId := rfl
@[simp] theorem State.advance_cycle (c x : Nat) : (s.advance c x).cycle = s.cycle := rfl
@[simp] theorem State.advance_ctl (c x : Nat) : (s.advance c x).ctl = s.ctl := rfl
@[simp] theorem State.advance_rsv (c x : Nat) : (s.advance c x).rsv = s.rsv := rfl
@[simp] theorem State.advance_mem (c x : Nat) : (s.advance c x).mem = s.mem := rfl
@[simp] theorem State.advance_ue (c x : Nat) : (s.advance c x).ue = s.ue := rfl
@[simp] theorem State.advance_sce (c x : Nat) : (s.advance c x).sce = s.sce := rfl
@[simp] theorem State.advance_cores (c x : Nat) : (s.advance c x).cores = s.cores := rfl
@[simp] theorem State.advance_engines (c x : Nat) : (s.advance c x).engines = s.engines := rfl
@[simp] theorem State.advance_hp (c x : Nat) : (s.advance c x).hp = s.hp := rfl
@[simp] theorem State.advance_hpOut (c x : Nat) : (s.advance c x).hpOut = s.hpOut := rfl
@[simp] theorem State.advance_ports (c x : Nat) : (s.advance c x).ports = s.ports := rfl
@[simp] theorem State.advance_sfOut (c x : Nat) : (s.advance c x).sfOut = s.sfOut := rfl
@[simp] theorem State.advance_sfSeq (c x : Nat) : (s.advance c x).sfSeq = s.sfSeq := rfl
@[simp] theorem State.advance_dieSt (c x : Nat) : (s.advance c x).dieSt = s.dieSt := rfl
@[simp] theorem State.advance_selfFar (c x : Nat) : (s.advance c x).selfFar = s.selfFar := rfl
@[simp] theorem State.advance_kbStep (c x : Nat) : (s.advance c x).kbStep = s.kbStep := rfl
@[simp] theorem State.advance_kbEval (c x : Nat) : (s.advance c x).kbEval = s.kbEval := rfl
@[simp] theorem State.advance_kbRepeat (c x : Nat) : (s.advance c x).kbRepeat = s.kbRepeat := rfl
@[simp] theorem State.advance_groups (c x : Nat) : (s.advance c x).groups = s.groups := rfl
@[simp] theorem State.advance_hives (c x : Nat) : (s.advance c x).hives = s.hives := rfl
@[simp] theorem State.advance_fg (c x : Nat) : (s.advance c x).fg = s.fg := rfl
@[simp] theorem State.advance_fl (c x : Nat) : (s.advance c x).fl = s.fl := rfl
@[simp] theorem State.advance_flOut (c x : Nat) : (s.advance c x).flOut = s.flOut := rfl
@[simp] theorem State.advance_advOut (c x : Nat) : (s.advance c x).advOut = s.advOut := rfl
@[simp] theorem State.advance_frontIn (c x : Nat) : (s.advance c x).frontIn = s.frontIn := rfl
@[simp] theorem State.advance_sw (c x : Nat) : (s.advance c x).sw = s.sw := rfl
@[simp] theorem State.advance_boot (c x : Nat) : (s.advance c x).boot = s.boot := rfl
@[simp] theorem State.advance_store (c x : Nat) : (s.advance c x).store = s.store := rfl
@[simp] theorem State.advance_csJob (c x : Nat) : (s.advance c x).csJob = s.csJob := rfl
@[simp] theorem State.advance_fwJob (c x : Nat) : (s.advance c x).fwJob = s.fwJob := rfl
@[simp] theorem State.advance_ms (c x : Nat) : (s.advance c x).ms = s.ms := rfl
@[simp] theorem State.advance_pm (c x : Nat) : (s.advance c x).pm = s.pm := rfl
@[simp] theorem State.advance_word (c x : Nat) (b₁ i₁ o₁ : Nat) : (s.advance c x).word b₁ i₁ o₁ = s.word b₁ i₁ o₁ := rfl
@[simp] theorem State.advance_fld (c x : Nat) (b₁ i₁ o₁ h₁ l₁ : Nat) : (s.advance c x).fld b₁ i₁ o₁ h₁ l₁ = s.fld b₁ i₁ o₁ h₁ l₁ := rfl
@[simp] theorem State.advance_word64 (c x : Nat) (b₁ i₁ o₁ : Nat) : (s.advance c x).word64 b₁ i₁ o₁ = s.word64 b₁ i₁ o₁ := rfl
@[simp] theorem State.advance_fnState (c x : Nat) (f₁ : Fn) : (s.advance c x).fnState f₁ = s.fnState f₁ := rfl
@[simp] theorem State.advance_core (c x : Nat) (c₁ : Nat) : (s.advance c x).core c₁ = s.core c₁ := rfl
@[simp] theorem State.advance_eng (c x : Nat) (c₁ m₁ : Nat) : (s.advance c x).eng c₁ m₁ = s.eng c₁ m₁ := rfl
@[simp] theorem State.advance_port (c x : Nat) (p₁ : Nat) : (s.advance c x).port p₁ = s.port p₁ := rfl
@[simp] theorem State.advance_group (c x : Nat) (g₁ : Nat) : (s.advance c x).group g₁ = s.group g₁ := rfl
@[simp] theorem State.advance_hive (c x : Nat) (h₁ : Nat) : (s.advance c x).hive h₁ = s.hive h₁ := rfl
@[simp] theorem State.advance_byte (c x : Nat) (a₁ : Nat) : (s.advance c x).byte a₁ = s.byte a₁ := rfl

/-! ### State.waitOn -/

@[simp] theorem State.waitOn_pending (c x : Nat) (w : Wait) : (s.waitOn c x w).pending = s.pending := rfl
@[simp] theorem State.waitOn_freeCtr (c x : Nat) (w : Wait) : (s.waitOn c x w).freeCtr = s.freeCtr := rfl
@[simp] theorem State.waitOn_nextId (c x : Nat) (w : Wait) : (s.waitOn c x w).nextId = s.nextId := rfl
@[simp] theorem State.waitOn_cycle (c x : Nat) (w : Wait) : (s.waitOn c x w).cycle = s.cycle := rfl
@[simp] theorem State.waitOn_ctl (c x : Nat) (w : Wait) : (s.waitOn c x w).ctl = s.ctl := rfl
@[simp] theorem State.waitOn_rsv (c x : Nat) (w : Wait) : (s.waitOn c x w).rsv = s.rsv := rfl
@[simp] theorem State.waitOn_mem (c x : Nat) (w : Wait) : (s.waitOn c x w).mem = s.mem := rfl
@[simp] theorem State.waitOn_ue (c x : Nat) (w : Wait) : (s.waitOn c x w).ue = s.ue := rfl
@[simp] theorem State.waitOn_sce (c x : Nat) (w : Wait) : (s.waitOn c x w).sce = s.sce := rfl
@[simp] theorem State.waitOn_cores (c x : Nat) (w : Wait) : (s.waitOn c x w).cores = s.cores := rfl
@[simp] theorem State.waitOn_engines (c x : Nat) (w : Wait) : (s.waitOn c x w).engines = s.engines := rfl
@[simp] theorem State.waitOn_hp (c x : Nat) (w : Wait) : (s.waitOn c x w).hp = s.hp := rfl
@[simp] theorem State.waitOn_hpOut (c x : Nat) (w : Wait) : (s.waitOn c x w).hpOut = s.hpOut := rfl
@[simp] theorem State.waitOn_ports (c x : Nat) (w : Wait) : (s.waitOn c x w).ports = s.ports := rfl
@[simp] theorem State.waitOn_sfOut (c x : Nat) (w : Wait) : (s.waitOn c x w).sfOut = s.sfOut := rfl
@[simp] theorem State.waitOn_sfSeq (c x : Nat) (w : Wait) : (s.waitOn c x w).sfSeq = s.sfSeq := rfl
@[simp] theorem State.waitOn_dieSt (c x : Nat) (w : Wait) : (s.waitOn c x w).dieSt = s.dieSt := rfl
@[simp] theorem State.waitOn_selfFar (c x : Nat) (w : Wait) : (s.waitOn c x w).selfFar = s.selfFar := rfl
@[simp] theorem State.waitOn_kbStep (c x : Nat) (w : Wait) : (s.waitOn c x w).kbStep = s.kbStep := rfl
@[simp] theorem State.waitOn_kbEval (c x : Nat) (w : Wait) : (s.waitOn c x w).kbEval = s.kbEval := rfl
@[simp] theorem State.waitOn_kbRepeat (c x : Nat) (w : Wait) : (s.waitOn c x w).kbRepeat = s.kbRepeat := rfl
@[simp] theorem State.waitOn_groups (c x : Nat) (w : Wait) : (s.waitOn c x w).groups = s.groups := rfl
@[simp] theorem State.waitOn_hives (c x : Nat) (w : Wait) : (s.waitOn c x w).hives = s.hives := rfl
@[simp] theorem State.waitOn_fg (c x : Nat) (w : Wait) : (s.waitOn c x w).fg = s.fg := rfl
@[simp] theorem State.waitOn_fl (c x : Nat) (w : Wait) : (s.waitOn c x w).fl = s.fl := rfl
@[simp] theorem State.waitOn_flOut (c x : Nat) (w : Wait) : (s.waitOn c x w).flOut = s.flOut := rfl
@[simp] theorem State.waitOn_advOut (c x : Nat) (w : Wait) : (s.waitOn c x w).advOut = s.advOut := rfl
@[simp] theorem State.waitOn_frontIn (c x : Nat) (w : Wait) : (s.waitOn c x w).frontIn = s.frontIn := rfl
@[simp] theorem State.waitOn_sw (c x : Nat) (w : Wait) : (s.waitOn c x w).sw = s.sw := rfl
@[simp] theorem State.waitOn_boot (c x : Nat) (w : Wait) : (s.waitOn c x w).boot = s.boot := rfl
@[simp] theorem State.waitOn_store (c x : Nat) (w : Wait) : (s.waitOn c x w).store = s.store := rfl
@[simp] theorem State.waitOn_csJob (c x : Nat) (w : Wait) : (s.waitOn c x w).csJob = s.csJob := rfl
@[simp] theorem State.waitOn_fwJob (c x : Nat) (w : Wait) : (s.waitOn c x w).fwJob = s.fwJob := rfl
@[simp] theorem State.waitOn_ms (c x : Nat) (w : Wait) : (s.waitOn c x w).ms = s.ms := rfl
@[simp] theorem State.waitOn_pm (c x : Nat) (w : Wait) : (s.waitOn c x w).pm = s.pm := rfl
@[simp] theorem State.waitOn_word (c x : Nat) (w : Wait) (b₁ i₁ o₁ : Nat) : (s.waitOn c x w).word b₁ i₁ o₁ = s.word b₁ i₁ o₁ := rfl
@[simp] theorem State.waitOn_fld (c x : Nat) (w : Wait) (b₁ i₁ o₁ h₁ l₁ : Nat) : (s.waitOn c x w).fld b₁ i₁ o₁ h₁ l₁ = s.fld b₁ i₁ o₁ h₁ l₁ := rfl
@[simp] theorem State.waitOn_word64 (c x : Nat) (w : Wait) (b₁ i₁ o₁ : Nat) : (s.waitOn c x w).word64 b₁ i₁ o₁ = s.word64 b₁ i₁ o₁ := rfl
@[simp] theorem State.waitOn_fnState (c x : Nat) (w : Wait) (f₁ : Fn) : (s.waitOn c x w).fnState f₁ = s.fnState f₁ := rfl
@[simp] theorem State.waitOn_core (c x : Nat) (w : Wait) (c₁ : Nat) : (s.waitOn c x w).core c₁ = s.core c₁ := rfl
@[simp] theorem State.waitOn_eng (c x : Nat) (w : Wait) (c₁ m₁ : Nat) : (s.waitOn c x w).eng c₁ m₁ = s.eng c₁ m₁ := rfl
@[simp] theorem State.waitOn_port (c x : Nat) (w : Wait) (p₁ : Nat) : (s.waitOn c x w).port p₁ = s.port p₁ := rfl
@[simp] theorem State.waitOn_group (c x : Nat) (w : Wait) (g₁ : Nat) : (s.waitOn c x w).group g₁ = s.group g₁ := rfl
@[simp] theorem State.waitOn_hive (c x : Nat) (w : Wait) (h₁ : Nat) : (s.waitOn c x w).hive h₁ = s.hive h₁ := rfl
@[simp] theorem State.waitOn_byte (c x : Nat) (w : Wait) (a₁ : Nat) : (s.waitOn c x w).byte a₁ = s.byte a₁ := rfl

/-! ### State.wake -/

@[simp] theorem State.wake_pending (c x : Nat) : (s.wake c x).pending = s.pending := rfl
@[simp] theorem State.wake_freeCtr (c x : Nat) : (s.wake c x).freeCtr = s.freeCtr := rfl
@[simp] theorem State.wake_nextId (c x : Nat) : (s.wake c x).nextId = s.nextId := rfl
@[simp] theorem State.wake_cycle (c x : Nat) : (s.wake c x).cycle = s.cycle := rfl
@[simp] theorem State.wake_ctl (c x : Nat) : (s.wake c x).ctl = s.ctl := rfl
@[simp] theorem State.wake_rsv (c x : Nat) : (s.wake c x).rsv = s.rsv := rfl
@[simp] theorem State.wake_mem (c x : Nat) : (s.wake c x).mem = s.mem := rfl
@[simp] theorem State.wake_ue (c x : Nat) : (s.wake c x).ue = s.ue := rfl
@[simp] theorem State.wake_sce (c x : Nat) : (s.wake c x).sce = s.sce := rfl
@[simp] theorem State.wake_cores (c x : Nat) : (s.wake c x).cores = s.cores := rfl
@[simp] theorem State.wake_engines (c x : Nat) : (s.wake c x).engines = s.engines := rfl
@[simp] theorem State.wake_hp (c x : Nat) : (s.wake c x).hp = s.hp := rfl
@[simp] theorem State.wake_hpOut (c x : Nat) : (s.wake c x).hpOut = s.hpOut := rfl
@[simp] theorem State.wake_ports (c x : Nat) : (s.wake c x).ports = s.ports := rfl
@[simp] theorem State.wake_sfOut (c x : Nat) : (s.wake c x).sfOut = s.sfOut := rfl
@[simp] theorem State.wake_sfSeq (c x : Nat) : (s.wake c x).sfSeq = s.sfSeq := rfl
@[simp] theorem State.wake_dieSt (c x : Nat) : (s.wake c x).dieSt = s.dieSt := rfl
@[simp] theorem State.wake_selfFar (c x : Nat) : (s.wake c x).selfFar = s.selfFar := rfl
@[simp] theorem State.wake_kbStep (c x : Nat) : (s.wake c x).kbStep = s.kbStep := rfl
@[simp] theorem State.wake_kbEval (c x : Nat) : (s.wake c x).kbEval = s.kbEval := rfl
@[simp] theorem State.wake_kbRepeat (c x : Nat) : (s.wake c x).kbRepeat = s.kbRepeat := rfl
@[simp] theorem State.wake_groups (c x : Nat) : (s.wake c x).groups = s.groups := rfl
@[simp] theorem State.wake_hives (c x : Nat) : (s.wake c x).hives = s.hives := rfl
@[simp] theorem State.wake_fg (c x : Nat) : (s.wake c x).fg = s.fg := rfl
@[simp] theorem State.wake_fl (c x : Nat) : (s.wake c x).fl = s.fl := rfl
@[simp] theorem State.wake_flOut (c x : Nat) : (s.wake c x).flOut = s.flOut := rfl
@[simp] theorem State.wake_advOut (c x : Nat) : (s.wake c x).advOut = s.advOut := rfl
@[simp] theorem State.wake_frontIn (c x : Nat) : (s.wake c x).frontIn = s.frontIn := rfl
@[simp] theorem State.wake_sw (c x : Nat) : (s.wake c x).sw = s.sw := rfl
@[simp] theorem State.wake_boot (c x : Nat) : (s.wake c x).boot = s.boot := rfl
@[simp] theorem State.wake_store (c x : Nat) : (s.wake c x).store = s.store := rfl
@[simp] theorem State.wake_csJob (c x : Nat) : (s.wake c x).csJob = s.csJob := rfl
@[simp] theorem State.wake_fwJob (c x : Nat) : (s.wake c x).fwJob = s.fwJob := rfl
@[simp] theorem State.wake_ms (c x : Nat) : (s.wake c x).ms = s.ms := rfl
@[simp] theorem State.wake_pm (c x : Nat) : (s.wake c x).pm = s.pm := rfl
@[simp] theorem State.wake_word (c x : Nat) (b₁ i₁ o₁ : Nat) : (s.wake c x).word b₁ i₁ o₁ = s.word b₁ i₁ o₁ := rfl
@[simp] theorem State.wake_fld (c x : Nat) (b₁ i₁ o₁ h₁ l₁ : Nat) : (s.wake c x).fld b₁ i₁ o₁ h₁ l₁ = s.fld b₁ i₁ o₁ h₁ l₁ := rfl
@[simp] theorem State.wake_word64 (c x : Nat) (b₁ i₁ o₁ : Nat) : (s.wake c x).word64 b₁ i₁ o₁ = s.word64 b₁ i₁ o₁ := rfl
@[simp] theorem State.wake_fnState (c x : Nat) (f₁ : Fn) : (s.wake c x).fnState f₁ = s.fnState f₁ := rfl
@[simp] theorem State.wake_core (c x : Nat) (c₁ : Nat) : (s.wake c x).core c₁ = s.core c₁ := rfl
@[simp] theorem State.wake_eng (c x : Nat) (c₁ m₁ : Nat) : (s.wake c x).eng c₁ m₁ = s.eng c₁ m₁ := rfl
@[simp] theorem State.wake_port (c x : Nat) (p₁ : Nat) : (s.wake c x).port p₁ = s.port p₁ := rfl
@[simp] theorem State.wake_group (c x : Nat) (g₁ : Nat) : (s.wake c x).group g₁ = s.group g₁ := rfl
@[simp] theorem State.wake_hive (c x : Nat) (h₁ : Nat) : (s.wake c x).hive h₁ = s.hive h₁ := rfl
@[simp] theorem State.wake_byte (c x : Nat) (a₁ : Nat) : (s.wake c x).byte a₁ = s.byte a₁ := rfl

/-! ### What an update of a unit leaves in that unit, and in every other one -/

@[simp] theorem State.setCtx_ctx_same (c x : Nat) (k : Ctx) : (s.setCtx c x k).ctx c x = k := Tbl.get_set_same _ _ _ _
@[simp] theorem State.updCtx_ctx_same (c x : Nat) (f : Ctx → Ctx) : (s.updCtx c x f).ctx c x = f (s.ctx c x) := Tbl.get_set_same _ _ _ _
theorem State.setCtx_get_ne (c x : Nat) (k : Ctx) {n : Nat} (h : n ≠ c * 4 + x) : Tbl.get {} (s.setCtx c x k).ctxs n = Tbl.get {} s.ctxs n :=
  Tbl.get_set_ne _ _ _ _ h
theorem State.updCtx_get_ne (c x : Nat) (f : Ctx → Ctx) {n : Nat} (h : n ≠ c * 4 + x) : Tbl.get {} (s.updCtx c x f).ctxs n = Tbl.get {} s.ctxs n :=
  Tbl.get_set_ne _ _ _ _ h
@[simp] theorem State.setCore_core_same (c : Nat) (k : Core) : (s.setCore c k).core c = k := Tbl.get_set_same _ _ _ _
@[simp] theorem State.updCore_core_same (c : Nat) (f : Core → Core) : (s.updCore c f).core c = f (s.core c) := Tbl.get_set_same _ _ _ _
theorem State.setCore_core_ne (c : Nat) (k : Core) {n : Nat} (h : n ≠ c) : (s.setCore c k).core n = s.core n := Tbl.get_set_ne _ _ _ _ h
theorem State.updCore_core_ne (c : Nat) (f : Core → Core) {n : Nat} (h : n ≠ c) : (s.updCore c f).core n = s.core n := Tbl.get_set_ne _ _ _ _ h
@[simp] theorem State.setEng_eng_same (c m : Nat) (e : Engine) : (s.setEng c m e).eng c m = e := Tbl.get_set_same _ _ _ _
@[simp] theorem State.updEng_eng_same (c m : Nat) (f : Engine → Engine) : (s.updEng c m f).eng c m = f (s.eng c m) := Tbl.get_set_same _ _ _ _
theorem State.setEng_get_ne (c m : Nat) (e : Engine) {n : Nat} (h : n ≠ c * 4 + m) : Tbl.get {} (s.setEng c m e).engines n = Tbl.get {} s.engines n :=
  Tbl.get_set_ne _ _ _ _ h
theorem State.updEng_get_ne (c m : Nat) (f : Engine → Engine) {n : Nat} (h : n ≠ c * 4 + m) :
    Tbl.get {} (s.updEng c m f).engines n = Tbl.get {} s.engines n := Tbl.get_set_ne _ _ _ _ h
@[simp] theorem State.setPort_port_same (p : Nat) (k : SfPort) : (s.setPort p k).port p = k := Tbl.get_set_same _ _ _ _
@[simp] theorem State.updPort_port_same (p : Nat) (f : SfPort → SfPort) : (s.updPort p f).port p = f (s.port p) := Tbl.get_set_same _ _ _ _
theorem State.updPort_port_ne (p : Nat) (f : SfPort → SfPort) {n : Nat} (h : n ≠ p) : (s.updPort p f).port n = s.port n := Tbl.get_set_ne _ _ _ _ h
@[simp] theorem State.updGroup_group_same (g : Nat) (f : Group → Group) : (s.updGroup g f).group g = f (s.group g) := Tbl.get_set_same _ _ _ _
theorem State.updGroup_group_ne (g : Nat) (f : Group → Group) {n : Nat} (h : n ≠ g) : (s.updGroup g f).group n = s.group n :=
  Tbl.get_set_ne _ _ _ _ h
@[simp] theorem State.updHive_hive_same (h : Nat) (f : Hive → Hive) : (s.updHive h f).hive h = f (s.hive h) := Tbl.get_set_same _ _ _ _
theorem State.updHive_hive_ne (h : Nat) (f : Hive → Hive) {n : Nat} (hn : n ≠ h) : (s.updHive h f).hive n = s.hive n := Tbl.get_set_ne _ _ _ _ hn

end Sys2Proof.Machine
end

