-- ==== Sys2Proof/Tests/Slice0.lean ====
section
/-! SUPPORT. The model's own tests: ill-formed commands, words of the encoding tables, witnesses of the statements' hypotheses, and one step of
commands on small states. The expected values are worked out from the rules. -/

set_option Elab.async false

/-! ### Small states

Each test takes one step, or reads one word, on a state built here. A witness theorem shows operands and a state that meet the hypotheses of a
clause of a statement of Certificates/Slice0, and what the step answers there. -/

namespace Sys2Proof.Tests

open Sys2Proof Sys2Proof.Machine

/-- A state with some register words set: block, number, offset, value. -/
def words (s : State) (ws : List (Nat × Nat × Nat × Nat)) : State :=
  ws.foldl (fun s w => s.setWord w.1 w.2.1 w.2.2.1 (BitVec.ofNat 32 w.2.2.2)) s

/-- A module that has started up, with core 0 and its engine 0 RUNNING. -/
def live : State :=
  words { cycle := 1000, boot := { stage := some 6, pllLocked := true }, store := { siteId := 5, slotA := [], slotB := [] } }
    [(0x10, 0, 0, 2), (0x11, 0, 0, 2), (0x10, 0, 0x100, 2), (0x10, 0, 0x140, 2)]

/-- The first word of core 0's own store. -/
def entry : W64 := 2 ^ 60

/-- The first word of the module store. -/
def ms0 : W64 := 2 * 2 ^ 60

def aRun : RunCmd := { cmd := { entry := entry, cmdSeq := 7 }, no := 1, startCC := 900, overrun := 0 }

/-- Context 0 of core 0, READY at `entry`, with s1 = 5, s2 = -3 and s3 an address in core 0's own store. -/
def ready : Ctx :=
  { st := .ready, pc := entry, sregs := [(1, 5), (2, BitVec.ofInt 64 (-3)), (3, BitVec.ofNat 64 (2 ^ 60 + 4096))], preds := 0, run := some aRun }

def withCtx (s : State) (k : Ctx) : State := s.setCtx 0 0 k

def s0 : State := withCtx live ready

def i0 : Iss := {}

/-- What a command that answers a next state leaves. -/
def after (o : Out) (p : State → Bool) : Bool :=
  match o with
  | .next t => p t
  | _ => false

/-- What a command leaves that follows in the next cc. -/
def afterNext (c : Instr) (t : State) (p : State → Bool) : Bool := after (exec c { t with cycle := t.cycle + 1 }) p

/-- The command is answered with fault noSuchUnit. -/
def faults (o : Out) : Bool :=
  match o with
  | .fault .noSuchUnit => true
  | _ => false

/-! ### Ill-formed commands, one for each check of `Instr.wf` -/

theorem test_wf_core : Instr.wf (.nop { core := 96 }) = false ∧ Instr.wf (.nop { core := 95 }) = true := by decide +kernel
theorem test_wf_unit : Instr.wf (.loadsComplete 96 0) = false ∧ Instr.wf (.loadsComplete 95 3) = true := by decide +kernel
theorem test_wf_writer : Instr.wf (.fgRefresh (.ctx 96 0) 0) = false ∧ Instr.wf (.fgRefresh .host 0) = true := by decide +kernel
theorem test_wf_function : Instr.wf (.config .host (.core 100)) = false ∧ Instr.wf (.stop .service (.engine 127 0)) = false := by decide +kernel
theorem test_wf_map_write : Instr.wf (.engineMapWrite .host 96 0) = false ∧ Instr.wf (.twinWrite (.ctx 97 0) 0 0 true) = false := by decide +kernel
theorem test_wf_address : Instr.wf (.scrubRead 0 {} false) = false ∧ Instr.wf (.scrubRead (3 * 2 ^ 60) {} false) = true := by decide +kernel
theorem test_wf_host_row : Instr.wf (.claim { op := 2 }) = false ∧ Instr.wf (.claim { op := 1 }) = true := by decide +kernel
theorem test_wf_host_rows : Instr.wf (.query { op := 7 }) = false ∧ Instr.wf (.hostRead { op := 3 }) = false ∧ Instr.wf (.relay { op := 6 }) = false := by decide +kernel
theorem test_wf_domain : Instr.wf (.recoveryDrainStart { kind := 1, num := 96 }) = false ∧ Instr.wf (.resetEnd { kind := 7, num := 0 }) = false ∧
    Instr.wf (.recoveryDrainEnd { kind := 6, num := 1 }) = false ∧ Instr.wf (.recoveryDrainEnd { kind := 0, num := 383 }) = true := by decide +kernel
theorem test_wf_report : Instr.wf (.packageBringup [{ eng := 384 }]) = false ∧ Instr.wf (.packageBringup [{ eng := 383 }]) = true := by decide +kernel
theorem test_wf_setting : Instr.wf (.countedSettingWrite .host .siteId 256) = false ∧ Instr.wf (.countedSettingWrite .host .siteId 255) = true := by decide +kernel
theorem test_ill_formed_stops : faults (exec (.nop { core := 96 }) s0) = true ∧ faults (exec (.loadsComplete 96 0) s0) = true := by decide +kernel

/-! ### Words of the encoding tables (R82, R83 and the tables of chapter 3), field by field -/

theorem test_decode_add : decodeStaex 0 0 (0x0000000000000000 + 4 * 2 ^ 46 + 5 * 2 ^ 40 + 6 * 2 ^ 34) = some (.add i0 4 5 (.reg 6)) := by decide +kernel
theorem test_decode_cmp : decodeStaex 0 0 (11 * 2 ^ 56 + 3 * 2 ^ 49 + 2 * 2 ^ 46 + 9 * 2 ^ 40 + 2 ^ 33 + 0xFFFFFFFF) =
    some (.cmp i0 3 2 9 (.imm 0xFFFFFFFF)) := by decide +kernel
theorem test_decode_guard : decodeStaex 1 2 (6 * 2 ^ 60 + 6 * 2 ^ 56 + 5 * 2 ^ 53 + 2 ^ 52) = some (.nop { core := 1, ctx := 2, pred := 5, pneg := true }) := by decide +kernel
theorem test_decode_br : decodeStaex 0 0 (2 ^ 60 + 0xFFFFFFFE) = some (.br i0 0xFFFFFFFE) := by decide +kernel
/-- The worked example of chapter 3: the word is the reference's own. -/
theorem test_decode_stream : decodeStaex 17 1 0x2102019145602000 =
    some (.stream { core := 17, ctx := 1 } { ta := 4, tc := 12, eng := 2, sm := 20, sc := 21, acc := 2, waitp := true }) := by decide +kernel
theorem test_decode_loads : decodeStaex 0 0 (2 * 2 ^ 60 + 7 * 2 ^ 42 + 3 * 2 ^ 35 + 2 ^ 34 + 9 * 2 ^ 28 + 128 * 2 ^ 19 + 64 * 2 ^ 10 + 2 ^ 8) =
    some (.loads i0 { tb := 7, eng := 3, buf := 1, so := 9, kn := 128, nn := 64, sh := true }) := by decide +kernel
theorem test_decode_vop : decodeStaex 0 0 (3 * 2 ^ 60 + 1 * 2 ^ 47 + 2 * 2 ^ 42 + 3 * 2 ^ 37 + 12 * 2 ^ 32 + 4 * 2 ^ 26 + 2 * 2 ^ 21 + 1 * 2 ^ 19) =
    some (.vop i0 { td := 1, ta := 2, tb := 3, fn := 12, ss := 4, att := 2, eng := 1 }) := by decide +kernel
theorem test_decode_move : decodeStaex 0 0 (4 * 2 ^ 60 + 1 * 2 ^ 47 + 2 * 2 ^ 42 + 2 ^ 39 + 2 ^ 38 + 4095 * 2 ^ 26) =
    some (.move i0 { td := 1, ta := 2, ovf := true, setarr := true, arr := 4095 }) := by decide +kernel
theorem test_decode_send : decodeStaex 0 0 (5 * 2 ^ 60 + 2 ^ 56 + 3 * 2 ^ 42 + 8 * 2 ^ 36 + 2 ^ 35 + 77 * 2 ^ 23) =
    some (.send i0 { ta := 3, sdst := 8, setarr := true, arr := 77 }) := by decide +kernel
theorem test_decode_signal : decodeStaex 0 0 (6 * 2 ^ 60 + 5 * 2 ^ 56 + 3 * 2 ^ 46 + 95 * 2 ^ 39 + 2 * 2 ^ 37 + 4 * 2 ^ 34) =
    some (.signal i0 { sa := 3, core := 95, ctx := 2, pd := 4 }) := by decide +kernel
theorem test_decode_tag : decodeStaex 0 0 (7 * 2 ^ 60 + 3 * 2 ^ 47 + 10 * 2 ^ 41 + 9 * 2 ^ 37 + 2 ^ 36) = some (.tagSet i0 3 10 9 true) := by decide +kernel
theorem test_decode_tile : decodeStaex 0 0 (8 * 2 ^ 60 + 2 ^ 56 + 1 * 2 ^ 46 + 2 * 2 ^ 40 + 3 * 2 ^ 34 + 7 * 2 ^ 31 + 2 ^ 30 + 2 * 2 ^ 28 + 2 ^ 27) =
    some (.tile32Mma i0 { sa := 1, sb := 2, sc := 3, fmt := 7, accf := true, eng := 2, cf := 1 }) := by decide +kernel
theorem test_decode_reserved : decodeStaex 0 0 (9 * 2 ^ 60) = none ∧ decodeStaex 0 0 (6 * 2 ^ 60 + 7 * 2 ^ 56) = none ∧
    decodeStaex 0 0 (6 * 2 ^ 60 + 6 * 2 ^ 56 + 1) = none := by decide +kernel
theorem test_decode_table_word : decodeTableWord 64 0 = none := by decide +kernel

/-! ### The step -/

theorem test_step_runs_front : after (step { s0 with pending := [.nop i0, .clockLost] }) (fun t => t.pending == [.clockLost] && (t.ctx 0 0).pc == entry + 8) = true := by
  decide +kernel
theorem test_idle_step : after (step s0) (fun t => t.cycle == 1001 && t.ctxs == s0.ctxs) = true ∧ after (step State.reset) (fun t => t.cycle == 0) = true := by
  decide +kernel

/-! ### Scalar instructions, branches, END -/

theorem test_can_run : CanRun i0 s0 := by unfold CanRun; decide +kernel
theorem test_sub_reads_before_writing : after (exec (.sub i0 1 2 (.reg 1)) s0) (fun t => (t.ctx 0 0).sreg 1 == BitVec.ofInt 64 (-8)) = true := by decide +kernel
theorem test_add_imm_sign : after (exec (.add i0 4 1 (.imm 0xFFFFFFFF)) s0) (fun t => (t.ctx 0 0).sreg 4 == 4 && (t.ctx 0 0).pc == entry + 8) = true := by decide +kernel
theorem test_sra_fills_sign : after (exec (.sra i0 4 2 (.imm 65)) s0) (fun t => (t.ctx 0 0).sreg 4 == BitVec.ofInt 64 (-2)) = true := by decide +kernel
theorem test_shr_fills_zero : after (exec (.shr i0 4 2 (.imm 63)) s0) (fun t => (t.ctx 0 0).sreg 4 == 1) = true := by decide +kernel
theorem test_lih_keeps_low : after (exec (.lih i0 1 0x80000000) s0) (fun t => (t.ctx 0 0).sreg 1 == 0x8000000000000005) = true := by decide +kernel
theorem test_getcc : after (exec (.getcc i0 4) s0) (fun t => (t.ctx 0 0).sreg 4 == 1000) = true := by decide +kernel
theorem test_cmp_signed : after (exec (.cmp i0 2 2 2 (.reg 1)) s0) (fun t => (t.ctx 0 0).pred 2) = true ∧
    after (exec (.cmp i0 2 4 2 (.reg 1)) s0) (fun t => !(t.ctx 0 0).pred 2) = true := by decide +kernel
theorem test_p0_stays : after (exec (.cmp i0 0 1 1 (.reg 1)) s0) (fun t => (t.ctx 0 0).pred 0) = true := by decide +kernel
theorem test_cmp_illegal : Reportable s0 ready ∧ after (exec (.cmp i0 2 7 1 (.reg 1)) s0) (fun t => (t.ctx 0 0).st == .halted && (t.ctx 0 0).lastReason == 0x0201) = true :=
  ⟨by intro r h hc; have e : aRun = r := Option.some.inj h; subst e; exact absurd (by decide) hc, by decide +kernel⟩
/-- The hypotheses of the clause on a false guard: the inverted instruction could run. -/
theorem test_guard_skips : CanRun { i0 with pneg := !true } s0 ∧ after (exec (.li { i0 with pneg := true } 1 9) s0)
    (fun t => (t.ctx 0 0).sreg 1 == 5 && (t.ctx 0 0).pc == entry + 8) = true := by unfold CanRun; decide +kernel
theorem test_st_then_ld : (lsAddr ready 3 0) % 8 = 0 ∧ spaceOf (lsAddr ready 3 0) ≠ 0 ∧ s0.accessReason (lsAddr ready 3 0) 8 = 0 ∧ s0.ueIn (lsAddr ready 3 0) 8 = false ∧
    after (exec (.st i0 true false 3 2 4) s0) (fun t => afterNext (.ld i0 false 5 3 0) t (fun t => (t.ctx 0 0).sreg 5 == 0xFFFFFFFD00000000)) = true := by decide +kernel
theorem test_ld_misaligned : lsAddr ready 3 4 % 8 = 4 ∧ after (exec (.ld i0 false 5 3 4) s0) (fun t => (t.ctx 0 0).lastReason == 0x0103) = true := by decide +kernel
theorem test_ld_hole : lsAddr ready 0 0 % 8 = 0 ∧
    after (exec (.ld i0 false 5 4 0) (withCtx live { ready with sregs := [(4, BitVec.ofNat 64 (9 * 2 ^ 60))] })) (fun t => (t.ctx 0 0).st == .halted) = true := by decide +kernel
theorem test_br_back : after (exec (.br i0 2) s0) (fun t => (t.ctx 0 0).pc == entry + 16) = true ∧
    after (exec (.br i0 0xFFFFFFFF) s0) (fun t => (t.ctx 0 0).st == .halted && (t.ctx 0 0).lastReason == 0x0101) = true := by decide +kernel
theorem test_jr_own_store : after (exec (.jr i0 3) s0) (fun t => (t.ctx 0 0).pc.toNat == 2 ^ 60 + 4096) = true := by decide +kernel
theorem test_end : ready.pendingOps = false ∧ after (exec (.endCmd i0) s0) (fun t => (t.ctx 0 0).st == .idle && (t.ctx 0 0).run == none) = true := by decide +kernel
theorem test_end_waits : after (exec (.endCmd i0) (withCtx live { ready with outst := [{ id := 4, no := 1 }] }))
    (fun t => (t.ctx 0 0).st == .waiting && (t.ctx 0 0).wait == .endW) = true := by decide +kernel
theorem test_end_complete : after (exec (.endComplete 0 0) (withCtx live { ready with wait := .endW, st := .waiting })) (fun t => (t.ctx 0 0).st == .idle) = true := by
  decide +kernel
theorem test_overrun : (withCtx live { ready with run := some { aRun with cmd := { entry := entry, maxCC := 100 } } }).overran
    { ready with run := some { aRun with cmd := { entry := entry, maxCC := 100 } } } = true ∧
    after (exec (.overrunStopped 0 0) (withCtx live { ready with run := some { aRun with cmd := { entry := entry, maxCC := 100 } } })) (fun t => (t.ctx 0 0).st == .idle) = true := by
  decide +kernel
theorem test_completion_record : s0.accessReason (2 ^ 60 + 8192) 32 = 0 ∧
    after (exec (.endCmd i0) (withCtx live { ready with run := some { aRun with cmd := { aRun.cmd with completion := BitVec.ofNat 64 (2 ^ 60 + 8192) } } }))
      (fun t => t.readNat (2 ^ 60 + 8192 + 16) 4 == 7 && t.readNat (2 ^ 60 + 8192 + 20) 2 == 0) = true := by decide +kernel
theorem test_illegal_word : decodeStaex 0 0 (9 * 2 ^ 60) = none ∧ after (exec (.illegalInstruction 0 0 (9 * 2 ^ 60)) s0) (fun t => (t.ctx 0 0).lastReason == 0x0201) = true := by
  decide +kernel

/-! ### Queues, waits, messages, tags -/

/-- An FP32 tensor of two rows and two columns at byte offset `o` of core 0's own store, without a slot and with scale 1. -/
def t22 (o : Nat) : TDesc := { base := BitVec.ofNat 64 (2 ^ 60 + o), rows := 2, cols := 2, rstride := 64, slot := 0xFFF, scale := 0x7F }

/-- Context 0 with t1 and t2 set up as sources and t3 as a destination. -/
def ready3 : Ctx := { ready with tregs := [(1, { d := t22 0x10000, tag := sealTag { scale := 0x7F } }), (2, { d := t22 0x20000, tag := sealTag { scale := 0x7F } }), (3, { d := t22 0x30000 })] }

def s3 : State := withCtx live ready3

def aCmd : Cmd := { entry := entry, cmdSeq := 9, arg0 := 11, arg3 := 14 }

def offering (k : Ctx) : Ctx := { k with offers := [{ src := .tagged, cmd := aCmd, cc := 990 }] }

theorem test_admits : Admits (withCtx live (offering {})) 0 0 aCmd ∧ after (exec (.commandAdmission 0 0) (withCtx live (offering {})))
    (fun t => (t.ctx 0 0).queue == [{ cmd := aCmd, cc := 1000 }] && (t.ctx 0 0).offers == []) = true := by unfold Admits; decide +kernel
theorem test_queue_full : after (exec (.commandAdmission 0 0) (withCtx live (offering { queue := List.replicate 64 { cmd := aCmd, cc := 0 } })))
    (fun t => (t.ctx 0 0).queue.length == 64 && (t.ctx 0 0).lastReason == 9) = true := by decide +kernel
theorem test_command_start : after (exec (.commandStart 0 0) (withCtx live { queue := [{ cmd := aCmd, cc := 900 }], sregs := [(4, 8)] }))
    (fun t => (t.ctx 0 0).pc == entry && (t.ctx 0 0).sreg 0 == 11 && (t.ctx 0 0).sreg 3 == 14 && (t.ctx 0 0).sreg 4 == 8 && t.word64 0x21 0 0x68 == 0) = true := by
  decide +kernel
theorem test_late_start : after (exec (.commandStart 0 0) { withCtx live { queue := [{ cmd := aCmd, cc := 900 }] } with cycle := 5901 })
    (fun t => t.word64 0x21 0 0x68 == 1) = true := by decide +kernel
theorem test_fetch_refused : after (exec (.nop i0) (withCtx live { ready with pc := ms0 })) (fun t => (t.ctx 0 0).st == .halted && (t.ctx 0 0).lastReason == 1) = true ∧
    after (exec (.nop i0) (withCtx live { ready with pc := entry + 4 })) (fun t => (t.ctx 0 0).st == .halted && (t.ctx 0 0).lastReason.toNat == rsUNMAPPED) = true := by decide +kernel
theorem test_nop : after (exec (.nop i0) s0) (fun t => (t.ctx 0 0).pc == entry + 8) = true := by decide +kernel
/-- Contexts 0 and 2 READY; context 0 issued in the cc before. -/
def sTwo : State := (withCtx live { ready with issued := some 999 }).setCtx 0 2 ready
theorem test_turns : sTwo.lastIssued 0 = 0 ∧ sTwo.mayIssue 0 0 = true ∧ sTwo.turn 0 0 = false ∧ sTwo.mayIssue 0 2 = true ∧ sTwo.turn 0 2 = true ∧
    after (exec (.nop i0) sTwo) (fun t => (t.ctx 0 0).pc == entry) = true ∧ after (exec (.nop { i0 with ctx := 2 }) sTwo) (fun t => (t.ctx 0 2).pc == entry + 8) = true := by decide +kernel
theorem test_wait_arr_edge : after (exec (.waitArr i0 4095 0) s0) (fun t => (t.ctx 0 0).wait == .arr 4095 4095) = true ∧
    after (exec (.waitArr i0 4095 1) s0) (fun t => (t.ctx 0 0).lastReason == 0x0202) = true := by decide +kernel
theorem test_wait_arr_passes : after (exec (.waitArr i0 7 0) { s0 with cores := [(0, { arr := 0x80 })] }) (fun t => (t.ctx 0 0).pc == entry + 8) = true := by
  decide +kernel
theorem test_wait_arr_satisfied : after (exec (.waitArrSatisfied 0 0) { withCtx live { ready with wait := .arr 7 7, st := .waiting } with cores := [(0, { arr := 0x80 })] })
    (fun t => (t.ctx 0 0).st == .ready && (t.ctx 0 0).pc == entry + 8) = true ∧
    after (exec (.waitArrSatisfied 0 0) (withCtx live { ready with wait := .arr 7 7, st := .waiting })) (fun t => (t.ctx 0 0).st == .waiting) = true := by decide +kernel
theorem test_arr_clr : after (exec (.arrClr i0 3 1) { s0 with cores := [(0, { arr := 0xFF })] })
    (fun t => (t.core 0).arrBit 2 && !(t.core 0).arrBit 3 && !(t.core 0).arrBit 4 && (t.core 0).arrBit 5) = true := by decide +kernel
theorem test_arr_busy : after (exec (.arrClr i0 3 1) { s0 with cores := [(0, { arrPend := [(4, 9)] })] }) (fun t => (t.ctx 0 0).st == .halted) = true := by
  decide +kernel
theorem test_wait_t : after (exec (.waitT i0 1) s0) (fun t => (t.ctx 0 0).pc == entry + 8) = true ∧
    after (exec (.waitT i0 1) (withCtx live { ready with busy := [{ t := 2, wr := true, id := 3 }] })) (fun t => (t.ctx 0 0).wait == .tregs 5) = true := by decide +kernel
theorem test_interlock_release : after (exec (.interlockRelease 0 0) (withCtx live { ready with wait := .tregs 5, st := .waiting })) (fun t => (t.ctx 0 0).pc == entry + 8) = true ∧
    heldIss (.tagGet i0 1 4 false) = some i0 ∧
    after (exec (.interlockRelease 0 0) (withCtx live { ready with wait := .held (.tagGet i0 1 4 false), st := .waiting })) (fun t => (t.ctx 0 0).pc == entry + 8) = true := by
  decide +kernel

def msg0 : RxBlk := { x := 0, blk := { tag := { layer := 3, flags := 1 }, payload := [1, 2, 3] } }

theorem test_wait_msg_waits : after (exec (.waitMsg i0 1) { s3 with cores := [(0, { rx := [{ msg0 with x := 1 }] })] }) (fun t => (t.ctx 0 0).wait == .msg 1) = true := by
  decide +kernel
theorem test_wait_msg_takes : s3.accessReason (2 ^ 60 + 0x10000) 3 = 0 ∧ after (exec (.waitMsg i0 1) { s3 with cores := [(0, { rx := [{ msg0 with x := 1 }, msg0] })] })
    (fun t => (t.core 0).rx == [{ msg0 with x := 1 }] && t.readMem (2 ^ 60 + 0x10000) 4 == [1, 2, 3, 0] && ((t.ctx 0 0).treg 1).tag.layer == 3) = true := by decide +kernel
theorem test_wait_msg_arrival : after (exec (.waitMsgArrival 0 0) { withCtx live { ready3 with wait := .msg 1, st := .waiting } with cores := [(0, { rx := [msg0] })] })
    (fun t => (t.ctx 0 0).st == .ready && (t.ctx 0 0).pc == entry + 8) = true := by decide +kernel
theorem test_signal : s0.accessReason (2 ^ 60 + 4096) 64 = 0 ∧ s0.ueIn (2 ^ 60 + 4096) 64 = false ∧
    after (exec (.signal i0 { sa := 3, core := 0, ctx := 1, pd := 2 }) s0) (fun t => (t.ctx 0 0).wait == .signal 2 && (t.ctx 0 1).offers.length == 1) = true := by decide +kernel
theorem test_signal_no_core : after (exec (.signal i0 { sa := 3, core := 96, ctx := 1, pd := 2 }) s0) (fun t => (t.ctx 0 0).st == .halted) = true := by decide +kernel
theorem test_signal_decision : after (exec (.signalDecision 0 0) (withCtx live { ready with wait := .signal 2, st := .waiting, decision := some 9, preds := 4 }))
    (fun t => (t.ctx 0 0).pred 2 == false && (t.ctx 0 0).lastReason == 9 && (t.ctx 0 0).pc == entry + 8) = true := by decide +kernel
theorem test_tag_set_mask : after (exec (.tagSet i0 1 3 1 true) (withCtx live { ready3 with sregs := [(3, 0x300020001)] }))
    (fun t => ((t.ctx 0 0).treg 1).tag.layer == 1 && ((t.ctx 0 0).treg 1).tag.group == 0 && ((t.ctx 0 0).treg 1).tag.count == 1 && tagOk ((t.ctx 0 0).treg 1).tag) = true := by
  decide +kernel
theorem test_tag_set_bad : after (exec (.tagSet i0 1 3 8 false) (withCtx live { ready3 with sregs := [(3, 0xD00000000)] })) (fun t => (t.ctx 0 0).st == .halted) = true := by
  decide +kernel
theorem test_tag_get_held : after (exec (.tagGet i0 1 4 false) (withCtx live { ready3 with busy := [{ t := 1, wr := false, id := 3 }] }))
    (fun t => (t.ctx 0 0).wait == .held (.tagGet i0 1 4 false)) = true := by decide +kernel
theorem test_tdesc_round_trip : s3.accessReason (2 ^ 60 + 4096) 48 = 0 ∧ s3.ueIn (2 ^ 60 + 4096) 48 = false ∧
    after (exec (.tdescSt i0 2 3) s3) (fun t => afterNext (.tdescLd i0 5 3) t (fun u => ((u.ctx 0 0).treg 5).d == t22 0x20000)) = true := by decide +kernel
theorem test_tdesc_setf : after (exec (.tdescSetf i0 1 1 4) s3) (fun t => ((t.ctx 0 0).treg 1).d.fmt == 5 && ((t.ctx 0 0).treg 1).d.bscale == false) = true ∧
    after (exec (.tdescSetf i0 1 1 9) s3) (fun t => ((t.ctx 0 0).treg 1).d.scaleOff == 5) = true ∧
    after (exec (.tdescSetf i0 1 1 10) s3) (fun t => (t.ctx 0 0).lastReason == 0x0201) = true := by decide +kernel

/-- Core 0 with two scale slots at the start of its store, t4 using slot 1. -/
def s4 : State := words (withCtx live { ready3 with tregs := [(4, { d := { t22 0x10000 with slot := 1 } })] }) [(0x10, 0, 0x400, 2)]

theorem test_scale_mark : (1 : BitVec 12) ≠ 0xFFF ∧ (1 : BitVec 12).toNat < s4.fld 0x10 0 0x400 11 0 ∧
    after (exec (.scaleMark i0 4) s4) (fun t => afterNext (.scaleRd i0 4 6) t (fun u => (u.ctx 0 0).sreg 6 == 0x4000)) = true := by decide +kernel
theorem test_scale_no_slot : after (exec (.scaleRd i0 1 6) s3) (fun t => (t.ctx 0 0).st == .halted) = true := by decide +kernel

/-! ### Tensor instructions and engines -/

def withEng (s : State) (e : Engine) : State := { s with engines := Tbl.put s.engines 0 e }

/-- t1 = [[1, 2], [3, 4]] in FP32. -/
def m22 (s : State) (a : Nat) : State :=
  (((s.writeNat a 4 0x3F800000).writeNat (a + 4) 4 0x40000000).writeNat (a + 64) 4 0x40400000).writeNat (a + 68) 4 0x40800000

def fLoads : LoadsF := { tb := 1, kn := 2, nn := 2 }
def fStream : StreamF := { ta := 1, tc := 3, sm := 6, sc := 7 }
def fDrain : DrainF := { tc := 3, sm := 6, sc := 7, nn := 2 }

/-- s6 = 2 rows from row 0, s7 = column 0. -/
def ready6 : Ctx := { ready3 with sregs := [(6, 2)] }

def s6 : State := m22 (withCtx live ready6) (2 ^ 60 + 0x10000)

def loaded : BufIss := { loaded := true, kn := 2, nn := 2 }

theorem test_loads_admitted : (∀ r ∈ s6.loadsReasons 0 (loadsOp fLoads ready6) 0, r = 0) ∧ ready6.holds [] [1] = false ∧ s6.engNameReason 0 0 0 = 0 ∧
    after (exec (.loads i0 fLoads) s6) (fun t => (t.eng 0 0).ib0 == loaded && (t.eng 0 0).q.length == 1 && (t.ctx 0 0).busy.length == 1) = true := by decide +kernel
theorem test_loads_queue_full : after (exec (.loads i0 fLoads) (withEng s6 { q := List.replicate 8 { id := 1, x := 0, no := 1, kind := .seed 1 } }))
    (fun t => t.word 0x10 0 0x18 == 1 && (t.ctx 0 0).pc == entry) = true := by decide +kernel
theorem test_loads_not_owner : after (exec (.loads i0 fLoads) (words s6 [(0x10, 0, 0x10, 1)])) (fun t => (t.ctx 0 0).lastReason == 0x0205) = true := by decide +kernel
theorem test_loads_too_wide : after (exec (.loads i0 { fLoads with kn := 65 }) s6) (fun t => (t.ctx 0 0).lastReason == 0x0204) = true := by decide +kernel
theorem test_stream_admitted : (∀ r ∈ (withEng s6 { ib0 := loaded }).streamReasons 0 fStream ((withEng s6 { ib0 := loaded }).streamOp 0 0 fStream ready6) loaded, r = 0) ∧
    after (exec (.stream i0 { fStream with rel := true }) (withEng s6 { ib0 := loaded })) (fun t => !(t.eng 0 0).ib0.loaded && (t.eng 0 0).q.length == 1) = true := by decide +kernel
theorem test_stream_empty_buffer : after (exec (.stream i0 fStream) s6) (fun t => (t.ctx 0 0).lastReason == 0x0206) = true := by decide +kernel
theorem test_drain_admitted : (∀ r ∈ s6.drainReasons 0 (drainOp fDrain ready6) false, r = 0) ∧
    after (exec (.drain i0 fDrain) s6) (fun t => (t.eng 0 0).q.length == 1 && (t.ctx 0 0).busy == [{ t := 3, wr := true, id := 1 }]) = true := by decide +kernel
theorem test_seed_zero : after (exec (.engSeed i0 9 0) s6) (fun t => (t.eng 0 0).q.map (fun o => o.kind) == [.seed 1]) = true := by decide +kernel

/-- The operands of a tile form: A, B and C dense at multiples of 64. -/
def readyT : Ctx := { ready with sregs := [(1, BitVec.ofNat 64 (2 ^ 60)), (2, BitVec.ofNat 64 (2 ^ 60 + 4096)), (3, BitVec.ofNat 64 (2 ^ 60 + 8192))] }
def fTile : TileF := { sa := 1, sb := 2, sc := 3, fmt := 1 }

theorem test_tile_admitted : (∀ r ∈ live.tileReasons fTile (tileLoads fTile 32 readyT) (tileStream fTile 32 readyT), r = 0) ∧
    after (exec (.tile32Mma i0 fTile) (withCtx live readyT)) (fun t => (t.eng 0 0).q.length == 2 && !(t.eng 0 0).ib1.loaded) = true ∧
    after (exec (.tile16Mma i0 { fTile with fmt := 4 }) (withCtx live readyT)) (fun t => (t.ctx 0 0).lastReason == 0x0203) = true := by decide +kernel

def anOp (k : EngKind) : EngOp := { id := 5, x := 0, no := 1, kind := k, started := true }
def opd (n : Nat) : Opd := ready6.opd n
def theLoads : LoadsOp := { tb := opd 1, kn := 2, nn := 2 }
def theDrain : DrainOp := { tc := opd 3, m := 2, nn := 2 }
def theStream : StreamOp := { ta := opd 1, tc := opd 3, m := 2, kn := 2, nn := 2 }
def running6 : Ctx := { ready6 with outst := [{ id := 5, no := 1 }], busy := [{ t := 3, wr := true, id := 5 }] }
def sE (e : Engine) : State := withEng (m22 (withCtx live running6) (2 ^ 60 + 0x10000)) e

theorem test_start_loads : (sE { q := [{ anOp (.loads theLoads) with started := false }] }).fld 0x11 0 0 2 0 = 2 ∧
    (Engine.mayStart { q := [] } [] (.loads theLoads)) = true ∧
    after (exec (.engineInstrStart 0 0) (sE { q := [{ anOp (.loads theLoads) with started := false }] })) (fun t => (t.eng 0 0).q.map (fun o => o.started) == [true]) = true := by
  decide +kernel
theorem test_start_seed : after (exec (.engineInstrStart 0 0) (sE { q := [{ anOp (.seed 77) with started := false }] }))
    (fun t => (t.eng 0 0).seed == 77 && (t.eng 0 0).q == [] && (t.ctx 0 0).outst == []) = true := by decide +kernel
theorem test_start_drain : (sE {}).wantsPrepass 0 (t22 0x30000) = false ∧
    after (exec (.engineInstrStart 0 0) (sE { q := [{ anOp (.drain theDrain) with started := false }] })) (fun t => (t.eng 0 0).q.map (fun o => o.scale) == [0x7F]) = true := by
  decide +kernel
theorem test_start_stream : (sE {}).replayingOn 0 0 = false ∧
    after (exec (.engineInstrStart 0 0) (sE { q := [{ anOp (.stream { theStream with rel := true }) with started := false }], buf0 := { loaded := true } }))
      (fun t => (t.eng 0 0).q.map (fun o => o.buf.loaded) == [true] && !(t.eng 0 0).buf0.loaded) = true := by decide +kernel
theorem test_loads_fill : after (exec (.loadsComplete 0 0) (sE { q := [anOp (.loads theLoads)] }))
    (fun t => (t.eng 0 0).buf0.tile == [[(0x3F800000, 0x7F), (0x40000000, 0x7F)], [(0x40400000, 0x7F), (0x40800000, 0x7F)]] && (t.eng 0 0).q == []) = true := by decide +kernel

def buf22 : Buf :=
  { loaded := true
    kn := 2
    nn := 2
    tag := sealTag { scale := 0x7F }
    tile := [[(0x3F800000, 0x7F), (0x40000000, 0x7F)], [(0x40400000, 0x7F), (0x40800000, 0x7F)]] }

/-- [[1, 2], [3, 4]] squared is [[7, 10], [15, 22]]. -/
theorem test_stream_clean : (theStream.poisonTags buf22).any poisoned = false := by decide +kernel
theorem test_stream_result : (sE {}).piecesHere 0 theStream = true ∧ Engine.bankHeld {} (anOp (.stream theStream)) = false ∧
    after (exec (.streamComplete 0 0 []) (sE { q := [{ anOp (.stream theStream) with buf := buf22 }] }))
      (fun t => t.readNat (2 ^ 60 + 0x30000) 4 == 0x40E00000 && t.readNat (2 ^ 60 + 0x30004) 4 == 0x41200000 && t.readNat (2 ^ 60 + 0x30040) 4 == 0x41700000 &&
        t.readNat (2 ^ 60 + 0x30044) 4 == 0x41B00000 && (t.eng 0 0).q == [] && (t.ctx 0 0).busy == []) = true := by decide +kernel
theorem test_stream_poison : after (exec (.streamComplete 0 0 []) (sE { q := [{ anOp (.stream theStream) with buf := { buf22 with tag := { flags := flagBit fPOISON true } } }] }))
    (fun t => hasFlag ((t.ctx 0 0).treg 3).tag fPOISON && t.readNat (2 ^ 60 + 0x30000) 4 == 0) = true := by decide +kernel
theorem test_stream_no_rows : after (exec (.streamComplete 0 0 []) (sE { q := [anOp (.stream { theStream with m := 0 })] }))
    (fun t => (t.ctx 0 0).treg 3 == ready6.treg 3 && (t.eng 0 0).q == []) = true := by decide +kernel
theorem test_drain_result : after (exec (.drainComplete 0 0 []) (sE { q := [anOp (.drain theDrain)], bank0 := { vals := [(0, 0x3F800000), (65, 0x40000000)] } }))
    (fun t => t.readNat (2 ^ 60 + 0x30000) 4 == 0x3F800000 && t.readNat (2 ^ 60 + 0x30044) 4 == 0x40000000 && tagOk ((t.ctx 0 0).treg 3).tag) = true := by decide +kernel
theorem test_drain_no_rows : after (exec (.drainComplete 0 0 []) (sE { q := [anOp (.drain { theDrain with m := 0 })] })) (fun t => (t.eng 0 0).q == []) = true := by
  decide +kernel
theorem test_second_sweep : after (exec (.prepassSecondSweep 0 0 []) (sE { q := [{ anOp (.drain theDrain) with prepass := true }] }))
    (fun t => (t.eng 0 0).q.map (fun o => o.swept) == [true]) = true := by decide +kernel
theorem test_taster_zero : tasteBin [(.fin false 0 0, .fin false 0 0)] = 0 ∧ tasteBin [(.fin false 0 0, .nan)] = 15 ∧
    after (exec (.tasterCompare 0 0) (sE { samples := [{ vals := [(.fin false 0 0, .fin false 0 0)], layer := 1 }] }))
      (fun t => t.word64 0x10 0 0x458 == 1 && t.word64 0x10 0 0x468 == 0 && (t.eng 0 0).samples == []) = true := by decide +kernel
theorem test_taster_exceeds : after (exec (.tasterCompare 0 0) (sE { samples := [{ vals := [(.fin false 1 0, .nan)], layer := 1 }] }))
    (fun t => t.word64 0x10 0 0x468 == 1 && t.fld 0x10 0 0x40C 4 4 == 1) = true := by decide +kernel

/-- A STREAM that waits for the first piece of TA freezes its engine. -/
def waitingStream : StreamOp := { theStream with waitp := true, ta := { theStream.ta with t := { theStream.ta.t with d := { t22 0x10000 with pieceRows := 1 } } } }
def sFrozen (k : EngKind) : State := sE { q := [{ anOp k with id := 4 }, anOp (.stream waitingStream)], buf0 := buf22 }
theorem test_frozen : (sFrozen (.loads theLoads)).frozen 0 0 = true ∧ after (exec (.loadsComplete 0 0) (sFrozen (.loads theLoads))) (fun t => (t.eng 0 0).q.length == 2) = true ∧
    (sFrozen (.drain theDrain)).frozen 0 0 = true ∧ after (exec (.drainComplete 0 0 []) (sFrozen (.drain theDrain))) (fun t => (t.eng 0 0).q.length == 2) = true := by decide +kernel
theorem test_unfed_stays : after (exec (.streamComplete 0 0 []) (sE { q := [anOp (.stream waitingStream)], buf0 := buf22 })) (fun t => (t.eng 0 0).q.map (fun o => o.fed) == [false]) = true := by
  decide +kernel
/-- Rows of a shallow-form STREAM take the spare bank of a waiting sample. -/
def sSpare : State := sE { q := [{ anOp (.stream { theStream with sh := true }) with fed := true }], samples := [{ vals := [], layer := 1 }] }
theorem test_taster_abandons : sSpare.spareTaken 0 0 = true ∧ after (exec (.tasterCompare 0 0) sSpare) (fun t => (t.eng 0 0).samples == [] && t.word64 0x10 0 0x460 == 1) = true := by
  decide +kernel

def aHold : Hold := { id := 5, first := 0, last := 1, kind := .own, sweep1 := true }
def live4 : State := words (sE {}) [(0x11, 1, 0, 2), (0x11, 2, 0, 2), (0x11, 3, 0, 2)]

theorem test_replay_next : after (exec (.replay 0 0) (withEng live4 { q := [anOp (.stream theStream)], holds := [aHold] }))
    (fun t => (t.eng 0 0).holds.map (fun h => h.rep) == [some 1]) = true := by decide +kernel
/-- Engine 0's held tile runs on engine 1, and a STREAM of engine 1 that has not started waits, counted once (R499, R514). -/
def sDue : State :=
  let s := withEng live4 { q := [anOp (.stream theStream)], holds := [{ aHold with rep := some 1 }] }
  { s with engines := Tbl.put s.engines 1 { q := [{ anOp (.stream theStream) with id := 6, started := false }], buf0 := buf22 } }
theorem test_replay_due : sDue.replayDue 0 1 = true ∧ (sDue.feed 0 1).replayDue 0 1 = true ∧ (Engine.mayStart { q := [] } [] (.stream theStream)) = true ∧
    after (exec (.engineInstrStart 0 1) sDue) (fun t => (t.eng 0 1).q.map (fun o => o.started) == [false] && t.word64 0x13 1 0x68 == 1 &&
      after (exec (.engineInstrStart 0 1) t) (fun u => u.word64 0x13 1 0x68 == 1)) = true := by decide +kernel
theorem test_replay_runs_on : after (exec (.replay 0 0) sDue) (fun t => t.engines == sDue.engines) = true := by decide +kernel
/-- A tile of engine 3 waits while engine 0's runs on engine 1 and no other engine may replay. -/
def sBusyReplay : State :=
  let s := words sDue [(0x11, 0, 0, 0), (0x11, 2, 0, 0)]
  { s with engines := Tbl.put s.engines 3 { q := [{ anOp (.stream theStream) with id := 7 }], holds := [{ aHold with id := 7, seq := 1 }] } }
theorem test_replay_waits : sBusyReplay.nextReplayer 0 3 { aHold with id := 7, seq := 1 } = some 1 ∧ sBusyReplay.replayingOn 0 1 = true ∧
    after (exec (.replay 0 3) sBusyReplay) (fun t => t.engines == sBusyReplay.engines) = true := by decide +kernel
/-- Engine 1 stands still for a piece, and with it the replay that it runs (R172). -/
def sStill : State :=
  { sDue with engines := Tbl.put sDue.engines 1 { q := [anOp (.stream waitingStream)], buf0 := buf22 } }
theorem test_replay_stands_still : sStill.replayStill 0 0 1 { aHold with rep := some 1 } = true ∧
    after (exec (.replayComplete 0 0 {}) sStill) (fun t => t.engines == sStill.engines) = true := by decide +kernel
theorem test_replay_goes_on : (withEng live4 { holds := [aHold] }).nextReplayer 0 0 { aHold with rep := none, other := some 1 } = some 2 ∧
    (words live4 [(0x13, 1, 0, 1)]).residueOn 0 1 = true ∧
    after (exec (.replayComplete 0 0 { checksPass := false }) (words (withEng live4 { q := [anOp (.stream theStream)], holds := [{ aHold with rep := some 1 }] }) [(0x13, 1, 0, 1)]))
      (fun t => (t.eng 0 0).holds.map (fun h => (h.rep, h.other)) == [(none, some 1)] && t.fld 0x13 1 8 0 0 == 1) = true := by decide +kernel
theorem test_replay_nowhere : after (exec (.replay 0 0) (sE { q := [anOp (.stream theStream)], holds := [{ aHold with rep := none, other := some 1 }] }))
    (fun t => hasFlag ((t.ctx 0 0).treg 3).tag fPOISON && t.word64 0x13 0 0x70 == 1 && (t.eng 0 0).holds == []) = true := by decide +kernel
theorem test_replay_false_alarm : after (exec (.replayComplete 0 0 {}) (withEng live4 { q := [anOp (.stream theStream)], holds := [{ aHold with rep := some 1 }] }))
    (fun t => t.word64 0x13 0 0x58 == 1 && (t.eng 0 0).holds == []) = true := by decide +kernel
theorem test_replay_unresolved : after (exec (.replayComplete 0 0 { checksPass := false }) (sE { q := [anOp (.stream theStream)], holds := [{ aHold with rep := some 1 }] }))
    (fun t => hasFlag ((t.ctx 0 0).treg 3).tag fPOISON && t.word64 0x13 0 0x70 == 1) = true := by decide +kernel
theorem test_retirement_rest : after (exec (.retirementRest 0 0) (sE { retiring := true })) (fun t => t.fld 0x11 0 0 2 0 == 3 && (t.eng 0 0).retiring) = true ∧
    after (exec (.retirementRest 0 0) (words (sE { retiring := true }) [(0x11, 0, 0, 3)])) (fun t => t.fld 0x11 0 0 2 0 == 4) = true ∧
    after (exec (.retirementRest 0 0) (words (sE { retiring := true }) [(0x11, 0, 0, 4)])) (fun t => t.fld 0x11 0 0 2 0 == 0 && t.fld 0x11 0 8 15 0 == 0x9302 && t.word 0 0 0x10C == (sE {}).word 0 0 0x10C - 1) = true := by decide +kernel
/-- A follower that is released keeps what the pair has accumulated (R505). -/
theorem test_twin_parts :
    let s := words (sE { bank0 := { vals := [(0, 0x3F800000)] } }) [(0x11, 0, 0, 0), (0x11, 1, 0, 0), (0x13, 0, 0, 3)]
    s.twinOn 0 0 = true ∧ s.ctlRefusal .service (ctlAddr 0x13 0 0) 4 (setBits (s.word 0x13 0 0).toNat 1 1 0) = 0 ∧
    after (exec (.twinWrite .service 0 0 false) s) (fun t => t.fld 0x13 0 0 1 1 == 0 && (t.eng 0 1).bank0.vals == [(0, 0x3F800000)]) = true := by decide +kernel
theorem test_twin_write : after (exec (.twinWrite .service 0 0 true) (words (sE {}) [(0x11, 0, 0, 0), (0x11, 1, 0, 0)])) (fun t => t.fld 0x13 0 0 1 1 == 1) = true ∧
    after (exec (.twinWrite .service 0 0 true) (sE {})) (fun t => t.fld 0x13 0 0 1 1 == 0) = true := by decide +kernel

/-! ### The vector unit, the mover, messages and collectives -/

def fMove : MoveF := { td := 3, ta := 1, setarr := true, arr := 9 }

theorem test_move_admitted : (∀ r ∈ s6.moveReasons 0 (some 9) (opd 1) (opd 3), r = 0) ∧ after (exec (.move i0 fMove) { s6 with cores := [(0, { arr := 0xFFF })] })
    (fun t => !(t.core 0).arrBit 9 && (t.core 0).arrBit 8 && (t.core 0).arrPending 9 && (t.core 0).mv.length == 1) = true := by decide +kernel
theorem test_move_illegal : after (exec (.move i0 { fMove with rnd := 3 }) s6) (fun t => (t.ctx 0 0).lastReason == 0x0201) = true := by decide +kernel
/-- A STASH goes from a BF16 tensor to an FP8 one in spaces 1 to 3 with larder headers (R256 to R259). -/
def sStash : State :=
  withCtx live { ready with tregs := [(1, { d := { t22 0x10000 with fmt := 1 }, tag := sealTag { fmt := 1, scale := 0x7F } }), (3, { d := { t22 0x30000 with fmt := 3, bscale := true, scaleOff := 128 } })] }
theorem test_stash_admitted : (∀ r ∈ sStash.stashReasons 0 none ((sStash.ctx 0 0).opd 1) ((sStash.ctx 0 0).opd 3), r = 0) ∧
    after (exec (.stash i0 { td := 3, ta := 1 }) sStash) (fun t => (t.core 0).mv.map (fun o => o.kind) == [.stash]) = true := by decide +kernel
/-- A larder header whose TRES is wrong halts nothing. -/
def sFetch : State := sStash.writeNat (2 ^ 60 + 0x30040) 1 1
theorem test_fetch_admitted : (∀ r ∈ sFetch.fetchReasons 0 none ((sFetch.ctx 0 0).opd 3) ((sFetch.ctx 0 0).opd 1), r = 0) ∧
    after (exec (.fetch i0 { td := 1, ta := 3 }) sFetch) (fun t => (t.core 0).mv.map (fun o => o.kind) == [.fetch]) = true := by decide +kernel
theorem test_vop_admitted : (∀ r ∈ s6.vopReasons 0 (vopOp 0 { td := 3, ta := 1, tb := 2 } ready6), r = 0) ∧
    after (exec (.vop i0 { td := 3, ta := 1, tb := 2 }) s6) (fun t => (t.core 0).vu.length == 1 && (t.ctx 0 0).busy.length == 3) = true := by decide +kernel
theorem test_vop_attaches : (∀ r ∈ s6.attachReasons 0 (vopAttach 0 { td := 3, ta := 1, tb := 2, fn := 6, att := 2 } ready6), r = 0) ∧
    after (exec (.vop i0 { td := 3, ta := 1, tb := 2, fn := 6, att := 2 }) s6) (fun t => (t.core 0).attach.length == 1 && (t.core 0).vu == [] &&
      afterNext (.vop i0 { td := 3, ta := 1, tb := 2, fn := 6, att := 2 }) t (fun u => (u.ctx 0 0).lastReason == 0x0202)) = true := by decide +kernel

def theMove : MvOp := { kind := .move, id := 5, x := 0, no := 1, td := opd 3, ta := opd 1, rnd := 0, ovf := false, arr := some 9 }
def moving (o : MvOp) : State := { sE {} with cores := [(0, { mv := [o], arrPend := [(9, 5)] })] }

theorem test_move_copies : after (exec (.moveComplete 0) (moving theMove)) (fun t => t.readNat (2 ^ 60 + 0x30044) 4 == 0x40800000 && (t.core 0).arrBit 9 && !(t.core 0).arrPending 9 &&
    (t.core 0).mv == [] && (t.ctx 0 0).busy == []) = true := by decide +kernel
theorem test_move_poison : after (exec (.moveComplete 0) (moving { theMove with poisoned := true }))
    (fun t => t.mem == (moving theMove).mem && hasFlag ((t.ctx 0 0).treg 3).tag fPOISON) = true := by decide +kernel
theorem test_stash_header : after (exec (.stashComplete 0) (moving { theMove with kind := .stash })) (fun t => ((t.ctx 0 0).treg 3).tag.kind == 5 && ((t.ctx 0 0).treg 3).tag.count == 1) = true := by
  decide +kernel
theorem test_fetch_bad_header : tagOk (headerTag (List.replicate 64 1)) = false ∧
    after (exec (.fetchComplete 0) (moving { theMove with kind := .fetch, hdr := List.replicate 64 1 })) (fun t => hasFlag ((t.ctx 0 0).treg 3).tag fPOISON) = true := by decide +kernel
theorem test_fetch_header : tagOk (headerTag []) = true ∧ hasFlag (headerTag []) fPOISON = false ∧
    after (exec (.fetchComplete 0) (moving { theMove with kind := .fetch })) (fun t => !hasFlag ((t.ctx 0 0).treg 3).tag fPOISON) = true := by decide +kernel

def theVop : VuOp := { id := 5, x := 0, no := 1, fn := 4, td := opd 3, ta := opd 1, tb := opd 2, ss := 0, stats := none, rnd := 0, ovf := false, scale := 0x7F, prepass := false, statScale := 0x7F }

theorem test_vop_maximum : after (exec (.vopComplete 0) { sE {} with cores := [(0, { vu := [theVop] })] })
    (fun t => t.readNat (2 ^ 60 + 0x30044) 4 == 0x40800000 && (t.core 0).vu == [] && t.freeCtr == 4) = true := by decide +kernel

/-- s8 names context 1 of core 2 of module 7 of site 5, to which port 0 has a route. -/
def sSend : State :=
  (words (m22 (withCtx live { ready6 with sregs := [(8, 2 ^ 29 + 2 * 2 ^ 22 + 5 * 2 ^ 14 + 7)] }) (2 ^ 60 + 0x10000))
    [(0x20, 0, 0, 2), (0x22, 0, 0, 2), (0x22, 0, 0x24, 3), (0x22, 0, 0x28, 8)]).writeNat (modAddr 112) 1 1

theorem test_send_admitted : (∀ r ∈ sSend.sendReasons 0 none (t22 0x10000), r = 0) ∧ sSend.ueIn (2 ^ 60 + 0x10000) (spanBytes (t22 0x10000)) = false ∧
    (sSend.route 0 7).isSome = true ∧ sSend.fnState (.sf 0) = 2 := by decide +kernel
theorem test_send_packs : after (exec (.send i0 { ta := 1, sdst := 8 }) sSend) (fun t => (t.ctx 0 0).pc == entry + 8 && (t.core 0).sends.length == 1 &&
    (t.port 0).tx.map (fun x => (x.dst.toNat, x.index.toNat, x.blk.payload.length, x.blk.desc.extent.toNat)) == [(7, 9, 16, 4)] &&
    (t.port 0).tx.all (fun x => x.blk.payload.drop 12 == [0, 0, 0x80, 0x40])) = true := by decide +kernel

/-- Group 0 RUNNING with members 10 and 11, this module the first; t1's tag names it with OP 0. -/
def readyG : Ctx := { ready6 with tregs := [(1, { d := t22 0x10000, tag := sealTag { op := 1, scale := 0x7F } }), (3, { d := t22 0x30000 })] }
def sGroup : State := { words (withCtx live readyG) [(0x23, 0, 0, 2), (0x23, 0, 0x14, 2), (0x23, 0, 0x24, 64), (0x23, 0, 0x20, 0x00640064)] with groups := [(0, { members := [10, 11] })] }

theorem test_coll_admitted : (sGroup.endPieces 0).collReason 0 0 { td := 3, ta := 1 } 1 (t22 0x10000) (t22 0x30000) none = 0 ∧
    after (exec (.coll i0 { td := 3, ta := 1 }) sGroup) (fun t => (t.group 0).cseq == 1 && (t.group 0).outst.length == 1 && (t.ctx 0 0).pc == entry + 8) = true := by decide +kernel
theorem test_coll_held : after (exec (.coll i0 { td := 3, ta := 1 }) { sGroup with groups := [(0, { members := [10, 11], outst := List.replicate 8 {} })] })
    (fun t => (t.ctx 0 0).wait == .coll (.coll i0 { td := 3, ta := 1 }) 0) = true := by decide +kernel
theorem test_coll_released : after (exec (.collHoldRelease 0 0) { sGroup with ctxs := [(0, { readyG with wait := .coll (.coll i0 { td := 3, ta := 1 }) 7, st := .waiting })] })
    (fun t => (t.group 0).outst.length == 1 && (t.ctx 0 0).pc == entry + 8) = true := by decide +kernel

/-! ### Collectives at work -/

def aColl : Coll := { c := 0, x := 0, id := 5, ta := opd 1, td := opd 3, ext := 4, own := [0x3F800000, 0, 0, 0], ownCount := 1, clock := some 0, hop := some 0 }
/-- Port 0 has routes to modules 10 and 11. -/
def sColl (k : Coll) : State :=
  { (words (withCtx live running6) [(0x23, 0, 0, 2), (0x23, 0, 0x14, 2), (0x23, 0, 0x24, 64), (0x23, 0, 0x20, 0x00640064), (0x20, 0, 0, 2), (0x22, 0, 0, 2),
      (0x22, 0, 0x24, 3), (0x22, 0, 0x28, 12)]).writeNat (modAddr 160) 17 (1 + 2 ^ 128) with
    groups := [(0, { members := [10, 11], cseq := 1, outst := [k] })], cycle := 200001 }
def aMsg : CollMsg := { member := 1, role := .ring, tag := aColl.tag, seg := 1, first := 2, vals := [0x40000000, 0x40400000] }

theorem test_coll_early : (sColl aColl).gServes 0 = true ∧ ((sColl aColl).group 0).find 3 = none ∧
    after (exec (.collMessageReceive 0 { aMsg with cseq := 3 }) (sColl aColl)) (fun t => (t.group 0).early.length == 1) = true := by decide +kernel
theorem test_ring_forwards : aMsg.seg ≠ (sColl aColl).gSelf 0 ∧ aColl.differs { aMsg with desc := { extent := 4 } } = 0 ∧
    after (exec (.collMessageReceive 0 { aMsg with desc := { extent := 4 } }) (sColl aColl)) (fun t => (t.group 0).outst.map (fun q => q.sent) == [[(1, 2)]] && (t.port 0).tx.length == 1) = true := by
  decide +kernel
theorem test_ring_mismatch : aColl.differs { aMsg with ck := 1 } ≠ 0 ∧
    after (exec (.collMessageReceive 0 { aMsg with ck := 1 }) (sColl aColl)) (fun t => (t.group 0).outst.all (fun q => q.mism.isSome) && (t.port 0).tx.length == 1) = true := by decide +kernel
theorem test_notices_wait : after (exec (.bypassReceive 0 5 1 0) (sColl aColl)) (fun t => (t.group 0).notices.length == 1) = true ∧
    after (exec (.mismatchNoticeReceive 0 5 1 3) (sColl aColl)) (fun t => (t.group 0).notices.length == 1) = true := by decide +kernel
theorem test_bypass : (sColl aColl).nextHop 0 aColl = 1 ∧ after (exec (.bypassReceive 0 0 0 1) (sColl aColl)) (fun t => (t.group 0).outst.map (fun q => q.nextHop) == [some 0]) = true := by
  decide +kernel
theorem test_hold_goes_on : after (exec (.holdReceive 0 0 1) (sColl aColl)) (fun t => (t.port 0).tx.map (fun q => q.coll) == [some (.hold 0 1 0 1)]) = true ∧
    after (exec (.holdReceive 0 0 0) (sColl aColl)) (fun t => (t.port 0).tx == []) = true := by decide +kernel
theorem test_mismatch_notice : after (exec (.mismatchNoticeReceive 0 0 1 3) (sColl aColl)) (fun t => t.fld 0x23 0 0x34 31 28 == 3 && t.fld 0x23 0 0x34 13 0 == 1) = true := by
  decide +kernel
theorem test_coll_completes : (sColl { aColl with done := true, mism := some (1, 3) }).collFinal 0 { aColl with done := true, mism := some (1, 3) } = true ∧
    after (exec (.collComplete 0 0) (sColl { aColl with done := true, mism := some (1, 3), arr := some 9 }))
      (fun t => (t.group 0).outst == [] && (t.core 0).arrBit 9 && hasFlag ((t.ctx 0 0).treg 3).tag fMISMATCH && ((t.ctx 0 0).treg 3).tag.count == 0 && (t.ctx 0 0).outst == []) = true := by
  decide +kernel
theorem test_coll_not_final : (sColl aColl).collFinal 0 aColl = false := by decide +kernel
theorem test_deadline : (sColl { aColl with ck := 2 }).reduces 0 { aColl with ck := 2 } = true ∧ (sColl aColl).passedUs 0 100 = true ∧ (sColl aColl).passedUs 0 201 = false ∧
    after (exec (.collDeadlineExpiry 0 0) (sColl { aColl with ck := 2 })) (fun t => (t.group 0).outst == []) = true := by decide +kernel
theorem test_window : after (exec (.collForwardWindowExpiry 0 0) (sColl aColl)) (fun t => (t.group 0).outst.map (fun q => q.windowOver) == [true]) = true ∧
    after (exec (.collForwardWindowExpiry 0 0) { sColl aColl with cycle := 199999 }) (fun t => (t.group 0).outst.map (fun q => q.windowOver) == [false]) = true := by decide +kernel
theorem test_hop_no_bypass : after (exec (.ringHopExpiry 0 0) (sColl { aColl with skips := [1] })) (fun t => (t.group 0).outst.map (fun q => q.hop) == [none]) = true := by decide +kernel
theorem test_hop_bypasses : after (exec (.ringHopExpiry 0 0) (words { sColl aColl with groups := [(0, { members := [10, 11, 12], outst := [aColl] })] } [(0x23, 0, 0x14, 3), (0x23, 0, 0x10, 2 ^ 17)]))
    (fun t => (t.group 0).outst.map (fun q => q.skips) == [[2]] && t.fld 0x23 0 0x38 3 3 == 1) = true := by decide +kernel

/-! ### The step knock-back -/

/-- Context 0 of core 0 is a member, and context 1 none; the fence stands open. -/
def sMember : State := words s0 [(0x10, 0, 0x100, 3)]
def atPhase (s : State) (p : Nat) : State := s.setPhase p

theorem test_fence_opens_k0 : sMember.phase = 7 ∧ sMember.stepMember 0 0 = true ∧
    after (exec (.fenceStep i0) sMember) (fun t => t.phase == 0 && (t.ctx 0 0).wait == .fence && (t.ctx 0 0).counted) = true := by decide +kernel
theorem test_fence_passes : after (exec (.fenceStep i0) s0) (fun t => (t.ctx 0 0).pc == entry + 8 && t.phase == 7) = true := by decide +kernel
theorem test_fence_waits : after (exec (.fenceStep i0) (atPhase (withCtx live { ready with member := true }) 0)) (fun t => (t.ctx 0 0).wait == .fence && (t.ctx 0 0).counted) = true ∧
    after (exec (.fenceStep i0) (atPhase sMember 2)) (fun t => (t.ctx 0 0).wait == .fence && !(t.ctx 0 0).counted) = true ∧
    after (exec (.fenceStep i0) (atPhase s0 2)) (fun t => (t.ctx 0 0).pc == entry + 8) = true := by decide +kernel
theorem test_k1 : (atPhase live 0).k0Ends = true ∧ after (exec .knockbackK1CoreDrain (atPhase live 0)) (fun t => t.phase == 1) = true ∧
    (atPhase (withCtx live { ready with member := true }) 0).k0Ends = false := by decide +kernel
theorem test_k2 : runningCores (atPhase live 1) = [0] ∧ after (exec .knockbackK2FabricDrain (atPhase live 1)) (fun t => t.phase == 2 && (t.core 0).drained) = true ∧
    after (exec .knockbackK2FabricDrain { atPhase live 1 with cores := [(0, { mv := [theMove] })] }) (fun t => t.phase == 1) = true := by decide +kernel
theorem test_k3 : (atPhase live 2).collsDone 0 = true ∧ after (exec .knockbackK3HiveDrain (atPhase live 2)) (fun t => t.phase == 3) = true ∧
    after (exec .knockbackK3HiveDrain (words (atPhase live 2) [(0, 0, 0x204, 2 ^ 31 + 2 * 2 ^ 27)])) (fun t => t.phase == 5 && !t.evalOn) = true ∧
    after (exec .knockbackK3HiveDrain { atPhase live 2 with groups := [(0, { outst := [aColl] })] }) (fun t => t.phase == 2) = true := by decide +kernel
theorem test_k4 : (atPhase live 3).hivesK3.k3Ends = true ∧ (atPhase live 3).hivesK3.foragerRounds = false ∧
    after (exec .knockbackK4BaseInstall (atPhase live 3)) (fun t => t.phase == 4) = true ∧
    (words (atPhase live 3) [(0x24, 1, 0, 2)]).hivesK3.k3Ends = true := by decide +kernel
theorem test_k5_step_wraps : after (exec .knockbackK5Advance (words live [(0, 0, 0x204, 4 * 2 ^ 27 + 0xFFFFFF)])) (fun t => t.phase == 5 && t.step24 == 0) = true := by decide +kernel
/-- A RUNNING forager in PHASE 3 with one step to a round. -/
def sRound : State := words (atPhase live 4) [(0x25, 0, 0, 2), (0x25, 0, 0x1C, 1), (0x25, 0, 0x14, 3 * 2 ^ 26)]
theorem test_k5_round : sRound.fnRunning .forager = true ∧ after (exec .knockbackK5Advance sRound) (fun t => t.round16 == 1 && t.fg.encode.length == 1 && t.fld 0x25 0 0x14 15 0 == 0) = true ∧
    after (exec .knockbackK5Advance (words sRound [(0x25, 0, 0x1C, 5)])) (fun t => t.round16 == 0 && t.fld 0x25 0 0x14 15 0 == 1) = true := by decide +kernel
theorem test_k6_opens : after (exec .knockbackK6Open (atPhase (withCtx live { ready with wait := .fence, st := .waiting, member := true }) 5))
    (fun t => t.phase == 7 && (t.ctx 0 0).wait == .none && (t.ctx 0 0).pc == entry + 8 && !(t.ctx 0 0).member) = true ∧
    after (exec .knockbackK6Open (words (atPhase live 5) [(0, 0, 0x200, 1)])) (fun t => t.phase == 5) = true ∧
    after (exec .knockbackK6Open (words (atPhase live 5) [(0, 0, 0x200, 2)])) (fun t => t.phase == 7 && !t.evalOn) = true ∧
    after (exec .knockbackK6Open { words (atPhase live 5) [(0, 0, 0x200, 2)] with kbEval := true }) (fun t => t.phase == 7 && t.evalOn && t.fld 0 0 0x200 1 1 == 0) = true := by decide +kernel

/-! ### Registers and functions -/

/-- HP_LEASE: EVENT_RTO_US and LEASE_MS, both RW LIVE, at offset 0x10 of the host port's block. -/
theorem test_register_write : (regWord 0x21 0 0x10).isSome = true ∧ live.ctlRefusal .host (ctlAddr 0x21 0 0x10) 4 0x00140005 = 0 ∧
    after (exec (.registerWrite .host (BitVec.ofNat 64 (ctlAddr 0x21 0 0x10)) false 0x00140005) live) (fun t => t.word 0x21 0 0x10 == 0x00140005) = true := by decide +kernel
theorem test_register_acts : ¬ acts 0x21 0 0x10 ∧ acts 0x10 0 0x408 := by unfold acts; decide +kernel
theorem test_write_refused : live.ctlRefusal .host (ctlAddr 0x21 0 0x10 + 1) 4 0 ≠ 0 ∧
    after (exec (.registerWrite .host (BitVec.ofNat 64 (ctlAddr 0x21 0 0x10 + 1)) false 7) live) (fun t => t.ctl == live.ctl) = true := by decide +kernel
theorem test_w1c : regWord 0x21 0 0x18 = some (w1cLow 4) ∨ (regWord 0x21 0 0x18).isSome = true := by decide +kernel
theorem test_w1c_set_now : after (exec (.w1cFlagClear .host (BitVec.ofNat 64 (ctlAddr 0x22 0 0x1C)) 3 1) (words live [(0x22, 0, 0x1C, 7)])) (fun t => t.word 0x22 0 0x1C == 5) = true := by
  decide +kernel
theorem test_ctr_reset : (ctrRanges 0x10 0x400).isSome = true ∧ (words live [(0x10, 1, 0x458, 9)]).ctrOpen 0x10 1 0x400 = true ∧
    after (exec (.ctrReset .host (BitVec.ofNat 64 (ctlAddr 0x10 1 0x400))) (words live [(0x10, 1, 0x458, 9)])) (fun t => t.word 0x10 1 0x458 == 0) = true ∧
    after (exec (.ctrReset .host (BitVec.ofNat 64 (ctlAddr 0x10 0 0x400))) (words live [(0x10, 0, 0x458, 9)])) (fun t => t.word 0x10 0 0x458 == 9) = true := by decide +kernel
theorem test_engine_map : live.ctlRefusal .host (ctlAddr 0x10 0 0x10) 4 0xE4 = 0 ∧ after (exec (.engineMapWrite .host 0 0xE4) live)
    (fun t => t.fld 0x10 0 0x10 3 2 == 1 && t.fld 0x10 0 0x10 7 6 == 3) = true := by decide +kernel
/-- The attachment of the owner to engine 0 goes, and that of another context stays (R255). -/
theorem test_engine_map_drops :
    let a : Attach := { id := 1, x := 0, eng := 0, epi := true, fn := 6, td := opd 3, tb := opd 2, ss := 0, stats := none, rnd := 0, ovf := false }
    let s : State := { live with cores := [(0, { attach := [a, { a with id := 2, x := 1 }] })] }
    s.ctlRefusal .host (ctlAddr 0x10 0 0x10) 4 1 = 0 ∧ s.fld 0x10 0 0x10 1 0 = 0 ∧
    after (exec (.engineMapWrite .host 0 1) s) (fun t => (t.core 0).attach.map (fun a => a.id) == [2] && (t.ctx 0 0).lastReason.toNat == rsNOT_OWNER) = true := by decide +kernel
theorem test_slot_init : s4.ctlRefusal .host (ctlAddr 0x10 0 0x408) 4 (2 ^ 27 + 1) = 0 ∧
    after (exec (.sqSlotInit .host 0 (BitVec.ofNat 32 (2 ^ 27 + 1))) s4) (fun t => t.readMem (t.slotAddr 0 1) 64 == slotRecord 1 0 0) = true := by decide +kernel
theorem test_taste_n : live.ctlRefusal .host (ctlAddr 0x10 0 0x400) 4 (4 * 2 ^ 16 + 11 * 2 ^ 21) = 0 ∧ after (exec (.tasteNWrite .host 0 4) live) (fun t => t.fld 0x10 0 0x400 20 16 == 4) = true ∧
    after (exec (.tasteNWrite .host 0 3) live) (fun t => t.ctl == live.ctl) = true ∧ after (exec (.tasteNWrite .host 0 17) live) (fun t => t.ctl == live.ctl) = true := by
  decide +kernel

theorem test_config : live.fnState (.core 1) = 0 ∧ live.cmdBarred .host (.core 1) = 0 ∧ live.withFollower (.core 1) = [.core 1] ∧
    after (exec (.config .host (.core 1)) live) (fun t => t.fnState (.core 1) == 1) = true ∧ after (exec (.config .host (.core 0)) live) (fun t => t.fnReason (.core 0) == 5) = true := by
  decide +kernel
theorem test_start : live.startReason (.core 1) = 0 ∧ after (exec (.start .host (.core 1)) live) (fun t => t.fnState (.core 1) == 2) = true := by decide +kernel
theorem test_start_needs_core : live.startReason (.engine 1 0) ≠ 0 ∧ after (exec (.start .host (.engine 1 0)) live) (fun t => t.fnState (.engine 1 0) == 0 && t.fnReason (.engine 1 0) == 6) = true := by
  decide +kernel
theorem test_start_engine : live.startReason (.engine 0 1) = 0 ∧ after (exec (.start .host (.engine 0 1)) live) (fun t => t.fnState (.engine 0 1) == 2) = true := by decide +kernel
/-- The SPREAD of 64 regions of 32 GiB is what the 2 TiB part is built with; set here as a plain entry. -/
def withMs (s : State) (v : Nat) : State := { s with ctl := Tbl.put s.ctl (ctlKey 0x20 0 0x10) (BitVec.ofNat 32 v) }
theorem test_start_ms : (withMs live 0x01000040).fnState .ms = 0 ∧ (withMs live 0x01000040).startReason .ms = 0 := by
  refine ⟨by decide +kernel, ?_⟩
  unfold State.startReason State.startStage3 State.msStage3 Config.mainGib
  generalize Config.is4T = b
  cases b <;> decide +kernel

theorem test_stop : after (exec (.stop .host (.engine 0 0)) live) (fun t => t.fnState (.engine 0 0) == 4) = true ∧
    after (exec (.stop .host (.core 0)) live) (fun t => t.fnState (.core 0) == 4 && t.fnState (.engine 0 0) == 4) = true ∧
    after (exec (.stop .host (.core 1)) live) (fun t => t.fnReason (.core 1) == 5) = true ∧
    after (exec (.stop .host (.core 1)) (words live [(0x10, 1, 0, 1)])) (fun t => t.fnState (.core 1) == 0) = true := by decide +kernel
theorem test_stop_drains : (words live [(0x11, 0, 0, 4)]).workDone (.engine 0 0) = true ∧ (words live [(0x11, 0, 0, 4)]).inRecovery (.engine 0 0) = false ∧
    after (exec (.stopDrainComplete (.engine 0 0)) (words live [(0x11, 0, 0, 4)])) (fun t => t.fnState (.engine 0 0) == 0) = true := by decide +kernel

def training : State := { live with ms := { training := true } }
theorem test_trained : after (exec (.msTrainingComplete (.trained 600)) training) (fun t => t.fnState .ms == 2 && t.fld 0x20 0 0x14 23 8 == 600 && !t.ms.training) = true ∧
    after (exec (.msTrainingComplete (.failed 3)) training) (fun t => t.fnState .ms == 0 && t.fnReason .ms == 0xA001) = true := by decide +kernel
theorem test_clock_lost : after (exec .clockLost (words live [(0x21, 0, 0x24, 1)])) (fun t => !t.boot.pllLocked && t.boot.claimWait && t.fld 0x21 0 0x24 0 0 == 0) = true := by decide +kernel
theorem test_clock_lost_again : after (exec .clockLost { live with sw := { recs := [{ d := moduleDomain, phase := 1 }] } })
    (fun t => t.sw.recs.map (fun r => (r.d, r.keep)) == [(moduleDomain, false)] && !t.boot.pllLocked) = true := by decide +kernel
theorem test_relock : after (exec .rootPllRelock { live with boot := { live.boot with pllLocked := false, claimWait := true } }) (fun t => t.boot.pllLocked) = true := by decide +kernel

/-! ### Main memory and links -/

def sMs : State := withMs (words live [(0x20, 0, 0, 2)]) 0x00FF0040
def aMain : W64 := 3 * 2 ^ 60

/-- The first granule of main memory, whatever the capacity of the part. -/
theorem test_granule : granuleOf aMain.toNat = some (3 * 2 ^ 60) := by
  unfold granuleOf inStore storeOf Config.mainBytes Config.mainGib
  generalize Config.is4T = b
  cases b <;> decide +kernel
theorem test_scrub_hours : sMs.scrubHours ≠ 0 ∧ (withMs sMs 64).scrubHours = 0 := by decide +kernel
theorem test_burst_class : sMs.classFits .other 0 = true ∧ sMs.classFits .priorityFetch 0 = false := by decide +kernel
theorem test_scrub_served : sMs.served (3 * 2 ^ 60) = true ∧ sMs.fld 0x20 0 0x10 23 16 ≠ 0 ∧ (sMs.dieOf 0).2 = 0 ∧ sMs.ue.contains (3 * 2 ^ 60) = false := by decide +kernel
theorem test_refresh : after (exec (.refresh 7 0 true) sMs) (fun t => t.ms.derated == [7] && t.fld 0x20 0 0x14 3 3 == 1 && t.fld 0x20 0 0x18 5 5 == 1) = true ∧
    after (exec (.refresh 7 0 false) { sMs with ms := { derated := [7] } }) (fun t => t.ms.derated == []) = true := by decide +kernel
theorem test_link_up : after (exec (.portLinkUp (.sf 3) 8 true) live) (fun t => (t.linkWord (.sf 3)).toNat / 2 % 2 == 1) = true ∧
    after (exec (.portLinkDown (.sf 3) 8) (words live [(0x22, 3, 0x24, 3)])) (fun t => t.fld 0x22 3 0x1C 4 4 == 1 && t.fld 0x22 3 0x24 1 0 == 1) = true := by decide +kernel
theorem test_pause : after (exec (.pfcPauseReceive 3) live) (fun t => (t.port 3).paused) = true ∧
    after (exec (.pfcPauseExpiry 3) { words live [(0x22, 3, 0x24, 3)] with ports := [(3, { paused := true, unsent := [{}] })] })
      (fun t => !(t.port 3).paused && t.sfOut.map (fun q => q.1) == [3]) = true := by decide +kernel
theorem test_solicitation : after (exec (.neighbourSolicitation (.sf 3) 1) live) (fun t => t.advOut == []) = true := by decide +kernel

/-! ### The host port -/

def aHost : HostSrc := { mac := 0x020000000001 }
def hpUp : State := words live [(0x20, 0, 0, 2), (0x21, 0, 0, 2), (0x21, 0, 0x24, 1)]
def owned : State := { hpUp with hp := { claimant := some aHost, epoch := 1, lastMsg := 1000 } }
def mWith (op : Byte) (p : List Byte) (a : W64) : HostMsg := { src := aHost, op := op, len := BitVec.ofNat 16 p.length, addr := a, epoch := 1, payload := p }
def asking (m : HostMsg) : State := { owned with hp := { owned.hp with inProg := [m] } }

theorem test_waits : Waits (asking (mWith 3 [1] 0)) (mWith 3 [1] 0) 3 := by unfold Waits AtFront; decide +kernel
theorem test_bad_header : hpUp.hostBad { mWith 6 [] 0 with ver := 2 } = true ∧ after (exec (.hostFrameReceive { mWith 6 [] 0 with ver := 2 }) hpUp)
    (fun t => t.word64 0x21 0 0x48 == 1 && t.hpOut == []) = true := by decide +kernel
theorem test_query_admitted : hpUp.hostNormal (mWith 6 [] 0) = mWith 6 [] 0 ∧ hpUp.hostBad (mWith 6 [] 0) = false ∧
    after (exec (.hostFrameReceive (mWith 6 [] 0)) hpUp) (fun t => t.hp.inProg.length == 1 && t.word64 0x21 0 0x40 == 1) = true := by decide +kernel
theorem test_not_claimant : after (exec (.hostFrameReceive (mWith 3 [1] 0)) hpUp) (fun t => t.hpOut.map (fun r => r.status) == [0xA101] && t.word64 0x21 0 0x58 == 1) = true := by decide +kernel
theorem test_unknown_op : after (exec (.hostFrameReceive (mWith 9 [] 0)) hpUp) (fun t => t.hpOut.map (fun r => r.status) == [0x0201]) = true := by decide +kernel

theorem test_resent_answered :
    let k := { mWith 0x46 [] 0 with payload := [1] }
    after (exec (.hostFrameReceive (mWith 6 [] 0)) { hpUp with hp := { kept := [k] } })
      (fun t => t.hpOut == [k] && t.hp.inProg == [] && t.word64 0x21 0 0x50 == 1) = true := by decide +kernel
theorem test_resent_in_progress : after (exec (.hostFrameReceive { mWith 6 [] 0 with eack := 1 }) { hpUp with hp := { inProg := [mWith 6 [] 0] } })
    (fun t => t.hpOut == [] && t.hp.inProg.length == 1) = true := by decide +kernel
theorem test_not_stale : hpUp.staleSeq (mWith 6 [] 0) = false ∧ hpUp.credBusy = false ∧ hpUp.hostForMe (mWith 6 [] 0) = true ∧
    hpUp.hostForMe { mWith 6 [] 0 with own := { ether := 1 } } = false := by decide +kernel

/-- A CLAIM of TYPE 0, which a module without owner keys accepts (R558). -/
def mClaim : HostMsg := mWith 1 (List.replicate 272 0) 0
def claiming : State := { hpUp with hp := { inProg := [mClaim] } }

theorem test_claim : Waits claiming mClaim 1 ∧ claiming.leaseOut = false ∧ claiming.claimReason mClaim = 0 ∧
    after (exec (.claim mClaim) claiming) (fun t => t.hp.claimant == some aHost && t.hp.epoch == 1 && t.hp.inProg == [] && t.hpOut.length == 1) = true := by unfold Waits AtFront; decide +kernel
theorem test_claim_bad : claiming.claimReason { mClaim with payload := [2] } ≠ 0 ∧
    (asking { mClaim with src := { mac := 9 } }).claimReason { mClaim with src := { mac := 9 } } = 0xA103 := by decide +kernel
theorem test_release : after (exec (.release (mWith 2 [] 0)) (asking (mWith 2 [] 0))) (fun t => t.hp.claimant == none && t.hpOut.length == 1) = true := by decide +kernel
def leased : State := words owned [(0x21, 0, 0x10, 1)]
theorem test_lapse : { leased with cycle := 10 ^ 12 }.leaseOut = true ∧ leased.leaseOut = false ∧
    after (exec .claimLapsed { leased with cycle := 10 ^ 12 }) (fun t => t.hp.claimant == none && t.fld 0x21 0 0x18 0 0 == 1) = true := by decide +kernel
theorem test_host_write : (asking (mWith 3 [7, 8] ms0)).firstFailing ms0.toNat 2 = 0 ∧
    after (exec (.hostWrite (mWith 3 [7, 8] ms0)) (asking (mWith 3 [7, 8] ms0))) (fun t => t.readMem ms0.toNat 3 == [7, 8, 0] && t.hpOut.map (fun r => r.status) == [0]) = true := by
  decide +kernel
theorem test_host_write_refused : (asking (mWith 3 [7, 8] (BitVec.ofNat 64 (9 * 2 ^ 60)))).firstFailing (9 * 2 ^ 60) 2 ≠ 0 ∧
    after (exec (.hostWrite (mWith 3 [7, 8] (BitVec.ofNat 64 (9 * 2 ^ 60)))) (asking (mWith 3 [7, 8] (BitVec.ofNat 64 (9 * 2 ^ 60))))) (fun t => t.mem == [] && t.hpOut.length == 1) = true := by
  decide +kernel
def mRead : HostMsg := mWith 4 [4, 0, 0, 0] ms0
theorem test_host_read : after (exec (.hostRead mRead) ((asking mRead).writeNat ms0.toNat 4 0x01020304)) (fun t => t.hpOut.map (fun r => r.payload) == [[4, 3, 2, 1]]) = true := by decide +kernel
theorem test_host_read_ue : ({ withMs (asking mRead) 64 with ue := [2 * 2 ^ 60] }).ueIn ms0.toNat 4 = true ∧
    after (exec (.hostRead mRead) { withMs (asking mRead) 64 with ue := [2 * 2 ^ 60] }) (fun t => t.hpOut.map (fun r => r.status) == [0xA002]) = true := by decide +kernel
theorem test_host_read_register : ctlReason (ctlAddr 0 0 0x10C) 4 = 0 ∧ spaceOf (ctlAddr 0 0 0x10C) = 0 ∧
    after (exec (.hostRead (mWith 4 [4, 0, 0, 0] (BitVec.ofNat 64 (ctlAddr 0 0 0x10C)))) (asking (mWith 4 [4, 0, 0, 0] (BitVec.ofNat 64 (ctlAddr 0 0 0x10C)))))
      (fun t => t.hpOut.map (fun r => leNat r.payload) == [(live.word 0 0 0x10C).toNat]) = true := by decide +kernel
def mBell : HostMsg := mWith 5 ([1, 0, 0, 0] ++ List.replicate 64 0) 0
theorem test_doorbell : after (exec (.doorbell mBell) (asking mBell)) (fun t => (t.ctx 0 1).offers.length == 1 && t.hpOut == []) = true := by decide +kernel
theorem test_query : after (exec (.query (mWith 6 [] 0)) (asking (mWith 6 [] 0))) (fun t => t.hpOut.map (fun r => r.payload.length) == [576]) = true := by decide +kernel
theorem test_attest_form : after (exec (.attest (mWith 7 [] 0)) (asking (mWith 7 [] 0))) (fun t => t.hpOut.all (fun r => r.status != 0)) = true ∧
    leField (List.replicate 64 0 ++ [0, 0xFF, 0, 0]) 65 1 = 0xFF := by decide +kernel
def mRelay : HostMsg := mWith 8 (List.replicate 48 0) 0
theorem test_relay : 48 ≤ mRelay.payload.length ∧ after (exec (.relay mRelay) (asking mRelay)) (fun t => t.hpOut.length == 1) = true := by decide +kernel

/-- A block from another module's front end: host message bytes with OP 6 or OP 0x48 behind the origin. -/
def tunnelled (op : Byte) : Block := { tag := sealTag { kind := 11 }, desc := { srcSite := 5, srcModule := 9, extent := 48 }, payload := List.replicate 16 0 ++ [1, op] ++ List.replicate 30 0 }
theorem test_tunnelled : innerRequest (tunnelled 6) = true ∧ after (exec (.tunnelledHostMessage (tunnelled 6)) { hpUp with frontIn := [tunnelled 6] }) (fun t => t.frontIn == []) = true := by decide +kernel
theorem test_relay_reply : innerReply (tunnelled 0x46) = true ∧
    after (exec (.relayResponseForward (tunnelled 0x46)) { owned with frontIn := [tunnelled 0x46], hp := { owned.hp with claimant := some { mac := 0 } } })
      (fun t => t.frontIn == [] && t.hpOut.map (fun r => r.op) == [0x48]) = true ∧
    after (exec (.relayResponseForward (tunnelled 0x46)) { owned with frontIn := [tunnelled 0x46] }) (fun t => t.word64 0x21 0 0x48 == 1) = true := by decide +kernel
theorem test_lost_reported : after (exec (.hostFrameReceive { mWith 6 [] 0 with eack := 1 }) { owned with hp := { owned.hp with events := [{ seq := 0, payload := [1] }], nextSeq := 1, lost := 3 } })
    (fun t => t.hp.events == [{ seq := 1, payload := [5, 3, 0, 0, 0] }] && t.hp.lost == 0) = true := by decide +kernel
theorem test_event_resend : after (exec .eventResend { owned with cycle := 10 ^ 9, hp := { owned.hp with events := [{ seq := 0, payload := [1] }, { seq := 1, payload := [2] }] } })
    (fun t => t.hpOut.map (fun r => r.payload) == [[1], [2]] && t.hp.lastEack == 10 ^ 9) = true := by decide +kernel

/-! ### The site-fabric transport -/

/-- Port 3 RUNNING with its link up, a route to module 9, and a receive area of 4,096 bytes at core 0. -/
def sPort (k : SfPort) : State :=
  { (words live [(0x20, 0, 0, 2), (0x22, 3, 0, 2), (0x22, 3, 0x24, 3), (0x22, 3, 0x18, 20000 * 2 ^ 16 + 3), (0x22, 3, 0x28, 10), (0x10, 0, 0x700, 1)]).writeNat (modAddr 144) 1 1 with
    ports := [(3, k)] }

theorem test_port_up : PortUp (sPort {}) 3 := by unfold PortUp; decide +kernel

def aBlk : Block := { tag := sealTag {}, desc := { srcSite := 5, srcModule := 9, extent := 4 }, payload := [1, 2, 3, 4] }
def aReq : SfFrame := { typ := 1, srcModule := 9, unit := 0, index := 1, reqId := 6, length := 4 }
def aGrant : SfGrant := { grantId := 8, req := aReq, tNs := 20000, cc := 900 }

theorem test_creq_granted : ((sPort {}).count64 0x22 3 0x48 1).creqReason 3 aReq false = 0 ∧ ((sPort {}).count64 0x22 3 0x48 1).roomFor aReq false = true ∧
    ((sPort {}).count64 0x22 3 0x48 1).accountOk 3 aReq = true ∧
    after (exec (.sfCreqReceive 3 aReq) (sPort {})) (fun t => t.sfOut.map (fun q => (q.1, q.2.typ, q.2.grantId)) == [(3, 2, 1)] && (t.port 3).grants.length == 1) = true := by decide +kernel
theorem test_creq_refused : ((sPort {}).count64 0x22 3 0x48 1).creqReason 3 { aReq with index := 400 } false ≠ 0 ∧
    after (exec (.sfCreqReceive 3 { aReq with index := 400 }) (sPort {})) (fun t => t.sfOut.map (fun q => q.2.typ) == [3]) = true := by decide +kernel
def full : SfPort := { grants := [{ aGrant with pos := some 0, req := { aReq with reqId := 5, length := 4096 } }] }
theorem test_creq_withheld : ((sPort full).count64 0x22 3 0x48 1).roomFor aReq false = false ∧ ((sPort full).count64 0x22 3 0x48 1).creqReason 3 aReq false = 0 ∧
    after (exec (.sfCreqReceive 3 aReq) (sPort full)) (fun t => t.sfOut == [] && (t.port 3).held == [(aReq, false)]) = true := by decide +kernel
theorem test_creq_repeat : after (exec (.sfCreqReceive 3 aReq) (sPort { grants := [aGrant] })) (fun t => t.sfOut.map (fun q => q.2.grantId) == [8] && (t.port 3).grants.length == 1) = true := by
  decide +kernel
theorem test_grant_oldest : (sPort { held := [(aReq, false)] }).creqReason 3 aReq false = 0 ∧
    after (exec (.sfGrant 3) (sPort { held := [(aReq, false)] })) (fun t => (t.port 3).held == [] && t.sfOut.length == 1) = true := by decide +kernel
theorem test_foreign : after (exec (.sfForeignFrame 3 .badFcs) (sPort {})) (fun t => t.word64 0x22 3 0x58 == 1 && t.word64 0x22 3 0x50 == 0) = true := by decide +kernel
theorem test_codewords_lost : after (exec (.sfForeignFrame 3 (.fecLost 3)) (sPort {})) (fun t => t.word64 0x22 3 0x68 == 3 && t.word64 0x22 3 0x50 == 0) = true ∧
    after (exec (.sfCreqReceive 3 { aReq with fecCorr := 2 }) (sPort {})) (fun t => t.word64 0x22 3 0x60 == 2) = true := by decide +kernel
theorem test_version : after (exec (.sfCreqReceive 3 { aReq with ver := 2 }) (sPort {})) (fun t => t.word64 0x22 3 0x50 == 1 && t.sfOut == []) = true := by decide +kernel

def aTx : SfTx := { reqId := 6, dst := 9, unit := 0, index := 1, blk := aBlk, owner := .none, last := { typ := 4 }, lastCC := 500 }
def ans (typ : BitVec 4) : SfFrame := { typ := typ, srcModule := 9, dstModule := 7, reqId := 6, grantId := 8 }

theorem test_cgnt : after (exec (.sfCgntReceive 3 (ans 2)) (sPort { tx := [aTx] })) (fun t => t.sfOut.map (fun q => (q.2.typ, q.2.blk.payload)) == [(4, [1, 2, 3, 4])] &&
    (t.port 3).tx.map (fun x => x.grant) == [some 8]) = true := by decide +kernel
theorem test_cref : after (exec (.sfCrefReceive 3 (ans 3)) (sPort { tx := [aTx] })) (fun t => (t.port 3).tx == []) = true := by decide +kernel
theorem test_dack : after (exec (.sfDackReceive 3 (ans 5)) (sPort { tx := [aTx] })) (fun t => (t.port 3).tx == []) = true ∧
    after (exec (.sfDackReceive 3 { ans 5 with reqId := 5 }) (sPort { tx := [aTx] })) (fun t => (t.port 3).tx.length == 1) = true := by decide +kernel
theorem test_dnak : after (exec (.sfDnakReceive 3 (ans 6)) (sPort { tx := [{ aTx with grant := some 8 }] })) (fun t => t.sfOut.map (fun q => (q.2.typ, q.2.retx)) == [(4, true)]) = true := by decide +kernel
theorem test_retransmit : after (exec (.sfRetransmitTimeout 3 6) { sPort { tx := [aTx] } with cycle := 20500 }) (fun t => t.sfOut.map (fun q => q.2.retx) == [true] && t.word64 0x22 3 0x70 == 1) = true ∧
    after (exec (.sfRetransmitTimeout 3 6) { sPort { tx := [aTx] } with cycle := 20499 }) (fun t => t.sfOut == []) = true := by decide +kernel
theorem test_abandon : after (exec (.sfRetransmitTimeout 3 6) { sPort { tx := [{ aTx with resends := 3 }] } with cycle := 20500 })
    (fun t => (t.port 3).tx == [] && t.word64 0x22 3 0x78 == 1 && t.fld 0x22 3 0x1C 1 1 == 1) = true := by decide +kernel

def aData : SfFrame := { typ := 4, srcModule := 9, dstModule := 7, reqId := 6, grantId := 8, length := 4, blk := aBlk }

theorem test_data_delivers : after (exec (.sfDataReceive 3 aData) (sPort { grants := [aGrant] }))
    (fun t => (t.core 0).rx == [{ x := 1, blk := aBlk }] && t.sfOut.map (fun q => (q.2.typ, q.2.grantId)) == [(5, 8)] && (t.port 3).grants == []) = true := by decide +kernel
theorem test_data_part : after (exec (.sfDataReceive 3 aData) (sPort { grants := [{ aGrant with req := { aReq with length := 8 } }] }))
    (fun t => (t.port 3).grants.map (fun g => g.parts) == [[(0, [1, 2, 3, 4])]] && t.sfOut == []) = true := by decide +kernel
theorem test_data_no_grant : after (exec (.sfDataReceive 3 aData) (sPort {})) (fun t => t.word64 0x22 3 0x80 == 1 && t.sfOut == []) = true := by decide +kernel
theorem test_grant_reclaimed : after (exec (.grantReclaimed 3 8) { sPort { grants := [aGrant] } with cycle := 10 ^ 9 })
    (fun t => (t.port 3).grants == [] && t.word64 0x22 3 0x88 == 1 && t.fld 0x22 3 0x1C 2 2 == 1) = true := by decide +kernel

/-! ### Hives -/

def aG : HiveG := { shard := 4, vals := [0x3F800000], tag := sealTag { kind := 1, flags := flagBit fPOISON true } }
def aHive : Hive := { own := [{ shard := 4, layer := 2, elems := 1 }] }
def sHive (k : Hive) : State := { words live [(0x24, 0, 0, 2), (0x20, 0, 0, 2)] with hives := [(0, k)] }

theorem test_fetch_staged : after (exec (.stateFetchComplete 0 4) (sHive { aHive with fetching := [4, 5] })) (fun t => (t.hive 0).fetching == [5] && (t.hive 0).staged == [4]) = true ∧
    after (exec (.stateFetchComplete 0 6) (sHive { aHive with fetching := [4, 5] })) (fun t => (t.hive 0).staged == []) = true := by decide +kernel
def aOwn : OwnE := { shard := 4, layer := 2, elems := 1 }
/-- The first staged state lies at the start of the staging area; without an area there is no room, and the fetch goes on. -/
theorem test_stage_room : aHive.entry 4 = some aOwn ∧ (sHive aHive).stageRoom 0 ((sHive aHive).homeBytes 0 aOwn) = some 0 ∧
    (sHive aHive).dieHolds ((sHive aHive).homeAddr 0 aOwn) ((sHive aHive).homeBytes 0 aOwn) = false ∧
    (words (sHive aHive) [(0x24, 0, 0x1C, 0)]).stageRoom 0 ((sHive aHive).homeBytes 0 aOwn) = none ∧
    after (exec (.stateFetchComplete 0 4) (words (sHive { aHive with fetching := [4] }) [(0x24, 0, 0x1C, 0)])) (fun t => (t.hive 0).fetching == [4]) = true := by decide +kernel
theorem test_parked_queues : (sHive { aHive with parked := [aG], staged := [4] }).mustPark 0 { shard := 4, layer := 2, elems := 1 } aG.tag = false ∧
    after (exec (.parkedGradientQueue 0 4) (sHive { aHive with parked := [aG], staged := [4] })) (fun t => (t.hive 0).queue == [aG] && (t.hive 0).parked == []) = true := by decide +kernel
theorem test_parked_stays : (sHive { aHive with parked := [aG] }).mustPark 0 { shard := 4, layer := 2, elems := 1 } aG.tag = true := by decide +kernel
theorem test_hive_takes : (sHive { aHive with queue := [aG] }).nextUpdate 0 = some (aG, 0) ∧
    after (exec (.hiveUpdate 0) (words (sHive { aHive with queue := [aG] }) [(0x24, 0, 0x38, 77)]))
      (fun t => (t.hive 0).cur.map (fun r => r.lr) == some 77 && (t.hive 0).queue == [] && t.fld 0x24 0 0x14 31 31 == 1) = true := by decide +kernel
theorem test_hive_skips : (sHive {}).updateStatus aG [] = 3 ∧
    after (exec (.hiveUpdateComplete 0) (sHive { aHive with cur := some { g := aG, lr := 0, lotBytes := [0, 0, 0, 0, 0, 0], pos := 0 } }))
      (fun t => (t.hive 0).cur == none && t.word64 0x24 0 0x88 == 1 && t.word64 0x24 0 0x80 == 0) = true := by decide +kernel

/-! ### The forager -/

/-- Span 1 of 4 elements, merged at this module. -/
def aSpan : Span := { id := 1, layer := 2, site := 5, module := 0x3FFF, elems := 4 }
def sFg (f : Fg) : State := { words live [(0x25, 0, 0, 2), (0x20, 0, 0, 2), (0x25, 0, 0x14, 3 * 2 ^ 30), (0x25, 0, 0x28, 1)] with fg := f }
def aDelta (k : BitVec 4) : Block := { tag := sealTag { kind := k, layer := 2 }, desc := { srcSite := 6, shard := 1, extent := 4 }, payload := List.replicate 32 0 }

theorem test_round_encode : (sFg { encode := [(3, 9)] }).fgServes = true ∧
    after (exec .roundEncode (sFg { encode := [(3, 9)] })) (fun t => t.fg.encode == [] && t.word64 0x25 0 0x80 == 1) = true := by decide +kernel
def hereSpan : Span := { aSpan with module := (sFg {}).ownModule }
theorem test_delta_merges : Reached (sFg { spans := [hereSpan], inbox := [aDelta 6] }) (aDelta 6) ∧ (sFg { spans := [hereSpan] }).mergesHere hereSpan = true ∧
    after (exec (.deltaMerge (aDelta 6)) (sFg { spans := [hereSpan], inbox := [aDelta 6] })) (fun t => t.fg.inbox == [] && (t.merge 1).contribs == [(6, 0)]) = true := by
  unfold Reached; decide +kernel
theorem test_delta_discarded : (sFg {}).span 1 = none ∧ after (exec (.deltaMerge (aDelta 6)) (sFg { inbox := [aDelta 6] })) (fun t => t.fg.inbox == [] && t.word64 0x25 0 0x98 == 1) = true := by
  decide +kernel
/-- A delta with EVAL set is for no merge. -/
def anEval (k : BitVec 4) : Block := { aDelta k with tag := sealTag { (aDelta k).tag with flags := flagBit fEVAL true } }
theorem test_eval_discarded : hasFlag (anEval 7).tag fEVAL = true ∧
    after (exec (.baseMessageReceive (anEval 7)) (sFg { spans := [hereSpan], inbox := [anEval 7] })) (fun t => t.fg.inbox == [] && t.word64 0x25 0 0x98 == 1) = true := by decide +kernel
/-- The own site is complete, and no other is active. -/
def sReady : State := sFg { spans := [hereSpan], recv := [{ span := 1, site := 5, round := 0, elems := 4 }] }
theorem test_merge_closes : sReady.mergeReady hereSpan = true ∧ sReady.mergeHeld hereSpan.hive = false ∧ sReady.mergesHere hereSpan = true ∧
    after (exec (.mergeClose 1) sReady) (fun t => t.mergeRound 1 == 1 && t.word64 0x25 0 0xB0 == 1) = true := by decide +kernel
theorem test_merge_waits : (sFg { spans := [hereSpan], merges := [{ span := 1, ownCC := some 0 }] }).mergesHere hereSpan = true ∧
    after (exec (.mergeWaitExpiry 1) { sFg { spans := [hereSpan], merges := [{ span := 1, ownCC := some 0 }] } with cycle := 999999 }) (fun t => t.word64 0x25 0 0xB0 == 0) = true ∧
    after (exec (.mergeWaitExpiry 1) { sFg { spans := [hereSpan], merges := [{ span := 1, ownCC := some 0 }] } with cycle := 10 ^ 6 }) (fun t => t.word64 0x25 0 0xB8 == 1 && t.mergeRound 1 == 1) = true := by
  decide +kernel
theorem test_base_kept : (sFg { spans := [hereSpan] }).fgPhase = 3 ∧ hdrBase { aDelta 7 with payload := [1, 0] ++ List.replicate 30 0 } = 1 ∧
    serialLater 16 1 ((sFg { spans := [hereSpan] }).baseRound 1) = true ∧
    after (exec (.baseMessageReceive { aDelta 7 with payload := [1, 0] ++ List.replicate 30 0 }) (sFg { spans := [hereSpan], inbox := [{ aDelta 7 with payload := [1, 0] ++ List.replicate 30 0 }] }))
      (fun t => t.fg.inbox == [] && t.fg.kept.map (fun k => k.base) == [1]) = true := by decide +kernel
theorem test_base_old : after (exec (.baseMessageReceive (aDelta 7)) (sFg { spans := [hereSpan], inbox := [aDelta 7] })) (fun t => t.fg.inbox == [] && t.fg.kept == []) = true := by decide +kernel
def aGap : Block := { aDelta 7 with payload := [5, 0, 4] ++ List.replicate 29 0 }
theorem test_base_gap : hdrPrev aGap = 4 ∧ ((sFg { spans := [hereSpan] }).setGap 1 true).gap 1 = true ∧
    after (exec (.baseMessageReceive aGap) ((sFg { spans := [hereSpan], inbox := [aGap] }).setGap 1 true)) (fun t => t.word64 0x25 0 0xD0 == 1 && t.fld 0x25 0 0x18 0 0 == 1) = true := by decide +kernel
def aRefresh : Block := { aDelta 7 with payload := List.replicate 7 0 ++ [1] ++ List.replicate 24 0 }
theorem test_refresh_dropped : hdrReq aRefresh = true ∧ (sFg { spans := [{ hereSpan with module := 1 }] }).mergesHere { hereSpan with module := 1 } = false ∧
    after (exec (.refreshRequestReceive aRefresh) (sFg { spans := [{ hereSpan with module := 1 }], inbox := [aRefresh] })) (fun t => t.fg.inbox == []) = true := by decide +kernel
theorem test_refresh_answered : after (exec (.refreshRequestReceive aRefresh) (sFg { spans := [hereSpan], inbox := [aRefresh] })) (fun t => t.fg.inbox.length ≤ 1) = true := by decide +kernel
theorem test_join_refused : after (exec (.joinTableReceive .refused) (words (sFg {}) [(0x25, 0, 0x14, 2 ^ 30)])) (fun t => t.fnState .forager == 0 && t.fgPhase == 0) = true := by decide +kernel
/-- A joining forager that awaits the table, of one entry. Without a valid span nothing is awaited, and ROUNDS follow at once. -/
def sJoin : State := words (sFg {}) [(0x25, 0, 0x14, 2 ^ 30), (0x25, 0, 0x30, 1)]
/-- A table of one entry that is not valid. -/
def aTable : List Byte := List.replicate 32 0
theorem test_join_table : sJoin.fgServes = true ∧ sJoin.fgPhase = 1 ∧ (sJoin.joinWritten aTable 9).joinReason ((sJoin.joinWritten aTable 9).joinSpans 9) = 0 ∧
    after (exec (.joinTableReceive (.table aTable 9)) sJoin) (fun t => t.fgPhase == 3 && t.fg.joined == some 9 && t.fld 0 0 0x208 15 0 == 9) = true := by decide +kernel
theorem test_join_no_table : (words sJoin [(0x25, 0, 0x30, 0)]).fgPhase = 1 ∧
    after (exec (.joinTableReceive (.table aTable 9)) (words sJoin [(0x25, 0, 0x30, 0)])) (fun t => t.fgPhase == 0 && t.fnState .forager == 0 && (t.fnReason .forager) == rsSPAN_TABLE) = true := by decide +kernel
theorem test_gateway_retry : after (exec .gatewayRetryTimer { sFg { deltas := [{ round := 0, span := 1, blk := aDelta 6, failed := some 0 }] } with cycle := 99999999 })
    (fun t => t.fg.deltas.map (fun d => d.failed) == [some 0]) = true := by decide +kernel
theorem test_fg_refresh_waits : (words (sFg {}) [(0x25, 0, 0x14, 0)]).fgPhase ≠ 3 ∧ after (exec (.fgRefresh .host 1) (words (sFg {}) [(0x25, 0, 0x14, 0)])) (fun t => t.sfOut == []) = true := by decide +kernel

/-! ### The far link -/

def k0 : LinkKey := { no := 0, key := [1, 2, 3], salt := [4] }
def k1 : LinkKey := { no := 1, key := [5, 6], salt := [7] }
/-- The link with session 9 UP, to send and receive under key 0. -/
def sFl (f : Fl) : State := { words live [(0x25, 0, 0x200, 2), (0x25, 0, 0x24, 1), (0x25, 0, 0x224, 2 * 2 ^ 30), (0x25, 0, 0x218, 100 * 2 ^ 16), (0x25, 0, 0x21C, 10 * 2 ^ 16)] with fl := f }
def up : Fl := { sess := 9, rxKeys := [k0, k1], txKeys := [k0, k1] }
/-- A frame that carries the tag of its own bytes. -/
def sealed (f : CdxFrame) : CdxFrame := { f with gcmTag := Config.gcmTagOf k0.key (k0.salt ++ beBytes 8 f.frameNo.toNat) (cdxHeader f) f.body }
def anEcho (typ : BitVec 4) : CdxFrame := { typ := typ, session := 9, frameNo := 4, body := List.replicate 8 0 }

/-- A frame that opens: the hypotheses of every clause on an accepted frame. -/
theorem test_opens (typ : BitVec 4) : ∃ b, Opens (sFl up) (sealed (anEcho typ)) k0 b ∧ Fresh (sFl up) (sealed (anEcho typ)) :=
  ⟨gcmXor k0.key (k0.salt ++ beBytes 8 (sealed (anEcho typ)).frameNo.toNat) (sealed (anEcho typ)).body,
    ⟨rfl, rfl, rfl, if_pos rfl⟩, List.not_mem_nil, Nat.zero_le _⟩
theorem test_repeat_opens : ¬ Fresh (sFl { up with seenNo := [4] }) (sealed (anEcho 4)) := by unfold Fresh; decide +kernel
theorem test_no_key : ∀ k b, ¬ Opens (sFl { up with sess := 8 }) (anEcho 4) k b := fun k b h => absurd h.2.1 (by decide +kernel)
theorem test_cdx_version : after (exec (.cdxProbeReceive { anEcho 4 with ver := 2 }) (sFl up)) (fun t => t.word64 0x25 0 0x290 == 1 && t.word64 0x25 0 0x2B8 == 0) = true := by decide +kernel
theorem test_cdx_kind : cdxReceive (anEcho 5) = some (.cdxProbeEchoReceive (anEcho 5)) ∧ (sFl up).fnRunning .fl = true := by decide +kernel
theorem test_probe_unauthentic : after (exec (.cdxProbeReceive (anEcho 4)) (sFl { up with sess := 8 })) (fun t => t.word64 0x25 0 0x2B8 == 1 && t.fld 0x25 0 0x228 3 3 == 1) = true := by decide +kernel
theorem test_foreign_cdx : after (exec (.cdxForeignFrame .foreign) (sFl up)) (fun t => t.word64 0x25 0 0x290 == 1) = true := by decide +kernel

def aFrame (c : Nat) : FlFrame := { f := { typ := 4 }, cls := c }
theorem test_first_class : firstOf [aFrame 1, aFrame 0, aFrame 1] = some (aFrame 0) := by decide +kernel
theorem test_egress : (sFl { up with waiting := [aFrame 1] }).canAdmit (aFrame 1) = true ∧ (sFl up).selfFar = [] ∧
    after (exec .flEgressAdmit (sFl { up with waiting := [aFrame 1] })) (fun t => t.fl.txq.length == 1 && t.fl.waiting == []) = true := by decide +kernel
theorem test_transmit : after (exec .flFrameTransmit (sFl { up with txq := [aFrame 1] })) (fun t => t.flOut.map (fun f => (f.typ, f.session)) == [(4, 9)] && t.fl.txq == [] && t.fl.frameNo == 1) = true := by
  decide +kernel
/-- What was admitted leaves while FL is FENCED or DRAINING (R55). -/
theorem test_transmit_draining : after (exec .flFrameTransmit (words (sFl { up with txq := [aFrame 1] }) [(0x25, 0, 0x200, 3)])) (fun t => t.flOut.length == 1) = true ∧
    (words (sFl up) [(0x25, 0, 0x200, 4)]).flServes = true ∧ (words (sFl up) [(0x25, 0, 0x200, 3)]).flServes = false := by decide +kernel
theorem test_ack_timer : after (exec .ackTimer { sFl { up with storeCC := some 0 } with cycle := 100000 }) (fun t => t.fl.waiting.map (fun f => f.f.typ) == [2]) = true ∧
    after (exec .ackTimer { sFl { up with storeCC := some 0 } with cycle := 99999 }) (fun t => t.fl.waiting == []) = true := by decide +kernel
def aRx : FragRx := { fseq := 3, known := true, k := 4, p := 2, shards := [(1, [7])] }
theorem test_overdue : { sFl { up with rx := [aRx] } with cycle := 10 ^ 8 }.overdue aRx = true ∧ (sFl { up with rx := [aRx] }).overdue aRx = false ∧
    after (exec (.fragmentOverdue 3) { sFl { up with rx := [aRx] } with cycle := 10 ^ 8 })
      (fun t => t.fl.waiting.map (fun f => (f.f.typ, leField f.f.body 5 4 % 2 ^ 20)) == [(3, 0x3D)]) = true := by decide +kernel
def aTxFrag : FragTx := { fseq := 3, blk := aBlk, timed := true }
theorem test_rto : after (exec (.fragmentRtoExpiry 3) { sFl { up with tx := [aTxFrag] } with cycle := 10 ^ 10 }) (fun t => t.word64 0x25 0 0x2A8 == 1 && t.fl.waiting.all (fun f => f.f.retx)) = true := by
  decide +kernel
theorem test_link_dead : after (exec .linkDead { sFl up with cycle := 10 ^ 8 }) (fun t => t.flDead && t.fld 0x25 0 0x228 2 2 == 1) = true ∧
    after (exec .linkDead { sFl up with cycle := 10 ^ 8 - 1 }) (fun t => !t.flDead) = true := by decide +kernel
theorem test_probe_timer : after (exec .probeTimer { words (sFl up) [(0x25, 0, 0x224, 2 * 2 ^ 30 + 2 ^ 27)] with cycle := 10 ^ 8 }) (fun t => t.fl.waiting.map (fun f => f.f.typ) == [4]) = true := by
  decide +kernel
theorem test_session_dead : after (exec .sessionDead { words (sFl { up with tx := [aTxFrag] }) [(0x25, 0, 0x224, 2 * 2 ^ 30 + 2 ^ 27)] with cycle := 10 ^ 11 })
    (fun t => t.flSession == 0 && t.fl.tx == [aTxFrag] && t.fl.rxKeys == []) = true := by decide +kernel
/-- The link without a session, its peer site 6. -/
def sIdle (f : Fl) : State := words (sFl f) [(0x25, 0, 0x224, 0), (0x25, 0, 0x214, 6)]
theorem test_hello_due : (sIdle {}).flSession ≠ 2 ∧ (sIdle {}).siteId.toNat < (sIdle {}).flPeer ∧ (50000000 ≤ ({ sIdle {} with cycle := 50000000 }.cycle - ({} : Fl).helloCC).toNat) := by decide +kernel
theorem test_hello_waits : after (exec .helloTimer { sIdle {} with cycle := 49999999 }) (fun t => t.fl.hello == none) = true ∧
    after (exec .helloTimer { words (sIdle {}) [(0x25, 0, 0x214, 4)] with cycle := 10 ^ 9 }) (fun t => t.fl.hello == none) = true := by decide +kernel
theorem test_key_due : (sFl { up with moveAsked := true, peerRxNo := 1 }).flSession = 2 ∧
    after (exec .keyRollover (sFl { up with peerRxNo := 1 })) (fun t => t.fl.txNo == 0) = true ∧
    after (exec .keyRollover (sFl { up with moveAsked := true })) (fun t => t.fl.txNo == 0) = true ∧
    after (exec .keyRollover (sFl { up with moveAsked := true, peerRxNo := 1 })) (fun t => t.fl.txNo == 1 && t.fl.txKeys.map (fun k => k.no) == [1, 2]) = true := by decide +kernel
theorem test_rx_key : after (exec .rxKeyDerive { sFl { up with rxSwitch := some 0 } with cycle := 999999 }) (fun t => t.fl.rxKeys == [k0, k1]) = true ∧
    after (exec .rxKeyDerive { sFl { up with rxSwitch := some 0 } with cycle := 10 ^ 6 }) (fun t => t.fl.rxKeys.map (fun k => k.no) == [1, 2] && t.fl.rxSwitch == none) = true := by decide +kernel
theorem gcmXor_twice (k n b : List Byte) : gcmXor k n (gcmXor k n b) = b := by
  unfold gcmXor
  refine List.ext_getElem (by simp) fun i h h' => ?_
  simp
/-- A FINISH that opens and is verified, for each side of an exchange. -/
def aFinish (h : Hello) : CdxFrame :=
  sealed { typ := 7, session := 9, frameNo := 4, body := gcmXor k0.key (k0.salt ++ beBytes 8 4) (finishBody h h.finRx) }
theorem test_finish_opens (h : Hello) : Opens (sFl up) (aFinish h) k0 (finishBody h h.finRx) ∧ Fresh (sFl up) (aFinish h) := by
  refine ⟨⟨rfl, rfl, rfl, ?_⟩, List.not_mem_nil, Nat.zero_le _⟩
  have e : ∀ (c : List Byte), gcmOpen k0.key (k0.salt ++ beBytes 8 (4 : W64).toNat) c (gcmXor k0.key (k0.salt ++ beBytes 8 4) (finishBody h h.finRx))
      (Config.gcmTagOf k0.key (k0.salt ++ beBytes 8 (4 : W64).toNat) c (gcmXor k0.key (k0.salt ++ beBytes 8 4) (finishBody h h.finRx))) =
      some (finishBody h h.finRx) := by
    intro c
    unfold gcmOpen
    rw [if_pos rfl]
    exact congrArg some (gcmXor_twice _ _ _)
  exact e _
theorem test_next_key : after (exec (.keyctlNextKey .host) (sFl up)) (fun t => t.fl.moveAsked) = true := by decide +kernel

/-! ### The swarm watch and recoveries -/

/-- Context 0 of core 0 waits on an arrival bit that nothing is to set; no other context of the core can be given work. -/
def sStuck : State := withCtx (words live [(0x10, 0, 0x140, 0)]) { ready with wait := .arr 7 7, st := .waiting }
def theNode : Node := sStuck.nodes.getD 0 { id := 99 }

theorem test_scan_quiet : after (exec .swarmScan { live with sw := { quiet := 2 } }) (fun t => t.sw.quiet == 1 && t.sw.scan == 1 && t.word64 1 0 0x40 == 1) = true := by decide +kernel
theorem test_scan_nothing : live.nodes = [] ∧ after (exec .swarmScan live) (fun t => t.word64 1 0 0x40 == 1 && t.sw.stuck == []) = true := by decide +kernel
theorem test_scan_first : sStuck.nodes = [theNode] ∧ theNode.waits = true ∧ theNode.ext = false ∧ theNode.targets = [] ∧
    after (exec .swarmScan sStuck) (fun t => t.sw.stuck == [theNode] && t.word64 1 0 0x48 == 0) = true := by decide +kernel
theorem test_scan_hang : (words sStuck [(1, 0, 0, 0)]).crumbAuto = false ∧ (words sStuck [(1, 0, 0, 2 ^ 30)]).crumbAuto = false ∧
    after (exec .swarmScan (words { sStuck with sw := { stuck := [theNode] } } [(1, 0, 0, 0)])) (fun t => t.word64 1 0 0x48 == 1 && t.sw.recs == []) = true ∧
    after (exec .swarmScan (words { sStuck with sw := { stuck := [theNode] } } [(1, 0, 0, 2 ^ 30)])) (fun t => t.word64 1 0 0x48 == 1 && t.sw.recs.map (fun r => r.d) == [{ kind := 1, num := 0 }]) = true := by
  decide +kernel

def coreDom : Domain := { kind := 1, num := 0 }
def hiveDom : Domain := { kind := 2, num := 3 }
def quietW (s : State) : State := words s [(1, 0, 0, 0)]

theorem test_sw_recover : (quietW live).ctlRefusal .service (ctlAddr 1 0 0xC) 4 (swValue 1 hiveDom) = 0 ∧
    after (exec (.swCmdRecover .service hiveDom) (quietW live)) (fun t => t.sw.recs.map (fun r => (r.d, r.cause, r.phase)) == [(hiveDom, 1, 1)] && t.word64 1 0 0x50 == 1) = true := by decide +kernel
theorem test_sw_no_domain : live.domainExists { kind := 1, num := 96 } = false ∧ live.domainExists { kind := 6, num := 0 } = true ∧
    after (exec (.swCmdRecover .service { kind := 1, num := 96 }) live) (fun t => t.sw.recs == []) = true := by decide +kernel

def recOf (d : Domain) (p : Nat) (fns : List Fn) : Recovery := { d := d, phase := p, fns := fns }
def sRec (r : Recovery) : State := { words live [(0x24, 3, 0, 3)] with sw := { recs := [r] } }

theorem test_drain_start : after (exec (.recoveryDrainStart hiveDom) (sRec (recOf hiveDom 1 [.hive 3]))) (fun t => t.fnState (.hive 3) == 4 && t.sw.recs.map (fun r => r.phase) == [2]) = true ∧
    after (exec (.recoveryDrainStart hiveDom) (sRec (recOf hiveDom 2 [.hive 3]))) (fun t => t.sw.recs.map (fun r => r.phase) == [2] && t.fnState (.hive 3) == 3) = true := by decide +kernel
theorem test_drain_end : (sRec (recOf hiveDom 2 [.hive 3])).workLeft (recOf hiveDom 2 [.hive 3]) = false ∧
    after (exec (.recoveryDrainEnd hiveDom) (sRec (recOf hiveDom 2 [.hive 3]))) (fun t => t.sw.recs.map (fun r => r.phase) == [3]) = true := by decide +kernel
theorem test_reset_end : ((sRec (recOf { kind := 0, num := 1 } 3 [.engine 0 1])).eng 0 1).retired = false ∧
    (sRec (recOf { kind := 0, num := 1 } 3 [.engine 0 1])).withFollower (.engine 0 1) = [.engine 0 1] ∧
    after (exec (.resetEnd { kind := 0, num := 1 }) (sRec (recOf { kind := 0, num := 1 } 3 [.engine 0 1]))) (fun t => t.sw.recs == [] && t.fnState (.engine 0 1) == 2 && t.fld 0 0 0x80 31 16 == 1) = true := by
  decide +kernel

def suspects (r : Recovery) : Recovery := { r with suspects := [0] }
theorem test_suspect_no_copy : after (exec (.coreIsolatedReplay 0) (sRec (suspects (recOf coreDom 4 [.core 0])))) (fun t => t.sw.recs.map (fun r => r.outcomes) == [[(0, 1)]]) = true := by decide +kernel
def aCopy : CtxCopy := { pc := entry + 64, sregs := [(1, 5)], tregs := [], preds := 0, run := some aRun }
theorem test_suspect_replays : after (exec (.coreIsolatedReplay 0) (withCtx (sRec (suspects (recOf coreDom 4 [.core 0]))) { copy := some aCopy }))
    (fun t => (t.ctx 0 0).st == .isolated && (t.ctx 0 0).pc == entry + 64 && t.sw.recs.map (fun r => r.replaying) == [some 0]) = true := by decide +kernel
theorem test_replay_limit : after (exec (.replayLimit 0) { words (sRec { suspects (recOf coreDom 4 [.core 0]) with replaying := some 0 }) [(1, 0, 0x30, 1)] with cycle := 10 ^ 6 })
    (fun t => t.sw.recs.map (fun r => r.outcomes) == [[(0, 4)]]) = true ∧
    after (exec (.replayLimit 0) { words (sRec { suspects (recOf coreDom 4 [.core 0]) with replaying := some 0 }) [(1, 0, 0x30, 1)] with cycle := 10 ^ 6 - 1 })
    (fun t => t.sw.recs.map (fun r => r.replaying) == [some 0]) = true := by decide +kernel

theorem test_crumb_record : live.crumbSlot = some 0 ∧ after (exec (.swCmdRecord .service coreDom) live) (fun t => t.sw.job.map (fun j => (j.cause, j.domKind, j.inst)) == some (4, 1, 0)) = true := by
  decide +kernel
def aJob (todo : List (Nat × Nat)) : CrumbJob := { number := 1, cause := 4, domKind := 1, inst := 0, cc := 0, todo := todo }
theorem test_crumb_block : after (exec (.crumbBlockRead (.unreadable 1)) { live with sw := { job := some (aJob [(0, 0), (0, 1)]) } })
    (fun t => t.sw.job.map (fun j => (j.got.length, j.todo)) == some (272, [(0, 1)])) = true := by decide +kernel
theorem test_crumb_last : after (exec (.crumbBlockRead (.unreadable 1)) { live with sw := { job := some (aJob [(0, 0)]) } }) (fun t => t.sw.job == none && t.word64 1 0 0x70 == 1) = true := by decide +kernel
theorem test_heartbeat : after (exec .heartbeat live) (fun t => t.sw.beat == 1000) = true := by decide +kernel
def withStandby (s : State) : State := s.setFld 0 0 0x80 6 6 1
theorem test_takeover : after (exec (.takeover .heartbeatLost) { withStandby live with cycle := 4096 }) (fun t => t.fld 0 0 0x80 5 5 == 1 && t.fld 0 0 0x80 6 6 == 0 && t.sw.quiet == 2 && t.cycle == 4096) = true ∧
    after (exec (.takeover .heartbeatLost) { withStandby live with cycle := 4095 }) (fun t => t.fld 0 0 0x80 5 5 == 0) = true ∧ (withStandby live).ctlRefusal .service (ctlAddr 1 0 0xC) 4 (3 * 2 ^ 30) = 0 := by
  decide +kernel
theorem test_silence : after (exec .heartbeatLossSilence { words live [(0x21, 0, 0x24, 1)] with cycle := 262144 }) (fun t => t.sw.silent && t.boot.cause == 6 && t.fld 0x21 0 0x24 0 0 == 0) = true := by
  decide +kernel

/-! ### Start-up, power, stores -/

def stageS (p : Nat) : State := { boot := { stage := some p, pllLocked := true }, store := { slotA := [], slotB := [] } }

theorem test_power_good : after (exec .powerGood State.reset) (fun t => t.boot.stage == some 1 && t.ctl == []) = true := by decide +kernel
theorem test_pll : after (exec .rootPllLock { stageS 1 with cycle := 77 }) (fun t => t.boot.stage == some 2 && t.cycle == 0) = true := by decide +kernel
theorem test_selftest : after (exec (.rootOfTrustSelftest false true true) (stageS 2)) (fun t => t.boot.stage == some 3 && t.fld 0 0 0x80 5 5 == 1 && t.fld 0 0 0x80 6 6 == 0) = true ∧
    after (exec (.rootOfTrustSelftest true true false) (stageS 2)) (fun t => t.boot.cause == 2) = true ∧ after (exec (.rootOfTrustSelftest false false true) (stageS 2)) (fun t => t.boot.cause == 1) = true := by
  decide +kernel
theorem test_no_image : imgResult [] 0 ≠ 1 ∧ after (exec .firmwareVerify (stageS 3)) (fun t => t.boot.cause == 3 && t.boot.stage == some 3) = true := by decide +kernel
/-- The hypotheses on an image that verifies: its form is right, and what is left is the signature and the digest. -/
theorem test_image_form : imgShape ([1, 0, 0, 0] ++ List.replicate 8 0 ++ [1, 0, 0, 0] ++ List.replicate 497 0) = true := by decide +kernel
theorem test_bringup_done : after (exec (.packageBringup []) (stageS 4)) (fun t => t.boot.stage == some 5) = true := by decide +kernel
theorem test_host_port_start : after (exec .hostPortStart (stageS 5)) (fun t => t.boot.stage == some 6 && t.fnState .hp == 2 && t.fld 0x21 0 0x24 0 0 == 1) = true ∧
    after (exec .hostPortStart (stageS 4)) (fun t => t.boot.stage == some 4) = true := by decide +kernel
theorem test_pwr_en : after (exec .pwrEnFall live) (fun t => t.boot.stage == none && !t.boot.pwrEn && t.ctl == [] && t.cycle == 0 && t.store.siteId == 5) = true ∧
    after (exec .pwrEnRise { live with boot := { pwrEn := false } }) (fun t => t.boot.pwrEn && t.boot.pgood) = true := by decide +kernel
theorem test_input : after (exec .inputUndervoltage live) (fun t => t.boot.cause == 5 && !t.boot.pgood && t.ctl == []) = true ∧
    after (exec .inputOvervoltage live) (fun t => t.boot.inputCut) = true := by decide +kernel
theorem test_thermal_trip : after (exec .thermalTrip live) (fun t => t.boot.cause == 4 && t.boot.thermtrip && t.fnState (.core 0) == 0 && t.cycle == 1000) = true := by decide +kernel

def rd (w : W16) : PowerRead := { watts := w, vinMv := 800, dieMax := 90, inlet := 30, outlet := 40 }
def sPm : State := words live [(2, 0, 0, 900 + 600 * 2 ^ 16)]
theorem test_window_over : after (exec (.pmControlWindow (rd 901)) sPm) (fun t => t.fld 2 0 4 31 24 == 16 && t.fld 2 0 4 11 0 == 900 && t.fld 2 0 8 0 0 == 1 && t.fld 2 0 0x10 15 0 == 901) = true := by
  decide +kernel
theorem test_window_under : after (exec (.pmControlWindow (rd 881)) (words sPm [(2, 0, 4, 5 * 2 ^ 24)])) (fun t => t.fld 2 0 4 31 24 == 4) = true ∧
    after (exec (.pmControlWindow (rd 882)) (words sPm [(2, 0, 4, 5 * 2 ^ 24)])) (fun t => t.fld 2 0 4 31 24 == 5) = true := by decide +kernel
theorem test_unmet : after (exec (.pmControlWindow (rd 901)) { words sPm [(2, 0, 4, 250 * 2 ^ 24)] with pm := { unmet := some 0 }, cycle := 10 ^ 6 }) (fun t => t.fld 2 0 8 3 3 == 1 && t.fld 2 0 4 31 24 == 255) = true := by
  decide +kernel
theorem test_brake : after (exec (.brakeChange true) sPm) (fun t => t.fld 2 0 8 1 1 == 1 && t.fld 2 0 4 23 23 == 1) = true ∧
    after (exec (.pmControlWindow (rd 700)) { sPm with pm := { brakeLow := true } }) (fun t => t.fld 2 0 4 11 0 == 600) = true := by decide +kernel
theorem test_leak : after (exec .leak sPm) (fun t => t.fld 2 0 8 4 4 == 1 && t.fld 2 0 8 1 1 == 1 && t.pm.leakLow) = true ∧
    after (exec .leakClear { sPm with pm := { leakLow := true } }) (fun t => !t.pm.leakLow && t.fld 2 0 4 23 23 == 0) = true := by decide +kernel
theorem test_thermal_limit : after (exec .thermalLimitBegin (words sPm [(2, 0, 0x10, 800)])) (fun t => t.pm.thermal && t.pm.thermalW == 760 && t.fld 2 0 8 2 2 == 1) = true ∧
    after (exec (.pmControlWindow (rd 700)) { sPm with pm := { thermal := true, thermalW := 760 } }) (fun t => t.pm.thermalW == 665 && t.fld 2 0 4 11 0 == 665) = true ∧
    after (exec .thermalLimitEnd { sPm with pm := { thermal := true, thermalW := 760 } }) (fun t => !t.pm.thermal && t.fld 2 0 4 22 22 == 0) = true := by decide +kernel

theorem test_fw_install : hpUp.ctlRefusal .host (ctlAddr 0 0 0x31C) 4 1 = 0 ∧ hpUp.fwImage = none ∧
    after (exec (.fwInstall .host) hpUp) (fun t => t.fwJob.map (fun j => (j.action, j.slot, j.reason)) == some (1, 1, 0x8003)) = true := by decide +kernel
theorem test_preferred : hpUp.ctlRefusal .host (ctlAddr 0 0 0x31C) 4 6 = 0 ∧ after (exec (.setPreferred .host 1) hpUp) (fun t => t.fwJob == some { action := 2, slot := 1, image := none }) = true ∧
    after (exec .fwActionComplete { hpUp with fwJob := some { action := 2, slot := 1, image := none } }) (fun t => t.store.preferred == 1 && t.fwJob == none) = true ∧
    after (exec .fwActionComplete { hpUp with fwJob := some { action := 1, slot := 1, image := some [7] } }) (fun t => t.store.slotB == [7]) = true := by decide +kernel
theorem test_counted : hpUp.csReason .siteId 9 = 0 ∧ hpUp.csReason .siteId 0xFF ≠ 0 ∧ { hpUp with store := { hpUp.store with siteUsed := 8 } }.csReason .siteId 9 = 0x303 ∧
    after (exec (.countedSettingWrite .host .siteId 9) hpUp) (fun t => t.csJob.map (fun j => (j.setting, j.old, j.new)) == some (1, 5, 9) && t.siteId == 5) = true ∧
    after (exec (.countedSettingWrite .host .siteId 255) { hpUp with store := { hpUp.store with siteId := 255 } }) (fun t => t.csJob == none && t.fld 0 0 0x450 15 0 == rsBAD_SETTING) = true ∧
    after (exec (.countedSettingWrite (.ctx 0 0) .siteId 9) hpUp) (fun t => t.csJob == none) = true := by decide +kernel
def aCs : CsJob := { setting := 1, old := 5, new := 9 }
theorem test_counted_commit : CountsHold { hpUp with csJob := some aCs } ∧ after (exec (.countedSettingCommit true) { hpUp with csJob := some aCs })
    (fun t => t.siteId == 9 && t.store.siteUsed == 1 && t.store.journal.length == 1 && t.csJob == none) = true ∧
    after (exec (.countedSettingCommit false) { hpUp with csJob := some aCs }) (fun t => t.siteId == 5 && t.store.siteUsed == 0 && t.fld 0 0 0x450 15 0 == 0x8005) = true := by
  refine ⟨⟨by decide +kernel, by decide +kernel, by decide +kernel, by decide +kernel, by decide +kernel, ?_⟩, by decide +kernel, by decide +kernel⟩
  intro j h
  have e : aCs = j := Option.some.inj h
  subst e
  decide +kernel
theorem test_retire_commit : after (exec (.countedSettingCommit true) { hpUp with csJob := some { setting := 6, insts := [3], old := 0, new := 8 } })
    (fun t => t.store.retire == 8 && t.store.journal.length == 1) = true := by decide +kernel
theorem test_owner : hpUp.ctlRefusal .host (ctlAddr 0 0 0x540) 4 2 = 0 ∧ hpUp.ownerEntries < 1564 ∧
    after (exec (.ownerKeyChange .host 2 false) hpUp) (fun t => t.csJob.map (fun j => (j.setting, j.insts, j.new)) == some (7, [2], 1)) = true ∧
    after (exec (.countedSettingCommit true) { hpUp with csJob := some { setting := 7, insts := [2], new := 1, detail := List.replicate 64 1 } }) (fun t => t.ownerValid 2 && !t.ownerValid 1) = true := by
  decide +kernel

/-! ### The whole machine -/

theorem test_completes : Instr.wf (.nop i0) = true ∧ after (exec (.nop i0) s0) (fun t => t.pending == []) = true := by decide +kernel
theorem test_encodes : encodeStaex (.stream i0 fStream) = some (2 * 2 ^ 60 + 2 ^ 56 + 2 ^ 47 + 3 * 2 ^ 37 + 6 * 2 ^ 28 + 7 * 2 ^ 22) ∧
    encodeStaex .clockLost = none := by decide +kernel
/-- A scalar word whose unused fields are not 0 decodes, and its encoding has them 0. -/
theorem test_unused_fields : decodeStaex 0 0 (14 * 2 ^ 56 + 4 * 2 ^ 46 + 5 * 2 ^ 40) = some (.getcc i0 4) ∧ encodeStaex (.getcc i0 4) = some (14 * 2 ^ 56 + 4 * 2 ^ 46) := by decide +kernel
theorem test_staex : Staex (.nop i0) i0 := ⟨by decide +kernel, by decide +kernel⟩
/-- A NAK of one entry for fragment 3 opens. -/
def aNak : CdxFrame := { typ := 3, session := 9, frameNo := 4 }
def nakBody : List Byte := [1, 3, 0, 0, 0, 7, 0, 0, 0]
theorem test_nak_entry : leField nakBody 0 1 = 1 ∧ (sFl { up with tx := [aTxFrag] }).fl.tx.find? (fun x => x.fseq.toNat == leField nakBody 1 4) = some aTxFrag ∧
    after (.next ((sFl { up with tx := [aTxFrag] }).nakEntry ((nakBody.drop 1).take 8))) (fun t => t.fl.waiting.length == 1 && t.fl.waiting.all (fun f => f.f.retx)) = true := by decide +kernel

end Sys2Proof.Tests
end

section
/-! The fields of a register word under a write (R16): what each reads as afterwards, and that the fields of every word of the map lie apart. -/

namespace Sys2Proof.Machine

/-! ### Bits of a field and of a word with a field replaced -/

theorem testBit_bitsOf (v hi lo k : Nat) : (bitsOf v hi lo).testBit k = (decide (k < hi + 1 - lo) && v.testBit (lo + k)) := by
  rw [bitsOf, Nat.testBit_mod_two_pow, Nat.testBit_div_two_pow, Nat.add_comm k]

theorem testBit_setBits (v x j : Nat) {hi lo : Nat} (h : lo ≤ hi) :
    (setBits v hi lo x).testBit j = if lo ≤ j ∧ j ≤ hi then x.testBit (j - lo) else v.testBit j := by
  obtain ⟨w, rfl⟩ : ∃ w, hi = lo + w := ⟨hi - lo, by omega⟩
  have hw : lo + w + 1 - lo = w + 1 := by omega
  have low : 2 ^ lo * (x % 2 ^ (w + 1)) + v % 2 ^ lo < 2 ^ (lo + w + 1) := by
    have e : 2 ^ (lo + w + 1) = 2 ^ lo * 2 ^ (w + 1) := by rw [← pow_add]; rfl
    have h1 : v % 2 ^ lo < 2 ^ lo := Nat.mod_lt _ (by positivity)
    have h2 : x % 2 ^ (w + 1) + 1 ≤ 2 ^ (w + 1) := Nat.mod_lt _ (by positivity)
    have h3 := Nat.mul_le_mul_left (2 ^ lo) h2
    rw [e]
    rw [Nat.mul_add] at h3
    omega
  have split : setBits v (lo + w) lo x = 2 ^ (lo + w + 1) * (v / 2 ^ (lo + w + 1)) + (2 ^ lo * (x % 2 ^ (w + 1)) + v % 2 ^ lo) := by
    unfold setBits
    simp only [hw]
    ring
  rw [split, Nat.testBit_two_pow_mul_add _ low, Nat.testBit_two_pow_mul_add _ (Nat.mod_lt _ (by positivity)), Nat.testBit_div_two_pow,
    Nat.testBit_mod_two_pow, Nat.testBit_mod_two_pow]
  by_cases h1 : j < lo
  · rw [if_pos (by omega), if_pos h1, if_neg (by omega)]
    simp [h1]
  · by_cases h2 : j < lo + w + 1
    · rw [if_pos h2, if_neg h1, if_pos (by omega)]
      have h3 : j - lo < w + 1 := by omega
      simp [h3]
    · rw [if_neg h2, if_neg (by omega)]
      congr 1
      omega

/-- A field that lies apart from the one that is replaced. -/
theorem bitsOf_setBits_apart (v x : Nat) {hi lo hi' lo' : Nat} (h : lo ≤ hi) (ha : hi < lo' ∨ hi' < lo) :
    bitsOf (setBits v hi lo x) hi' lo' = bitsOf v hi' lo' := by
  apply Nat.eq_of_testBit_eq
  intro k
  rw [testBit_bitsOf, testBit_bitsOf, testBit_setBits _ _ _ h]
  by_cases hk : k < hi' + 1 - lo'
  · rw [if_neg (by omega)]
  · simp [hk]

theorem bitsOf_lt (v hi lo : Nat) : bitsOf v hi lo < 2 ^ (hi + 1 - lo) := Nat.mod_lt _ (by positivity)

/-! ### The fields of a word lie apart -/

/-- The field lies within a word of 32 bits. -/
def Fld.fits (f : Fld) : Bool := decide (f.lo ≤ f.hi) && decide (f.hi < 32)

/-- Two fields share no bit. -/
def Fld.apart (f g : Fld) : Bool := decide (f.hi < g.lo) || decide (g.hi < f.lo)

/-- Every field of the list lies within a word, and no two share a bit. -/
def fldsApart : List Fld → Bool
  | [] => true
  | f :: fs => f.fits && fs.all f.apart && fldsApart fs

theorem apart_ite {c : Prop} [Decidable c] {a b : Option (List Fld)} (ha : a.all fldsApart = true) (hb : b.all fldsApart = true) :
    (if c then a else b).all fldsApart = true := by
  split
  · exact ha
  · exact hb

theorem headerWord_apart (o : Nat) : (headerWord o).all fldsApart = true := by
  unfold headerWord
  repeat' apply apart_ite
  all_goals rfl

theorem ctWord_apart (o : Nat) : (ctWord o).all fldsApart = true := by
  unfold ctWord
  repeat' apply apart_ite
  all_goals rfl

theorem swWord_apart (o : Nat) : (swWord o).all fldsApart = true := by
  unfold swWord
  repeat' apply apart_ite
  all_goals rfl

theorem pmWord_apart (o : Nat) : (pmWord o).all fldsApart = true := by
  unfold pmWord
  repeat' apply apart_ite
  all_goals rfl

theorem sqWord_apart (o : Nat) : (sqWord o).all fldsApart = true := by
  unfold sqWord
  refine apart_ite (headerWord_apart _) ?_
  repeat' apply apart_ite
  all_goals rfl

theorem meWord_apart (o : Nat) : (meWord o).all fldsApart = true := by
  unfold meWord
  refine apart_ite (headerWord_apart _) ?_
  repeat' apply apart_ite
  all_goals rfl

theorem vuWord_apart (o : Nat) : (vuWord o).all fldsApart = true := by
  unfold vuWord
  repeat' apply apart_ite
  all_goals rfl

theorem edWord_apart (i o : Nat) : (edWord i o).all fldsApart = true := by
  unfold edWord
  repeat' apply apart_ite
  all_goals rfl

theorem msWord_apart (o : Nat) : (msWord o).all fldsApart = true := by
  unfold msWord
  refine apart_ite (headerWord_apart _) ?_
  repeat' apply apart_ite
  all_goals rfl

theorem hpWord_apart (o : Nat) : (hpWord o).all fldsApart = true := by
  unfold hpWord
  refine apart_ite (headerWord_apart _) ?_
  repeat' apply apart_ite
  all_goals rfl

theorem sfWord_apart (o : Nat) : (sfWord o).all fldsApart = true := by
  unfold sfWord
  refine apart_ite (headerWord_apart _) ?_
  repeat' apply apart_ite
  all_goals rfl

theorem grWord_apart (o : Nat) : (grWord o).all fldsApart = true := by
  unfold grWord
  refine apart_ite (headerWord_apart _) ?_
  repeat' apply apart_ite
  all_goals rfl

theorem hvWord_apart (o : Nat) : (hvWord o).all fldsApart = true := by
  unfold hvWord
  refine apart_ite (headerWord_apart _) ?_
  repeat' apply apart_ite
  all_goals rfl

theorem fgWord_apart (o : Nat) : (fgWord o).all fldsApart = true := by
  unfold fgWord
  refine apart_ite (headerWord_apart _) ?_
  repeat' apply apart_ite
  all_goals rfl

theorem flWord_apart (o : Nat) : (flWord o).all fldsApart = true := by
  unfold flWord
  refine apart_ite (headerWord_apart _) ?_
  repeat' apply apart_ite
  all_goals rfl

/-- The fields of every word of the map lie apart. -/
theorem regWord_apart {b i o : Nat} {fs : List Fld} (h : regWord b i o = some fs) : fldsApart fs = true := by
  have all : (regWord b i o).all fldsApart = true := by
    have fg : (match fgWord o with
        | some fs => some fs
        | none => flWord o).all fldsApart = true := by
      have h1 := fgWord_apart o
      cases hf : fgWord o with
      | some fs => rwa [hf] at h1
      | none => exact flWord_apart o
    unfold regWord
    exact apart_ite (ctWord_apart o) <| apart_ite (swWord_apart o) <| apart_ite (pmWord_apart o) <| apart_ite (sqWord_apart o) <|
      apart_ite (meWord_apart o) <| apart_ite (vuWord_apart o) <| apart_ite (edWord_apart i o) <| apart_ite (msWord_apart o) <|
      apart_ite (hpWord_apart o) <| apart_ite (sfWord_apart o) <| apart_ite (grWord_apart o) <| apart_ite (hvWord_apart o) <|
      apart_ite fg rfl
  rwa [h] at all

/-! ### The fields of a word after a write -/

/-- The word `w` after a write of `v` has acted on one of its fields (R16). -/
def Fld.stored (v w : Nat) (f : Fld) : Nat :=
  if f.acc == .rw || f.acc == .rwl then setBits w f.hi f.lo (bitsOf v f.hi f.lo)
  else if f.acc == .w1c then setBits w f.hi f.lo (bitsOf w f.hi f.lo &&& (2 ^ (f.hi + 1 - f.lo) - 1 - bitsOf v f.hi f.lo))
  else w

theorem Fld.stored_lt {f : Fld} (hf : f.fits = true) {w : Nat} (v : Nat) (hw : w < 2 ^ 32) : f.stored v w < 2 ^ 32 := by
  simp only [Fld.fits, Bool.and_eq_true, decide_eq_true_eq] at hf
  unfold Fld.stored
  split
  · exact setBits_lt hw hf.2 hf.1
  · split
    · exact setBits_lt hw hf.2 hf.1
    · exact hw

theorem Fld.stored_same {f : Fld} (hf : f.fits = true) (v w : Nat) :
    bitsOf (f.stored v w) f.hi f.lo = fieldAfter f (bitsOf w f.hi f.lo) (bitsOf v f.hi f.lo) := by
  simp only [Fld.fits, Bool.and_eq_true, decide_eq_true_eq] at hf
  have cleared : bitsOf w f.hi f.lo &&& (2 ^ (f.hi + 1 - f.lo) - 1 - bitsOf v f.hi f.lo) < 2 ^ (f.hi + 1 - f.lo) :=
    Nat.lt_of_le_of_lt Nat.and_le_left (bitsOf_lt _ _ _)
  unfold Fld.stored fieldAfter
  cases f.acc <;>
    simp [bitsOf_setBits_same _ _ hf.1, Nat.mod_eq_of_lt (bitsOf_lt _ _ _), Nat.mod_eq_of_lt cleared]

theorem Fld.stored_apart {f g : Fld} (hf : f.fits = true) (ha : f.apart g = true) (v w : Nat) :
    bitsOf (f.stored v w) g.hi g.lo = bitsOf w g.hi g.lo := by
  simp only [Fld.fits, Fld.apart, Bool.and_eq_true, Bool.or_eq_true, decide_eq_true_eq] at hf ha
  unfold Fld.stored
  split
  · exact bitsOf_setBits_apart _ _ hf.1 ha
  · split
    · exact bitsOf_setBits_apart _ _ hf.1 ha
    · rfl

/-- The word after a write of `v` has acted on each of its fields. -/
def storedFlds (fs : List Fld) (v w : Nat) : Nat := fs.foldl (fun w f => f.stored v w) w

theorem storedFlds_lt {fs : List Fld} (hfs : fldsApart fs = true) (v : Nat) {w : Nat} (hw : w < 2 ^ 32) : storedFlds fs v w < 2 ^ 32 := by
  induction fs generalizing w with
  | nil => exact hw
  | cons f fs ih =>
    simp only [fldsApart, Bool.and_eq_true] at hfs
    obtain ⟨⟨hf, -⟩, hrest⟩ := hfs
    exact ih hrest (Fld.stored_lt hf v hw)

theorem storedFlds_apart {fs : List Fld} (hfs : fldsApart fs = true) {g : Fld} (ha : ∀ f ∈ fs, f.apart g = true) (v w : Nat) :
    bitsOf (storedFlds fs v w) g.hi g.lo = bitsOf w g.hi g.lo := by
  induction fs generalizing w with
  | nil => rfl
  | cons f fs ih =>
    simp only [fldsApart, Bool.and_eq_true] at hfs
    obtain ⟨⟨hf, -⟩, hrest⟩ := hfs
    exact (ih hrest (fun x hx => ha x (List.mem_cons_of_mem _ hx)) _).trans (Fld.stored_apart hf (ha f List.mem_cons_self) v w)

theorem Fld.apart_comm (f g : Fld) : f.apart g = g.apart f := by
  unfold Fld.apart
  rw [Bool.or_comm]

/-- Every field of a word reads as R16 states for its access type after a write. -/
theorem storedFlds_field {fs : List Fld} (hfs : fldsApart fs = true) {f : Fld} (hf : f ∈ fs) (v w : Nat) :
    bitsOf (storedFlds fs v w) f.hi f.lo = fieldAfter f (bitsOf w f.hi f.lo) (bitsOf v f.hi f.lo) := by
  induction fs generalizing w with
  | nil => cases hf
  | cons g fs ih =>
    simp only [fldsApart, Bool.and_eq_true, List.all_eq_true] at hfs
    obtain ⟨⟨hg, hga⟩, hrest⟩ := hfs
    rcases List.mem_cons.mp hf with rfl | hmem
    · exact (storedFlds_apart hrest (fun x hx => (Fld.apart_comm x f).trans (hga x hx)) v _).trans (Fld.stored_same hg v w)
    · refine (ih hrest hmem _).trans ?_
      rw [Fld.stored_apart hg (hga f hmem)]

end Sys2Proof.Machine
end

section
/-! A 4-byte write of one register word outside the CT block (R16, R18, R53): what an accepted one does to that word and to the rest. -/

namespace Sys2Proof.Machine

theorem ctlAddr_lt {b i o : Nat} (hb : b < 256) (hi : i < 4096) (ho : o < 65536) : ctlAddr b i o < 2 ^ 36 := by
  unfold ctlAddr ctlKey
  omega

/-- Block, number and offset are read back from the address of a word (R51). -/
theorem ctlParts_ctlAddr {b i o : Nat} (hb : b < 256) (hi : i < 4096) (ho : o < 65536) : ctlParts (ctlAddr b i o) = (b, i, o) := by
  have h : ctlAddr b i o % 2 ^ 36 = b * 2 ^ 28 + i * 2 ^ 16 + o := Nat.mod_eq_of_lt (ctlAddr_lt hb hi ho)
  unfold ctlParts
  simp only [h, Prod.mk.injEq]
  omega

theorem toNat_ctlAddr {b i o : Nat} (hb : b < 256) (hi : i < 4096) (ho : o < 65536) :
    (BitVec.ofNat 64 (ctlAddr b i o)).toNat = ctlAddr b i o := by
  have h := ctlAddr_lt hb hi ho
  rw [BitVec.toNat_ofNat, Nat.mod_eq_of_lt (by omega)]

/-! ### Storing a word -/

section
variable (s : State) (b i o v : Nat)

/-- The word that a write of `v` makes of the present one. -/
def State.written : W32 := BitVec.ofNat 32 (storedFlds (wordFlds b i o) v (s.word b i o).toNat)

/-- The state with that word stored, before reserved bits are noted (R18). -/
def State.restored : State :=
  if storedFlds (wordFlds b i o) v (s.word b i o).toNat = (s.word b i o).toNat then s else s.setWord b i o (s.written b i o v)

theorem State.storeWord_eq : s.storeWord b i o v =
    if (wordFn b i o).isNone then s.restored b i o v
    else if v &&& (2 ^ 32 - 1 - fieldMask (wordFlds b i o)) = 0 then
      { s.restored b i o v with rsv := (s.restored b i o v).rsv.filter (fun x => x != ctlKey b i o) }
    else if (s.restored b i o v).rsv.contains (ctlKey b i o) then s.restored b i o v
    else { s.restored b i o v with rsv := (s.restored b i o v).rsv ++ [ctlKey b i o] } := rfl

theorem State.restored_onlyCtl : OnlyCtl (s.restored b i o v) s := by
  unfold State.restored
  split
  · exact .refl s
  · exact setWord_onlyCtl ..

theorem State.storeWord_frame :
    s.storeWord b i o v = { s with ctl := (s.storeWord b i o v).ctl, rsv := (s.storeWord b i o v).rsv } := by
  have h : s.restored b i o v = { s with ctl := (s.restored b i o v).ctl } := s.restored_onlyCtl b i o v
  rw [State.storeWord_eq, h]
  (repeat' split) <;> rfl

theorem State.storeWord_ctl : (s.storeWord b i o v).ctl = (s.restored b i o v).ctl := by
  rw [State.storeWord_eq]
  (repeat' split) <;> rfl

theorem State.storeWord_word (b' i' o' : Nat) :
    (s.storeWord b i o v).word b' i' o' = (s.setWord b i o (s.written b i o v)).word b' i' o' := by
  rw [word_ctl _ _ (s.storeWord_ctl b i o v), State.restored]
  split
  · rename_i h
    have hw : s.written b i o v = s.word b i o := by rw [State.written, h, BitVec.ofNat_toNat, BitVec.setWidth_eq]
    by_cases hk : ctlKey b' i' o' = ctlKey b i o
    · have same : ∀ t : State, t.word b' i' o' = t.word b i o := fun t => by unfold State.word; rw [hk]
      rw [same, same, word_setWord_same, hw]
    · exact (word_setWord_key _ _ hk).symm
  · rfl

theorem State.storeWord_word_same : (s.storeWord b i o v).word b i o = s.written b i o v := by
  rw [State.storeWord_word, word_setWord_same]

theorem State.storeWord_onlyWords : OnlyWords s (s.storeWord b i o v) [ctlKey b i o] := by
  intro b' i' o' h
  rw [State.storeWord_word, word_setWord_key _ _ (by simpa using h)]

end

/-- Every field of the stored word reads as R16 states. -/
theorem State.storeWord_fld (s : State) {b i o : Nat} (v : Nat) {fs : List Fld} (hr : regWord b i o = some fs) {f : Fld} (hf : f ∈ fs) :
    (s.storeWord b i o v).fld b i o f.hi f.lo = fieldAfter f (s.fld b i o f.hi f.lo) (bitsOf v f.hi f.lo) := by
  have ha := regWord_apart hr
  have hw : wordFlds b i o = fs := by
    unfold wordFlds
    rw [hr]
    rfl
  unfold State.fld
  rw [State.storeWord_word_same, State.written, hw, BitVec.toNat_ofNat, Nat.mod_eq_of_lt (storedFlds_lt ha v (s.word b i o).isLt),
    storedFlds_field ha hf]

/-! ### An accepted write of one word -/

/-- An access of one word that changes no counted setting carries out that word alone. -/
theorem State.ctlApply_single (s : State) (w : Writer) {a n v : Nat} {q : Nat × Nat × Nat × Nat} (hw : ctlWords a n v = [q])
    (hc : s.csOf a n v = []) : s.ctlApply w a n v = s.applyWord w q := by
  unfold State.ctlApply
  simp only [hw, hc, List.foldl_cons, List.foldl_nil, List.head?_nil, if_true]

theorem ctlWords_ctlAddr {b i o : Nat} (v : Nat) (hb : b < 256) (hi : i < 4096) (ho : o < 65536) :
    ctlWords (ctlAddr b i o) 4 v = [(b, i, o, v % 2 ^ 32)] := by
  unfold ctlWords
  rw [ctlParts_ctlAddr hb hi ho]
  simp

/-- No word outside the CT block names a counted setting (R574). -/
theorem State.csOf_ctlAddr (s : State) {b i o : Nat} (v : Nat) (hb : b < 256) (hi : i < 4096) (ho : o < 65536) (h0 : b ≠ 0) :
    s.csOf (ctlAddr b i o) 4 v = [] := by
  unfold State.csOf
  rw [ctlWords_ctlAddr v hb hi ho]
  simp [State.csTargets, h0]

theorem State.ctlWrite_accepted {s : State} {w : Writer} {a n v : Nat} (h : s.ctlRefusal w a n v = 0) :
    s.ctlWrite w a n v = s.ctlApply w a n v := by
  unfold State.ctlWrite
  dsimp only
  rw [if_pos h]

theorem State.ctlWrite_refused {s : State} {w : Writer} {a n v : Nat} (h : s.ctlRefusal w a n v ≠ 0) :
    s.ctlWrite w a n v = (s.ctlRefusal w a n v, s) := by
  unfold State.ctlWrite
  dsimp only
  rw [if_neg h]

/-- A word whose write does no more than store. -/
theorem State.applyWord_plain (s : State) (w : Writer) {b i o v : Nat} (ha : ¬ acts b i o) (hv : v < 2 ^ 31) :
    s.applyWord w (b, i, o, v) = (0, s.storeWord b i o v) := by
  have h31 : bitAt v 31 = false := by
    unfold bitAt
    rw [Nat.div_eq_of_lt hv]
    rfl
  simp only [acts, not_or, List.mem_cons, Prod.mk.injEq, List.not_mem_nil, not_false_eq_true, and_true] at ha
  obtain ⟨h0, hcmd, htwin, hwords⟩ := ha
  have hcmd : cmdFn b i o = none := by simpa using hcmd
  have effect : ∀ (t : State) (old : Nat), t.wordEffect b i o old v = t := fun t old => by
    simp [State.wordEffect, hwords, htwin]
  unfold State.applyWord
  simp only [h31, effect, hcmd, h0]
  simp

end Sys2Proof.Machine

open Sys2Proof Sys2Proof.Machine

/-- Settles O24: an accepted write of a word without an effect of its own stores it field by field, and a refused one does nothing. -/
theorem registerWrites : Obligations.RegisterWrites := by
  unfold Obligations.RegisterWrites
  intro s w b i o fs val hb hi ho _ _ hr hv a
  have ha : a.toNat = ctlAddr b i o := toNat_ctlAddr hb hi ho
  refine ⟨fun hacts hok => ?_, fun a wide hno => ?_⟩
  · have h0 : b ≠ 0 := fun h => hacts (.inl h)
    have hstore : s.ctlWrite w a.toNat 4 val.toNat = (0, s.storeWord b i o val.toNat) := by
      rw [State.ctlWrite_accepted hok, ha,
        State.ctlApply_single s w (ctlWords_ctlAddr _ hb hi ho) (s.csOf_ctlAddr _ hb hi ho h0), Nat.mod_eq_of_lt (by omega),
        State.applyWord_plain s w hacts hv]
    refine ⟨s.storeWord b i o val.toNat, ?_, s.storeWord_frame _ _ _ _, s.storeWord_onlyWords _ _ _ _, fun f hf => s.storeWord_fld _ hr hf⟩
    rw [exec_registerWrite, execRegisterWrite, if_neg Bool.false_ne_true, hstore]
  · rw [exec_registerWrite, execRegisterWrite, State.ctlWrite_refused hno]
end

section
namespace Sys2Proof.Machine

/-- Nothing has been written into the module: every table is empty, no error is listed, and the counted settings stand as manufactured. -/
structure Unwritten (s : State) : Prop where
  pending : s.pending = []
  ctl : s.ctl = []
  mem : s.mem = []
  ue : s.ue = []
  sce : s.sce = []
  ctxs : s.ctxs = []
  cores : s.cores = []
  csJob : s.csJob = none
  used : s.store.used = [0, 0, 0, 0, 0]
  siteId : s.siteId = 0xFF

theorem unwritten_reset : Unwritten State.reset := by
  constructor <;> rfl

/-- The cold start of POWER_GOOD (R548) writes nothing but the start-up's stage and the count of cold starts. -/
theorem exec_powerGood_unwritten : ∃ t, exec .powerGood State.reset = .next t ∧ Unwritten t :=
  ⟨_, rfl, by constructor <;> rfl⟩

namespace Unwritten

variable {s : State} (h : Unwritten s)
include h

theorem byte (a : Nat) : s.byte a = unlistedByte := by
  unfold State.byte
  rw [h.mem]
  rfl

theorem ctx (c x : Nat) : s.ctx c x = {} := by
  unfold State.ctx
  rw [h.ctxs]
  rfl

theorem core (c : Nat) : s.core c = {} := by
  unfold State.core
  rw [h.cores]
  rfl

theorem word (b i o : Nat) : s.word b i o = ctlDefault (ctlKey b i o) := by
  unfold State.word
  rw [h.ctl]
  rfl

theorem word_eq_resetWord (b : Nat) {i o : Nat} (hi : i < 4096) (ho : o < 65536) : s.word b i o = resetWord b i o := by
  have e1 : ctlKey b i o / 2 ^ 28 = b := by unfold ctlKey; omega
  have e2 : ctlKey b i o / 2 ^ 16 % 4096 = i := by unfold ctlKey; omega
  have e3 : ctlKey b i o % 65536 = o := by unfold ctlKey; omega
  rw [h.word, ctlDefault, e1, e2, e3]

/-- Every function is OFF after cold start (R20). -/
theorem fnState (f : Fn) (hf : fnExists f = true) : s.fnState f = 0 := by
  have off : ∀ {b i o : Nat}, i < 4096 → o < 65536 → resetWord b i o = 0 → s.fld b i o 2 0 = 0 := fun hi ho hw => by
    unfold State.fld
    rw [h.word_eq_resetWord _ hi ho, hw]
    rfl
  cases f with
  | core c => exact off (by omega) (by decide) rfl
  | engine c m =>
    have hc : c.toNat < 96 := by simpa [fnExists, coreOk] using hf
    exact off (by omega) (by decide) rfl
  | ms | hp | forager | fl => exact off (by decide) (by decide) rfl
  | sf p => exact off (by omega) (by decide) rfl
  | group g => exact off (by omega) (by decide) rfl
  | hive k => exact off (by omega) (by decide) rfl

theorem countsHold : CountsHold s := by
  have hu := h.used
  simp only [Store.used, List.cons.injEq, and_true] at hu
  obtain ⟨h1, h2, h3, h4, h5⟩ := hu
  refine ⟨by omega, by omega, by omega, by omega, by omega, fun j hj => ?_⟩
  rw [h.csJob] at hj
  cases hj

end Unwritten

end Sys2Proof.Machine
open Sys2Proof Sys2Proof.Machine

/-- Settles O60: reset has written nothing, and neither has the cold start of POWER_GOOD after it. -/
theorem resetValues : Obligations.ResetValues := by
  unfold Obligations.ResetValues
  intro start
  have fresh : ∀ s : State, Unwritten s → start s := by
    intro s h
    refine ⟨h.pending, by rw [h.mem]; rfl, h.ue, h.sce, h.byte, h.countsHold, fun c x => ?_, fun c b => ?_, h.siteId, ?_, h.fnState, ?_, ?_, ?_, ?_, h.word⟩
    · rw [h.ctx]
      exact ⟨rfl, rfl, fun n => rfl, fun n => rfl⟩
    · rw [h.core]
      exact BitVec.getLsbD_zero
    · unfold State.phase State.fld
      rw [h.word]
      rfl
    · exact (h.word 0 0 0x114).trans rfl
    · exact (h.word 0 0 0x104).trans rfl
    · exact fun p hp => (h.word_eq_resetWord _ (by omega) (by decide)).trans rfl
    · exact fun c hc => (h.word_eq_resetWord _ (by omega) (by decide)).trans rfl
  obtain ⟨t, ht, hu⟩ := exec_powerGood_unwritten
  exact ⟨fresh _ unwritten_reset, t, ht, fresh t hu⟩
end

section
namespace Sys2Proof.Machine

/-- Context 0 of core 0 waits with a held COLL whose issuer is core 127, which the module does not have. -/
def heldElsewhere : State := { State.reset with ctxs := [(0, { wait := .coll (.coll { core := 127 } {}) 0 })] }

/-- COLL_HOLD_RELEASE issues the held COLL without asking whether its core exists. -/
theorem collHoldRelease_heldElsewhere : exec (.collHoldRelease 0 0) heldElsewhere = .fault .noSuchUnit := rfl

/-- Engine 0 of core 0 leads a pair and is OFF, while the engine that follows it is RUNNING. -/
def partedPair : State := { State.reset with ctl := [(ctlKey 0x11 1 0, 2), (ctlKey 0x13 0 0, 3)] }

/-- CTR_RESET of the leader's ED_CFG writes TWIN = 1 again, and the follower takes the leader's state. -/
theorem ctrReset_partedPair : ∃ t, exec (.ctrReset .service (BitVec.ofNat 64 (ctlAddr 0x13 0 0))) partedPair = .next t ∧
    t.word 0x11 1 0 = 0 := ⟨_, rfl, by decide⟩

end Sys2Proof.Machine

open Sys2Proof Sys2Proof.Machine

/-- Refutes O57: COLL_HOLD_RELEASE at a context of core 0 is well formed, but a COLL that the context holds for a core above c95 stops it with
the fault. -/
theorem not_wellFormedCompletes : ¬ Obligations.WellFormedCompletes := by
  unfold Obligations.WellFormedCompletes
  intro h
  obtain ⟨completes, -⟩ := h (.collHoldRelease 0 0) heldElsewhere
  obtain ⟨t, ht, -⟩ := completes rfl
  rw [collHoldRelease_heldElsewhere] at ht
  cases ht

/-- Refutes O25: a counter reset at a twin leader's ED_CFG changes ME_STATE of a follower whose state is not its leader's. -/
theorem not_flagsAndCounters : ¬ Obligations.FlagsAndCounters := by
  unfold Obligations.FlagsAndCounters
  intro h
  obtain ⟨-, counters⟩ := h partedPair .service 0x13 0 0 (by decide) (by decide) (by decide) (by decide)
  obtain ⟨t, ht, -, -, frame⟩ := counters _ rfl rfl (by decide) (by decide) (by decide)
  obtain ⟨u, hu, follower⟩ := ctrReset_partedPair
  obtain rfl : t = u := by simpa using ht.symm.trans hu
  have kept := frame 0x11 1 0 (by decide) (by decide) (by decide) (by decide)
  rw [follower] at kept
  exact absurd kept (by decide)
end

section
/-! The states of the functions (R20, R54 to R56): what each operation of a function's header does to xx_STATE and xx_REASON, and what a START
and a STOP leave of the rest. -/

namespace Sys2Proof.Machine

/-! ### Only some words change -/

theorem OnlyWords.refl (s : State) (ks : List Nat) : OnlyWords s s ks := fun _ _ _ _ => rfl

theorem OnlyWords.trans {s t u : State} {ks : List Nat} (h : OnlyWords s t ks) (k : OnlyWords t u ks) : OnlyWords s u ks :=
  fun b i o hk => (k b i o hk).trans (h b i o hk)

theorem OnlyWords.fld {s t : State} {ks : List Nat} (h : OnlyWords s t ks) {b i o : Nat} (hk : ctlKey b i o ∉ ks) (hi lo : Nat) :
    t.fld b i o hi lo = s.fld b i o hi lo := by
  unfold State.fld
  rw [h b i o hk]

theorem setWord_onlyWords (s : State) (b i o : Nat) (v : W32) {ks : List Nat} (h : ctlKey b i o ∈ ks) : OnlyWords s (s.setWord b i o v) ks := by
  intro b' i' o' hk
  exact word_setWord_key s v (ne_of_mem_of_not_mem h hk).symm

theorem setFld_onlyWords (s : State) (b i o hi lo v : Nat) {ks : List Nat} (h : ctlKey b i o ∈ ks) :
    OnlyWords s (s.setFld b i o hi lo v) ks := setWord_onlyWords s b i o _ h

theorem count32_onlyWords (s : State) (b i o n : Nat) {ks : List Nat} (h : ctlKey b i o ∈ ks) : OnlyWords s (s.count32 b i o n) ks := by
  intro b' i' o' hk
  exact word_count32_key s n (ne_of_mem_of_not_mem h hk).symm

theorem count64_onlyWords (s : State) (b i o n : Nat) {ks : List Nat} (h : ctlKey b i o ∈ ks) (h' : ctlKey b i (o + 4) ∈ ks) :
    OnlyWords s (s.count64 b i o n) ks := by
  intro b' i' o' hk
  exact word_count64_key s n (ne_of_mem_of_not_mem h hk).symm (ne_of_mem_of_not_mem h' hk).symm

theorem setFlag_onlyWords (s : State) (b i o n : Nat) {ks : List Nat} (h : ctlKey b i o ∈ ks) (h' : ctlKey b i (o + 0x100 + 4 * n) ∈ ks) :
    OnlyWords s (s.setFlag b i o n) ks :=
  (setFld_onlyWords s b i o n n 1 h).trans (count32_onlyWords _ _ _ _ _ h')

theorem setFlagN_onlyWords (s : State) (m b i o n : Nat) {ks : List Nat} (h : ctlKey b i o ∈ ks) (h' : ctlKey b i (o + 0x100 + 4 * n) ∈ ks) :
    OnlyWords s (s.setFlagN m b i o n) ks := by
  unfold State.setFlagN
  split
  · exact .refl s ks
  · exact (setFld_onlyWords s b i o n n 1 h).trans (count32_onlyWords _ _ _ _ _ h')

theorem foldl_onlyWords {α : Type} {g : State → α → State} {ks : List Nat} (h : ∀ s a, OnlyWords s (g s a) ks) (l : List α) (s : State) :
    OnlyWords s (l.foldl g s) ks := by
  induction l generalizing s with
  | nil => exact .refl s ks
  | cons a l ih => exact (h s a).trans (ih (g s a))

/-! ### Errors that a read meets (R271, R290) -/

/-- The words of MS that count, flag and record an error of a granule or of an SRAM word. -/
def errorKeys : List Nat :=
  [0x18, 0x11C, 0x124, 0x128, 0x20, 0x24, 0x28, 0x48, 0x4C, 0x58, 0x5C, 0x60, 0x64].map (ctlKey 0x20 0)

theorem ueEvent_onlyWords (s : State) (g cause : Nat) : OnlyWords s (s.ueEvent g cause) errorKeys := by
  unfold State.ueEvent
  split
  · exact ((((count64_onlyWords s _ _ _ _ (by decide) (by decide)).trans (setFlag_onlyWords _ _ _ _ _ (by decide) (by decide))).trans
      (setWord_onlyWords _ _ _ _ _ (by decide))).trans (setWord_onlyWords _ _ _ _ _ (by decide))).trans
      (setWord_onlyWords _ _ _ _ _ (by decide))
  · exact (count64_onlyWords s _ _ _ _ (by decide) (by decide)).trans (setFlag_onlyWords _ _ _ _ _ (by decide) (by decide))

theorem correct_onlyWords (s : State) (ws : List Nat) : OnlyWords s (s.correct ws) errorKeys := by
  unfold State.correct
  split
  · exact .refl s _
  · exact (count64_onlyWords s _ _ _ _ (by decide) (by decide)).trans (setFlagN_onlyWords _ _ _ _ _ _ (by decide) (by decide))

theorem noteUe_onlyWords (s : State) (a n : Nat) : OnlyWords s (s.noteUe a n) errorKeys := by
  unfold State.noteUe
  exact (foldl_onlyWords (fun s g => ueEvent_onlyWords s g 0) _ s).trans (correct_onlyWords _ _)

theorem noteUe_clean {s : State} {a n : Nat} (h : s.clean a n = true) : s.noteUe a n = s := by
  simp only [State.clean, State.ueIn, Bool.and_eq_true, Bool.not_eq_true', List.any_eq_false] at h
  unfold State.noteUe
  rw [List.filter_eq_nil_iff.mpr h.1, List.filter_eq_nil_iff.mpr h.2]
  rfl

theorem noteStart_onlyWords (s : State) (f : Fn) : OnlyWords s (s.noteStart f) errorKeys := by
  unfold State.noteStart
  refine foldl_onlyWords (fun s r => ?_) _ s
  exact noteUe_onlyWords s r.1 r.2

/-- Without a granule or word in error a START counts nothing. -/
theorem noteStart_noErrors {s : State} (f : Fn) (hu : s.ue = []) (hc : s.sce = []) : s.noteStart f = s := by
  have clean : ∀ a n, s.noteUe a n = s := fun a n => noteUe_clean (by simp [State.clean, State.ueIn, hu, hc])
  unfold State.noteStart
  induction s.startReads f with
  | nil => rfl
  | cons r l ih => rw [List.foldl_cons, clean, ih]

/-! ### The header of a function (R54) -/

/-- The word of xx_STATE; xx_REASON stands 8 bytes after it. -/
def stateKey (f : Fn) : Nat := ctlKey (fnBlk f).1 (fnBlk f).2.1 (fnBlk f).2.2
def reasonKey (f : Fn) : Nat := ctlKey (fnBlk f).1 (fnBlk f).2.1 ((fnBlk f).2.2 + 8)

theorem stateKey_ne_reasonKey (f : Fn) : stateKey f ≠ reasonKey f := by
  unfold stateKey reasonKey ctlKey
  omega

/-- Headers stand at offset 0, or at 0x200 for the far link. -/
theorem stateKey_offset (f : Fn) : stateKey f % 65536 = 0 ∨ stateKey f % 65536 = 0x200 := by
  cases f <;> simp only [stateKey, fnBlk, ctlKey] <;> omega
theorem reasonKey_offset (f : Fn) : reasonKey f % 65536 = 8 ∨ reasonKey f % 65536 = 0x208 := by
  cases f <;> simp only [reasonKey, fnBlk, ctlKey] <;> omega

theorem errorKeys_offset {k : Nat} (h : k ∈ errorKeys) : k % 65536 ∉ [0, 8, 0x200, 0x208] := by
  have all : ∀ k ∈ errorKeys, k % 65536 ∉ [0, 8, 0x200, 0x208] := by decide
  exact all k h

theorem stateKey_notMem_errorKeys (f : Fn) : stateKey f ∉ errorKeys := fun h => by
  have := errorKeys_offset h
  rcases stateKey_offset f with e | e <;> simp [e] at this
theorem reasonKey_notMem_errorKeys (f : Fn) : reasonKey f ∉ errorKeys := fun h => by
  have := errorKeys_offset h
  rcases reasonKey_offset f with e | e <;> simp [e] at this

theorem fnState_congr {s t : State} {ks : List Nat} (h : OnlyWords s t ks) {f : Fn} (hk : stateKey f ∉ ks) : t.fnState f = s.fnState f :=
  h.fld hk 2 0
theorem fnReason_congr {s t : State} {ks : List Nat} (h : OnlyWords s t ks) {f : Fn} (hk : reasonKey f ∉ ks) : t.fnReason f = s.fnReason f :=
  h.fld hk 15 0

theorem fnState_noteStart (s : State) (f g : Fn) : (s.noteStart f).fnState g = s.fnState g :=
  fnState_congr (noteStart_onlyWords s f) (stateKey_notMem_errorKeys g)

theorem setFnState_onlyWords (s : State) (f : Fn) (st : Nat) : OnlyWords s (s.setFnState f st) [stateKey f] :=
  setFld_onlyWords s _ _ _ _ _ _ List.mem_cons_self
theorem setFnReason_onlyWords (s : State) (f : Fn) (r : Nat) : OnlyWords s (s.setFnReason f r) [reasonKey f] :=
  setFld_onlyWords s _ _ _ _ _ _ List.mem_cons_self

theorem fnState_setFnState_same (s : State) (f : Fn) {st : Nat} (h : st < 8) : (s.setFnState f st).fnState f = st :=
  (fld_setFld_same s _ _ _ _ (by decide) (by decide)).trans (Nat.mod_eq_of_lt h)
theorem fnReason_setFnReason_same (s : State) (f : Fn) {r : Nat} (h : r < 2 ^ 16) : (s.setFnReason f r).fnReason f = r :=
  (fld_setFld_same s _ _ _ _ (by decide) (by decide)).trans (Nat.mod_eq_of_lt h)
theorem fnReason_setFnState (s : State) (f : Fn) (st : Nat) : (s.setFnState f st).fnReason f = s.fnReason f :=
  fnReason_congr (setFnState_onlyWords s f st) (fun h => stateKey_ne_reasonKey f (List.mem_singleton.mp h).symm)
theorem fnState_setFnReason (s : State) (f : Fn) (r : Nat) : (s.setFnReason f r).fnState f = s.fnState f :=
  fnState_congr (setFnReason_onlyWords s f r) (fun h => stateKey_ne_reasonKey f (List.mem_singleton.mp h))

/-- The state of any function after another's is written: as it was, or, where both have one header, the one written. -/
theorem fnState_setFnState (s : State) (f g : Fn) {st : Nat} (h : st < 8) :
    (s.setFnState f st).fnState g = s.fnState g ∨ (s.setFnState f st).fnState g = st := by
  by_cases hk : stateKey g = stateKey f
  · right
    have same : ∀ t : State, t.fnState g = t.fnState f := fun t => by
      have hw : t.word (fnBlk g).1 (fnBlk g).2.1 (fnBlk g).2.2 = t.word (fnBlk f).1 (fnBlk f).2.1 (fnBlk f).2.2 :=
        congrArg (fun k => Tbl.get (ctlDefault k) t.ctl k) hk
      exact congrArg (fun v : W32 => bitsOf v.toNat 2 0) hw
    rw [same, fnState_setFnState_same s f h]
  · exact .inl (fnState_congr (setFnState_onlyWords s f st) (by simpa using hk))

/-! ### Only the header of one function changes -/

theorem onlyWords_header {s t : State} {f : Fn} {k : Nat} (h : OnlyWords s t [k]) (hk : k = stateKey f ∨ k = reasonKey f) :
    OnlyWords s t (headerKeys f) := fun b i o hn => h b i o (fun hm => hn (by
  rw [List.mem_singleton.mp hm]
  rcases hk with rfl | rfl
  · exact List.mem_cons_self
  · exact List.mem_cons_of_mem _ List.mem_cons_self))

theorem fnAt_setFnState (s : State) (f : Fn) {st : Nat} (h : st < 8) : FnAt s (s.setFnState f st) f st (s.fnReason f) :=
  ⟨rfl, onlyWords_header (setFnState_onlyWords s f st) (.inl rfl), fnState_setFnState_same s f h, fnReason_setFnState s f st⟩

theorem fnAt_setFnReason (s : State) (f : Fn) {r : Nat} (h : r < 2 ^ 16) : FnAt s (s.setFnReason f r) f (s.fnState f) r :=
  ⟨rfl, onlyWords_header (setFnReason_onlyWords s f r) (.inr rfl), fnState_setFnReason s f r, fnReason_setFnReason_same s f h⟩

theorem FnAt.trans {s t u : State} {f : Fn} {a b c d : Nat} (h : FnAt s t f a b) (k : FnAt t u f c d) : FnAt s u f c d := by
  obtain ⟨h1, h2, -, -⟩ := h
  obtain ⟨k1, k2, k3, k4⟩ := k
  exact ⟨OnlyCtl.trans k1 h1, h2.trans k2, k3, k4⟩

/-! ### A function and its follower (R504) -/

theorem mem_withFollower (s : State) (f : Fn) : ∃ l, s.withFollower f = f :: l := by
  unfold State.withFollower
  split
  · split
    · exact ⟨_, rfl⟩
    · exact ⟨_, rfl⟩
  · exact ⟨_, rfl⟩

/-- Followers stay the same while every ED_CFG does. -/
theorem withFollower_congr {s t : State} {ks : List Nat} (h : OnlyWords s t ks) (hk : ∀ i < 512, ctlKey 0x13 i 0 ∉ ks) (f : Fn) :
    t.withFollower f = s.withFollower f := by
  cases f with
  | engine c m =>
    have twin : t.twinOn c.toNat m.toNat = s.twinOn c.toNat m.toNat := by
      unfold State.twinOn
      rw [h.fld (hk _ (by omega))]
    unfold State.withFollower
    simp only [twin]
  | _ => rfl

theorem edCfg_notMem_errorKeys (i : Nat) : ctlKey 0x13 i 0 ∉ errorKeys := fun h => by
  have e : ctlKey 0x13 i 0 % 65536 = 0 := by unfold ctlKey; omega
  have := errorKeys_offset h
  simp [e] at this

theorem edCfg_ne_stateKey (f : Fn) {i : Nat} (hi : i < 512) : ctlKey 0x13 i 0 ≠ stateKey f := by
  cases f <;> simp only [stateKey, fnBlk, ctlKey] <;> omega

theorem withFollower_noteStart (s : State) (f g : Fn) : (s.noteStart f).withFollower g = s.withFollower g :=
  withFollower_congr (noteStart_onlyWords s f) (fun i _ => edCfg_notMem_errorKeys i) g

theorem withFollower_setFnState (s : State) (f g : Fn) (st : Nat) : (s.setFnState f st).withFollower g = s.withFollower g :=
  withFollower_congr (setFnState_onlyWords s f st) (fun _ hi => by simpa using edCfg_ne_stateKey f hi) g

theorem withFollower_setFnReason (s : State) (f g : Fn) (r : Nat) : (s.setFnReason f r).withFollower g = s.withFollower g := by
  refine withFollower_congr (setFnReason_onlyWords s f r) (fun i _ h => ?_) g
  have e : ctlKey 0x13 i 0 % 65536 = 0 := by unfold ctlKey; omega
  have := reasonKey_offset f
  rw [← List.mem_singleton.mp h, e] at this
  omega

/-- A function without a follower moves alone. -/
theorem setFnStates_alone {s : State} {f : Fn} (h : s.withFollower f = [f]) (st : Nat) : s.setFnStates f st = s.setFnState f st := by
  unfold State.setFnStates
  rw [h]
  rfl

/-- Functions move to `st` or stay where they are. -/
def MovesTo (st : Nat) (t s : State) : Prop := ∀ g, t.fnState g = s.fnState g ∨ t.fnState g = st

theorem MovesTo.refl (st : Nat) (s : State) : MovesTo st s s := fun _ => .inl rfl
theorem MovesTo.trans {st : Nat} {a b c : State} (h : MovesTo st a b) (k : MovesTo st b c) : MovesTo st a c := fun g => by
  rcases h g with e | e
  · rw [e]
    exact k g
  · exact .inr e
theorem MovesTo.stays {st : Nat} {t s : State} (h : MovesTo st t s) {g : Fn} (hg : s.fnState g = st) : t.fnState g = st := by
  rcases h g with e | e
  · rw [e, hg]
  · exact e

theorem foldl_movesTo {α : Type} {st : Nat} {g : State → α → State} (h : ∀ s a, MovesTo st (g s a) s) (l : List α) (s : State) :
    MovesTo st (l.foldl g s) s := by
  induction l generalizing s with
  | nil => exact .refl st s
  | cons a l ih => exact (ih (g s a)).trans (h s a)

theorem setFnStates_movesTo (s : State) (f : Fn) {st : Nat} (h : st < 8) : MovesTo st (s.setFnStates f st) s := by
  unfold State.setFnStates
  exact foldl_movesTo (fun s g => fun k => fnState_setFnState s g k h) _ s

theorem fnState_setFnStates (s : State) (f : Fn) {st : Nat} (h : st < 8) : (s.setFnStates f st).fnState f = st := by
  obtain ⟨l, hl⟩ := mem_withFollower s f
  unfold State.setFnStates
  rw [hl, List.foldl_cons]
  exact (foldl_movesTo (fun s g => fun k => fnState_setFnState s g k h) l _).stays (fnState_setFnState_same s f h)

/-! ### The requests that the ports withhold (R36, R334) -/

/-- No function changes its state. -/
def SameStates (t s : State) : Prop := ∀ g, t.fnState g = s.fnState g

theorem SameStates.trans {a b c : State} (h : SameStates a b) (k : SameStates b c) : SameStates a c := fun g => (h g).trans (k g)

theorem count64_sameStates (s : State) (b i n : Nat) {o : Nat} (h : o % 65536 ∉ [0, 0x200]) (h' : (o + 4) % 65536 ∉ [0, 0x200]) :
    SameStates (s.count64 b i o n) s := fun g => by
  have ne : ∀ o', o' % 65536 ∉ [0, 0x200] → stateKey g ≠ ctlKey b i o' := fun o' ho e => by
    have e1 : ctlKey b i o' % 65536 = o' % 65536 := by unfold ctlKey; omega
    rcases stateKey_offset g with e2 | e2 <;> rw [e, e1] at e2 <;> simp [e2] at ho
  have hw := word_count64_key s n (ne o h) (ne (o + 4) h')
  exact congrArg (fun v : W32 => bitsOf v.toNat 2 0) hw

theorem emit_sameStates (s : State) (p : Nat) (f : SfFrame) : SameStates (s.emit p f) s := by
  unfold State.emit
  split
  · exact fun _ => rfl
  · split
    · exact fun _ => rfl
    · exact fun g => count64_sameStates s 0x22 p 1 (by decide) (by decide) g

theorem refuseHeld_sameStates (s : State) (p : Nat) : SameStates (s.refuseHeld p) s := by
  have all : ∀ (l : List (SfFrame × Bool)) (t : State), SameStates
      (l.foldl (fun u q => (u.updPort p (fun k => { k with held := k.held.erase q })).answer p q.1 3 0 (u.creqReason p q.1 q.2) 0) t) t := by
    intro l
    induction l with
    | nil => exact fun _ _ => rfl
    | cons q l ih => exact fun t => (ih _).trans (emit_sameStates _ _ _)
  unfold State.refuseHeld
  exact all _ s

theorem refuseAll_sameStates (s : State) : SameStates s.refuseAll s := by
  have all : ∀ (l : List Nat) (t : State), SameStates (l.foldl (fun s p => s.refuseHeld p) t) t := by
    intro l
    induction l with
    | nil => exact fun _ _ => rfl
    | cons p l ih => exact fun t => (ih _).trans (refuseHeld_sameStates t p)
  unfold State.refuseAll
  exact all _ s

/-- Where no port withholds a request there is none to refuse. -/
theorem refuseAll_noneHeld {s : State} (h : ∀ p < 16, (s.port p).held = []) : s.refuseAll = s := by
  have none : (List.range 16).filter (fun p => !(s.port p).held.isEmpty) = [] := by
    rw [List.filter_eq_nil_iff]
    intro p hp
    simp [h p (List.mem_range.mp hp)]
  unfold State.refuseAll
  rw [none]
  rfl

/-! ### STOP of a RUNNING function (R55, R56) -/

theorem beginDrain_movesTo (s : State) (f : Fn) : MovesTo 4 (s.beginDrain f) s := fun g => by
  unfold State.beginDrain
  rw [refuseAll_sameStates]
  exact setFnStates_movesTo s f (by decide) g

theorem fnState_beginDrain (s : State) (f : Fn) : (s.beginDrain f).fnState f = 4 := by
  unfold State.beginDrain
  rw [refuseAll_sameStates]
  exact fnState_setFnStates s f (by decide)

/-- The functions of a list that are RUNNING begin to drain, each in its turn. -/
def State.drainAll (s : State) (l : List Fn) : State := l.foldl (fun s g => if s.fnRunning g then s.beginDrain g else s) s

theorem stopFn_eq (s : State) (f : Fn) : s.stopFn f = (s.drainAll (s.dependents f)).beginDrain f := rfl

theorem drainAll_movesTo (s : State) (l : List Fn) : MovesTo 4 (s.drainAll l) s := by
  unfold State.drainAll
  refine foldl_movesTo (fun s g => ?_) l s
  split
  · exact beginDrain_movesTo s g
  · exact .refl 4 s

theorem fnState_drainAll {s : State} {l : List Fn} {g : Fn} (hg : g ∈ l) (h : s.fnState g = 2 ∨ s.fnState g = 4) :
    (s.drainAll l).fnState g = 4 := by
  induction l generalizing s with
  | nil => cases hg
  | cons k l ih =>
    have step : s.drainAll (k :: l) = (if s.fnRunning k then s.beginDrain k else s).drainAll l := rfl
    rw [step]
    split
    · rename_i hrun
      rcases List.mem_cons.mp hg with rfl | hmem
      · exact (drainAll_movesTo _ l).stays (fnState_beginDrain s g)
      · refine ih hmem ?_
        rcases beginDrain_movesTo s k g with e | e
        · rwa [e]
        · exact .inr e
    · rename_i hrun
      rcases List.mem_cons.mp hg with rfl | hmem
      · have h4 : s.fnState g = 4 := h.resolve_left (fun h2 => hrun (by simp [State.fnRunning, h2]))
        exact (drainAll_movesTo s l).stays h4
      · exact ih hmem h

theorem drainAll_noneRunning {s : State} {l : List Fn} (h : ∀ g ∈ l, s.fnState g ≠ 2) : s.drainAll l = s := by
  induction l with
  | nil => rfl
  | cons k l ih =>
    have step : s.drainAll (k :: l) = (if s.fnRunning k then s.beginDrain k else s).drainAll l := rfl
    have hk : s.fnRunning k = false := by simpa [State.fnRunning] using h k List.mem_cons_self
    rw [step, hk]
    exact ih (fun g hg => h g (List.mem_cons_of_mem _ hg))

/-! ### Commands of xx_CMD -/

section
variable {s : State} {w : Writer} {f : Fn} (hheld : s.heldInReset = false) (hbar : s.cmdBarred w f = 0)
include hheld hbar

theorem fnCommand_config_off (h : s.fnState f = 0) : s.fnCommand w f 1 = (0, s.setFnStates f 1) := by
  simp [State.fnCommand, hheld, hbar, h, fnCONFIGURING]

theorem fnCommand_config_else (h : s.fnState f ≠ 0) : s.fnCommand w f 1 = (5, s.setFnReason f 5) := by
  simp [State.fnCommand, hheld, hbar, h, rsBAD_STATE]

theorem fnCommand_start (h : s.fnState f ≤ 1) : s.fnCommand w f 2 = s.startFn f := by
  simp [State.fnCommand, hheld, hbar, h]

theorem fnCommand_start_else (h : 2 ≤ s.fnState f) : s.fnCommand w f 2 = (5, s.setFnReason f 5) := by
  have h1 : ¬ s.fnState f ≤ 1 := by omega
  simp [State.fnCommand, hheld, hbar, h1, rsBAD_STATE]

theorem fnCommand_stop_configuring (h : s.fnState f = 1) : s.fnCommand w f 3 = (0, s.setFnStates f 0) := by
  simp [State.fnCommand, hheld, hbar, h, fnOFF]

theorem fnCommand_stop_running (h : s.fnState f = 2) : s.fnCommand w f 3 = (0, s.stopFn f) := by
  simp [State.fnCommand, hheld, hbar, h]

theorem fnCommand_stop_else (h : s.fnState f = 0 ∨ 3 ≤ s.fnState f) : s.fnCommand w f 3 = (5, s.setFnReason f 5) := by
  have h1 : s.fnState f ≠ 1 := by omega
  have h2 : s.fnState f ≠ 2 := by omega
  simp [State.fnCommand, hheld, hbar, h1, h2, rsBAD_STATE]

end

theorem fnRow_allowed {w : Writer} {f : Fn} (he : fnExists f = true) (hm : mayCommand w f = true) (cmd : Nat) (s : State) :
    fnRow w f cmd s = .next (s.fnCommand w f cmd).2 := by
  unfold fnRow
  rw [he, hm]
  rfl

/-- Why START refuses, 0 when it accepts: its own checks, and for the forager the stores that it writes (R119, R296). -/
def State.startWhy (s : State) (f : Fn) : Nat :=
  if s.startReason f = 0 ∧ f = .forager then (s.noteStart f).fgStartHeld else s.startReason f

theorem startFn_eq (s : State) (f : Fn) : s.startFn f =
    if s.startWhy f ≠ 0 then (s.startWhy f, (s.noteStart f).setFnReason f (s.startWhy f))
    else if f = .ms then (0, (s.noteStart f).beginTraining)
    else (0, ((((s.noteStart f).setFnStates f 2).setFnReason f 0).withFollower f).foldl State.startEffect
      (((s.noteStart f).setFnStates f 2).setFnReason f 0)) := by
  unfold State.startFn State.startWhy
  simp only [Bool.and_eq_true, decide_eq_true_eq, fnRUNNING]

theorem startFn_alone {s : State} {f : Fn} (ha : s.withFollower f = [f]) (hw : s.startWhy f = 0) (hf : f ≠ .ms) :
    s.startFn f = (0, (((s.noteStart f).setFnState f 2).setFnReason f 0).startEffect f) := by
  have hn : (s.noteStart f).withFollower f = [f] := (withFollower_noteStart s f f).trans ha
  rw [startFn_eq, if_neg (by simp [hw]), if_neg hf, setFnStates_alone hn, withFollower_setFnReason, withFollower_setFnState, hn]
  rfl

end Sys2Proof.Machine
end

section
/-! CONFIG, START, STOP and the end of a stop, for every function (R54 to R56). -/

namespace Sys2Proof.Machine

/-- An engine's START seeds its taster anew and begins a new window (R213, R234), and touches no other engine. -/
theorem startEffect_engine (u : State) (c : BitVec 7) (m : BitVec 2) :
    ∃ v, u.startEffect (.engine c m) = v ∧ v = { u with engines := v.engines, freeCtr := v.freeCtr } ∧
      EngineOnly u v c.toNat m.toNat ∧ v.eng c.toNat m.toNat =
        { u.eng c.toNat m.toNat with tasteSeed := (v.eng c.toNat m.toNat).tasteSeed, tasteDraws := 0, tasteWin := none, tasteCnt := 0 } := by
  refine ⟨_, rfl, rfl, fun n hn => State.updEng_get_ne _ _ _ _ hn, ?_⟩
  have e : (u.startEffect (.engine c m)).eng c.toNat m.toNat = { u.eng c.toNat m.toNat with
      tasteSeed := Config.freeW64 u.freeCtr, tasteDraws := 0, tasteWin := none, tasteCnt := 0 } :=
    State.updEng_eng_same (s := u.nextFree.2) _ _ _
  rw [e]

/-- START of MS begins the training of its channels and leaves its state (R293). -/
theorem beginTraining_spec (s : State) : s.beginTraining = { s with ctl := s.beginTraining.ctl, ms := s.beginTraining.ms } ∧
    s.beginTraining.fnState .ms = s.fnState .ms ∧ s.beginTraining.ms.training = true ∧ s.beginTraining.fld 0x20 0 0x14 5 5 = 1 := by
  refine ⟨rfl, ?_, rfl, ?_⟩
  · exact fld_setFld_key _ _ _ _ _ _ (by decide)
  · exact fld_setFld_same _ _ _ _ _ (by decide) (by decide)

/-- A STOP of a RUNNING function whose dependents are at rest, with no request withheld at a port, begins its own drain alone. -/
theorem stopFn_alone {s : State} {f : Fn} (ha : s.withFollower f = [f]) (hd : ∀ g ∈ s.dependents f, s.fnState g ≠ 2)
    (hp : ∀ p < 16, (s.port p).held = []) : s.stopFn f = s.setFnState f 4 := by
  rw [stopFn_eq, drainAll_noneRunning hd, State.beginDrain, setFnStates_alone ha]
  exact refuseAll_noneHeld hp

/-- A stop that has drained comes to OFF, whatever else the function leaves as it rests. -/
theorem exec_stopDrainComplete_done {s : State} {f : Fn} (he : fnExists f = true) (h4 : s.fnState f = 4) (hr : s.inRecovery f = false)
    (hd : ∀ g ∈ s.dependents f, s.fnState g < 2) (hw : s.workDone f = true) :
    exec (.stopDrainComplete f) s = .next ((s.restEffect f).setFnStates f 0) := by
  have rest : (s.dependents f).any (fun g => decide (2 ≤ s.fnState g)) = false := by
    rw [List.any_eq_false]
    intro g hg
    have := hd g hg
    simp only [decide_eq_true_eq]
    omega
  rw [exec_stopDrainComplete, execStopDrainComplete]
  simp [he, h4, hr, rest, hw, fnOFF]

theorem exec_stopDrainComplete_waits {s : State} {f : Fn} (he : fnExists f = true) (h : s.fnState f ≠ 4 ∨ s.workDone f = false) :
    exec (.stopDrainComplete f) s = .next s := by
  rw [exec_stopDrainComplete, execStopDrainComplete, he]
  rcases h with h | h <;> simp [h]

end Sys2Proof.Machine

open Sys2Proof Sys2Proof.Machine

/-- Settles O27, by the cases of the function's state: each command either moves its header alone, or refuses with BAD_STATE; the drain of the
dependents keeps or moves every state to DRAINING. -/
theorem functionCommands : Obligations.FunctionCommands := by
  unfold Obligations.FunctionCommands
  intro s w f he hm hheld hbar ha n why
  have config : exec (.config w f) s = .next (s.fnCommand w f 1).2 := fnRow_allowed he hm 1 s
  have start : exec (.start w f) s = .next (s.fnCommand w f 2).2 := fnRow_allowed he hm 2 s
  have stop : exec (.stop w f) s = .next (s.fnCommand w f 3).2 := fnRow_allowed he hm 3 s
  have refused : FnAt s (s.setFnReason f 5) f (s.fnState f) 0x0005 := fnAt_setFnReason s f (by decide)
  have hwhy : s.startWhy f = why := rfl
  have hn : n.fnState f = s.fnState f := fnState_noteStart s f f
  refine ⟨noteStart_noErrors f, fun h => ?_, fun h => ?_, fun h hw hlt => ?_, fun h hw hms => ?_, fun hms h hr => ?_, fun h => ?_, fun h => ?_,
    fun h => ?_, fun h => ?_, fun h hr hd hw => ?_, exec_stopDrainComplete_waits he⟩
  · refine ⟨_, config, ?_⟩
    rw [fnCommand_config_off hheld hbar h, setFnStates_alone ha]
    exact fnAt_setFnState s f (by decide)
  · refine ⟨_, config, ?_⟩
    rw [fnCommand_config_else hheld hbar h]
    exact refused
  · refine ⟨_, start, ?_⟩
    rw [fnCommand_start hheld hbar h, startFn_eq, hwhy, if_pos hw, ← hn]
    exact fnAt_setFnReason n f hlt
  · have running : FnAt n (n.setFnState f 2) f 2 (n.fnReason f) := fnAt_setFnState n f (by decide)
    have cleared := fnAt_setFnReason (n.setFnState f 2) f (r := 0) (by decide)
    rw [fnState_setFnState_same n f (by decide)] at cleared
    refine ⟨(n.setFnState f 2).setFnReason f 0, running.trans cleared, ?_, fun c m hf => ?_⟩
    · rw [start, fnCommand_start hheld hbar h, startFn_alone ha hw hms]
    · subst hf
      exact startEffect_engine _ c m
  · subst hms
    have hw : s.startWhy .ms = 0 := by simpa [State.startWhy] using hr
    refine ⟨s.beginTraining, ?_, beginTraining_spec s⟩
    rw [start, fnCommand_start hheld hbar h, startFn_eq, hw]
    rfl
  · refine ⟨_, start, ?_⟩
    rw [fnCommand_start_else hheld hbar h]
    exact refused
  · refine ⟨_, stop, ?_⟩
    rw [fnCommand_stop_configuring hheld hbar h, setFnStates_alone ha]
    exact fnAt_setFnState s f (by decide)
  · refine ⟨_, stop, ?_⟩
    rw [fnCommand_stop_running hheld hbar h]
    refine ⟨fnState_beginDrain _ f, fun g hg hrun => ?_, fun hd hp => ?_⟩
    · exact (beginDrain_movesTo _ f).stays (fnState_drainAll hg (.inl hrun))
    · rw [stopFn_alone ha hd hp]
      exact fnAt_setFnState s f (by decide)
  · refine ⟨_, stop, ?_⟩
    rw [fnCommand_stop_else hheld hbar h]
    exact refused
  · refine ⟨_, exec_stopDrainComplete_done he h hr hd hw, fnState_setFnStates _ f (by decide), fun c hc => ?_⟩
    subst hc
    rw [setFnStates_alone (s := s.restEffect (.core c)) rfl]
    exact fnAt_setFnState s (.core c) (by decide)
end

section
/-! Issuing, ending and halting (R42, R49, R86): what an instruction that may run comes to, what a command's end leaves, and which parts of the
state an event to the host keeps. -/

namespace Sys2Proof.Machine

/-! ### An event to the host leaves the contexts as they are -/

/-- The contexts and CT_CYCLE are those of `s`. -/
def SameCtxs (t s : State) : Prop := t.ctxs = s.ctxs ∧ t.cycle = s.cycle

theorem SameCtxs.refl (s : State) : SameCtxs s s := ⟨rfl, rfl⟩
theorem SameCtxs.trans {a b c : State} (h : SameCtxs a b) (k : SameCtxs b c) : SameCtxs a c := ⟨h.1.trans k.1, h.2.trans k.2⟩
theorem SameCtxs.ctx {t s : State} (h : SameCtxs t s) (c x : Nat) : t.ctx c x = s.ctx c x := by
  unfold State.ctx
  rw [h.1]

theorem NumOnly.sameCtxs {t s : State} (h : NumOnly t s) : SameCtxs t s := by
  rw [h]
  exact ⟨rfl, rfl⟩

theorem foldl_sameCtxs {α : Type} {g : State → α → State} (h : ∀ s a, SameCtxs (g s a) s) (l : List α) (s : State) :
    SameCtxs (l.foldl g s) s := by
  induction l generalizing s with
  | nil => exact .refl s
  | cons a l ih => exact (ih _).trans (h s a)

theorem count64_sameCtxs (s : State) (b i o n : Nat) : SameCtxs (s.count64 b i o n) s := (count64_numOnly s b i o n).sameCtxs
theorem setFlag_sameCtxs (s : State) (b i o n : Nat) : SameCtxs (s.setFlag b i o n) s := (setFlag_numOnly s b i o n).sameCtxs

theorem emit_sameCtxs (s : State) (p : Nat) (f : SfFrame) : SameCtxs (s.emit p f) s := by
  unfold State.emit
  split
  · exact .refl s
  · split
    · exact ⟨rfl, rfl⟩
    · exact count64_sameCtxs s _ _ _ _

theorem noteRoute_sameCtxs (s : State) (p d : Nat) : SameCtxs (s.noteRoute p d) s := by
  unfold State.noteRoute
  split
  · exact (noteUe_numOnly s _ _).sameCtxs
  · exact .refl s

theorem numbered_sameCtxs (s : State) (p : Nat) (far : Bool) (b : Block) : SameCtxs (s.numbered p far b).1 s := by
  unfold State.numbered
  split
  · exact .refl s
  · dsimp only
    split
    · exact ⟨rfl, rfl⟩
    · exact ⟨rfl, rfl⟩

/-- A relayed message has no instruction that learns of its end (R319). -/
theorem sendMsg_relay_sameCtxs (s : State) (p : Nat) (dst : BitVec 14) (unit : BitVec 4) (index : BitVec 12) (b : Block)
    (far : Option (Byte × BitVec 14)) (tried : Nat) : SameCtxs (s.sendMsg p dst unit index b .relay far tried) s := by
  unfold State.sendMsg State.offerMsg
  split
  · exact .refl s
  · dsimp only
    split
    · exact ((setFlag_sameCtxs _ _ _ _ _).trans (count64_sameCtxs _ _ _ _ _)).trans (noteRoute_sameCtxs s p _)
    · exact (emit_sameCtxs _ _ _).trans ((numbered_sameCtxs _ _ _ _).trans (noteRoute_sameCtxs s p _))

theorem sendFar_relay_sameCtxs (s : State) (p site : Nat) (b : Block) (tried : Nat) : SameCtxs (s.sendFar p site b .relay tried) s := by
  have counted : ∀ (t : State) (n : Nat), SameCtxs ((t.count64 0x22 p 0xA8 n).setFlagIf (n != 0) 0x22 p 0x1C 3) t := fun t n =>
    ((setFlagIf_numOnly _ _ _ _ _ _).sameCtxs).trans (count64_sameCtxs t _ _ _ _)
  have noted : SameCtxs (s.noteUe (s.gatewayAddr site) 32) s := (noteUe_numOnly s _ _).sameCtxs
  unfold State.sendFar
  dsimp only
  split
  · exact (count64_sameCtxs _ _ _ _ _).trans ((counted _ _).trans noted)
  · split
    · exact (counted _ _).trans ((numbered_sameCtxs _ _ _ _).trans noted)
    · exact (sendMsg_relay_sameCtxs _ _ _ _ _ _ _ _).trans ((counted _ _).trans ((numbered_sameCtxs _ _ _ _).trans noted))

theorem sendBlock_relay_sameCtxs (s : State) (plane site : Nat) (dst : BitVec 14) (unit : BitVec 4) (index : BitVec 12) (b : Block) :
    SameCtxs (s.sendBlock plane site dst unit index b .relay) s := by
  unfold State.sendBlock
  split
  · refine foldl_sameCtxs (fun t m => ?_) _ s
    exact sendMsg_relay_sameCtxs t _ _ _ _ _ _ _
  · refine foldl_sameCtxs (fun t m => ?_) _ s
    exact sendFar_relay_sameCtxs t _ _ _ _

theorem hpSend_sameCtxs (s : State) (dst : HostSrc) (m : HostMsg) : SameCtxs (s.hpSend dst m) s := by
  unfold State.hpSend
  split
  · split
    · exact .refl s
    · exact ⟨rfl, rfl⟩
  · exact sendBlock_relay_sameCtxs s _ _ _ _ _ _

theorem pushEvent_sameCtxs (s : State) (dst : HostSrc) (l : List Byte) : SameCtxs (s.pushEvent dst l) s := by
  unfold State.pushEvent
  exact hpSend_sameCtxs _ _ _

theorem reportLost_sameCtxs (s : State) (dst : HostSrc) : SameCtxs (s.reportLost dst) s := by
  unfold State.reportLost
  split
  · exact .refl s
  · exact pushEvent_sameCtxs _ _ _

theorem loseEvent_sameCtxs (s : State) : SameCtxs s.loseEvent s := by
  unfold State.loseEvent
  exact (setFlag_sameCtxs _ _ _ _ _).trans (count64_sameCtxs _ _ _ _ _)

theorem queueEvent_sameCtxs (s : State) (l : List Byte) : SameCtxs (s.queueEvent l) s := by
  unfold State.queueEvent
  split
  · exact .refl s
  · dsimp only
    split
    · exact (loseEvent_sameCtxs _).trans (reportLost_sameCtxs s _)
    · exact (pushEvent_sameCtxs _ _ _).trans (reportLost_sameCtxs s _)

/-! ### One context changes -/

theorem updCtx_ctxChange (s : State) (c x : Nat) (f : Ctx → Ctx) : CtxChange s (s.updCtx c x f) c x (f (s.ctx c x)) :=
  ⟨rfl, State.updCtx_ctx_same .., fun _ hn => State.updCtx_get_ne _ _ _ _ hn⟩

theorem CtxChange.trans {s t u : State} {c x : Nat} {k k' : Ctx} (h : CtxChange s t c x k) (h' : CtxChange t u c x k') :
    CtxChange s u c x k' := by
  obtain ⟨e, -, o⟩ := h
  obtain ⟨e', hk, o'⟩ := h'
  refine ⟨?_, hk, fun n hn => (o' n hn).trans (o n hn)⟩
  rw [e] at e'
  exact e'

theorem advance_ctxChange (s : State) (c x : Nat) : CtxChange s (s.advance c x) c x (pastInstr (s.ctx c x)) := updCtx_ctxChange s c x _

/-- An instruction that was neither held nor passed over took the issue slot of this cc. -/
theorem noteIssue_ctxChange {s : State} {c x : Nat} (hw : (s.ctx c x).wait.isHeld = false) (hp : (s.ctx c x).passed ≠ some s.cycle) :
    CtxChange s (s.noteIssue c x) c x (issuedAt s (s.ctx c x)) := by
  have h := updCtx_ctxChange s c x (fun k => if k.wait.isHeld || k.passed == some s.cycle then k else { k with issued := some s.cycle })
  have e : ((s.ctx c x).wait.isHeld || (s.ctx c x).passed == some s.cycle) = false := by simp [hw, hp]
  simp only [e] at h
  exact h

/-! ### Issue -/

/-- An instruction that can run takes its effect, and the issue slot with it. -/
theorem issueStop_of_canRun {i : Iss} {s : State} (h : CanRun i s) (illegal : Bool) (stop : Nat → Nat → Ctx → Bool)
    (body : Nat → Nat → Ctx → State) : issueStop i illegal s stop body =
      .next ((if illegal then s.halt i.core.toNat i.ctx.toNat rsILLEGAL
        else body i.core.toNat i.ctx.toNat (ctxAt s i)).noteIssue i.core.toNat i.ctx.toNat) := by
  obtain ⟨hc, hrun, hst, hwait, hserves, hover, hreplay, hturn, hfetch, hguard⟩ := h
  unfold ctxAt at hrun hst hwait hover hfetch hguard
  have hok : coreOk i.core = true := by simpa [coreOk] using hc
  have hmay : s.mayIssue i.core.toNat i.ctx.toNat = true := by
    simp [State.mayIssue, Ctx.canIssue, hrun, hst, hserves, hover, hreplay]
  unfold issueStop
  simp [hok, hmay, hturn, hst, hfetch, hguard, ctxAt]

theorem CanRun.notPassed {i : Iss} {s : State} (h : CanRun i s) : (ctxAt s i).passed ≠ some s.cycle := by
  obtain ⟨-, -, -, -, -, -, -, hturn, -, -⟩ := h
  unfold State.turn at hturn
  simp only [Bool.and_eq_true, bne_iff_ne] at hturn
  exact hturn.1.2

theorem CanRun.notHeld {i : Iss} {s : State} (h : CanRun i s) : (ctxAt s i).wait.isHeld = false := by
  obtain ⟨-, -, -, hwait, -⟩ := h
  rw [hwait]
  rfl

/-! ### The completion record (R49) -/

/-- A field of a record, after the bytes before it. -/
theorem leField_append (a : List Byte) {pos : Nat} (n v : Nat) (b : List Byte) (h : a.length = pos) :
    leField (a ++ (leBytes n v ++ b)) pos n = v % 256 ^ n := by
  subst h
  unfold leField
  rw [List.drop_left, List.take_left' (leBytes_length n v), leNat_leBytes]

section
variable (s : State) (c x : Nat) (r : RunCmd) (status : Nat) (poison : Bool)

theorem completionRecord_length : (s.completionRecord c x r status poison).length = 32 := by
  unfold State.completionRecord tagBytes
  simp only [List.length_append, leBytes_length]

theorem completionRecord_fields :
    leField (s.completionRecord c x r status poison) 16 4 = r.cmd.cmdSeq.toNat ∧
    leField (s.completionRecord c x r status poison) 20 2 = status % 2 ^ 16 ∧
    leField (s.completionRecord c x r status poison) 22 2 = (c * 4 + x) % 2 ^ 16 ∧
    leField (s.completionRecord c x r status poison) 24 4 = r.overrun % 2 ^ 32 ∧
    leField (s.completionRecord c x r status poison) 28 4 = s.cycle.toNat % 2 ^ 32 := by
  unfold State.completionRecord tagBytes
  dsimp only
  generalize tagBits _ = v
  have hseq := r.cmd.cmdSeq.isLt
  refine ⟨?_, ?_, ?_, ?_, ?_⟩ <;> simp only [List.append_assoc]
  · rw [leField_append _ 4 _ _ (leBytes_length 16 v), Nat.mod_eq_of_lt (by omega)]
  · rw [← List.append_assoc, leField_append _ 2 _ _ (by simp only [List.length_append, leBytes_length])]
    rfl
  · rw [← List.append_assoc, ← List.append_assoc, leField_append _ 2 _ _ (by simp only [List.length_append, leBytes_length])]
    rfl
  · rw [← List.append_assoc, ← List.append_assoc, ← List.append_assoc,
      leField_append _ 4 _ _ (by simp only [List.length_append, leBytes_length])]
    rfl
  · rw [← List.append_assoc, ← List.append_assoc, ← List.append_assoc, ← List.append_assoc, ← List.append_nil (leBytes 4 s.cycle.toNat),
      leField_append _ 4 _ _ (by simp only [List.length_append, leBytes_length])]
    rfl

end

/-! ### The end of a command (R49, R86) -/

/-- No context decides whether an access is served. -/
theorem accessReason_updCtx (s : State) (c x : Nat) (f : Ctx → Ctx) (a n : Nat) :
    (s.updCtx c x f).accessReason a n = s.accessReason a n := accessReason_congr (s := s) (t := s.updCtx c x f) rfl rfl a n

/-- The context after its command has ended in state `st`. -/
def endedCtx (k : Ctx) (st : CtxSt) : Ctx :=
  { k with run := none, wait := .none, st := st, fenced := false, poison := false, decision := none, taking := none,
           lastReason := k.toldReason st }

/-- The state before the event: the context has left its command and the completion record, where one is asked for, is written. -/
def State.leaveCommand (s : State) (c x status : Nat) (st : CtxSt) (r : RunCmd) : State :=
  let t := s.updCtx c x (fun k => endedCtx k st)
  if r.cmd.completion.toNat = 0 then t
  else t.writeMem r.cmd.completion.toNat (s.completionRecord c x r status (s.ctx c x).poison)

theorem endCommand_reportable {s : State} {c x : Nat} {r : RunCmd} (hrun : (s.ctx c x).run = some r) (hrep : Reportable s (s.ctx c x))
    (status : Nat) (st : CtxSt) : s.endCommand c x status st =
      if r.cmd.eventToHost then (s.leaveCommand c x status st r).queueEvent (1 :: s.completionRecord c x r status (s.ctx c x).poison)
      else s.leaveCommand c x status st r := by
  have served : r.cmd.completion.toNat ≠ 0 →
      (s.updCtx c x (fun k => endedCtx k st)).accessReason r.cmd.completion.toNat 32 = 0 := fun h => by
    rw [accessReason_updCtx]
    refine hrep r hrun (fun e => h ?_)
    rw [e]
    rfl
  unfold State.endCommand State.leaveCommand
  simp only [hrun]
  by_cases h0 : r.cmd.completion.toNat = 0
  · simp only [h0, if_true]
    rfl
  · have hs := served h0
    unfold endedCtx at hs ⊢
    simp only [h0, if_false, hs, if_true]
    rfl

theorem leaveCommand_frame (s : State) (c x status : Nat) (st : CtxSt) (r : RunCmd) : s.leaveCommand c x status st r =
    { s with ctxs := (s.updCtx c x (fun k => endedCtx k st)).ctxs, mem := (s.leaveCommand c x status st r).mem,
             ue := (s.leaveCommand c x status st r).ue, sce := (s.leaveCommand c x status st r).sce } := by
  unfold State.leaveCommand
  dsimp only
  split
  · rfl
  · exact writeMem_frame _ _ _

/-- A command whose completion record can be written ends as R49 and R86 state. -/
theorem endCommand_ends {s : State} {c x : Nat} (hrun : (s.ctx c x).run.isSome = true) (hrep : Reportable s (s.ctx c x)) (status : Nat)
    (st : CtxSt) : EndsCommand s (s.endCommand c x status st) c x status st := by
  obtain ⟨r, hr⟩ := Option.isSome_iff_exists.mp hrun
  have frame := leaveCommand_frame s c x status st r
  have hctxs : (s.leaveCommand c x status st r).ctxs = (s.updCtx c x (fun k => endedCtx k st)).ctxs := by rw [frame]
  have hctx : ∀ n, Tbl.get {} (s.leaveCommand c x status st r).ctxs n = Tbl.get {} (s.updCtx c x (fun k => endedCtx k st)).ctxs n := by
    rw [hctxs]
    exact fun _ => rfl
  obtain ⟨f1, f2, f3, f4, f5⟩ := completionRecord_fields s c x r status (s.ctx c x).poison
  refine ⟨r, s.leaveCommand c x status st r, s.completionRecord c x r status (s.ctx c x).poison, hr, ?_, ?_, fun n hn => ?_,
    completionRecord_length .., f1, f2, f3, f4, f5, fun h0 => ?_, fun h0 => ?_, endCommand_reportable hr hrep status st⟩
  · rw [hctxs]
    exact frame
  · exact (hctx _).trans (State.updCtx_ctx_same ..)
  · exact (hctx n).trans (State.updCtx_get_ne _ _ _ _ hn)
  · unfold State.leaveCommand
    rw [h0]
    rfl
  · have h1 : r.cmd.completion.toNat ≠ 0 := fun h => h0 (BitVec.eq_of_toNat_eq h)
    unfold State.leaveCommand
    dsimp only
    rw [if_neg h1]
    exact fun j => byte_writeMem _ _ _ _

/-- What the end of a command leaves of its context, after the event too. -/
theorem EndsCommand.leaves {s t : State} {c x status : Nat} {st : CtxSt} (h : EndsCommand s t c x status st) :
    t.ctx c x = endedCtx (s.ctx c x) st ∧ t.cycle = s.cycle := by
  obtain ⟨r, u, bs, -, frame, hctx, -, -, -, -, -, -, -, -, -, ht⟩ := h
  have hcycle : u.cycle = s.cycle := by rw [frame]
  have same : SameCtxs t u := by
    rw [ht]
    split
    · exact queueEvent_sameCtxs u _
    · exact .refl u
  exact ⟨(same.ctx c x).trans hctx, same.2.trans hcycle⟩

/-- An instruction of a context that can run halts it, and has taken the issue slot (R42, R86). -/
theorem haltsWith_halt {i : Iss} {s : State} (h : CanRun i s) (hrep : Reportable s (ctxAt s i)) (r : Nat) :
    HaltsWith i s (.next ((s.halt i.core.toNat i.ctx.toNat r).noteIssue i.core.toNat i.ctx.toNat)) r := by
  have hp := h.notPassed
  obtain ⟨-, hrun, hst, -⟩ := h
  unfold ctxAt at hp hrun hst hrep
  generalize hc : i.core.toNat = c at *
  generalize hx : i.ctx.toNat = x at *
  have hctx : (s.setLastReason c x r).ctx c x = { s.ctx c x with lastReason := BitVec.ofNat 16 r } := State.updCtx_ctx_same ..
  have halted : s.halt c x r = (s.setLastReason c x r).endCommand c x r .halted := by
    unfold State.halt
    dsimp only
    rw [hctx, if_neg (by simp [hst])]
  have ends : EndsCommand (s.setLastReason c x r) (s.halt c x r) c x r .halted := by
    rw [halted]
    refine endCommand_ends ?_ ?_ r .halted
    · rw [hctx]
      exact hrun
    · rw [hctx]
      exact fun q hq hq0 => (accessReason_updCtx s c x _ _ _).trans (hrep q hq hq0)
  obtain ⟨left, cycle⟩ := ends.leaves
  have hpassed : (s.halt c x r |>.ctx c x).passed ≠ some (s.halt c x r).cycle := by
    rw [left, cycle, hctx]
    exact hp
  have issued := noteIssue_ctxChange (by rw [left]; rfl) hpassed
  refine ⟨s.halt c x r, _, rfl, ?_, ?_⟩
  · rw [hc, hx]
    exact ends
  · rw [hc, hx]
    have e : issuedAt (s.halt c x r) = issuedAt s := by
      unfold issuedAt
      rw [cycle]
      rfl
    rw [← e]
    exact issued

end Sys2Proof.Machine
end

section
/-! LD and ST (R98): what each comes to at an address that is served, and the halts of one that is not. -/

namespace Sys2Proof.Machine

/-! ### Passing the instruction -/

theorem issuedAt_congr {s t : State} (h : t.cycle = s.cycle) (k : Ctx) : issuedAt t k = issuedAt s k := by
  unfold issuedAt
  rw [h]

/-- The program counter passes the instruction, which has taken the issue slot. -/
theorem advance_noteIssue_ctxChange {s : State} {c x : Nat} (hw : (s.ctx c x).wait.isHeld = false) (hp : (s.ctx c x).passed ≠ some s.cycle) :
    CtxChange s ((s.advance c x).noteIssue c x) c x (issuedAt s (pastInstr (s.ctx c x))) := by
  have past := advance_ctxChange s c x
  have hctx : (s.advance c x).ctx c x = pastInstr (s.ctx c x) := past.2.1
  have issued := past.trans (noteIssue_ctxChange (by rw [hctx]; exact hw) (by rw [hctx]; exact hp))
  rwa [hctx, issuedAt_congr (State.advance_cycle s c x)] at issued

/-- Neither leaves another value in a scalar register. -/
theorem advance_noteIssue_sreg (s : State) (c x n : Nat) : (((s.advance c x).noteIssue c x).ctx c x).sreg n = (s.ctx c x).sreg n := by
  have past : (s.advance c x).ctx c x = pastInstr (s.ctx c x) := State.updCtx_ctx_same ..
  unfold State.noteIssue
  rw [State.updCtx_ctx_same, past]
  split <;> rfl

/-! ### LD -/

/-- LD of a context that can run: it halts with the reason of its address, or takes the value. -/
theorem exec_ld_of_canRun {i : Iss} {s : State} (h : CanRun i s) (w4 : Bool) (sd sa : BitVec 6) (imm : W32) :
    exec (.ld i w4 sd sa imm) s =
      .next ((if s.ldReason (lsAddr (ctxAt s i) sa imm) (lsWidth w4) ≠ 0 then
          s.halt i.core.toNat i.ctx.toNat (s.ldReason (lsAddr (ctxAt s i) sa imm) (lsWidth w4))
        else ((s.updCtx i.core.toNat i.ctx.toNat (fun k => k.setSreg sd.toNat (s.ldValue (lsAddr (ctxAt s i) sa imm) (lsWidth w4)))).noteUe
          (lsAddr (ctxAt s i) sa imm) (lsWidth w4)).advance i.core.toNat i.ctx.toNat).noteIssue i.core.toNat i.ctx.toNat) := by
  rw [exec_ld, execLd, issue, issueStop_of_canRun h]
  rfl

theorem ld_halts {i : Iss} {s : State} (h : CanRun i s) (hrep : Reportable s (ctxAt s i)) (w4 : Bool) (sd sa : BitVec 6) (imm : W32) {r : Nat}
    (hr : s.ldReason (lsAddr (ctxAt s i) sa imm) (lsWidth w4) = r) (h0 : r ≠ 0) : HaltsWith i s (exec (.ld i w4 sd sa imm) s) r := by
  rw [exec_ld_of_canRun h, hr, if_pos h0]
  exact haltsWith_halt h hrep r

theorem setSreg_sreg (k : Ctx) (sd n : BitVec 6) (v : W64) :
    (k.setSreg sd.toNat v).sreg n.toNat = if n = sd then v else k.sreg n.toNat := by
  by_cases hn : n = sd
  · subst hn
    rw [if_pos rfl]
    exact Tbl.get_set_same _ _ _ _
  · rw [if_neg hn]
    exact Tbl.get_set_ne _ _ _ _ (fun e => hn (BitVec.eq_of_toNat_eq e))

/-- A served LD whose bytes lie in no granule or word in error writes SD and nothing else. -/
theorem ld_writesScalar {i : Iss} {s : State} (h : CanRun i s) (w4 : Bool) (sd sa : BitVec 6) (imm : W32)
    (hr : s.ldReason (lsAddr (ctxAt s i) sa imm) (lsWidth w4) = 0) (hclean : s.clean (lsAddr (ctxAt s i) sa imm) (lsWidth w4) = true) :
    WritesScalar i s (exec (.ld i w4 sd sa imm) s) sd (s.ldValue (lsAddr (ctxAt s i) sa imm) (lsWidth w4)) := by
  have hp := h.notPassed
  have hh := h.notHeld
  rw [exec_ld_of_canRun h, if_neg (by simp [hr])]
  generalize lsAddr (ctxAt s i) sa imm = a at *
  generalize lsWidth w4 = n at *
  unfold ctxAt at hp hh
  have written := updCtx_ctxChange s i.core.toNat i.ctx.toNat (fun k => k.setSreg sd.toNat (s.ldValue a n))
  have hcycle : (s.updCtx i.core.toNat i.ctx.toNat (fun k => k.setSreg sd.toNat (s.ldValue a n))).cycle = s.cycle := rfl
  rw [noteUe_clean (s := s.updCtx i.core.toNat i.ctx.toNat (fun k => k.setSreg sd.toNat (s.ldValue a n))) hclean]
  generalize s.updCtx i.core.toNat i.ctx.toNat (fun k => k.setSreg sd.toNat (s.ldValue a n)) = t at *
  have hctx : t.ctx i.core.toNat i.ctx.toNat = _ := written.2.1
  have done := written.trans (advance_noteIssue_ctxChange (by rw [hctx]; exact hh) (by rw [hctx, hcycle]; exact hp))
  rw [hctx, issuedAt_congr hcycle] at done
  obtain ⟨frame, left, others⟩ := done
  refine ⟨_, rfl, ⟨frame, rfl, others⟩, ?_, fun n => ?_⟩
  · unfold ctxAt
    rw [left]
    rfl
  · unfold ctxAt
    rw [left]
    exact setSreg_sreg _ _ _ _

/-- Whatever errors it meets, a served LD takes the bytes as they stand. -/
theorem ld_takes {i : Iss} {s : State} (h : CanRun i s) (w4 : Bool) (sd sa : BitVec 6) (imm : W32)
    (hr : s.ldReason (lsAddr (ctxAt s i) sa imm) (lsWidth w4) = 0) :
    ∃ t, exec (.ld i w4 sd sa imm) s = .next t ∧
      (ctxAt t i).sreg sd.toNat = s.ldValue (lsAddr (ctxAt s i) sa imm) (lsWidth w4) := by
  refine ⟨_, (exec_ld_of_canRun h w4 sd sa imm).trans (by rw [if_neg (by simp [hr])]), ?_⟩
  unfold ctxAt
  rw [advance_noteIssue_sreg, (noteUe_numOnly _ _ _).ctx, State.updCtx_ctx_same, setSreg_sreg, if_pos rfl]

/-! #### The reason and the value of a load, by the place of its address -/

theorem ldReason_misaligned {s : State} {a n : Nat} (h : a % n ≠ 0) : s.ldReason a n = rsMISALIGNED := if_pos h

theorem ldReason_store {s : State} {a n : Nat} (h : a % n = 0) (h0 : spaceOf a ≠ 0) : s.ldReason a n = s.accessReason a n := by
  rw [State.ldReason, if_neg (not_not.mpr h), if_neg h0]

theorem ldReason_control {s : State} {a n : Nat} (h : a % n = 0) (h0 : spaceOf a = 0) : s.ldReason a n = ctlReason a n := by
  rw [State.ldReason, if_neg (not_not.mpr h), if_pos h0]

theorem ldValue_store {s : State} {a n : Nat} (h0 : spaceOf a ≠ 0) : s.ldValue a n = BitVec.ofNat 64 (leNat (s.readMem a n)) := by
  rw [State.ldValue, if_neg h0]
  rfl

theorem ldValue_control {s : State} {a n : Nat} (h0 : spaceOf a = 0) : s.ldValue a n = BitVec.ofNat 64 (s.ctlRead a n) := by
  rw [State.ldValue, if_pos h0]

/-! ### ST -/

/-- What a store of `n` bytes of `v` at `a` by an instruction leaves, before its issue slot is noted (R53, R98). -/
def State.storeAt (s : State) (i : Iss) (a n v : Nat) : State :=
  let q := s.stControl (.ctx i.core i.ctx) a n v
  if a % n ≠ 0 then s.halt i.core.toNat i.ctx.toNat rsMISALIGNED
  else if spaceOf a = 0 then if q.1 = 0 then q.2.advance i.core.toNat i.ctx.toNat else q.2.halt i.core.toNat i.ctx.toNat q.1
  else if s.accessReason a n ≠ 0 then s.halt i.core.toNat i.ctx.toNat (s.accessReason a n)
  else (s.writeNat a n v).advance i.core.toNat i.ctx.toNat

/-- ST with I = 0 of a context that can run. -/
theorem exec_st_of_canRun {i : Iss} {s : State} (h : CanRun i s) (w4 : Bool) (sa sb : BitVec 6) (imm : W32) :
    exec (.st i w4 false sa sb imm) s =
      .next ((s.storeAt i (lsAddr (ctxAt s i) sa imm) (lsWidth w4)
        (((ctxAt s i).sreg sb.toNat).toNat % 2 ^ (8 * lsWidth w4))).noteIssue i.core.toNat i.ctx.toNat) := by
  rw [exec_st, execSt, issueStop_of_canRun h]
  rfl

/-- I = 1 is ILLEGAL for ST. -/
theorem st_immediate_halts {i : Iss} {s : State} (h : CanRun i s) (hrep : Reportable s (ctxAt s i)) (w4 : Bool) (sa sb : BitVec 6) (imm : W32) :
    HaltsWith i s (exec (.st i w4 true sa sb imm) s) rsILLEGAL := by
  rw [exec_st, execSt, issueStop_of_canRun h, if_pos rfl]
  exact haltsWith_halt h hrep _

theorem st_halts {i : Iss} {s : State} (h : CanRun i s) (hrep : Reportable s (ctxAt s i)) (w4 : Bool) (sa sb : BitVec 6) (imm : W32) {r : Nat}
    (hs : ∀ v, s.storeAt i (lsAddr (ctxAt s i) sa imm) (lsWidth w4) v = s.halt i.core.toNat i.ctx.toNat r) :
    HaltsWith i s (exec (.st i w4 false sa sb imm) s) r := by
  rw [exec_st_of_canRun h, hs]
  exact haltsWith_halt h hrep r

section
variable {s : State} {a n : Nat} (i : Iss) (v : Nat)

theorem storeAt_misaligned (h : a % n ≠ 0) : s.storeAt i a n v = s.halt i.core.toNat i.ctx.toNat rsMISALIGNED := if_pos h

theorem storeAt_refused (h : a % n = 0) (h0 : spaceOf a ≠ 0) (hr : s.accessReason a n ≠ 0) :
    s.storeAt i a n v = s.halt i.core.toNat i.ctx.toNat (s.accessReason a n) := by
  unfold State.storeAt
  dsimp only
  rw [if_neg (by simp [h]), if_neg h0, if_pos hr]

theorem storeAt_served (h : a % n = 0) (h0 : spaceOf a ≠ 0) (hr : s.accessReason a n = 0) :
    s.storeAt i a n v = (s.writeNat a n v).advance i.core.toNat i.ctx.toNat := by
  unfold State.storeAt
  dsimp only
  rw [if_neg (by simp [h]), if_neg h0, if_neg (by simp [hr])]

theorem stControl_accepted {w : Writer} (h : (s.ctlWrite w a n v).1 = 0) : s.stControl w a n v = s.ctlWrite w a n v := by
  unfold State.stControl
  generalize s.ctlWrite w a n v = p at *
  obtain ⟨r, t⟩ := p
  subst h
  rfl

theorem storeAt_accepted (h : a % n = 0) (h0 : spaceOf a = 0) (hr : (s.ctlWrite (.ctx i.core i.ctx) a n v).1 = 0) :
    s.storeAt i a n v = (s.ctlWrite (.ctx i.core i.ctx) a n v).2.advance i.core.toNat i.ctx.toNat := by
  unfold State.storeAt
  dsimp only
  rw [stControl_accepted v hr, if_neg (by simp [h]), if_pos h0, if_pos hr]

/-- An address that the map gives no register halts the store before any other check of the write. -/
theorem storeAt_unmapped (h : a % n = 0) (h0 : spaceOf a = 0) (hr : ctlReason a n = rsUNMAPPED) :
    s.storeAt i a n v = s.halt i.core.toNat i.ctx.toNat rsUNMAPPED := by
  have hne : ctlReason a n ≠ 0 := by
    rw [hr]
    decide
  have href : s.ctlRefusal (.ctx i.core i.ctx) a n v = rsUNMAPPED := by
    unfold State.ctlRefusal
    rw [if_pos hne, hr]
  have hq : s.stControl (.ctx i.core i.ctx) a n v = (rsUNMAPPED, s) := by
    unfold State.stControl
    rw [State.ctlWrite_refused (by rw [href]; decide), href]
    rfl
  unfold State.storeAt
  dsimp only
  rw [hq, if_neg (by simp [h]), if_pos h0, if_neg (show rsUNMAPPED ≠ 0 by decide)]

end

theorem ctlReason_ne_zero {a n : Nat} (h : ctlReason a n ≠ 0) : ctlReason a n = rsUNMAPPED := by
  unfold ctlReason at h ⊢
  split at h
  · exact absurd rfl h
  · rename_i hc
    rw [if_neg hc]

/-- The stored bytes are the low ones of the register. -/
theorem leBytes_mod (n v : Nat) : leBytes n (v % 2 ^ (8 * n)) = leBytes n v := by
  induction n generalizing v with
  | zero => rfl
  | succ n ih =>
    have e : 2 ^ (8 * (n + 1)) = 256 * 2 ^ (8 * n) := by
      rw [Nat.mul_add, pow_add]
      ring
    have low : BitVec.ofNat 8 (v % (256 * 2 ^ (8 * n))) = BitVec.ofNat 8 v := by
      apply BitVec.eq_of_toNat_eq
      rw [BitVec.toNat_ofNat, BitVec.toNat_ofNat]
      exact Nat.mod_mod_of_dvd v (Dvd.intro _ rfl)
    rw [e]
    unfold leBytes
    rw [low, Nat.mod_mul_right_div_self, ih]

/-- A served ST stores the low bytes of its register at the address, and nowhere else. -/
theorem st_stores {i : Iss} {s : State} (h : CanRun i s) (w4 : Bool) (sa sb : BitVec 6) (imm : W32)
    (hal : lsAddr (ctxAt s i) sa imm % lsWidth w4 = 0) (h0 : spaceOf (lsAddr (ctxAt s i) sa imm) ≠ 0)
    (hr : s.accessReason (lsAddr (ctxAt s i) sa imm) (lsWidth w4) = 0) :
    ∃ t, exec (.st i w4 false sa sb imm) s = .next t ∧ t = { s with mem := t.mem, ue := t.ue, sce := t.sce, ctxs := t.ctxs } ∧
      Stored s t (lsAddr (ctxAt s i) sa imm) (leBytes (lsWidth w4) ((ctxAt s i).sreg sb.toNat).toNat) ∧
      ctxAt t i = issuedAt s (pastInstr (ctxAt s i)) ∧
      ∀ m, m ≠ i.core.toNat * 4 + i.ctx.toNat → Tbl.get {} t.ctxs m = Tbl.get {} s.ctxs m := by
  have hp := h.notPassed
  have hh := h.notHeld
  rw [exec_st_of_canRun h, storeAt_served i _ hal h0 hr]
  unfold State.writeNat
  rw [leBytes_mod]
  generalize lsAddr (ctxAt s i) sa imm = a at *
  generalize leBytes (lsWidth w4) ((ctxAt s i).sreg sb.toNat).toNat = bs
  unfold ctxAt at hp hh ⊢
  have stored := writeMem_frame s a bs
  have hbyte : ∀ j, (s.writeMem a bs).byte j = _ := fun j => byte_writeMem s a j bs
  have hctxs : (s.writeMem a bs).ctxs = s.ctxs := by rw [stored]
  have hcycle : (s.writeMem a bs).cycle = s.cycle := by rw [stored]
  generalize s.writeMem a bs = u at *
  have hctx : u.ctx i.core.toNat i.ctx.toNat = s.ctx i.core.toNat i.ctx.toNat := by
    unfold State.ctx
    rw [hctxs]
  have done := advance_noteIssue_ctxChange (by rw [hctx]; exact hh) (by rw [hctx, hcycle]; exact hp)
  rw [hctx, issuedAt_congr hcycle] at done
  obtain ⟨frame, left, others⟩ := done
  refine ⟨_, rfl, ?_, fun j => ?_, left, fun m hm => ?_⟩
  · rw [frame, stored]
  · rw [← hbyte j]
    rfl
  · rw [others m hm, hctxs]

end Sys2Proof.Machine

open Sys2Proof Sys2Proof.Machine

/-- Settles O4: by the place of the address, each case of `ldReason` and `storeAt` comes to one lemma about the access or one halt. -/
theorem loadsAndStores : Obligations.LoadsAndStores := by
  unfold Obligations.LoadsAndStores
  refine ⟨fun i s w4 sd sa sb imm run => ⟨?_, ?_, ?_, ?_, ?_, ?_⟩, fun i s w4 sd sa sb imm run aligned control => ⟨?_, ?_, ?_⟩⟩
  · intro aligned store served clean
    rw [← ldValue_store store]
    exact ld_writesScalar run w4 sd sa imm ((ldReason_store aligned store).trans served) clean
  · intro aligned store served
    rw [← ldValue_store store]
    exact ld_takes run w4 sd sa imm ((ldReason_store aligned store).trans served)
  · exact fun aligned store served => st_stores run w4 sa sb imm aligned store served
  · intro rep misaligned
    exact ⟨ld_halts run rep w4 sd sa imm (ldReason_misaligned misaligned) (by decide),
      st_halts run rep w4 sa sb imm fun v => storeAt_misaligned i v misaligned⟩
  · intro rep aligned store refused
    exact ⟨ld_halts run rep w4 sd sa imm (ldReason_store aligned store) refused,
      st_halts run rep w4 sa sb imm fun v => storeAt_refused i v aligned store refused⟩
  · exact fun rep => st_immediate_halts run rep w4 sa sb imm
  · intro mapped clean
    rw [← ldValue_control control]
    exact ld_writesScalar run w4 sd sa imm ((ldReason_control aligned control).trans mapped) clean
  · intro rep unmapped
    have reason := ctlReason_ne_zero unmapped
    exact ⟨ld_halts run rep w4 sd sa imm ((ldReason_control aligned control).trans reason) (by decide),
      st_halts run rep w4 sa sb imm fun v => storeAt_unmapped i v aligned control reason⟩
  · intro accepted
    rw [exec_st_of_canRun run, storeAt_accepted i _ aligned control accepted]
end

section
/-! One cc of an idle queue (log 1): no counter of cc leaves anything but register words changed. -/

namespace Sys2Proof.Machine

theorem ccIf_onlyCtl (s : State) (c : Bool) (b i o : Nat) : OnlyCtl (s.ccIf c b i o) s := by
  unfold State.ccIf
  split
  · exact count64_onlyCtl s b i o 1
  · exact .refl s

theorem countPair_onlyCtl (s : State) (b c m o n : Nat) : OnlyCtl (s.countPair b c m o n) s := by
  unfold State.countPair
  dsimp only
  split
  · exact (count64_onlyCtl _ _ _ _ _).trans (count64_onlyCtl s _ _ _ _)
  · exact count64_onlyCtl s _ _ _ _

theorem portCc_onlyCtl (s : State) : OnlyCtl s.portCc s := by
  unfold State.portCc
  refine foldl_onlyCtl (fun s q => ?_) _ s
  exact (ccIf_onlyCtl _ _ _ _ _).trans (ccIf_onlyCtl s _ _ _ _)

theorem hiveCc_onlyCtl (s : State) : OnlyCtl s.hiveCc s := by
  unfold State.hiveCc
  refine foldl_onlyCtl (fun s q => ?_) _ s
  exact (ccIf_onlyCtl _ _ _ _ _).trans (ccIf_onlyCtl s _ _ _ _)

theorem isolateCc_onlyCtl (s : State) : OnlyCtl s.isolateCc s := by
  unfold State.isolateCc
  exact foldl_onlyCtl (fun s r => ccIf_onlyCtl s _ _ _ _) _ s

theorem engineCc_onlyCtl (s : State) : OnlyCtl s.engineCc s := by
  unfold State.engineCc
  refine foldl_onlyCtl (fun s q => ?_) _ s
  exact (countPair_onlyCtl _ _ _ _ _ _).trans <| (countPair_onlyCtl _ _ _ _ _ _).trans <| (countPair_onlyCtl _ _ _ _ _ _).trans <|
    (countPair_onlyCtl _ _ _ _ _ _).trans (countPair_onlyCtl _ _ _ _ _ _)

theorem moduleCc_onlyCtl (s : State) : OnlyCtl s.moduleCc s := by
  unfold State.moduleCc
  exact (ccIf_onlyCtl _ _ _ _ _).trans <| (ccIf_onlyCtl _ _ _ _ _).trans <| (ccIf_onlyCtl _ _ _ _ _).trans (ccIf_onlyCtl _ _ _ _ _)

/-- Once the root PLL has locked, a tick advances CT_CYCLE and changes nothing else but register words. -/
theorem tick_running {s : State} {p : Nat} (h : s.boot.stage = some p) (hp : 2 ≤ p) :
    s.tick = { s with cycle := s.cycle + 1, ctl := s.tick.ctl } := by
  have counted : OnlyCtl ({ s with cycle := s.cycle + 1 } : State).portCc.hiveCc.isolateCc.engineCc.moduleCc { s with cycle := s.cycle + 1 } :=
    (moduleCc_onlyCtl _).trans <| (engineCc_onlyCtl _).trans <| (isolateCc_onlyCtl _).trans <| (hiveCc_onlyCtl _).trans (portCc_onlyCtl _)
  have ticks : s.tick = ({ s with cycle := s.cycle + 1 } : State).portCc.hiveCc.isolateCc.engineCc.moduleCc := by
    unfold State.tick
    rw [h, if_neg (by simpa only [Option.all_some, decide_eq_true_eq, not_lt] using hp)]
  rw [ticks]
  exact counted

/-- Before the root PLL has locked there is no cc. -/
theorem tick_unclocked {s : State} (h : ∀ p, s.boot.stage = some p → p < 2) : s.tick = s := by
  have unlocked : s.boot.stage.all (fun p => decide (p < 2)) = true := by
    cases hs : s.boot.stage with
    | none => rfl
    | some p => exact decide_eq_true (h p hs)
  exact if_pos unlocked

theorem step_idle {s : State} (h : s.pending = []) : step s = .next s.tick := by
  unfold step
  rw [h]

end Sys2Proof.Machine

open Sys2Proof Sys2Proof.Machine

/-- Settles O2, by whether the root PLL has locked: then CT_CYCLE and register words alone change, and before that nothing does. -/
theorem idleStepTicks : Obligations.IdleStepTicks := by
  unfold Obligations.IdleStepTicks
  intro s idle
  refine ⟨s.tick, step_idle idle, ?_, ?_, tick_unclocked⟩
  · by_cases unclocked : ∀ p, s.boot.stage = some p → p < 2
    · rw [tick_unclocked unclocked]
    · push Not at unclocked
      obtain ⟨p, h, hp⟩ := unclocked
      have ticks := tick_running h hp
      rw [ticks]
  · rintro ⟨p, h, hp⟩
    rw [tick_running h hp]
end

section
/-! Admission and start of a context's commands (R46, R47, R50). -/

namespace Sys2Proof.Machine

theorem coreOk_of_lt {c : BitVec 7} (h : c.toNat < 96) : coreOk c = true := by simpa [coreOk] using h

theorem entryOk_iff {c a : Nat} :
    entryOk c a = true ↔ a % 8 = 0 ∧ inStore a 8 = true ∧ (spaceOf a = 2 ∨ (spaceOf a = 1 ∧ unitOf a = c)) := by
  simp only [entryOk, Bool.and_eq_true, Bool.or_eq_true, beq_iff_eq, and_assoc]

theorem completionOk_iff {a : Nat} : completionOk a = true ↔ a = 0 ∨ (a % 32 = 0 ∧ inStore a 32 = true) := by
  simp only [completionOk, Bool.and_eq_true, Bool.or_eq_true, beq_iff_eq]

theorem fnState_core (s : State) {c : Nat} (h : c < 96) : s.fnState (.core (BitVec.ofNat 7 c)) = s.fld 0x10 c 0 2 0 := by
  have same : (BitVec.ofNat 7 c).toNat = c := by
    rw [BitVec.toNat_ofNat]
    omega
  exact congrArg (fun n => s.fld 0x10 n 0 2 0) same

/-! ### The decision on an offer (R47) -/

theorem admitReason_admits {s : State} {c x : Nat} {cmd : Cmd} (hc : c < 96) (h : Admits s c x cmd) : s.admitReason c x cmd = 0 := by
  obtain ⟨running, opened, st, room, account, entry, completion⟩ := h
  have hentry : entryOk c cmd.entry.toNat = true := entryOk_iff.mpr entry
  have hcompletion : completionOk cmd.completion.toNat = true := by
    refine completionOk_iff.mpr (completion.imp_left fun h => ?_)
    rw [h]
    rfl
  have hroom : ¬ 64 ≤ (s.ctx c x).queue.length := by omega
  simp [State.admitReason, firstReason, State.fnRunning, fnState_core s hc, running, State.qOpen, opened, st, hroom, account, hentry,
    hcompletion]

theorem admitReason_full {s : State} {c x : Nat} (cmd : Cmd) (hc : c < 96) (running : s.fld 0x10 c 0 2 0 = 2)
    (opened : s.fld 0x10 c (0x100 + 0x40 * x) 1 1 = 1) (st : (s.ctx c x).st ≠ .isolated) (full : 64 ≤ (s.ctx c x).queue.length) :
    s.admitReason c x cmd = rsQUEUE_FULL := by
  simp [State.admitReason, firstReason, State.fnRunning, fnState_core s hc, running, State.qOpen, opened, st, full]

/-- A context after the decision on the one command it was offered: it has admitted the command, or keeps the reason of its refusal. -/
def decidedCtx (s : State) (k : Ctx) (cmd : Cmd) (r : Nat) : Ctx :=
  if r = 0 then { k with offers := [], queue := k.queue ++ [{ cmd := cmd, cc := s.cycle }] }
  else { k with offers := [], lastReason := BitVec.ofNat 16 r }

/-- A tagged message learns nothing of the decision, so the context's own part is all that changes. -/
theorem commandAdmission_tagged {s : State} {c : BitVec 7} {x : BitVec 2} {cmd : Cmd} {cc : W64} (hc : c.toNat < 96)
    (offered : (s.ctx c.toNat x.toNat).offers = [{ src := .tagged, cmd := cmd, cc := cc }]) :
    ∃ t, exec (.commandAdmission c x) s = .next t ∧
      CtxChange s t c.toNat x.toNat (decidedCtx s (s.ctx c.toNat x.toNat) cmd (s.admitReason c.toNat x.toNat cmd)) := by
  have changed := updCtx_ctxChange s c.toNat x.toNat (fun k =>
    let k := { k with offers := k.offers.erase { src := .tagged, cmd := cmd, cc := cc } }
    if s.admitReason c.toNat x.toNat cmd = 0 then { k with queue := k.queue ++ [{ cmd := cmd, cc := s.cycle }] }
    else { k with lastReason := BitVec.ofNat 16 (s.admitReason c.toNat x.toNat cmd) })
  simp only [offered, List.erase_cons_head] at changed
  refine ⟨_, ?_, changed⟩
  rw [exec_commandAdmission, execCommandAdmission, coreOk_of_lt hc, offered]
  rfl

/-! ### The start of an admitted command (R46, R50) -/

/-- A context that has started command `q` as command number `no`, `d` cc after its admission. -/
def startCtx (s : State) (q : QCmd) (rest : List QCmd) (no d : Nat) (k : Ctx) : Ctx :=
  let k := (((k.setSreg 0 q.cmd.arg0).setSreg 1 q.cmd.arg1).setSreg 2 q.cmd.arg2).setSreg 3 q.cmd.arg3
  Ctx.takeCopy { k with queue := rest, pc := q.cmd.entry, st := .ready, wait := .none, counted := false,
                        run := some { cmd := q.cmd, no := no, startCC := s.cycle, overrun := d - 5000 } }

theorem setSreg_sreg_same (k : Ctx) (n : Nat) (v : W64) : (k.setSreg n v).sreg n = v := Tbl.get_set_same _ _ _ _
theorem setSreg_sreg_ne (k : Ctx) {n m : Nat} (v : W64) (h : m ≠ n) : (k.setSreg n v).sreg m = k.sreg m := Tbl.get_set_ne _ _ _ _ h

/-- ARG0 to ARG3 stand in s0 to s3, and the other registers are as they were. -/
theorem startCtx_started (s : State) (q : QCmd) (rest : List QCmd) (no : Nat) (k : Ctx) :
    StartedCtx s k (startCtx s q rest no (s.cycle - q.cc).toNat k) q rest := by
  have regs : ∀ n, (startCtx s q rest no (s.cycle - q.cc).toNat k).sreg n =
      ((((k.setSreg 0 q.cmd.arg0).setSreg 1 q.cmd.arg1).setSreg 2 q.cmd.arg2).setSreg 3 q.cmd.arg3).sreg n := fun _ => rfl
  refine ⟨rfl, rfl, rfl, rfl, ?_, ?_, ?_, ?_, fun n hn => ?_, rfl, rfl, _, rfl, rfl, rfl, rfl⟩ <;> rw [regs]
  · simp [setSreg_sreg_same, setSreg_sreg_ne]
  · simp [setSreg_sreg_same, setSreg_sreg_ne]
  · simp [setSreg_sreg_same, setSreg_sreg_ne]
  · simp [setSreg_sreg_same]
  · rw [setSreg_sreg_ne _ _ (by omega), setSreg_sreg_ne _ _ (by omega), setSreg_sreg_ne _ _ (by omega), setSreg_sreg_ne _ _ (by omega)]

/-- The state in which the command has started, before a late start is counted. -/
def State.begun (s : State) (c x : Nat) (q : QCmd) (rest : List QCmd) : State :=
  s.newId.2.updCtx c x (startCtx s q rest s.newId.1 (s.cycle - q.cc).toNat)

theorem startCommand_eq (s : State) (c x : Nat) (q : QCmd) (rest : List QCmd) : s.startCommand c x q rest =
    if (s.cycle - q.cc).toNat - 5000 = 0 then s.begun c x q rest
    else ((s.begun c x q rest).count64 0x21 0 0x68 1).lateEvent 0 ((s.cycle - q.cc).toNat - 5000) c := rfl

theorem begun_ctx (s : State) (c x : Nat) (q : QCmd) (rest : List QCmd) :
    (s.begun c x q rest).ctx c x = startCtx s q rest s.newId.1 (s.cycle - q.cc).toNat (s.ctx c x) := State.updCtx_ctx_same ..

theorem count32_sameCtxs (s : State) (b i o n : Nat) : SameCtxs (s.count32 b i o n) s := (count32_onlyCtl s b i o n).numOnly.sameCtxs

theorem lateEvent_sameCtxs (s : State) (cls ovr src : Nat) : SameCtxs (s.lateEvent cls ovr src) s :=
  (queueEvent_sameCtxs _ _).trans (count32_sameCtxs s _ _ _ _)

/-- Without a claimant a LATE event is counted and goes nowhere (R317). -/
theorem lateEvent_unclaimed {s : State} (cls ovr src : Nat) (h : s.hp.claimant = none) :
    s.lateEvent cls ovr src = s.count32 0 0 0x84 1 := by
  have kept : (s.count32 0 0 0x84 1).hp.claimant = none := by rw [count32_onlyCtl s 0 0 0x84 1]; exact h
  unfold State.lateEvent State.queueEvent
  rw [kept]

theorem word64_count32_key (s : State) {b i o b' i' o' : Nat} (n : Nat) (h : ctlKey b' i' o' ≠ ctlKey b i o)
    (h' : ctlKey b' i' (o' + 4) ≠ ctlKey b i o) : (s.count32 b i o n).word64 b' i' o' = s.word64 b' i' o' := by
  unfold State.word64
  rw [word_count32_key s n h, word_count32_key s n h']

theorem startCommand_started (s : State) (c x : Nat) (q : QCmd) (rest : List QCmd) :
    StartedCtx s (s.ctx c x) ((s.startCommand c x q rest).ctx c x) q rest := by
  have kept : (s.startCommand c x q rest).ctx c x = (s.begun c x q rest).ctx c x := by
    rw [startCommand_eq]
    split
    · rfl
    · exact ((lateEvent_sameCtxs _ _ _ _).trans (count64_sameCtxs _ _ _ _ _)).ctx c x
  rw [kept, begun_ctx]
  exact startCtx_started s q rest _ _

theorem commandStart_starts {s : State} {c : BitVec 7} {x : BitVec 2} {q : QCmd} {rest : List QCmd} (hc : c.toNat < 96)
    (hq : (s.ctx c.toNat x.toNat).queue = q :: rest) (hrun : (s.ctx c.toNat x.toNat).run = none)
    (hst : (s.ctx c.toNat x.toNat).st ≠ .isolated) (hserves : s.coreServes c.toNat = true) :
    exec (.commandStart c x) s = .next (s.startCommand c.toNat x.toNat q rest) := by
  rw [exec_commandStart, execCommandStart, coreOk_of_lt hc]
  simp [hq, hrun, hst, hserves]

end Sys2Proof.Machine

open Sys2Proof Sys2Proof.Machine

/-- Settles O6: the decision comes to the first failing check of R47, and a start to one context and, past 5,000 cc, to HP_LATE. -/
theorem commandsAdmitAndStart : Obligations.CommandsAdmitAndStart := by
  unfold Obligations.CommandsAdmitAndStart
  constructor
  · intro s c x cmd cc hc k offered
    have decided := commandAdmission_tagged hc offered
    refine ⟨fun admits => ?_, fun running opened st full => ?_⟩
    · rwa [admitReason_admits hc admits] at decided
    · rwa [admitReason_full cmd hc running opened st full] at decided
  · intro s c x q rest hc k hq hrun hst hserves
    refine ⟨_, commandStart_starts hc hq hrun hst hserves, startCommand_started .., fun intime => ?_, fun late unclaimed => ?_⟩
    · rw [startCommand_eq, if_pos (by omega)]
      rfl
    · have claimant : ((s.begun c.toNat x.toNat q rest).count64 0x21 0 0x68 1).hp.claimant = none := by
        rw [count64_onlyCtl (s.begun c.toNat x.toNat q rest) 0x21 0 0x68 1]
        exact unclaimed
      rw [startCommand_eq, if_neg (by omega), lateEvent_unclaimed _ _ _ claimant, word64_count32_key _ _ (by decide) (by decide),
        word64_count64]
      rfl
end

section
/-! The end of memory training (R293, R295), and the loss and return of the root PLL's lock (R29, R562). -/

namespace Sys2Proof.Machine

/-! ### Fields within a replaced field -/

/-- A field that lies within one that is replaced by 0. -/
theorem bitsOf_setBits_zero (v : Nat) {hi lo hi' lo' : Nat} (h : lo ≤ hi) (hlo : lo ≤ lo') (hhi : hi' ≤ hi) :
    bitsOf (setBits v hi lo 0) hi' lo' = 0 := by
  apply Nat.eq_of_testBit_eq
  intro k
  rw [testBit_bitsOf, testBit_setBits _ _ _ h]
  by_cases hk : k < hi' + 1 - lo'
  · rw [if_pos (by omega)]
    simp
  · simp [hk]

/-- A field of another part of the same word is unchanged. -/
theorem fld_setFld_apart (s : State) (b i o : Nat) {hi lo hi' lo' : Nat} (v : Nat) (hh : hi < 32) (hl : lo ≤ hi) (ha : hi < lo' ∨ hi' < lo) :
    (s.setFld b i o hi lo v).fld b i o hi' lo' = s.fld b i o hi' lo' := by
  unfold State.setFld State.fld
  rw [word_setWord_same, BitVec.toNat_ofNat, Nat.mod_eq_of_lt (setBits_lt (s.word b i o).isLt hh hl), bitsOf_setBits_apart _ _ hl ha]

/-! ### A training that ends (R293) -/

theorem msTrainingComplete_trained {s : State} (ms : W16) (training : s.ms.training = true)
    (none : ∀ r ∈ s.sw.recs, ¬ (r.d.kind = 6 ∧ r.phase = 3)) :
    exec (.msTrainingComplete (.trained ms)) s = .next (s.msTrained ms.toNat) := by
  have waits : s.sw.recs.find? (fun r => r.d.kind == 6 && r.phase == 3) = .none := by
    rw [List.find?_eq_none]
    simpa using none
  rw [exec_msTrainingComplete, execMsTrainingComplete, training, waits]
  rfl

theorem msTrainingComplete_failed {s : State} (ch : BitVec 9) (training : s.ms.training = true)
    (none : ∀ r ∈ s.sw.recs, ¬ (r.d.kind = 6 ∧ r.phase = 3)) :
    exec (.msTrainingComplete (.failed ch)) s = .next (s.msFailed ch.toNat) := by
  have waits : s.sw.recs.find? (fun r => r.d.kind == 6 && r.phase == 3) = .none := by
    rw [List.find?_eq_none]
    simpa using none
  rw [exec_msTrainingComplete, execMsTrainingComplete, training, waits]
  rfl

/-- MS_STATUS after a training: the time it took, whether the contents are kept, valid values, no training and no self-refresh. -/
def trainedStatus (v ms : Nat) (kept : Bool) : Nat := setBits (setBits (setBits (setBits v 23 8 ms) 7 7 (b2n kept)) 6 6 1) 5 3 0

theorem trainedStatus_lt {v : Nat} (h : v < 2 ^ 32) (ms : Nat) (kept : Bool) : trainedStatus v ms kept < 2 ^ 32 :=
  setBits_lt (setBits_lt (setBits_lt (setBits_lt h (by decide) (by decide)) (by decide) (by decide)) (by decide) (by decide)) (by decide)
    (by decide)

theorem trainedStatus_fields (v : Nat) (ms : W16) (kept : Bool) :
    bitsOf (trainedStatus v ms.toNat kept) 23 8 = ms.toNat ∧ bitsOf (trainedStatus v ms.toNat kept) 6 6 = 1 ∧
    bitsOf (trainedStatus v ms.toNat kept) 5 5 = 0 ∧ bitsOf (trainedStatus v ms.toNat kept) 4 4 = 0 ∧
    bitsOf (trainedStatus v ms.toNat kept) 7 7 = b2n kept := by
  have apart : ∀ {hi lo : Nat}, 5 < lo → bitsOf (trainedStatus v ms.toNat kept) hi lo =
      bitsOf (setBits (setBits (setBits v 23 8 ms.toNat) 7 7 (b2n kept)) 6 6 1) hi lo :=
    fun h => bitsOf_setBits_apart _ _ (by decide) (.inl h)
  refine ⟨?_, ?_, bitsOf_setBits_zero _ (by decide) (by decide) (by decide), bitsOf_setBits_zero _ (by decide) (by decide) (by decide), ?_⟩
  · rw [apart (by decide), bitsOf_setBits_apart _ _ (by decide) (by decide), bitsOf_setBits_apart _ _ (by decide) (by decide),
      bitsOf_setBits_same _ _ (by decide), Nat.mod_eq_of_lt ms.isLt]
  · rw [apart (by decide), bitsOf_setBits_same _ _ (by decide)]
    rfl
  · rw [apart (by decide), bitsOf_setBits_apart _ _ (by decide) (by decide), bitsOf_setBits_same _ _ (by decide)]
    cases kept <;> rfl

/-- Main memory as the training leaves it: its contents stay when the channels kept them and the map places them as before (R280, R295). -/
def State.trainedMemory (s : State) : State :=
  if !s.ms.full && s.ms.kept && s.ms.spread == s.fld 0x20 0 0x10 15 0 then s else s.clearRange (mainAddr 0) Config.mainBytes

/-- `t` is `s` but for registers, memory with its errors, and MS's own state. -/
def MsChange (t s : State) : Prop := t = { s with ctl := t.ctl, mem := t.mem, ue := t.ue, sce := t.sce, ms := t.ms }

theorem MsChange.trans {a b c : State} (h : MsChange a b) (k : MsChange b c) : MsChange a c := by
  unfold MsChange at *
  rw [h, k]

theorem OnlyCtl.ms {s t : State} (h : OnlyCtl t s) : t.ms = s.ms := by rw [h]

theorem OnlyCtl.msChange {s t : State} {m : Ms} (h : OnlyCtl t { s with ms := m }) : MsChange t s := by
  unfold OnlyCtl MsChange at *
  rw [h]

theorem trainedMemory_msChange (s : State) : MsChange s.trainedMemory s := by
  unfold State.trainedMemory
  split <;> rfl

theorem trainedMemory_ctl (s : State) : s.trainedMemory.ctl = s.ctl := by
  unfold State.trainedMemory
  split <;> rfl

theorem zeroWatch_msChange (s : State) : MsChange s.zeroWatch s := by
  unfold State.zeroWatch
  split <;> rfl

theorem zeroWatch_ctl (s : State) : s.zeroWatch.ctl = s.ctl := by
  unfold State.zeroWatch
  split <;> rfl

theorem zeroWatch_ms (s : State) : s.zeroWatch.ms = s.ms := by
  unfold State.zeroWatch
  split <;> rfl

/-- MS after a training that succeeds: RUNNING with no reason, and main memory mapped by `units` (R280, R293). -/
def State.trainedMs (s : State) (status : Nat) (units : Nat) : State :=
  let s := s.setWord 0x20 0 0x14 (BitVec.ofNat 32 status)
  let s : State := { s with ms := { spread := units, scrub := s.fld 0x20 0 0x10 23 16 } }
  (s.setFnState .ms fnRUNNING).setFnReason .ms 0

theorem msTrained_eq (s : State) (ms : Nat) : s.msTrained ms =
    (s.trainedMemory.trainedMs (trainedStatus (s.trainedMemory.word 0x20 0 0x14).toNat ms (!s.ms.full && s.ms.kept))
      (s.fld 0x20 0 0x10 15 0)).zeroWatch := rfl

theorem trainedMs_onlyCtl (s : State) (status units : Nat) :
    OnlyCtl (s.trainedMs status units) { s with ms := { spread := units, scrub := s.fld 0x20 0 0x10 23 16 } } := by
  have scrub : (s.setWord 0x20 0 0x14 (BitVec.ofNat 32 status)).fld 0x20 0 0x10 23 16 = s.fld 0x20 0 0x10 23 16 := by
    unfold State.fld
    rw [word_setWord_key _ _ (by decide)]
  unfold State.trainedMs
  dsimp only
  rw [scrub]
  refine (setFnReason_onlyCtl _ _ _).trans ((setFnState_onlyCtl _ _ _).trans ?_)
  rfl

theorem trainedMs_spec (s : State) {status : Nat} (units : Nat) (h : status < 2 ^ 32) :
    (s.trainedMs status units).fnState .ms = 2 ∧ (s.trainedMs status units).fnReason .ms = 0 ∧
      ∀ hi lo, (s.trainedMs status units).fld 0x20 0 0x14 hi lo = bitsOf status hi lo := by
  unfold State.trainedMs
  dsimp only
  refine ⟨(fnState_setFnReason _ .ms 0).trans (fnState_setFnState_same _ .ms (by decide)), fnReason_setFnReason_same _ .ms (by decide),
    fun hi lo => ?_⟩
  have stored : ∀ m, ({ s.setWord 0x20 0 0x14 (BitVec.ofNat 32 status) with ms := m } : State).fld 0x20 0 0x14 hi lo = bitsOf status hi lo :=
    fun m => by
      refine (fld_ctl (s.setWord 0x20 0 0x14 (BitVec.ofNat 32 status)) _ rfl ..).trans ?_
      unfold State.fld
      rw [word_setWord_same, BitVec.toNat_ofNat, Nat.mod_eq_of_lt h]
  rw [(setFnReason_onlyWords _ .ms 0).fld (by decide), (setFnState_onlyWords _ .ms fnRUNNING).fld (by decide), stored]

theorem fnState_ctl {s t : State} (h : t.ctl = s.ctl) (f : Fn) : t.fnState f = s.fnState f := fld_ctl s t h ..
theorem fnReason_ctl {s t : State} (h : t.ctl = s.ctl) (f : Fn) : t.fnReason f = s.fnReason f := fld_ctl s t h ..

/-- A training that succeeds: MS is RUNNING with valid values, and nothing but its registers and main memory has changed (R293). -/
theorem msTrained_spec (s : State) (ms : W16) :
    ∃ t, s.msTrained ms.toNat = t ∧ MsChange t s ∧ t.fnState .ms = 2 ∧ t.fnReason .ms = 0 ∧
      t.ms = { spread := s.fld 0x20 0 0x10 15 0, scrub := s.fld 0x20 0 0x10 23 16 } ∧
      ∀ hi lo, t.fld 0x20 0 0x14 hi lo =
        bitsOf (trainedStatus (s.trainedMemory.word 0x20 0 0x14).toNat ms.toNat (!s.ms.full && s.ms.kept)) hi lo := by
  have lt := trainedStatus_lt (s.trainedMemory.word 0x20 0 0x14).isLt ms.toNat (!s.ms.full && s.ms.kept)
  have only := trainedMs_onlyCtl s.trainedMemory (trainedStatus (s.trainedMemory.word 0x20 0 0x14).toNat ms.toNat (!s.ms.full && s.ms.kept))
    (s.fld 0x20 0 0x10 15 0)
  obtain ⟨state, reason, flds⟩ := trainedMs_spec s.trainedMemory (s.fld 0x20 0 0x10 15 0) lt
  refine ⟨_, msTrained_eq s ms.toNat, (zeroWatch_msChange _).trans (only.msChange.trans (trainedMemory_msChange s)),
    (fnState_ctl (zeroWatch_ctl _) .ms).trans state, (fnReason_ctl (zeroWatch_ctl _) .ms).trans reason, ?_, fun hi lo => ?_⟩
  · rw [zeroWatch_ms, only.ms, fld_ctl s _ (trainedMemory_ctl s)]
  · rw [fld_ctl _ _ (zeroWatch_ctl _), flds]

theorem setWord64_onlyWords (s : State) (b i o v : Nat) {ks : List Nat} (h : ctlKey b i o ∈ ks) (h' : ctlKey b i (o + 4) ∈ ks) :
    OnlyWords s (s.setWord64 b i o v) ks :=
  (setWord_onlyWords s b i o _ h).trans (setWord_onlyWords _ b i (o + 4) _ h')

/-- MS_STATUS after a training that fails: no training, no valid values. -/
def State.failedStatus (s : State) : State := ((s.setFld 0x20 0 0x14 5 5 0).setFld 0x20 0 0x14 6 6 0).setFld 0x20 0 0x14 3 3 0

/-- The record of the channel that failed (R301). -/
def State.failedRecord (s : State) (ch : Nat) : State :=
  (s.setWord64 0x20 0 0x20 0).setWord 0x20 0 0x28 (BitVec.ofNat 32 (2 * 2 ^ 24 + ch))

theorem msFailed_eq (s : State) (ch : Nat) : s.msFailed ch = ({ s.failedStatus.failedRecord ch with ms := {} }).setFnReason .ms 0xA001 := rfl

theorem failedStatus_spec (s : State) : OnlyCtl s.failedStatus s ∧ OnlyWords s s.failedStatus [ctlKey 0x20 0 0x14] ∧
    s.failedStatus.fld 0x20 0 0x14 6 6 = 0 ∧ s.failedStatus.fld 0x20 0 0x14 5 5 = 0 := by
  unfold State.failedStatus
  refine ⟨?_, ?_, ?_, ?_⟩
  · exact (setFld_onlyCtl _ _ _ _ _ _ _).trans ((setFld_onlyCtl _ _ _ _ _ _ _).trans (setFld_onlyCtl _ _ _ _ _ _ _))
  · exact ((setFld_onlyWords s _ _ _ _ _ _ (by decide)).trans (setFld_onlyWords _ _ _ _ _ _ _ (by decide))).trans
      (setFld_onlyWords _ _ _ _ _ _ _ (by decide))
  · rw [fld_setFld_apart _ _ _ _ _ (by decide) (by decide) (by decide), fld_setFld_same _ _ _ _ _ (by decide) (by decide)]
    rfl
  · rw [fld_setFld_apart _ _ _ _ _ (by decide) (by decide) (by decide), fld_setFld_apart _ _ _ _ _ (by decide) (by decide) (by decide),
      fld_setFld_same _ _ _ _ _ (by decide) (by decide)]
    rfl

/-- A training that fails leaves MS in its state, with TRAIN_FAILED (R293). -/
theorem msFailed_spec (s : State) (ch : Nat) :
    ∃ t, s.msFailed ch = t ∧ t = { s with ctl := t.ctl, ms := t.ms } ∧ t.fnState .ms = s.fnState .ms ∧ t.fnReason .ms = 0xA001 ∧
      t.ms.training = false ∧
      t.fld 0x20 0 0x14 6 6 = 0 ∧ t.fld 0x20 0 0x14 5 5 = 0 := by
  have eq := msFailed_eq s ch
  obtain ⟨frame, state, valid, training⟩ := failedStatus_spec s
  have recorded : OnlyWords s.failedStatus (s.failedStatus.failedRecord ch) ([0x20, 0x24, 0x28].map (ctlKey 0x20 0)) :=
    (setWord64_onlyWords _ _ _ _ _ (by decide) (by decide)).trans (setWord_onlyWords _ _ _ _ _ (by decide))
  have recordedOnly : OnlyCtl (s.failedStatus.failedRecord ch) s.failedStatus := (setWord_onlyCtl _ _ _ _ _).trans (setWord64_onlyCtl _ _ _ _ _)
  generalize s.failedStatus = u at *
  generalize u.failedRecord ch = v at *
  have only := setFnReason_onlyCtl { v with ms := {} } .ms 0xA001
  have flds : OnlyWords v _ [reasonKey .ms] := setFnReason_onlyWords { v with ms := {} } .ms 0xA001
  have reason := fnReason_setFnReason_same { v with ms := {} } .ms (r := 0xA001) (by decide)
  generalize ({ v with ms := {} } : State).setFnReason .ms 0xA001 = t at *
  have all : t = { s with ctl := t.ctl, ms := {} } := by
    unfold OnlyCtl at *
    rw [only, recordedOnly, frame]
  refine ⟨t, eq, ?_, ?_, reason, ?_, ?_, ?_⟩
  · rw [all]
  · rw [fnState_congr flds (by decide), fnState_congr recorded (by decide), fnState_congr state (by decide)]
  · rw [all]
  · rw [flds.fld (by decide), recorded.fld (by decide), valid]
  · rw [flds.fld (by decide), recorded.fld (by decide), training]

/-! ### The transmitters (R305) -/

/-- Block and number of a port's registers; xx_LINK stands at offset 0x24 of each. -/
def portBlk : Port → Nat × Nat
  | .hp => (0x21, 0)
  | .sf p => (0x22, p.toNat)
  | .fl => (0x25, 0)

/-- TX_EN of a port's xx_LINK. -/
def State.txEn (s : State) (p : Port) : Nat := s.fld (portBlk p).1 (portBlk p).2 0x24 0 0

theorem setTx_eq (s : State) (p : Port) (on : Bool) : s.setTx p on = s.setFld (portBlk p).1 (portBlk p).2 0x24 0 0 (b2n on) := by
  cases p <;> rfl

theorem setTx_onlyCtl (s : State) (p : Port) (on : Bool) : OnlyCtl (s.setTx p on) s := by
  rw [setTx_eq]
  exact setFld_onlyCtl _ _ _ _ _ _ _

theorem portBlk_inst_lt (p : Port) : (portBlk p).2 < 16 := by
  cases p with
  | sf p => exact p.isLt
  | hp | fl => decide

theorem portBlk_inj {p q : Port} (h : portBlk p = portBlk q) : p = q := by
  cases p <;> cases q <;> simp_all [portBlk, BitVec.toNat_inj]

theorem linkKey_inj {p q : Port} (h : ctlKey (portBlk p).1 (portBlk p).2 0x24 = ctlKey (portBlk q).1 (portBlk q).2 0x24) : p = q := by
  have hp := portBlk_inst_lt p
  have hq := portBlk_inst_lt q
  unfold ctlKey at h
  exact portBlk_inj (Prod.ext (by omega) (by omega))

theorem txEn_setTx_same (s : State) (p : Port) (on : Bool) : (s.setTx p on).txEn p = b2n on := by
  rw [setTx_eq, State.txEn, fld_setFld_same _ _ _ _ _ (by decide) (by decide)]
  cases on <;> rfl

theorem txEn_setTx_ne (s : State) {p q : Port} (on : Bool) (h : q ≠ p) : (s.setTx p on).txEn q = s.txEn q := by
  rw [setTx_eq, State.txEn, fld_setFld_key _ _ _ _ _ _ (fun e => h (linkKey_inj e))]
  rfl

/-- A port that is squelched stays so as another is squelched. -/
theorem txEn_setTx_off (s : State) (p : Port) {q : Port} (h : s.txEn q = 0) : (s.setTx p false).txEn q = 0 := by
  by_cases e : q = p
  · subst e
    exact txEn_setTx_same s q false
  · rw [txEn_setTx_ne s false e, h]

/-- Every port of a list is squelched, one after the other. -/
def State.squelchPorts (s : State) (l : List Nat) : State := l.foldl (fun s p => s.setTx (.sf (BitVec.ofNat 4 p)) false) s

theorem squelchPorts_onlyCtl (s : State) (l : List Nat) : OnlyCtl (s.squelchPorts l) s := by
  unfold State.squelchPorts
  refine foldl_onlyCtl (fun s p => ?_) l s
  exact setTx_onlyCtl s _ _

theorem txEn_squelchPorts {l : List Nat} {p : Nat} (s : State) (h : p ∈ l ∨ s.txEn (.sf (BitVec.ofNat 4 p)) = 0) :
    (s.squelchPorts l).txEn (.sf (BitVec.ofNat 4 p)) = 0 := by
  induction l generalizing s with
  | nil => exact h.resolve_left List.not_mem_nil
  | cons a l ih =>
    refine ih (s.setTx (.sf (BitVec.ofNat 4 a)) false) ?_
    rcases h with h | h
    · rcases List.mem_cons.mp h with rfl | h
      · exact .inr (txEn_setTx_same s _ false)
      · exact .inl h
    · exact .inr (txEn_setTx_off s _ h)

theorem squelchAll_eq (s : State) : s.squelchAll =
    ((({ s with boot := { s.boot with squelch := true } }).squelchPorts (List.range 16)).setTx .hp false).setTx .fl false := rfl

theorem squelchAll_onlyCtl (s : State) : OnlyCtl s.squelchAll { s with boot := { s.boot with squelch := true } } := by
  rw [squelchAll_eq]
  exact (setTx_onlyCtl _ _ _).trans ((setTx_onlyCtl _ _ _).trans (squelchPorts_onlyCtl _ _))

/-- No port transmits (R29, R305). -/
theorem txEn_squelchAll (s : State) (p : Port) : s.squelchAll.txEn p = 0 := by
  rw [squelchAll_eq]
  cases p with
  | hp => exact txEn_setTx_off _ _ (txEn_setTx_same _ _ _)
  | sf p =>
    have off := txEn_squelchPorts (l := List.range 16) (p := p.toNat) { s with boot := { s.boot with squelch := true } }
      (.inl (List.mem_range.mpr (by omega)))
    rw [BitVec.ofNat_toNat, BitVec.setWidth_eq] at off
    exact txEn_setTx_off _ _ (txEn_setTx_off _ _ off)
  | fl => exact txEn_setTx_same _ _ _

/-! ### The loss of the lock (R29, R562) -/

/-- The module as the root PLL has lost its lock, before its recovery. -/
def State.clockLess (s : State) : State :=
  { s.endClaim.squelchAll with boot := { s.endClaim.squelchAll.boot with pllLocked := false, claimWait := true } }

theorem clockLess_frame (s : State) : s.clockLess =
    { s with ctl := s.clockLess.ctl, hp := s.endClaim.hp, boot := { s.boot with pllLocked := false, claimWait := true, squelch := true } } := by
  have only := squelchAll_onlyCtl s.endClaim
  unfold State.clockLess
  rw [only]
  rfl

theorem txEn_clockLess (s : State) (p : Port) : s.clockLess.txEn p = 0 :=
  (fld_ctl s.endClaim.squelchAll s.clockLess rfl ..).trans (txEn_squelchAll s.endClaim p)

theorem clockLost_eq {s : State} (locked : s.boot.pllLocked = true) : exec .clockLost s =
    .next (if s.clockLess.sw.recs.any (fun r => r.d == moduleDomain) then s.clockLess.clockLostAgain moduleDomain
      else s.clockLess.beginRecovery moduleDomain causeCLOCK_LOST none) := by
  rw [exec_clockLost, execClockLost, locked]
  rfl

end Sys2Proof.Machine

open Sys2Proof Sys2Proof.Machine

/-- Settles O28: a training's end comes to the registers of MS and main memory, a loss of lock to a squelched module under recovery, and the
lock's return to the lock alone. -/
theorem trainingAndClock : Obligations.TrainingAndClock := by
  unfold Obligations.TrainingAndClock
  intro s
  refine ⟨fun ms training alone => ?_, fun ch training alone => ?_, fun locked => ?_, fun unlocked => ?_, fun unlocked waits unclaimed => ?_,
    fun locked => ?_⟩
  · obtain ⟨t, ht, frame, state, reason, values, status⟩ := msTrained_spec s ms
    obtain ⟨took, valid, idle, awake, kept⟩ := trainedStatus_fields (s.trainedMemory.word 0x20 0 0x14).toNat ms (!s.ms.full && s.ms.kept)
    refine ⟨t, ?_, frame, state, reason, values, ?_, ?_, ?_, ?_, ?_⟩
    · rw [msTrainingComplete_trained ms training alone, ht]
    · rw [status, took]
    · rw [status, valid]
    · rw [status, idle]
    · rw [status, awake]
    · rw [status, kept]
  · obtain ⟨t, ht, failed⟩ := msFailed_spec s ch.toNat
    exact ⟨t, by rw [msTrainingComplete_failed ch training alone, ht], failed⟩
  · have lost := clockLost_eq locked
    have off := fun p => txEn_clockLess s p
    have frame := clockLess_frame s
    refine ⟨s.clockLess, fun none => ?_, fun some => ?_, ?_, ?_, ?_, off .hp, off .fl, fun p hp => ?_⟩
    · rw [lost, if_neg (by simpa using none)]
    · rw [lost, if_pos (by simpa using some)]
    · rw [frame]
    · rw [frame]
      rfl
    · rw [frame]
      rfl
    · have port := off (.sf (BitVec.ofNat 4 p))
      unfold State.txEn at port
      simp only [portBlk, BitVec.toNat_ofNat, Nat.mod_eq_of_lt (show p < 2 ^ 4 by omega)] at port
      exact port
  · rw [exec_clockLost, execClockLost, unlocked]
    rfl
  · refine ⟨_, ?_, rfl⟩
    rw [exec_rootPllRelock, execRootPllRelock, unlocked, waits]
    simp [unclaimed]
  · rw [exec_rootPllRelock, execRootPllRelock, locked]
    rfl
end

section
/-! Start-up (R548 to R553): each stage, and the seeds of the generators (R140, R141). -/

namespace Sys2Proof.Machine

/-! ### Each stage at its own event -/

theorem atStage_iff {s : State} {p : Nat} : s.atStage p = true ↔ s.boot.stage = some p ∧ s.boot.cause = 0 := by
  simp only [State.atStage, Bool.and_eq_true, beq_iff_eq]

theorem not_atStage {s : State} {p : Nat} (h : ¬ (s.boot.stage = some p ∧ s.boot.cause = 0)) : s.atStage p = false :=
  Bool.eq_false_iff.mpr (mt atStage_iff.mp h)

theorem mayStart_iff {b : Boot} : b.mayStart = true ↔ b.pwrEn = true ∧ (b.stage = none ∨ b.cause = 5) := by
  simp only [Boot.mayStart, Bool.and_eq_true, Bool.or_eq_true, Option.isNone_iff_eq_none, beq_iff_eq]

/-- POWER_GOOD of a module that may start is a cold start, which is counted (R548, R564). -/
theorem powerGood_starts {s : State} (h : s.boot.mayStart = true) : exec .powerGood s =
    .next { s.coldState with boot := { stage := some 1 }, store := { s.store with boots := s.store.boots + 1 } } := by
  rw [exec_powerGood, execPowerGood, h]
  rfl

theorem powerGood_waits {s : State} (h : s.boot.mayStart = false) : exec .powerGood s = .next s := by
  rw [exec_powerGood, execPowerGood, h]
  rfl

/-! ### The root of trust (R549) -/

/-- The registers name the active die and say whether both dies serve. -/
def State.chooseDie (s : State) (d0 d1 : Bool) : State := (s.setFld 0 0 0x80 5 5 (b2n !d0)).setFld 0 0 0x80 6 6 (b2n (d0 && d1))

theorem selftest_chooses {s : State} (h : s.atStage 2 = true) {d0 d1 : Bool} (hd : d0 = true ∨ d1 = true) :
    exec (.rootOfTrustSelftest d0 d1 true) s = .next { s.chooseDie d0 d1 with boot := { s.boot with stage := some 3 } } := by
  have alive : (!d0 && !d1) = false := by rcases hd with rfl | rfl <;> simp
  rw [exec_rootOfTrustSelftest, execRootOfTrustSelftest, h, alive]
  rfl

theorem chooseDie_spec (s : State) (d0 d1 : Bool) : OnlyCtl (s.chooseDie d0 d1) s ∧ OnlyWords s (s.chooseDie d0 d1) [ctlKey 0 0 0x80] ∧
    (s.chooseDie d0 d1).fld 0 0 0x80 5 5 = (if d0 then 0 else 1) ∧ (s.chooseDie d0 d1).fld 0 0 0x80 6 6 = (if d0 && d1 then 1 else 0) := by
  unfold State.chooseDie
  refine ⟨(setFld_onlyCtl _ _ _ _ _ _ _).trans (setFld_onlyCtl _ _ _ _ _ _ _),
    (setFld_onlyWords s _ _ _ _ _ _ (by decide)).trans (setFld_onlyWords _ _ _ _ _ _ _ (by decide)), ?_, ?_⟩
  · rw [fld_setFld_apart _ _ _ _ _ (by decide) (by decide) (by decide), fld_setFld_same _ _ _ _ _ (by decide) (by decide)]
    cases d0 <;> rfl
  · rw [fld_setFld_same _ _ _ _ _ (by decide) (by decide)]
    cases d0 && d1 <;> rfl

/-! ### Seeds (R140, R141) -/

/-- A list is no longer than one that holds its different elements, so a longer one has an element that the other has not. -/
theorem exists_mem_notMem {l used : List W64} (hl : l.Nodup) (h : used.length < l.length) : ∃ x ∈ l, x ∉ used := by
  by_contra all
  push Not at all
  have := (hl.subperm all).length_le
  omega

theorem newSeed_fresh {used : List W64} (h : used.length + 1 < 2 ^ 64) (n : Nat) : newSeed used n ∉ used ∧ newSeed used n ≠ 0 := by
  unfold newSeed
  dsimp only
  split
  · rename_i hv
    simp only [Bool.and_eq_true, Bool.not_eq_true', decide_eq_true_eq, List.contains_eq_mem, decide_eq_false_iff_not] at hv
    exact ⟨hv.2, hv.1⟩
  · have nodup : ((List.range (used.length + 1)).map (fun k => BitVec.ofNat 64 (k + 1))).Nodup := by
      refine List.Nodup.map_on (fun a ha b hb e => ?_) List.nodup_range
      rw [List.mem_range] at ha hb
      have := congrArg BitVec.toNat e
      simp only [BitVec.toNat_ofNat] at this
      omega
    obtain ⟨x, hx, hxu⟩ := exists_mem_notMem (used := used) nodup (by simp)
    have found : (((List.range (used.length + 1)).map (fun k => BitVec.ofNat 64 (k + 1))).find? (fun k => !used.contains k)).isSome = true := by
      rw [List.find?_isSome]
      exact ⟨x, hx, by simpa using hxu⟩
    obtain ⟨v, hv⟩ := Option.isSome_iff_exists.mp found
    rw [hv, Option.getD_some]
    refine ⟨by simpa using List.find?_some hv, fun h0 => ?_⟩
    obtain ⟨k, hk, e⟩ := List.mem_map.mp (List.mem_of_find?_eq_some hv)
    rw [List.mem_range] at hk
    have wraps : (k + 1) % 2 ^ 64 = 0 := by simpa using congrArg BitVec.toNat (e.trans h0)
    omega

theorem newSeeds_length (n k : Nat) : (newSeeds n k).length = k := by
  induction k with
  | zero => rfl
  | succ k ih => simp [newSeeds, ih]

/-- No seed is 0, and no two are equal. -/
theorem newSeeds_distinct (n : Nat) {k : Nat} (h : k < 2 ^ 64) : (newSeeds n k).Nodup ∧ 0 ∉ newSeeds n k := by
  induction k with
  | zero => exact ⟨List.nodup_nil, List.not_mem_nil⟩
  | succ k ih =>
    obtain ⟨nodup, nonzero⟩ := ih (by omega)
    obtain ⟨fresh, ne⟩ := newSeed_fresh (used := newSeeds n k) (by rw [newSeeds_length]; exact h) (n + k)
    exact ⟨List.nodup_cons.mpr ⟨fresh, nodup⟩, fun h0 => (List.mem_cons.mp h0).elim (fun e => ne e.symm) nonzero⟩

/-! ### Updates of many units, one after the other -/

/-- Each step changes what `get` reads at its own key by an update that does no more the second time, and at no other key. -/
theorem foldl_get {α : Type} {get : State → Nat → α} {step : State → Nat → State} {upd : Nat → α → α}
    (same : ∀ s k, get (step s k) k = upd k (get s k)) (other : ∀ s k n, n ≠ k → get (step s k) n = get s n)
    (twice : ∀ k a, upd k (upd k a) = upd k a) (l : List Nat) (s : State) (n : Nat) :
    get (l.foldl step s) n = if n ∈ l then upd n (get s n) else get s n := by
  induction l generalizing s with
  | nil => rfl
  | cons k l ih =>
    rw [List.foldl_cons, ih]
    by_cases hk : n = k
    · subst hk
      simp [same, twice]
    · simp [other _ _ _ hk, hk]

/-- A list by its elements in order. -/
theorem map_getD_range {α : Type} (l : List α) (d : α) : (List.range l.length).map (fun i => l.getD i d) = l := by
  apply List.ext_getElem
  · simp
  · intro i h _
    simp_all

/-! ### Bring-up (R548: P4) -/

/-- `t` is `s` but for registers, the units with generators, and the number of free values. -/
def UnitChange (t s : State) : Prop :=
  t = { s with ctl := t.ctl, engines := t.engines, cores := t.cores, hives := t.hives, freeCtr := t.freeCtr }

theorem UnitChange.refl (s : State) : UnitChange s s := rfl
theorem UnitChange.trans {a b c : State} (h : UnitChange a b) (k : UnitChange b c) : UnitChange a c := by
  unfold UnitChange at *
  rw [h, k]
theorem OnlyCtl.unitChange {t s : State} (h : OnlyCtl t s) : UnitChange t s := by
  unfold OnlyCtl UnitChange at *
  rw [h]
theorem foldl_unitChange {α : Type} {g : State → α → State} (h : ∀ s a, UnitChange (g s a) s) (l : List α) (s : State) :
    UnitChange (l.foldl g s) s := by
  induction l generalizing s with
  | nil => exact .refl s
  | cons a l ih => exact (ih (g s a)).trans (h s a)

/-- An engine, a core's vector unit and mover, and a hive with seeds of their generators. -/
def Engine.seeded (v : W64) (k : Engine) : Engine := { k with seed := v }
def Core.seeded (v w : W64) (k : Core) : Core := { k with vuSeed := v, mvSeed := w }
def Hive.seeded (v : W64) (k : Hive) : Hive := { k with seed := v }

section
variable (l : List W64) (s : State)

/-- Seed `e` of the list goes to engine `e`. -/
def State.seedEngines : State := (List.range 384).foldl (fun s e => s.updEng (e / 4) (e % 4) (Engine.seeded (l.getD e 1))) s
/-- The seeds behind the engines' go to the vector units, and those behind them to the movers. -/
def State.seedCores : State :=
  (List.range 96).foldl (fun s c => s.updCore c (Core.seeded (l.getD (384 + c) 1) (l.getD (480 + c) 1))) s
/-- The last seeds go to the hives. -/
def State.seedHives : State := (List.range 16).foldl (fun s h => s.updHive h (Hive.seeded (l.getD (576 + h) 1))) s

theorem seedEngines_unitChange : UnitChange (s.seedEngines l) s := by
  unfold State.seedEngines
  refine foldl_unitChange (fun s e => ?_) _ s
  rfl

theorem seedCores_unitChange : UnitChange (s.seedCores l) s := by
  unfold State.seedCores
  refine foldl_unitChange (fun s c => ?_) _ s
  rfl

theorem seedHives_unitChange : UnitChange (s.seedHives l) s := by
  unfold State.seedHives
  refine foldl_unitChange (fun s h => ?_) _ s
  rfl

theorem seedEngines_frame : s.seedEngines l = { s with engines := (s.seedEngines l).engines } := by
  unfold State.seedEngines
  induction List.range 384 generalizing s with
  | nil => rfl
  | cons e es ih => rw [List.foldl_cons, ih]; rfl

theorem seedCores_frame : s.seedCores l = { s with cores := (s.seedCores l).cores } := by
  unfold State.seedCores
  induction List.range 96 generalizing s with
  | nil => rfl
  | cons c cs ih => rw [List.foldl_cons, ih]; rfl

theorem seedHives_frame : s.seedHives l = { s with hives := (s.seedHives l).hives } := by
  unfold State.seedHives
  induction List.range 16 generalizing s with
  | nil => rfl
  | cons h hs ih => rw [List.foldl_cons, ih]; rfl

theorem updEng_get_same (e : Nat) (f : Engine → Engine) :
    Tbl.get {} (s.updEng (e / 4) (e % 4) f).engines e = f (Tbl.get {} s.engines e) := by
  have key : e / 4 * 4 + e % 4 = e := by omega
  unfold State.updEng State.setEng State.eng
  rw [key]
  exact Tbl.get_set_same _ _ _ _

theorem updEng_get_other {e n : Nat} (f : Engine → Engine) (h : n ≠ e) :
    Tbl.get {} (s.updEng (e / 4) (e % 4) f).engines n = Tbl.get {} s.engines n := State.updEng_get_ne _ _ _ _ (by omega)

theorem engine_seedEngines {n : Nat} (h : n < 384) :
    Tbl.get {} (s.seedEngines l).engines n = (Tbl.get {} s.engines n).seeded (l.getD n 1) := by
  have all := foldl_get (get := fun s n => Tbl.get ({} : Engine) s.engines n) (upd := fun e => Engine.seeded (l.getD e 1))
    (step := fun s e => s.updEng (e / 4) (e % 4) (Engine.seeded (l.getD e 1)))
    (fun s e => updEng_get_same s e _) (fun s e n h => updEng_get_other s _ h) (fun _ _ => rfl) (List.range 384) s n
  rwa [if_pos (List.mem_range.mpr h)] at all

theorem core_seedCores {n : Nat} (h : n < 96) : (s.seedCores l).core n = (s.core n).seeded (l.getD (384 + n) 1) (l.getD (480 + n) 1) := by
  have all := foldl_get (get := State.core) (upd := fun c => Core.seeded (l.getD (384 + c) 1) (l.getD (480 + c) 1))
    (step := fun s c => s.updCore c (Core.seeded (l.getD (384 + c) 1) (l.getD (480 + c) 1)))
    (fun s c => State.updCore_core_same s c _) (fun s c n h => State.updCore_core_ne s c _ h) (fun _ _ => rfl) (List.range 96) s n
  rwa [if_pos (List.mem_range.mpr h)] at all

theorem hive_seedHives {n : Nat} (h : n < 16) : (s.seedHives l).hive n = (s.hive n).seeded (l.getD (576 + n) 1) := by
  have all := foldl_get (get := State.hive) (upd := fun h => Hive.seeded (l.getD (576 + h) 1))
    (step := fun s h => s.updHive h (Hive.seeded (l.getD (576 + h) 1)))
    (fun s h => State.updHive_hive_same s h _) (fun s h n hn => State.updHive_hive_ne s h _ hn) (fun _ _ => rfl) (List.range 16) s n
  rwa [if_pos (List.mem_range.mpr h)] at all

end

theorem seedAll_eq (s : State) : s.seedAll =
    ((({ s with freeCtr := s.freeCtr + 592 } : State).seedEngines (newSeeds s.freeCtr 592)).seedCores (newSeeds s.freeCtr 592)).seedHives
      (newSeeds s.freeCtr 592) := rfl

theorem seedAll_unitChange (s : State) : UnitChange s.seedAll s := by
  have counted : UnitChange { s with freeCtr := s.freeCtr + 592 } s := rfl
  rw [seedAll_eq]
  exact (seedHives_unitChange _ _).trans ((seedCores_unitChange _ _).trans ((seedEngines_unitChange _ _).trans counted))

theorem seedAll_ctl (s : State) : s.seedAll.ctl = s.ctl := by
  rw [seedAll_eq, seedHives_frame, seedCores_frame, seedEngines_frame]

theorem seedAll_engines (s : State) :
    s.seedAll.engines = (({ s with freeCtr := s.freeCtr + 592 } : State).seedEngines (newSeeds s.freeCtr 592)).engines := by
  rw [seedAll_eq, seedHives_frame, seedCores_frame]

theorem seedAll_cores (s : State) : s.seedAll.cores =
    ((({ s with freeCtr := s.freeCtr + 592 } : State).seedEngines (newSeeds s.freeCtr 592)).seedCores (newSeeds s.freeCtr 592)).cores := by
  rw [seedAll_eq, seedHives_frame]

theorem core_congr {s t : State} (h : t.cores = s.cores) (c : Nat) : t.core c = s.core c := by
  unfold State.core
  rw [h]

/-- A list of 592 as the parts that go to the engines, the vector units, the movers and the hives. -/
theorem seedParts (l : List W64) (h : l.length = 592) : (List.range 384).map (fun e => l.getD e 1) ++
    (List.range 96).map (fun c => l.getD (384 + c) 1) ++ (List.range 96).map (fun c => l.getD (480 + c) 1) ++
    (List.range 16).map (fun k => l.getD (576 + k) 1) = l := by
  have split : List.range 592 = List.range 384 ++ (List.range 96).map (fun c => 384 + c) ++ (List.range 96).map (fun c => 480 + c) ++
      (List.range 16).map (fun k => 576 + k) := by
    rw [← List.range_add, ← List.range_add, ← List.range_add]
  conv_rhs => rw [← map_getD_range l 1, h, split]
  simp only [List.map_append, List.map_map, Function.comp_def]

/-- The generators hold the new seeds, in order. -/
theorem seedsOf_seedAll (s : State) : seedsOf s.seedAll = newSeeds s.freeCtr 592 := by
  have engines : ∀ e ∈ List.range 384, (Tbl.get {} s.seedAll.engines e).seed = (newSeeds s.freeCtr 592).getD e 1 := fun e he => by
    rw [seedAll_engines, engine_seedEngines _ _ (List.mem_range.mp he)]
    rfl
  have cores : ∀ c < 96, ∃ k : Core,
      s.seedAll.core c = k.seeded ((newSeeds s.freeCtr 592).getD (384 + c) 1) ((newSeeds s.freeCtr 592).getD (480 + c) 1) := fun c hc => by
    rw [core_congr (seedAll_cores s), core_seedCores _ _ hc]
    exact ⟨_, rfl⟩
  have hives : ∀ h ∈ List.range 16, (s.seedAll.hive h).seed = (newSeeds s.freeCtr 592).getD (576 + h) 1 := fun h hh => by
    rw [seedAll_eq, hive_seedHives _ _ (List.mem_range.mp hh)]
    rfl
  have vector : ∀ c ∈ List.range 96, (s.seedAll.core c).vuSeed = (newSeeds s.freeCtr 592).getD (384 + c) 1 := fun c hc => by
    obtain ⟨k, hk⟩ := cores c (List.mem_range.mp hc)
    rw [hk]
    rfl
  have movers : ∀ c ∈ List.range 96, (s.seedAll.core c).mvSeed = (newSeeds s.freeCtr 592).getD (480 + c) 1 := fun c hc => by
    obtain ⟨k, hk⟩ := cores c (List.mem_range.mp hc)
    rw [hk]
    rfl
  unfold seedsOf
  rw [List.map_congr_left engines, List.map_congr_left vector, List.map_congr_left movers, List.map_congr_left hives]
  exact seedParts _ (newSeeds_length _ _)

/-! ### Spare maps and retired engines (R176, R510) -/

/-- The spare map of each reported engine is written. -/
def State.spareMaps (s : State) (es : List EngineReport) : State :=
  es.foldl (fun s r => if r.eng < 384 then s.setWord 0x11 r.eng 0x18 (BitVec.ofNat 32 (bitsOf r.spare.toNat 17 0)) else s) s

theorem spareMaps_onlyCtl (s : State) (es : List EngineReport) : OnlyCtl (s.spareMaps es) s := by
  unfold State.spareMaps
  refine foldl_onlyCtl (fun s r => ?_) es s
  split
  · exact setWord_onlyCtl _ _ _ _ _
  · exact .refl s

/-- The engines of a list are absent. -/
def State.absentEngines (s : State) (l : List Nat) : State := l.foldl (fun s e => s.absentEngine e) s

/-- The registers that no longer list engine `e`. -/
def State.unlistEngine (s : State) (e : Nat) : State :=
  let s := s.setFld 0 0 (0x140 + 4 * (e / 4 / 8)) (4 * (e / 4 % 8) + e % 4) (4 * (e / 4 % 8) + e % 4) 0
  s.setWord 0 0 0x10C (s.word 0 0 0x10C - 1)

def Engine.retiredForGood (k : Engine) : Engine := { k with permanent := true }

theorem absentEngine_eq (s : State) (e : Nat) : s.absentEngine e = (s.unlistEngine e).updEng (e / 4) (e % 4) Engine.retiredForGood := rfl

theorem unlistEngine_onlyCtl (s : State) (e : Nat) : OnlyCtl (s.unlistEngine e) s :=
  (setWord_onlyCtl _ _ _ _ _).trans (setFld_onlyCtl _ _ _ _ _ _ _)

theorem absentEngine_frame (s : State) (e : Nat) : s.absentEngine e =
    { s with ctl := (s.absentEngine e).ctl, engines := (s.absentEngine e).engines } := by
  have only := unlistEngine_onlyCtl s e
  rw [absentEngine_eq]
  generalize s.unlistEngine e = u at *
  rw [only]
  rfl

theorem absentEngines_frame (s : State) (l : List Nat) : s.absentEngines l =
    { s with ctl := (s.absentEngines l).ctl, engines := (s.absentEngines l).engines } := by
  unfold State.absentEngines
  induction l generalizing s with
  | nil => rfl
  | cons e l ih => rw [List.foldl_cons, ih, absentEngine_frame]

theorem engine_absentEngines (s : State) (l : List Nat) (n : Nat) : Tbl.get {} (s.absentEngines l).engines n =
    if n ∈ l then (Tbl.get {} s.engines n).retiredForGood else Tbl.get {} s.engines n := by
  have listed : ∀ s e, (State.unlistEngine s e).engines = s.engines := fun s e => by rw [unlistEngine_onlyCtl s e]
  refine foldl_get (get := fun s n => Tbl.get ({} : Engine) s.engines n) (upd := fun _ => Engine.retiredForGood) (step := State.absentEngine)
    (fun s e => ?_) (fun s e n h => ?_) (fun _ _ => rfl) l s n
  · rw [absentEngine_eq, updEng_get_same, listed]
  · rw [absentEngine_eq, updEng_get_other _ _ h, listed]

theorem OnlyCtl.seedsOf {t s : State} (h : OnlyCtl t s) : seedsOf t = seedsOf s := by
  have engines : t.engines = s.engines := by rw [h]
  have cores : t.cores = s.cores := by rw [h]
  have hives : t.hives = s.hives := by rw [h]
  unfold Machine.seedsOf State.core State.hive
  rw [engines, cores, hives]

theorem seedsOf_absentEngines (s : State) (l : List Nat) : seedsOf (s.absentEngines l) = seedsOf s := by
  have engines : ∀ e, (Tbl.get {} (s.absentEngines l).engines e).seed = (Tbl.get {} s.engines e).seed := fun e => by
    rw [engine_absentEngines]
    split <;> rfl
  have frame := absentEngines_frame s l
  have cores : (s.absentEngines l).cores = s.cores := by rw [frame]
  have hives : (s.absentEngines l).hives = s.hives := by rw [frame]
  unfold seedsOf State.core State.hive
  simp only [engines, cores, hives]

/-- The engines that the counted setting ENGINE_RETIRE names (R510, R566). -/
def Store.retired (b : Store) : List Nat := (List.range 384).filter (fun e => bitAt b.retire.toNat e)

/-- The units after package bring-up. -/
def State.broughtUp (s : State) (es : List EngineReport) : State := (s.seedAll.spareMaps es).absentEngines s.store.retired

theorem broughtUp_unitChange (s : State) (es : List EngineReport) : UnitChange (s.broughtUp es) s := by
  have absent : UnitChange (s.broughtUp es) (s.seedAll.spareMaps es) := by
    unfold State.broughtUp
    rw [absentEngines_frame]
    rfl
  exact absent.trans ((spareMaps_onlyCtl _ es).unitChange.trans (seedAll_unitChange s))

theorem packageBringup_eq {s : State} (h : s.atStage 4 = true) (es : List EngineReport) :
    exec (.packageBringup es) s = .next { s.broughtUp es with boot := { s.boot with stage := some 5 } } := by
  have before : UnitChange (s.seedAll.spareMaps es) s := (spareMaps_onlyCtl _ es).unitChange.trans (seedAll_unitChange s)
  have store : (s.seedAll.spareMaps es).store = s.store := by rw [before]
  have boot : (s.broughtUp es).boot = s.boot := by rw [broughtUp_unitChange s es]
  rw [exec_packageBringup, execPackageBringup, h, ← boot, State.broughtUp, ← store]
  rfl

theorem mem_retired {b : Store} {e : Nat} : e ∈ b.retired ↔ e < 384 ∧ bitAt b.retire.toNat e = true := by
  rw [Store.retired, List.mem_filter, List.mem_range]

theorem seedsOf_broughtUp (s : State) (es : List EngineReport) : seedsOf (s.broughtUp es) = newSeeds s.freeCtr 592 := by
  rw [State.broughtUp, seedsOf_absentEngines, (spareMaps_onlyCtl s.seedAll es).seedsOf, seedsOf_seedAll]

/-- An engine is retired for good when it was, or when the store says so (R510). -/
theorem permanent_broughtUp (s : State) (es : List EngineReport) {e : Nat} (he : e < 384) :
    (Tbl.get {} (s.broughtUp es).engines e).permanent = ((Tbl.get {} s.engines e).permanent || bitAt s.store.retire.toNat e) := by
  have mapped : (s.seedAll.spareMaps es).engines = s.seedAll.engines := by rw [spareMaps_onlyCtl s.seedAll es]
  have seeded : (Tbl.get {} s.seedAll.engines e).permanent = (Tbl.get {} s.engines e).permanent := by
    rw [seedAll_engines, engine_seedEngines _ _ he]
    rfl
  rw [State.broughtUp, engine_absentEngines, mapped]
  by_cases hb : bitAt s.store.retire.toNat e = true
  · rw [if_pos (mem_retired.mpr ⟨he, hb⟩), hb, Bool.or_true]
    rfl
  · rw [if_neg (fun m => hb (mem_retired.mp m).2), seeded, Bool.eq_false_iff.mpr hb, Bool.or_false]

theorem retired_none {b : Store} (h : b.retire = 0) : b.retired = [] := by
  have zero : b.retire.toNat = 0 := by
    rw [h]
    exact BitVec.toNat_zero
  rw [Store.retired, zero, List.filter_eq_nil_iff]
  simp [bitAt]

theorem spareMaps_nil (s : State) : s.spareMaps [] = s := rfl
theorem absentEngines_nil (s : State) : s.absentEngines [] = s := rfl

/-- With no engine retired and none reported, bring-up writes no register. -/
theorem broughtUp_ctl {s : State} (h : s.store.retire = 0) : (s.broughtUp []).ctl = s.ctl := by
  rw [State.broughtUp, retired_none h, spareMaps_nil, absentEngines_nil, seedAll_ctl]

/-! ### The host port (R550) -/

/-- HP is RUNNING, its transmitter on unless every one is squelched. -/
def State.hpUp (s : State) : State := (s.setFnState .hp fnRUNNING).enableTx .hp

theorem enableTx_onlyCtl (s : State) (p : Port) : OnlyCtl (s.enableTx p) s := by
  unfold State.enableTx
  split
  · exact .refl s
  · exact setTx_onlyCtl s p true

theorem hpUp_onlyCtl (s : State) : OnlyCtl s.hpUp s := (enableTx_onlyCtl _ .hp).trans (setFnState_onlyCtl s .hp _)

theorem fnState_hpUp (s : State) : s.hpUp.fnState .hp = 2 := by
  have link : OnlyWords (s.setFnState .hp fnRUNNING) s.hpUp [ctlKey 0x21 0 0x24] := by
    unfold State.hpUp State.enableTx
    split
    · exact .refl _ _
    · rw [setTx_eq]
      exact setFld_onlyWords _ _ _ _ _ _ _ List.mem_cons_self
  exact (fnState_congr link (by decide)).trans (fnState_setFnState_same s .hp (by decide))

theorem txEn_hpUp {s : State} (h : s.boot.squelch = false) : s.hpUp.txEn .hp = 1 := by
  have on : s.hpUp = (s.setFnState .hp fnRUNNING).setTx .hp true := if_neg (by simp [h])
  rw [on]
  exact txEn_setTx_same _ _ _

theorem hostPortStart_eq {s : State} (h : s.atStage 5 = true) : exec .hostPortStart s =
    .next { s.hpUp with boot := { s.boot with stage := some 6 }, hp := { s.hp with macOverride := s.store.hostMac } } := by
  have only := hpUp_onlyCtl s
  have boot : s.hpUp.boot = s.boot := by rw [only]
  have hp : s.hpUp.hp = s.hp := by rw [only]
  have store : s.hpUp.store = s.store := by rw [only]
  rw [exec_hostPortStart, execHostPortStart, h, ← boot, ← hp, ← store]
  rfl

/-! ### Firmware (R549, R553) -/

/-- Slot `i` holds an image that verifies. -/
def State.verifies (s : State) (i : Nat) : Prop := imgResult (s.store.slot i) s.store.floor.toNat = 1

section
variable {s : State} (h : s.atStage 3 = true)
include h

/-- The preferred image verifies, and the other is not tried. -/
theorem firmwareVerify_preferred (good : s.verifies s.store.preferred) : ∃ t, exec .firmwareVerify s = .next t ∧ t = { s with boot := t.boot } ∧
    t.boot.stage = some 4 ∧ t.boot.slotRun = s.store.preferred ∧ t.boot.fallback = false ∧ t.boot.image = s.store.slot s.store.preferred := by
  unfold State.verifies at good
  rw [exec_firmwareVerify, execFirmwareVerify]
  simp only [h, good]
  exact ⟨_, rfl, rfl, rfl, rfl, rfl, rfl⟩

/-- The other image runs when it alone verifies. -/
theorem firmwareVerify_other (bad : ¬ s.verifies s.store.preferred) (good : s.verifies (1 - s.store.preferred)) :
    ∃ t, exec .firmwareVerify s = .next t ∧ t = { s with boot := t.boot } ∧ t.boot.stage = some 4 ∧
      t.boot.slotRun = 1 - s.store.preferred ∧ t.boot.fallback = true ∧ t.boot.image = s.store.slot (1 - s.store.preferred) := by
  unfold State.verifies at bad good
  rw [exec_firmwareVerify, execFirmwareVerify]
  simp only [h, bad, good]
  exact ⟨_, rfl, rfl, rfl, rfl, rfl, rfl⟩

/-- No image verifies, and the module stops. -/
theorem firmwareVerify_stops (bad : ¬ s.verifies s.store.preferred) (worse : ¬ s.verifies (1 - s.store.preferred)) :
    ∃ t, exec .firmwareVerify s = .next t ∧ t = { s with boot := t.boot } ∧ t.boot.cause = 3 ∧ t.boot.stage = s.boot.stage := by
  unfold State.verifies at bad worse
  rw [exec_firmwareVerify, execFirmwareVerify]
  simp only [h, bad, worse, if_false]
  exact ⟨_, rfl, rfl, rfl, rfl⟩

end

end Sys2Proof.Machine

open Sys2Proof Sys2Proof.Machine

/-- Settles O49, stage by stage: each event acts at its own stage and at no other; bring-up's seeds are fresh one after the other, so that none is
0 or another's. -/
theorem startupStages : Obligations.StartupStages := by
  unfold Obligations.StartupStages
  intro s stage
  have at_ : ∀ {p}, stage p → s.atStage p = true := fun h => atStage_iff.mpr h
  have off : ∀ {p}, ¬ stage p → s.atStage p = false := fun h => not_atStage h
  refine ⟨fun on may => ?_, fun not => ?_, fun h => ?_, fun h => ?_, fun d0 d1 e h => ⟨?_, ?_, ?_⟩, fun d0 d1 e h => ?_, ?_, fun h => ?_,
    fun es h => ?_, fun es h => ?_, fun h => ?_, fun h => ?_⟩
  · refine ⟨_, powerGood_starts (mayStart_iff.mpr ⟨on, may⟩), ?_, rfl, rfl, rfl, rfl, rfl, rfl, rfl, rfl⟩
    exact ⟨rfl, rfl, rfl, rfl, rfl, rfl, rfl, rfl, rfl, rfl, rfl⟩
  · refine powerGood_waits (Bool.eq_false_iff.mpr fun may => ?_)
    obtain ⟨on, may⟩ := mayStart_iff.mp may
    rcases not with not | ⟨started, served⟩
    · simp [not] at on
    · exact may.elim started served
  · refine ⟨_, ?_, rfl⟩
    rw [exec_rootPllLock, execRootPllLock, at_ h]
    rfl
  · rw [exec_rootPllLock, execRootPllLock, off h]
    rfl
  · rintro rfl rfl
    rw [exec_rootOfTrustSelftest, execRootOfTrustSelftest, at_ h]
    rfl
  · rintro hd rfl
    have alive : (!d0 && !d1) = false := by rcases hd with rfl | rfl <;> simp
    rw [exec_rootOfTrustSelftest, execRootOfTrustSelftest, at_ h, alive]
    rfl
  · rintro hd rfl
    obtain ⟨only, words, active, both⟩ := chooseDie_spec s d0 d1
    refine ⟨_, selftest_chooses (at_ h) hd, ?_, (fld_ctl (s.chooseDie d0 d1) _ rfl ..).trans active,
      (fld_ctl (s.chooseDie d0 d1) _ rfl ..).trans both, words⟩
    generalize s.chooseDie d0 d1 = u at *
    rw [only]
  · rw [exec_rootOfTrustSelftest, execRootOfTrustSelftest, off h]
    rfl
  · intro p q good h
    refine ⟨fun hp => firmwareVerify_preferred (at_ h) hp, fun hp hq => firmwareVerify_other (at_ h) hp hq, fun hp hq => ?_⟩
    obtain ⟨t, ht, frame, cause, stays⟩ := firmwareVerify_stops (at_ h) hp hq
    exact ⟨t, ht, frame, cause, stays.trans h.1⟩
  · rw [exec_firmwareVerify, execFirmwareVerify, off h]
    rfl
  · have change := broughtUp_unitChange s es
    have seeds := seedsOf_broughtUp s es
    obtain ⟨nodup, nonzero⟩ := newSeeds_distinct s.freeCtr (k := 592) (by decide)
    rw [← seeds] at nodup nonzero
    refine ⟨_, packageBringup_eq (at_ h) es, ?_, rfl, nodup, nonzero, fun e he => permanent_broughtUp s es he, fun none empty => ?_⟩
    · generalize s.broughtUp es = u at *
      rw [change]
    · subst empty
      exact broughtUp_ctl none
  · rw [exec_packageBringup, execPackageBringup, off h]
    rfl
  · refine ⟨_, hostPortStart_eq (at_ h), ?_, rfl, (fnState_ctl (s := s.hpUp) rfl .hp).trans (fnState_hpUp s),
      fun open_ => (fld_ctl s.hpUp _ rfl ..).trans (txEn_hpUp open_)⟩
    have only := hpUp_onlyCtl s
    generalize s.hpUp = u at *
    rw [only]
  · rw [exec_hostPortStart, execHostPortStart, off h]
    rfl
end

section
/-! An event to the host leaves the far link as it is (R317, R319): the link's state, its frames and its registers below FG_FL_NO_GATEWAY, memory
and the contexts. -/

namespace Sys2Proof.Machine

/-- A register that is none of the link's below FG_FL_NO_GATEWAY. -/
def OutsideLink (k : Nat) : Prop := k < ctlKey 0x25 0 0 ∨ ctlKey 0x25 0 0x2E0 ≤ k

/-- The far link, memory and the contexts are those of `s`. -/
def LinkKept (t s : State) : Prop :=
  t.mem = s.mem ∧ t.ctxs = s.ctxs ∧ t.fl = s.fl ∧ t.flOut = s.flOut ∧ ∀ o < 0x2E0, t.word 0x25 0 o = s.word 0x25 0 o

theorem LinkKept.refl (s : State) : LinkKept s s := ⟨rfl, rfl, rfl, rfl, fun _ _ => rfl⟩

theorem LinkKept.trans {a b c : State} (h : LinkKept a b) (k : LinkKept b c) : LinkKept a c := by
  obtain ⟨h1, h2, h3, h4, h5⟩ := h
  obtain ⟨k1, k2, k3, k4, k5⟩ := k
  exact ⟨h1.trans k1, h2.trans k2, h3.trans k3, h4.trans k4, fun o ho => (h5 o ho).trans (k5 o ho)⟩

theorem foldl_linkKept {α : Type} {g : State → α → State} (h : ∀ s a, LinkKept (g s a) s) (l : List α) (s : State) :
    LinkKept (l.foldl g s) s := by
  induction l generalizing s with
  | nil => exact .refl s
  | cons a l ih => exact (ih _).trans (h s a)

theorem ne_of_outsideLink {k o : Nat} (h : OutsideLink k) (ho : o < 0x2E0) : ctlKey 0x25 0 o ≠ k := by
  unfold OutsideLink ctlKey at *
  omega

/-- Writes of registers outside the link's. -/
theorem OnlyCtl.linkKept {s t : State} {ks : List Nat} (h : OnlyCtl t s) (words : OnlyWords s t ks) (outside : ∀ k ∈ ks, OutsideLink k) :
    LinkKept t s :=
  ⟨by rw [h], by rw [h], by rw [h], by rw [h], fun o ho => words 0x25 0 o (fun hk => ne_of_outsideLink (outside _ hk) ho rfl)⟩

theorem count32_linkKept (s : State) {b i o : Nat} (n : Nat) (h : OutsideLink (ctlKey b i o)) : LinkKept (s.count32 b i o n) s :=
  (count32_onlyCtl s b i o n).linkKept (count32_onlyWords s b i o n (ks := [ctlKey b i o]) List.mem_cons_self) (by simpa using h)

theorem count64_linkKept (s : State) {b i o : Nat} (n : Nat) (h : OutsideLink (ctlKey b i o)) (h' : OutsideLink (ctlKey b i (o + 4))) :
    LinkKept (s.count64 b i o n) s :=
  (count64_onlyCtl s b i o n).linkKept (count64_onlyWords s b i o n (ks := [ctlKey b i o, ctlKey b i (o + 4)]) (by simp) (by simp))
    (by simp [h, h'])

theorem setFlag_linkKept (s : State) {b i o n : Nat} (h : OutsideLink (ctlKey b i o)) (h' : OutsideLink (ctlKey b i (o + 0x100 + 4 * n))) :
    LinkKept (s.setFlag b i o n) s :=
  (setFlag_onlyCtl s b i o n).linkKept
    (setFlag_onlyWords s b i o n (ks := [ctlKey b i o, ctlKey b i (o + 0x100 + 4 * n)]) (by simp) (by simp)) (by simp [h, h'])

theorem setFlagIf_linkKept (s : State) (c : Bool) {b i o n : Nat} (h : OutsideLink (ctlKey b i o))
    (h' : OutsideLink (ctlKey b i (o + 0x100 + 4 * n))) : LinkKept (s.setFlagIf c b i o n) s := by
  unfold State.setFlagIf
  split
  · exact setFlag_linkKept s h h'
  · exact .refl s

/-- The registers of an SF port lie outside the link's. -/
theorem outsideLink_port {p o : Nat} (hp : p < 16) (ho : o < 65536) : OutsideLink (ctlKey 0x22 p o) := by
  unfold OutsideLink ctlKey
  omega

/-! ### Reads that meet errors (R271, R290) -/

theorem ueEvent_onlyCtl (s : State) (g cause : Nat) : OnlyCtl (s.ueEvent g cause) s := by
  unfold State.ueEvent
  split
  · exact (setWord_onlyCtl _ _ _ _ _).trans ((setWord64_onlyCtl _ _ _ _ _).trans ((setFlag_onlyCtl _ _ _ _ _).trans (count64_onlyCtl _ _ _ _ _)))
  · exact (setFlag_onlyCtl _ _ _ _ _).trans (count64_onlyCtl _ _ _ _ _)

theorem outsideLink_errorKeys : ∀ k ∈ errorKeys, OutsideLink k := by
  unfold OutsideLink
  decide

theorem correct_linkKept (s : State) (ws : List Nat) : LinkKept (s.correct ws) s := by
  unfold State.correct
  split
  · exact .refl s
  · have counted : LinkKept ((s.count64 0x20 0 0x58 ws.length).setFlagN ws.length 0x20 0 0x18 3) s :=
      ((setFlagN_onlyCtl _ _ _ _ _ _).trans (count64_onlyCtl _ _ _ _ _)).linkKept
        ((count64_onlyWords s _ _ _ _ (by decide) (by decide)).trans (setFlagN_onlyWords _ _ _ _ _ _ (by decide) (by decide)))
        outsideLink_errorKeys
    exact LinkKept.trans ⟨rfl, rfl, rfl, rfl, fun _ _ => rfl⟩ counted

theorem noteUe_linkKept (s : State) (a n : Nat) : LinkKept (s.noteUe a n) s := by
  unfold State.noteUe
  refine (correct_linkKept _ _).trans (foldl_linkKept (fun s g => ?_) _ s)
  exact (ueEvent_onlyCtl s g 0).linkKept (ueEvent_onlyWords s g 0) outsideLink_errorKeys

/-! ### Messages to a relay (R319, R333, R464) -/

theorem emit_linkKept (s : State) {p : Nat} (hp : p < 16) (f : SfFrame) : LinkKept (s.emit p f) s := by
  unfold State.emit
  split
  · exact .refl s
  · split
    · exact ⟨rfl, rfl, rfl, rfl, fun _ _ => rfl⟩
    · exact LinkKept.trans ⟨rfl, rfl, rfl, rfl, fun _ _ => rfl⟩
        (count64_linkKept s 1 (outsideLink_port hp (by decide)) (outsideLink_port hp (by decide)))

theorem noteRoute_linkKept (s : State) (p d : Nat) : LinkKept (s.noteRoute p d) s := by
  unfold State.noteRoute
  split
  · exact noteUe_linkKept s _ _
  · exact .refl s

theorem numbered_linkKept (s : State) (p : Nat) (far : Bool) (b : Block) : LinkKept (s.numbered p far b).1 s := by
  unfold State.numbered
  split
  · exact .refl s
  · dsimp only
    split
    · exact ⟨rfl, rfl, rfl, rfl, fun _ _ => rfl⟩
    · exact ⟨rfl, rfl, rfl, rfl, fun _ _ => rfl⟩

theorem sendMsg_relay_linkKept (s : State) {p : Nat} (hp : p < 16) (dst : BitVec 14) (unit : BitVec 4) (index : BitVec 12) (b : Block)
    (far : Option (Byte × BitVec 14)) (tried : Nat) : LinkKept (s.sendMsg p dst unit index b .relay far tried) s := by
  unfold State.sendMsg State.offerMsg
  split
  · exact .refl s
  · dsimp only
    split
    · exact (setFlag_linkKept _ (outsideLink_port hp (by decide)) (outsideLink_port hp (by decide))).trans
        ((count64_linkKept _ 1 (outsideLink_port hp (by decide)) (outsideLink_port hp (by decide))).trans (noteRoute_linkKept s p _))
    · have offered : ∀ (t : State) (g : SfPort → SfPort), LinkKept (t.updPort p g) t := fun _ _ => ⟨rfl, rfl, rfl, rfl, fun _ _ => rfl⟩
      exact (emit_linkKept _ hp _).trans ((offered _ _).trans ((numbered_linkKept _ _ _ _).trans (noteRoute_linkKept s p _)))

theorem sendFar_relay_linkKept (s : State) {p : Nat} (hp : p < 16) (site : Nat) (b : Block) (tried : Nat) :
    LinkKept (s.sendFar p site b .relay tried) s := by
  have counted : ∀ (t : State) (n : Nat), LinkKept ((t.count64 0x22 p 0xA8 n).setFlagIf (n != 0) 0x22 p 0x1C 3) t := fun t n =>
    (setFlagIf_linkKept _ _ (outsideLink_port hp (by decide)) (outsideLink_port hp (by decide))).trans
      (count64_linkKept t n (outsideLink_port hp (by decide)) (outsideLink_port hp (by decide)))
  have noted : LinkKept (s.noteUe (s.gatewayAddr site) 32) s := noteUe_linkKept s _ _
  have forward : ∀ (t : State) (l : List Block), LinkKept { t with selfFar := l } t := fun _ _ => ⟨rfl, rfl, rfl, rfl, fun _ _ => rfl⟩
  unfold State.sendFar
  dsimp only
  split
  · exact (count64_linkKept _ 1 (by unfold OutsideLink; decide) (by unfold OutsideLink; decide)).trans ((counted _ _).trans noted)
  · split
    · exact (forward _ _).trans ((counted _ _).trans ((numbered_linkKept _ _ _ _).trans noted))
    · exact (sendMsg_relay_linkKept _ hp _ _ _ _ _ _).trans ((counted _ _).trans ((numbered_linkKept _ _ _ _).trans noted))

theorem sendBlock_relay_linkKept (s : State) {plane : Nat} (hp : plane < 16) (site : Nat) (dst : BitVec 14) (unit : BitVec 4)
    (index : BitVec 12) (b : Block) : LinkKept (s.sendBlock plane site dst unit index b .relay) s := by
  unfold State.sendBlock
  split
  · refine foldl_linkKept (fun t m => ?_) _ s
    exact sendMsg_relay_linkKept t hp _ _ _ _ _ _
  · refine foldl_linkKept (fun t m => ?_) _ s
    exact sendFar_relay_linkKept t (Nat.mod_lt _ (by decide)) _ _ _

/-! ### Events (R317, R320) -/

theorem hpSend_linkKept (s : State) (dst : HostSrc) (m : HostMsg) : LinkKept (s.hpSend dst m) s := by
  unfold State.hpSend
  split
  · split
    · exact .refl s
    · exact ⟨rfl, rfl, rfl, rfl, fun _ _ => rfl⟩
  · exact sendBlock_relay_linkKept s (by decide) _ _ _ _ _

theorem setHp_linkKept (s : State) (h : HostPort) : LinkKept { s with hp := h } s := ⟨rfl, rfl, rfl, rfl, fun _ _ => rfl⟩

theorem pushEvent_linkKept (s : State) (dst : HostSrc) (l : List Byte) : LinkKept (s.pushEvent dst l) s := by
  unfold State.pushEvent
  exact (hpSend_linkKept _ _ _).trans (setHp_linkKept s _)

theorem reportLost_linkKept (s : State) (dst : HostSrc) : LinkKept (s.reportLost dst) s := by
  unfold State.reportLost
  split
  · exact .refl s
  · exact (pushEvent_linkKept _ _ _).trans (setHp_linkKept s _)

theorem loseEvent_linkKept (s : State) : LinkKept s.loseEvent s := by
  unfold State.loseEvent
  exact (setFlag_linkKept _ (by unfold OutsideLink; decide) (by unfold OutsideLink; decide)).trans
    ((count64_linkKept _ 1 (by unfold OutsideLink; decide) (by unfold OutsideLink; decide)).trans (setHp_linkKept s _))

theorem queueEvent_linkKept (s : State) (l : List Byte) : LinkKept (s.queueEvent l) s := by
  unfold State.queueEvent
  split
  · exact .refl s
  · dsimp only
    split
    · exact (loseEvent_linkKept _).trans (reportLost_linkKept s _)
    · exact (pushEvent_linkKept _ _ _).trans (reportLost_linkKept s _)

theorem lateEvent_linkKept (s : State) (cls ovr src : Nat) : LinkKept (s.lateEvent cls ovr src) s :=
  (queueEvent_linkKept _ _).trans (count32_linkKept s 1 (by unfold OutsideLink; decide))

end Sys2Proof.Machine
end

section
/-! Frames of the far link (R481, R485): which one is next, its admission, and how it leaves sealed and numbered. -/

namespace Sys2Proof.Machine

/-! ### The order of the classes (R40, R481) -/

/-- The next frame is one of the queue, and none of it is of a lower class. -/
theorem firstOf_least {l : List FlFrame} {f : FlFrame} (h : firstOf l = some f) : f ∈ l ∧ ∀ g ∈ l, f.cls ≤ g.cls := by
  induction l generalizing f with
  | nil => cases h
  | cons a l ih =>
    unfold firstOf at h
    cases hr : firstOf l with
    | none =>
      rw [hr] at h
      obtain rfl : a = f := Option.some.inj h
      have empty : l = [] := by
        cases l with
        | nil => rfl
        | cons b l =>
          unfold firstOf at hr
          split at hr
          · cases hr
          · split at hr <;> cases hr
      subst empty
      simp
    | some g =>
      obtain ⟨hg, least⟩ := ih hr
      rw [hr] at h
      dsimp only at h
      split at h
      · rename_i lower
        obtain rfl : g = f := Option.some.inj h
        exact ⟨List.mem_cons_of_mem _ hg, fun x hx => (List.mem_cons.mp hx).elim (fun e => by rw [e]; omega) (least x)⟩
      · rename_i notLower
        obtain rfl : a = f := Option.some.inj h
        refine ⟨List.mem_cons_self, fun x hx => (List.mem_cons.mp hx).elim (fun e => by rw [e]) (fun hx => ?_)⟩
        have := least x hx
        omega

/-! ### Admission (R481) -/

theorem flEgressAdmit_waits {s : State} (h : s.flServes = false) : exec .flEgressAdmit s = .next s := by
  rw [exec_flEgressAdmit, execFlEgressAdmit, h]
  rfl

/-- What the own forager has sent this way is stored first, while FL takes new work. -/
def State.storedOwn (s : State) : State := if s.flUp then s.takeSelfFar s.selfFar.length else s

theorem storedOwn_none {s : State} (h : s.selfFar = [] ∨ s.fnRunning .fl = false) : s.storedOwn = s := by
  unfold State.storedOwn State.flUp
  rcases h with h | h
  · rw [h]
    split <;> rfl
  · rw [h]
    rfl

theorem flEgressAdmit_eq {s : State} (h : s.flServes = true) : exec .flEgressAdmit s =
    match firstOf s.storedOwn.fl.waiting with
    | none => .next s.storedOwn
    | some f =>
      if !s.storedOwn.canAdmit f then .next s.storedOwn
      else .next (s.storedOwn.updFl (fun l => { l with waiting := l.waiting.erase f, txq := l.txq ++ [{ f with cc := s.storedOwn.cycle }] })) := by
  rw [exec_flEgressAdmit, execFlEgressAdmit, h]
  rfl

/-! ### The key in use (R484, R486) -/

/-- The registers that a change of the sending key writes or counts in. -/
def rollKeys : List Nat := [0x228, 0x338, 0x224, 0x2F0, 0x2F4].map (ctlKey 0x25 0)

/-- Only registers and the keys of the link change. -/
def KeyChange (t s : State) : Prop :=
  t = { s with ctl := t.ctl, fl := { s.fl with txKeys := t.fl.txKeys, txTs := t.fl.txTs, txNo := t.fl.txNo, txUnder := t.fl.txUnder,
                                               moveAsked := t.fl.moveAsked } }

theorem KeyChange.refl (s : State) : KeyChange s s := rfl

theorem showKeys_onlyCtl (s : State) : OnlyCtl s.showKeys s := by
  unfold State.showKeys
  exact (setFld_onlyCtl _ _ _ _ _ _ _).trans ((setFld_onlyCtl _ _ _ _ _ _ _).trans (setFld_onlyCtl _ _ _ _ _ _ _))

theorem showKeys_onlyWords (s : State) : OnlyWords s s.showKeys rollKeys := by
  unfold State.showKeys
  exact ((setFld_onlyWords s _ _ _ _ _ _ (by decide)).trans (setFld_onlyWords _ _ _ _ _ _ _ (by decide))).trans
    (setFld_onlyWords _ _ _ _ _ _ _ (by decide))

/-- Registers written after an update of the keys. -/
theorem OnlyCtl.keyChange {s t : State} {keys : List LinkKey} {ts : List Byte} {no under : Nat} {asked : Bool}
    (h : OnlyCtl t { s with fl := { s.fl with txKeys := keys, txTs := ts, txNo := no, txUnder := under, moveAsked := asked } }) :
    KeyChange t s := by
  unfold OnlyCtl KeyChange at *
  rw [h]

theorem rollKey_keyChange (s : State) (frame : Bool) : KeyChange (s.rollKey frame) s := by
  unfold State.rollKey State.updFl
  dsimp only
  split
  · exact .refl s
  · split
    · exact ((showKeys_onlyCtl _).trans (setFlag_onlyCtl _ _ _ _ _)).keyChange
    · split
      · exact OnlyCtl.keyChange (s := s) (keys := s.fl.txKeys) (ts := s.fl.txTs) (no := s.fl.txNo) (under := s.fl.txUnder)
          (asked := s.fl.moveAsked) (count64_onlyCtl _ _ _ _ _)
      · exact .refl s

theorem rollKey_onlyWords (s : State) (frame : Bool) : OnlyWords s (s.rollKey frame) rollKeys := by
  unfold State.rollKey State.updFl
  dsimp only
  split
  · exact .refl s _
  · split
    · refine OnlyWords.trans (fun _ _ _ _ => ?_) ((setFlag_onlyWords _ _ _ _ _ (by decide) (by decide)).trans (showKeys_onlyWords _))
      rfl
    · split
      · exact count64_onlyWords s _ _ _ _ (by decide) (by decide)
      · exact .refl s _

/-! ### A frame leaves (R469, R485) -/

/-- The frame is sealed: every one is but a HELLO outside a session. -/
def State.keyed (s : State) (q : FlFrame) : Bool := !(q.f.typ = 6 && s.flSession ≠ 2)

/-- The sending key is the one due. -/
def State.rolled (s : State) (q : FlFrame) : State := if s.keyed q then s.rollKey true else s

/-- The body of a frame before it is sealed: an ACK and a PROBE_ECHO are made as they leave (R473, R476). -/
def State.frameBody (s : State) (q : FlFrame) : List Byte :=
  let l := s.fl
  let echo := match l.echo with
    | some (c, t) => (c, BitVec.ofNat 32 (s.since t))
    | none => (Config.freeW32 s.freeCtr, Config.freeW32 (s.freeCtr + 1))
  if q.f.typ = 2 then
    leBytes 4 l.cum.toNat ++ leBytes 32 (l.stored.foldl (fun v n =>
      let b := serialDiff 32 n (l.cum.toNat + 1)
      if b < 256 then v + 2 ^ b else v) 0) ++ leBytes 4 echo.1.toNat ++ leBytes 4 echo.2.toNat ++ leBytes 4 l.rxTop
  else if q.f.typ = 5 then leBytes 4 q.f.txCC.toNat ++ leBytes 4 (s.since q.since)
  else q.f.body

/-- An ACK that has no PROBE to echo takes two free values. -/
def State.drewEcho (s : State) (q : FlFrame) : State :=
  if q.f.typ = 2 && s.fl.echo.isNone then { s with freeCtr := s.freeCtr + 2 } else s

/-- The frame with its header filled in, not yet sealed. -/
def State.headed (s : State) (q : FlFrame) (keyed : Bool) : CdxFrame :=
  { q.f with eth := (s.drewEcho q).flEth, epoch := if keyed then BitVec.ofNat 1 s.fl.txNo else 0, session := s.fl.sess,
             frameNo := if keyed then s.fl.frameNo else 0, txCC := (s.drewEcho q).cycle.setWidth 32 }

/-- The frame as it leaves. -/
def State.sent (s : State) (q : FlFrame) (keyed : Bool) : CdxFrame :=
  let f := s.headed q keyed
  if keyed then
    let (c, t) := gcmSeal s.fl.txKey.key (s.fl.txKey.salt ++ beBytes 8 f.frameNo.toNat) (cdxHeader f) (s.frameBody q)
    { f with body := c, gcmTag := t }
  else { f with body := s.frameBody q }

/-- The link behind the frame: its number is used, and a fragment's timer restarts with its shard (R477, R485). -/
def State.passedFrame (s : State) (q : FlFrame) (keyed : Bool) : State :=
  let s := s.drewEcho q
  let s := if keyed then s.updFl (fun l => { l with frameNo := l.frameNo + 1, txUnder := l.txUnder + 1 }) else s
  if q.f.typ = 1 then s.restartTimer q.f.fseq else s

theorem flEmit_eq (s : State) (q : FlFrame) : s.flEmit q =
    { (((s.rolled q).passedFrame q (s.keyed q)).count64 0x25 0 0x280 1) with
        flOut := ((s.rolled q).passedFrame q (s.keyed q)).flOut ++ [(s.rolled q).sent q (s.keyed q)] } := rfl

theorem drewEcho_frame (s : State) (q : FlFrame) : s.drewEcho q = { s with freeCtr := (s.drewEcho q).freeCtr } := by
  unfold State.drewEcho
  split <;> rfl

/-- Only free values, the frame numbers and the fragments' timers change. -/
def PassChange (t s : State) : Prop :=
  t = { s with freeCtr := t.freeCtr, fl := { s.fl with frameNo := t.fl.frameNo, txUnder := t.fl.txUnder, tx := t.fl.tx } }

theorem PassChange.trans {a b c : State} (h : PassChange a b) (k : PassChange b c) : PassChange a c := by
  unfold PassChange at *
  rw [h, k]

theorem drewEcho_passChange (s : State) (q : FlFrame) : PassChange (s.drewEcho q) s := by
  unfold State.drewEcho
  split <;> rfl

/-- The number of a sealed frame is used. -/
def State.numberUsed (s : State) (keyed : Bool) : State :=
  if keyed then s.updFl (fun l => { l with frameNo := l.frameNo + 1, txUnder := l.txUnder + 1 }) else s

/-- A fragment's timer restarts with its shard. -/
def State.timerRestarted (s : State) (q : FlFrame) : State := if q.f.typ = 1 then s.restartTimer q.f.fseq else s

theorem passedFrame_eq (s : State) (q : FlFrame) (keyed : Bool) : s.passedFrame q keyed = ((s.drewEcho q).numberUsed keyed).timerRestarted q := rfl

theorem numberUsed_passChange (s : State) (keyed : Bool) : PassChange (s.numberUsed keyed) s := by
  unfold State.numberUsed
  split <;> rfl

theorem timerRestarted_passChange (s : State) (q : FlFrame) : PassChange (s.timerRestarted q) s := by
  unfold State.timerRestarted
  split <;> rfl

theorem passedFrame_passChange (s : State) (q : FlFrame) (keyed : Bool) : PassChange (s.passedFrame q keyed) s :=
  (timerRestarted_passChange _ q).trans ((numberUsed_passChange _ keyed).trans (drewEcho_passChange s q))

theorem passedFrame_frameNo (s : State) (q : FlFrame) (keyed : Bool) :
    (s.passedFrame q keyed).fl.frameNo = if keyed then s.fl.frameNo + 1 else s.fl.frameNo := by
  have restarted : ∀ t : State, (t.timerRestarted q).fl.frameNo = t.fl.frameNo := fun t => by
    unfold State.timerRestarted
    split <;> rfl
  rw [passedFrame_eq, restarted, State.numberUsed, drewEcho_frame]
  split <;> rfl

theorem passedFrame_timed (s : State) {q : FlFrame} (keyed : Bool) (h : q.f.typ = 1) :
    ∀ x ∈ (s.passedFrame q keyed).fl.tx, x.fseq = q.f.fseq → x.timed = true ∧ x.timer = s.cycle := by
  have cycle : ((s.drewEcho q).numberUsed keyed).cycle = s.cycle := by rw [numberUsed_passChange, drewEcho_passChange]
  intro x hx hseq
  rw [passedFrame_eq, State.timerRestarted, if_pos h] at hx
  obtain ⟨y, -, rfl⟩ := List.mem_map.mp hx
  by_cases e : y.fseq = q.f.fseq
  · rw [if_pos e]
    exact ⟨rfl, cycle⟩
  · rw [if_neg e] at hseq
    exact absurd hseq e

/-! #### The frame's addresses and header -/

/-- The registers of ENCAP and of the link's addresses (R469). -/
def addressKeys : List Nat :=
  [0x210, 0x248, 0x250, 0x254, 0x258, 0x25C, 0x260, 0x264, 0x268, 0x26C, 0x270, 0x274, 0x278, 0x27C].map (ctlKey 0x25 0)

theorem flEth_congr {s t : State} {ks : List Nat} (h : OnlyWords s t ks) (hk : ∀ k ∈ addressKeys, k ∉ ks) : t.flEth = s.flEth := by
  have word : ∀ {o}, ctlKey 0x25 0 o ∈ addressKeys → t.word 0x25 0 o = s.word 0x25 0 o := fun ho => h _ _ _ (hk _ ho)
  have word64 : ∀ {o}, ctlKey 0x25 0 o ∈ addressKeys → ctlKey 0x25 0 (o + 4) ∈ addressKeys → t.word64 0x25 0 o = s.word64 0x25 0 o :=
    fun ho ho' => by rw [State.word64, word ho, word ho', State.word64]
  unfold State.flEth State.flWord State.fld
  rw [word (by decide), word (by decide), word64 (by decide) (by decide), word64 (by decide) (by decide), word64 (by decide) (by decide),
    word64 (by decide) (by decide), word64 (by decide) (by decide), word64 (by decide) (by decide)]

theorem flEth_ctl {s t : State} (h : t.ctl = s.ctl) : t.flEth = s.flEth :=
  flEth_congr (ks := []) (fun b i o _ => word_ctl s t h b i o) (fun _ _ => List.not_mem_nil)

/-- The fields that sealing leaves are those of the frame with its header filled in. -/
theorem sent_header (s : State) (q : FlFrame) (keyed : Bool) :
    ∃ b t, s.sent q keyed = { s.headed q keyed with body := b, gcmTag := t } ∧
      (keyed = true → (b, t) = gcmSeal s.fl.txKey.key (s.fl.txKey.salt ++ beBytes 8 (s.headed q keyed).frameNo.toNat)
        (cdxHeader (s.headed q keyed)) (s.frameBody q)) ∧
      (keyed = false → b = s.frameBody q) := by
  cases keyed with
  | true => exact ⟨_, _, rfl, fun _ => rfl, fun h => by cases h⟩
  | false => exact ⟨_, _, rfl, fun h => (by cases h), fun _ => rfl⟩

theorem headed_eth (s : State) (q : FlFrame) (keyed : Bool) : (s.headed q keyed).eth = s.flEth :=
  flEth_ctl (by rw [drewEcho_frame])

theorem headed_txCC (s : State) (q : FlFrame) (keyed : Bool) : (s.headed q keyed).txCC = s.cycle.setWidth 32 := by
  unfold State.headed
  rw [drewEcho_frame]

/-! ### What has left (R477, R485) -/

/-- Frame `g` is that of `q`, with the link's addresses, session and time. -/
def FrameOf (s : State) (q : FlFrame) (g : CdxFrame) : Prop :=
  g.typ = q.f.typ ∧ g.part = q.f.part ∧ g.fseq = q.f.fseq ∧ g.txCC = s.cycle.setWidth 32 ∧ g.session = s.fl.sess ∧ g.eth = s.flEth

/-- In `t` the link of `s` has sent frame `g` of `q`: sealed under the sending key with the next number, or as it is when it is a HELLO outside a
session. -/
def Emitted (s t : State) (q : FlFrame) (g : CdxFrame) : Prop :=
  t.flOut = s.flOut ++ [g] ∧ t.mem = s.mem ∧ t.ctxs = s.ctxs ∧ Counts1 s t 0x25 0 0x280 ∧
    (q.f.typ ≠ 6 ∨ s.flSession = 2 →
      g.frameNo = s.fl.frameNo ∧ t.fl.frameNo = s.fl.frameNo + 1 ∧ g.epoch = BitVec.ofNat 1 t.fl.txNo ∧
        ∃ b, (g.body, g.gcmTag) = gcmSeal t.fl.txKey.key (t.fl.txKey.salt ++ beBytes 8 g.frameNo.toNat)
          (cdxHeader { g with body := q.f.body, gcmTag := q.f.gcmTag }) b) ∧
    (q.f.typ = 1 → ∀ x ∈ t.fl.tx, x.fseq = q.f.fseq → x.timed = true ∧ x.timer = s.cycle) ∧
    (q.f.typ = 6 → s.flSession ≠ 2 → g.body = q.f.body ∧ g.frameNo = 0 ∧ t.fl.frameNo = s.fl.frameNo)

theorem OnlyWords.word64 {s t : State} {ks : List Nat} (h : OnlyWords s t ks) {b i o : Nat} (hk : ctlKey b i o ∉ ks)
    (hk' : ctlKey b i (o + 4) ∉ ks) : t.word64 b i o = s.word64 b i o := by
  rw [State.word64, h _ _ _ hk, h _ _ _ hk', State.word64]

theorem word64_ctl {s t : State} (h : t.ctl = s.ctl) (b i o : Nat) : t.word64 b i o = s.word64 b i o := by
  rw [State.word64, word_ctl s t h, word_ctl s t h, State.word64]

/-- The link as the frame leaves, before the frame is counted. -/
def State.emptied (s : State) (q : FlFrame) : State := (s.rolled q).passedFrame q (s.keyed q)

section
variable (s : State) (q : FlFrame)

theorem rolled_keyChange : KeyChange (s.rolled q) s := by
  unfold State.rolled
  split
  · exact rollKey_keyChange s true
  · exact .refl s

theorem rolled_onlyWords : OnlyWords s (s.rolled q) rollKeys := by
  unfold State.rolled
  split
  · exact rollKey_onlyWords s true
  · exact .refl s _

theorem emptied_onlyWords : OnlyWords s (s.emptied q) rollKeys := by
  have ctl : (s.emptied q).ctl = (s.rolled q).ctl := by
    unfold State.emptied
    rw [passedFrame_passChange]
  exact fun b i o hk => (word_ctl _ _ ctl b i o).trans (rolled_onlyWords s q b i o hk)

theorem flEmit_frame : s.flEmit q =
    { s.emptied q with ctl := (s.flEmit q).ctl, flOut := (s.emptied q).flOut ++ [(s.rolled q).sent q (s.keyed q)] } := by
  have counted := count64_onlyCtl (s.emptied q) 0x25 0 0x280 1
  rw [flEmit_eq]
  unfold State.emptied at *
  rw [counted]

theorem flEmit_ctl : (s.flEmit q).ctl = ((s.emptied q).count64 0x25 0 0x280 1).ctl := by
  rw [flEmit_eq]
  rfl

/-- The link's other parts, memory, the contexts and the ports stay. -/
theorem flEmit_keeps : (s.flEmit q).fl = (s.emptied q).fl ∧ (s.flEmit q).flOut = s.flOut ++ [(s.rolled q).sent q (s.keyed q)] ∧
    (s.flEmit q).fl.txq = s.fl.txq ∧ (s.flEmit q).mem = s.mem ∧ (s.flEmit q).ctxs = s.ctxs ∧ (s.flEmit q).ports = s.ports := by
  have frame := flEmit_frame s q
  have passed := passedFrame_passChange (s.rolled q) q (s.keyed q)
  have rolled := rolled_keyChange s q
  unfold State.emptied at *
  generalize (s.rolled q).passedFrame q (s.keyed q) = p at *
  generalize (s.rolled q).sent q (s.keyed q) = g at *
  generalize s.rolled q = r at *
  generalize s.flEmit q = t at *
  have out : p.flOut = s.flOut := by rw [passed, rolled]
  have txq : p.fl.txq = s.fl.txq := by rw [passed, rolled]
  have mem : p.mem = s.mem := by rw [passed, rolled]
  have ctxs : p.ctxs = s.ctxs := by rw [passed, rolled]
  have ports : p.ports = s.ports := by rw [passed, rolled]
  refine ⟨?_, ?_, ?_, ?_, ?_, ?_⟩ <;> rw [frame]
  · rw [out]
  · exact txq
  · exact mem
  · exact ctxs
  · exact ports

theorem flEmit_counts : Counts1 s (s.flEmit q) 0x25 0 0x280 := by
  unfold Counts1
  rw [word64_ctl (flEmit_ctl s q), word64_count64, (emptied_onlyWords s q).word64 (by decide) (by decide)]

/-- FG_FL_LATE is not touched as a frame leaves. -/
theorem flEmit_late : (s.flEmit q).word64 0x25 0 0x2D8 = s.word64 0x25 0 0x2D8 := by
  have counted : OnlyWords (s.emptied q) ((s.emptied q).count64 0x25 0 0x280 1) ([0x280, 0x284].map (ctlKey 0x25 0)) :=
    count64_onlyWords _ _ _ _ _ (by decide) (by decide)
  rw [word64_ctl (flEmit_ctl s q), counted.word64 (by decide) (by decide), (emptied_onlyWords s q).word64 (by decide) (by decide)]

theorem sent_frameOf (keyed : Bool) : FrameOf s q ((s.rolled q).sent q keyed) := by
  obtain ⟨b, t, sent, -, -⟩ := sent_header (s.rolled q) q keyed
  have rolled := rolled_keyChange s q
  have sess : (s.rolled q).fl.sess = s.fl.sess := by rw [rolled]
  have cycle : (s.rolled q).cycle = s.cycle := by rw [rolled]
  rw [sent]
  refine ⟨rfl, rfl, rfl, ?_, sess, ?_⟩
  · exact (headed_txCC _ q keyed).trans (by rw [cycle])
  · exact (headed_eth _ q keyed).trans (flEth_congr (rolled_onlyWords s q) (by decide))

end

/-- Number and key behind a frame. -/
theorem emptied_fl (s : State) (q : FlFrame) : (s.emptied q).fl.txNo = (s.rolled q).fl.txNo ∧ (s.emptied q).fl.txKey = (s.rolled q).fl.txKey ∧
    (s.emptied q).fl.frameNo = if s.keyed q then s.fl.frameNo + 1 else s.fl.frameNo := by
  have passed := passedFrame_passChange (s.rolled q) q (s.keyed q)
  have number := passedFrame_frameNo (s.rolled q) q (s.keyed q)
  have frameNo : (s.rolled q).fl.frameNo = s.fl.frameNo := by rw [rolled_keyChange s q]
  unfold State.emptied
  refine ⟨by rw [passed], ?_, by rw [number, frameNo]⟩
  unfold Fl.txKey
  rw [passed]

theorem keyed_iff {s : State} {q : FlFrame} : s.keyed q = true ↔ q.f.typ ≠ 6 ∨ s.flSession = 2 := by
  simp only [State.keyed, Bool.not_eq_true', Bool.and_eq_false_iff, decide_eq_false_iff_not, ne_eq, not_not]

theorem flEmit_emitted (s : State) (q : FlFrame) : Emitted s (s.flEmit q) q ((s.rolled q).sent q (s.keyed q)) := by
  obtain ⟨fl, out, -, mem, ctxs, -⟩ := flEmit_keeps s q
  obtain ⟨no, key, number⟩ := emptied_fl s q
  have frameNo : (s.rolled q).fl.frameNo = s.fl.frameNo := by rw [rolled_keyChange s q]
  obtain ⟨b, t, sent, sealed, plain⟩ := sent_header (s.rolled q) q (s.keyed q)
  refine ⟨out, mem, ctxs, flEmit_counts s q, fun h => ?_, fun h => ?_, fun h hs => ?_⟩
  · have keyed : s.keyed q = true := keyed_iff.mpr h
    rw [fl, number, no, key, sent]
    rw [keyed] at sealed ⊢
    exact ⟨frameNo, rfl, rfl, _, sealed rfl⟩
  · rw [fl]
    have cycle : (s.rolled q).cycle = s.cycle := by rw [rolled_keyChange s q]
    rw [← cycle]
    exact passedFrame_timed (s.rolled q) (s.keyed q) h
  · have keyed : s.keyed q = false := Bool.eq_false_iff.mpr fun k => (keyed_iff.mp k).elim (fun n => n h) hs
    rw [fl, number, sent]
    rw [keyed] at plain ⊢
    refine ⟨?_, rfl, rfl⟩
    rw [plain rfl]
    unfold State.frameBody
    simp [h]

end Sys2Proof.Machine
end

section
/-! The transmit queue sends its next frame (R40, R481), and obligation O42. -/

namespace Sys2Proof.Machine

/-- The link without the frame that leaves: frames of a lower class behind it have waited, and those are counted once. -/
def State.dequeued (s : State) (f : FlFrame) : State :=
  (s.updFl (fun l => { l with txq := (l.txq.erase f).map (fun x => if f.cls < x.cls then { x with waited := true } else x) })).count64
    0x25 0 0x2D0 ((s.fl.txq.erase f).filter (fun x => f.cls < x.cls && !x.waited)).length

theorem flFrameTransmit_idle {s : State} (h : s.fl.txq = [] ∨ s.fnState .fl < 2 ∨ s.fld 0x25 0 0x24 0 0 = 0) :
    exec .flFrameTransmit s = .next s := by
  rw [exec_flFrameTransmit, execFlFrameTransmit]
  split
  · rfl
  · rename_i f first
    refine if_pos ?_
    rcases h with h | h | h
    · rw [h] at first
      cases first
    · simp [h]
    · simp [h]

theorem flFrameTransmit_eq {s : State} {f : FlFrame} (first : firstOf s.fl.txq = some f) (on : 2 ≤ s.fnState .fl)
    (link : s.fld 0x25 0 0x24 0 0 = 1) :
    exec .flFrameTransmit s = .next (if s.since f.cc - 20000 = 0 then (s.dequeued f).flEmit f
      else (((s.dequeued f).flEmit f).count64 0x25 0 0x2D8 1).lateEvent 2 (s.since f.cc - 20000) 0) := by
  have sends : (s.fnState .fl < 2 || s.fld 0x25 0 0x24 0 0 = 0) = false := by
    rw [link]
    simp only [Nat.not_lt.mpr on, decide_false, one_ne_zero, Bool.or_false]
  rw [exec_flFrameTransmit, execFlFrameTransmit, first]
  dsimp only
  rw [sends]
  rfl

section
variable (s : State) (f : FlFrame)

/-- Only the transmit queue and registers change. -/
theorem dequeued_frame : s.dequeued f = { s with ctl := (s.dequeued f).ctl, fl := { s.fl with txq := (s.dequeued f).fl.txq } } := by
  have counted := count64_onlyCtl (s.updFl (fun l =>
    { l with txq := (l.txq.erase f).map (fun x => if f.cls < x.cls then { x with waited := true } else x) })) 0x25 0 0x2D0
    ((s.fl.txq.erase f).filter (fun x => f.cls < x.cls && !x.waited)).length
  unfold State.dequeued
  rw [counted]
  rfl

theorem dequeued_onlyWords : OnlyWords s (s.dequeued f) ([0x2D0, 0x2D4].map (ctlKey 0x25 0)) :=
  OnlyWords.trans (fun _ _ _ _ => rfl) (count64_onlyWords _ _ _ _ _ (by decide) (by decide))

theorem dequeued_txq : (s.dequeued f).fl.txq = (s.fl.txq.erase f).map (fun x => if f.cls < x.cls then { x with waited := true } else x) := by
  unfold State.dequeued
  rw [count64_onlyCtl]
  rfl

end

theorem dequeued_length {s : State} {f : FlFrame} (h : f ∈ s.fl.txq) : (s.dequeued f).fl.txq.length + 1 = s.fl.txq.length := by
  have pos := List.length_pos_of_mem h
  rw [dequeued_txq, List.length_map, List.length_erase_of_mem h]
  omega

theorem dequeued_flSession (s : State) (f : FlFrame) : (s.dequeued f).flSession = s.flSession := by
  unfold State.flSession State.flWord State.fld
  rw [dequeued_onlyWords s f 0x25 0 0x224 (by decide)]

/-- The counters that O42 reads are those before the frame was taken. -/
theorem dequeued_counts (s : State) (f : FlFrame) :
    (s.dequeued f).word64 0x25 0 0x280 = s.word64 0x25 0 0x280 ∧ (s.dequeued f).word64 0x25 0 0x2D8 = s.word64 0x25 0 0x2D8 :=
  ⟨(dequeued_onlyWords s f).word64 (by decide) (by decide), (dequeued_onlyWords s f).word64 (by decide) (by decide)⟩

theorem LinkKept.word64 {t s : State} (h : LinkKept t s) {o : Nat} (ho : o + 4 < 0x2E0) : t.word64 0x25 0 o = s.word64 0x25 0 o := by
  obtain ⟨-, -, -, -, words⟩ := h
  rw [State.word64, words o (by omega), words (o + 4) ho, State.word64]

theorem Emitted.congr {s t t' : State} {q : FlFrame} {g : CdxFrame} (h : Emitted s t q g) (fl : t'.fl = t.fl) (out : t'.flOut = t.flOut)
    (mem : t'.mem = t.mem) (ctxs : t'.ctxs = t.ctxs) (sentCount : t'.word64 0x25 0 0x280 = t.word64 0x25 0 0x280) : Emitted s t' q g := by
  unfold Emitted Counts1 at *
  rw [fl, out, mem, ctxs, sentCount]
  exact h

/-- A frame that leaves more than 20,000 cc after its admission is counted as late and told to the host; nothing else sets it apart (R40). -/
theorem late_emitted {s t : State} {q : FlFrame} {g : CdxFrame} (late : Nat) (h : Emitted s t q g) :
    Emitted s ((t.count64 0x25 0 0x2D8 1).lateEvent 2 late 0) q g ∧ ((t.count64 0x25 0 0x2D8 1).lateEvent 2 late 0).fl = t.fl ∧
      Counts1 t ((t.count64 0x25 0 0x2D8 1).lateEvent 2 late 0) 0x25 0 0x2D8 := by
  have counted := count64_onlyCtl t 0x25 0 0x2D8 1
  have words : OnlyWords t (t.count64 0x25 0 0x2D8 1) ([0x2D8, 0x2DC].map (ctlKey 0x25 0)) :=
    count64_onlyWords _ _ _ _ _ (by decide) (by decide)
  have count : Counts1 t (t.count64 0x25 0 0x2D8 1) 0x25 0 0x2D8 := word64_count64 _ _ _ _ _
  have told := lateEvent_linkKept (t.count64 0x25 0 0x2D8 1) 2 late 0
  have sentCount := (told.word64 (o := 0x280) (by decide)).trans (words.word64 (by decide) (by decide))
  have lateCount := told.word64 (o := 0x2D8) (by decide)
  generalize t.count64 0x25 0 0x2D8 1 = v at *
  generalize v.lateEvent 2 late 0 = u at *
  obtain ⟨mem, ctxs, fl, out, -⟩ := told
  have link : u.fl = t.fl := by rw [fl, counted]
  refine ⟨h.congr link ?_ ?_ ?_ sentCount, link, lateCount.trans count⟩
  · rw [out, counted]
  · rw [mem, counted]
  · rw [ctxs, counted]

/-- The queue's next frame leaves the link from which it was taken. -/
theorem flFrameTransmit_emitted {s : State} {f : FlFrame} (first : firstOf s.fl.txq = some f) (on : 2 ≤ s.fnState .fl)
    (link : s.fld 0x25 0 0x24 0 0 = 1) :
    ∃ t g, exec .flFrameTransmit s = .next t ∧ FrameOf (s.dequeued f) f g ∧ Emitted (s.dequeued f) t f g ∧
      t.fl.txq = (s.dequeued f).fl.txq ∧ ((s.cycle - f.cc).toNat ≤ 20000 → t.ports = s.ports ∧ t.word64 0x25 0 0x2D8 = s.word64 0x25 0 0x2D8) ∧
      (20000 < (s.cycle - f.cc).toNat → Counts1 s t 0x25 0 0x2D8) := by
  have emitted := flEmit_emitted (s.dequeued f) f
  have lateCount : ((s.dequeued f).flEmit f).word64 0x25 0 0x2D8 = s.word64 0x25 0 0x2D8 :=
    (flEmit_late _ f).trans (dequeued_counts s f).2
  obtain ⟨-, -, txq, -, -, ports⟩ := flEmit_keeps (s.dequeued f) f
  have portsKept : ((s.dequeued f).flEmit f).ports = s.ports := by rw [ports, dequeued_frame]
  have since : s.since f.cc = (s.cycle - f.cc).toNat := rfl
  rw [flFrameTransmit_eq first on link, since]
  generalize (s.cycle - f.cc).toNat = age
  by_cases inTime : age - 20000 = 0
  · rw [if_pos inTime]
    exact ⟨_, _, rfl, sent_frameOf _ f _, emitted, txq, fun _ => ⟨portsKept, lateCount⟩, fun _ => by omega⟩
  · rw [if_neg inTime]
    obtain ⟨told, link, counted⟩ := late_emitted (age - 20000) emitted
    refine ⟨_, _, rfl, sent_frameOf _ f _, told, by rw [link, txq], fun _ => by omega, fun _ => ?_⟩
    unfold Counts1 at *
    rw [counted, lateCount]

/-- What has left the link from which the frame was taken has left the link before that. -/
theorem emitted_of_dequeued {s t : State} {f : FlFrame} {g : CdxFrame} (frame : FrameOf (s.dequeued f) f g) (h : Emitted (s.dequeued f) t f g) :
    FrameOf s f g ∧ Emitted s t f g := by
  have eth := flEth_congr (dequeued_onlyWords s f) (by decide)
  have session := dequeued_flSession s f
  obtain ⟨sentCount, -⟩ := dequeued_counts s f
  have kept := dequeued_frame s f
  unfold FrameOf Emitted Counts1 at *
  rw [eth] at frame
  rw [session, sentCount] at h
  generalize s.dequeued f = d at *
  rw [kept] at frame h
  exact ⟨frame, h⟩

end Sys2Proof.Machine

open Sys2Proof Sys2Proof.Machine

/-- Settles O42: an admission is an equation of the instruction; a frame that leaves is followed through its dequeuing, the sending key, the seal
and the count, and a late one through the event that tells the host, which leaves the link as it is. -/
theorem farFramesLeave : Obligations.FarFramesLeave := by
  intro s
  refine ⟨fun serves own f first => ?_, flEgressAdmit_waits, fun serves => ?_, fun f => firstOf_least, fun f first on link => ?_,
    flFrameTransmit_idle⟩
  · rw [flEgressAdmit_eq serves, storedOwn_none own, first]
    refine ⟨fun admits => ?_, fun refuses => ?_⟩
    · simp only [admits]
      rfl
    · simp only [refuses]
      rfl
  · rw [flEgressAdmit_eq serves]
    split
    · exact ⟨_, rfl⟩
    · split <;> exact ⟨_, rfl⟩
  · obtain ⟨member, -⟩ := firstOf_least first
    obtain ⟨t, g, run, frame, emitted, txq, inTime, late⟩ := flFrameTransmit_emitted first on link
    obtain ⟨⟨typ, part, fseq, txCC, session, eth⟩, out, mem, ctxs, count, sealed, timed, plain⟩ := emitted_of_dequeued frame emitted
    exact ⟨t, g, run, out, typ, part, fseq, txCC, session, eth, by rw [txq]; exact dequeued_length member, count, mem, ctxs,
      fun h => (inTime h).1, sealed, timed, plain, fun h => (inTime h).2, late⟩
end

section
/-! Instructions that change their own context alone (R84, R98, R99): the change, then the passing of the instruction. -/

namespace Sys2Proof.Machine

/-- One context has changed to `k`, and its instruction is passed. -/
theorem CtxChange.passes {s t : State} {c x : Nat} {k : Ctx} (h : CtxChange s t c x k) (hw : k.wait.isHeld = false)
    (hp : k.passed ≠ some s.cycle) : CtxChange s ((t.advance c x).noteIssue c x) c x (issuedAt s (pastInstr k)) := by
  obtain ⟨frame, ctx, -⟩ := id h
  have cycle : t.cycle = s.cycle := by rw [frame]
  have passed := advance_noteIssue_ctxChange (s := t) (c := c) (x := x) (by rw [ctx]; exact hw) (by rw [ctx, cycle]; exact hp)
  rw [ctx, issuedAt_congr cycle] at passed
  exact h.trans passed

/-- A context that waits from now on on something that its instruction was issued for has taken the issue slot. -/
theorem CtxChange.issues {s t : State} {c x : Nat} {k : Ctx} (h : CtxChange s t c x k) (hw : k.wait.isHeld = false)
    (hp : k.passed ≠ some s.cycle) : CtxChange s (t.noteIssue c x) c x (issuedAt s k) := by
  obtain ⟨frame, ctx, -⟩ := id h
  have cycle : t.cycle = s.cycle := by rw [frame]
  have noted := noteIssue_ctxChange (s := t) (c := c) (x := x) (by rw [ctx]; exact hw) (by rw [ctx, cycle]; exact hp)
  rw [ctx, issuedAt_congr cycle] at noted
  exact h.trans noted

/-- An instruction of a context that can run, whose effect is `f` on the own context before it is passed. -/
theorem updCtx_passes {i : Iss} {s : State} (run : CanRun i s) {f : Ctx → Ctx} (hw : (f (ctxAt s i)).wait = (ctxAt s i).wait)
    (hp : (f (ctxAt s i)).passed = (ctxAt s i).passed) :
    CtxChange s (((s.updCtx i.core.toNat i.ctx.toNat f).advance i.core.toNat i.ctx.toNat).noteIssue i.core.toNat i.ctx.toNat)
      i.core.toNat i.ctx.toNat (issuedAt s (pastInstr (f (ctxAt s i)))) :=
  (updCtx_ctxChange s _ _ f).passes ((congrArg Wait.isHeld hw).trans run.notHeld) (fun e => run.notPassed (hp.symm.trans e))

/-- An instruction that can run and is not ILLEGAL, whose effect is `f` on the own context before it is passed. -/
theorem issue_updCtx {i : Iss} {s : State} (run : CanRun i s) {illegal : Bool} (legal : illegal = false) (f : Ctx → Ctx → Ctx)
    (hw : (f (ctxAt s i) (ctxAt s i)).wait = (ctxAt s i).wait) (hp : (f (ctxAt s i) (ctxAt s i)).passed = (ctxAt s i).passed) :
    IssuesCtx i s (issue i illegal s (fun c x k => (s.updCtx c x (f k)).advance c x)) (pastInstr (f (ctxAt s i) (ctxAt s i))) := by
  rw [issue, issueStop_of_canRun run, legal, if_neg Bool.false_ne_true]
  exact ⟨_, rfl, updCtx_passes run hw hp⟩

/-! ### Scalar results (R98, R99) -/

theorem operandB_eq_srcVal (k : Ctx) (b : SrcB) : operandB k b = srcVal k b := by cases b <;> rfl

/-- A scalar instruction that can run writes its result to SD. -/
theorem scalar_writes {i : Iss} {s : State} (run : CanRun i s) (sd : BitVec 6) (f : Ctx → W64) :
    WritesScalar i s (scalar i sd f s) sd (f (ctxAt s i)) := by
  obtain ⟨t, next, frame, ctx, others⟩ := issue_updCtx run rfl (fun k k' => k'.setSreg sd.toNat (f k)) rfl rfl
  have ctx : ctxAt t i = _ := ctx
  refine ⟨t, next, ?_⟩
  rw [ctx]
  exact ⟨⟨frame, ctx, others⟩, rfl, fun n => setSreg_sreg _ _ _ _⟩

/-- LIH puts its immediate above the low half of SD. -/
theorem lih_result (imm : W32) (v : W64) : BitVec.ofNat 64 (imm.toNat * 2 ^ 32 + v.toNat % 2 ^ 32) = imm ++ v.setWidth 32 := by
  apply BitVec.eq_of_toNat_eq
  have hi := imm.isLt
  have lo : v.toNat % 2 ^ 32 < 2 ^ 32 := Nat.mod_lt _ (by positivity)
  rw [BitVec.toNat_ofNat, BitVec.toNat_append, BitVec.toNat_setWidth, ← Nat.shiftLeft_add_eq_or_of_lt lo, Nat.shiftLeft_eq,
    Nat.mod_eq_of_lt (by omega)]

/-! ### CMP (R99) -/

/-- What CMP's condition states of the two operands. -/
theorem compare_eq (cond : Nat) (a v : W64) : compare cond a v = match cond with
    | 0 => a == v
    | 1 => a != v
    | 2 => decide (a.toInt < v.toInt)
    | 3 => decide (v.toInt ≤ a.toInt)
    | 4 => decide (a.toNat < v.toNat)
    | _ => decide (v.toNat ≤ a.toNat) := by
  have ge : ∀ p q : Int, (!decide (p < q)) = decide (q ≤ p) := fun p q => by
    rw [← decide_not, decide_eq_decide, Int.not_lt]
  have geu : (!decide (a.toNat < v.toNat)) = decide (v.toNat ≤ a.toNat) := by
    rw [← decide_not, decide_eq_decide, Nat.not_lt]
  unfold compare BitVec.slt BitVec.ult
  rw [ge, geu]
  rcases cond with _ | _ | _ | _ | _ | _ | cond <;> rfl

/-- A predicate after a write; p0 takes none (R84). -/
theorem setPred_pred (k : Ctx) (pd n : BitVec 3) (b : Bool) :
    (k.setPred pd.toNat b).pred n.toNat = if n = 0 then true else if n = pd then b else k.pred n.toNat := by
  have zero : ∀ p : BitVec 3, p.toNat = 0 ↔ p = 0 := fun p => ⟨fun h => BitVec.eq_of_toNat_eq h, fun h => by rw [h]; rfl⟩
  by_cases hn : n = 0
  · rw [if_pos hn, hn]
    rfl
  rw [if_neg hn]
  have hn' : (n.toNat == 0) = false := by simpa [zero] using hn
  unfold Ctx.setPred Ctx.pred
  by_cases hp : pd.toNat = 0
  · rw [if_pos hp, if_neg (fun e => hn (e.trans ((zero pd).mp hp)))]
  · have low : n.toNat < 8 := n.isLt
    rw [if_neg hp, hn', Bool.false_or, Bool.false_or]
    dsimp only
    rw [BitVec.getLsbD_ofNat, testBit_setBits _ _ _ (Nat.le_refl _), BitVec.testBit_toNat]
    by_cases same : n = pd
    · subst same
      cases b <;> simp [b2n, low]
    · have apart : ¬ (pd.toNat ≤ n.toNat ∧ n.toNat ≤ pd.toNat) := fun h => same (BitVec.eq_of_toNat_eq (by omega))
      rw [if_neg apart, if_neg same, decide_eq_true low, Bool.true_and]

/-- A CMP that can run writes its condition to PD. -/
theorem cmp_writes {i : Iss} {s : State} (run : CanRun i s) (pd : BitVec 3) {cond : BitVec 3} (hc : cond.toNat < 6) (sa : BitVec 6) (b : SrcB) :
    ∃ t, exec (.cmp i pd cond sa b) s = .next t ∧ CtxChange s t i.core.toNat i.ctx.toNat (ctxAt t i) ∧
      ctxAt t i = { issuedAt s (pastInstr (ctxAt s i)) with preds := (ctxAt t i).preds } ∧
      ∀ n : BitVec 3, (ctxAt t i).pred n.toNat = if n = 0 then true else if n = pd then
        compare cond.toNat ((ctxAt s i).sreg sa.toNat) (srcVal (ctxAt s i) b) else (ctxAt s i).pred n.toNat := by
  let r := compare cond.toNat ((ctxAt s i).sreg sa.toNat) (srcVal (ctxAt s i) b)
  have only : (ctxAt s i).setPred pd.toNat r = { ctxAt s i with preds := ((ctxAt s i).setPred pd.toNat r).preds } := by
    unfold Ctx.setPred
    split <;> rfl
  obtain ⟨t, next, frame, ctx, others⟩ := issue_updCtx (illegal := decide (6 ≤ cond.toNat)) run (by simpa using hc)
    (fun k k' => k'.setPred pd.toNat (compare cond.toNat (k.sreg sa.toNat) (srcVal k b))) (by rw [only]) (by rw [only])
  have ctx : ctxAt t i = _ := ctx
  refine ⟨t, next, ?_⟩
  rw [ctx]
  refine ⟨⟨frame, ctx, others⟩, ?_, fun n => setPred_pred _ _ _ _⟩
  conv_lhs => rw [only]
  rfl

/-- COND 6 and 7 are ILLEGAL. -/
theorem cmp_halts {i : Iss} {s : State} (run : CanRun i s) (rep : Reportable s (ctxAt s i)) (pd : BitVec 3) {cond : BitVec 3}
    (hc : 6 ≤ cond.toNat) (sa : BitVec 6) (b : SrcB) : HaltsWith i s (exec (.cmp i pd cond sa b) s) rsILLEGAL := by
  rw [exec_cmp, execCmp, issue, issueStop_of_canRun run, if_pos (by simpa using hc)]
  exact haltsWith_halt run rep _

end Sys2Proof.Machine

open Sys2Proof Sys2Proof.Machine

/-- Settles O3: every scalar instruction is one write of SD, and CMP one of PD. -/
theorem scalarResults : Obligations.ScalarResults := by
  unfold Obligations.ScalarResults
  refine ⟨fun i s sd sa b run => ?_, fun i s sd imm run => ?_, fun i s pd cond sa b run => ⟨fun hc => ?_, fun hc rep => ?_⟩⟩
  · simp only [operandB_eq_srcVal]
    refine ⟨?_, ?_, ?_, ?_, ?_, ?_, ?_, ?_, ?_⟩
    · exact scalar_writes run sd (fun k => k.sreg sa.toNat + srcVal k b)
    · exact scalar_writes run sd (fun k => k.sreg sa.toNat - srcVal k b)
    · exact scalar_writes run sd (fun k => k.sreg sa.toNat * srcVal k b)
    · exact scalar_writes run sd (fun k => k.sreg sa.toNat &&& srcVal k b)
    · exact scalar_writes run sd (fun k => k.sreg sa.toNat ||| srcVal k b)
    · exact scalar_writes run sd (fun k => k.sreg sa.toNat ^^^ srcVal k b)
    · exact scalar_writes run sd (fun k => k.sreg sa.toNat <<< shiftOf k b)
    · exact scalar_writes run sd (fun k => k.sreg sa.toNat >>> shiftOf k b)
    · exact scalar_writes run sd (fun k => (k.sreg sa.toNat).sshiftRight (shiftOf k b))
  · rw [← lih_result]
    refine ⟨?_, ?_, ?_, ?_⟩
    · exact scalar_writes run sd (fun _ => imm.signExtend 64)
    · exact scalar_writes run sd (fun k => BitVec.ofNat 64 (imm.toNat * 2 ^ 32 + (k.sreg sd.toNat).toNat % 2 ^ 32))
    · exact scalar_writes run sd (fun _ => s.cycle)
    · exact scalar_writes run sd (fun _ => BitVec.ofNat 64 (i.core.toNat * 4 + i.ctx.toNat))
  · obtain ⟨t, next, change, ctx, preds⟩ := cmp_writes run pd hc sa b
    refine ⟨t, next, change, ctx, fun n => ?_⟩
    rw [preds n, compare_eq, operandB_eq_srcVal] <;> rfl
  · exact cmp_halts run rep pd hc sa b
end

section
/-! Guarding predicates and undefined words (R82 to R85). -/

namespace Sys2Proof.Machine

/-- The outcome is that of an instruction issued by `i` behind the one guard of R84. -/
def BehindGuard (i : Iss) (s : State) (o : Out) : Prop := ∃ illegal stop body, o = issueStop i illegal s stop body

theorem issueStop_behindGuard (i : Iss) (illegal : Bool) (s : State) (stop : Nat → Nat → Ctx → Bool)
    (body : Nat → Nat → Ctx → State) : BehindGuard i s (issueStop i illegal s stop body) := ⟨_, _, _, rfl⟩

theorem scalar_behindGuard (i : Iss) (sd : BitVec 6) (f : Ctx → W64) (s : State) : BehindGuard i s (scalar i sd f s) := by
  unfold scalar issue
  exact issueStop_behindGuard ..

theorem tagOpStop_behindGuard (i : Iss) (illegal : Bool) (t : BitVec 5) (held : Instr) (s : State)
    (stop : Nat → Nat → Ctx → Bool) (body : Nat → Nat → Ctx → State) : BehindGuard i s (tagOpStop i illegal t held s stop body) := by
  unfold tagOpStop
  exact issueStop_behindGuard ..

/-- Every Staex 2 instruction is issued behind the guard: the scalar ones, the tag and descriptor ones, and the others. -/
theorem staex_behindGuard {c : Instr} {i : Iss} (staex : Staex c i) (s : State) : BehindGuard i s (exec c s) := by
  obtain ⟨encoded, rfl⟩ := staex
  cases c
  case add | sub | mul | and | or | xor | shl | shr | sra | li | lih | getcc | getid =>
    simp only [exec_add, exec_sub, exec_mul, exec_and, exec_or, exec_xor, exec_shl, exec_shr, exec_sra, exec_li, exec_lih, exec_getcc,
      exec_getid, execAdd, execSub, execMul, execAnd, execOr, execXor, execShl, execShr, execSra, execLi, execLih, execGetcc, execGetid]
    exact scalar_behindGuard ..
  case tagSet | tagGet | tdescLd | tdescSt | tdescSetf | scaleRd | scaleMark =>
    simp only [exec_tagSet, exec_tagGet, exec_tdescLd, exec_tdescSt, exec_tdescSetf, exec_scaleRd, exec_scaleMark, execTagSet, execTagGet,
      execTdescLd, execTdescSt, execTdescSetf, execScaleRd, execScaleMark, tagOp]
    exact tagOpStop_behindGuard ..
  case cmp | ld | st | br | jr | endCmd | loads | stream | drain | engSeed | vop | move | stash | fetch | coll | send | fenceStep |
    waitArr | arrClr | waitT | waitMsg | signal | nop =>
    simp only [exec_cmp, exec_ld, exec_st, exec_br, exec_jr, exec_endCmd, exec_loads, exec_stream, exec_drain, exec_engSeed, exec_vop,
      exec_move, exec_stash, exec_fetch, exec_coll, exec_send, exec_fenceStep, exec_waitArr, exec_arrClr, exec_waitT, exec_waitMsg,
      exec_signal, exec_nop, execCmp, execLd, execSt, execBr, execJr, execEnd, execLoads, execStream, execDrain, execEngSeed, execVop,
      execMove, execStash, execFetch, execColl, execSend, execFenceStep, execWaitArr, execArrClr, execWaitT, execWaitMsg, execSignal,
      execNop, issue]
    exact issueStop_behindGuard ..
  case tile16Mma | tile32Mma =>
    simp only [exec_tile16Mma, exec_tile32Mma, execTile16Mma, execTile32Mma, tileForm]
    exact issueStop_behindGuard ..
  all_goals exact absurd rfl encoded

/-- An instruction of a context that could run it, were the sense of its guard the other one, is passed by (R84). -/
theorem issueStop_unguarded {i : Iss} {s : State} (h : CanRun { i with pneg := !i.pneg } s) (illegal : Bool)
    (stop : Nat → Nat → Ctx → Bool) (body : Nat → Nat → Ctx → State) :
    issueStop i illegal s stop body =
      .next ((s.advance i.core.toNat i.ctx.toNat).noteIssue i.core.toNat i.ctx.toNat) := by
  obtain ⟨hc, hrun, hst, hwait, hserves, notOver, hreplay, hturn, hfetch, hguard⟩ := h
  unfold ctxAt at hrun hst hwait notOver hfetch hguard
  have hok : coreOk i.core = true := by simpa [coreOk] using hc
  have hmay : s.mayIssue i.core.toNat i.ctx.toNat = true := by
    simp [State.mayIssue, Ctx.canIssue, hrun, hst, hserves, notOver, hreplay]
  have hfalse : (s.ctx i.core.toNat i.ctx.toNat).guarded i = false := by
    unfold Ctx.guarded at hguard ⊢
    generalize Ctx.pred _ _ = p at *
    cases p <;> cases hn : i.pneg <;> simp [hn] at hguard ⊢
  unfold issueStop
  simp [hok, hmay, hturn, hst, hfetch, hfalse]

/-- p0 is 1, so that only PNEG = 1 makes a guard by p0 false (R84). -/
theorem unguarded_pred {i : Iss} {s : State} (h : CanRun { i with pneg := !i.pneg } s) : i.pred ≠ 0 ∨ i.pneg = true := by
  obtain ⟨-, -, -, -, -, -, -, -, -, hguard⟩ := h
  by_contra hno
  simp only [not_or, not_not, Bool.not_eq_true] at hno
  obtain ⟨hp, hn⟩ := hno
  simp [Ctx.guarded, Ctx.pred, hp, hn] at hguard

/-- A guarding predicate that is 0 lets an instruction take its slot and change nothing (R84). -/
theorem staex_passes {c : Instr} {i : Iss} (staex : Staex c i) {s : State} (h : CanRun { i with pneg := !i.pneg } s) :
    IssuesCtx i s (exec c s) (pastInstr (ctxAt s i)) := by
  obtain ⟨illegal, stop, body, run⟩ := staex_behindGuard staex s
  rw [run, issueStop_unguarded h]
  exact ⟨_, rfl, advance_noteIssue_ctxChange h.notHeld h.notPassed⟩

/-- A context whose command runs halts with reason `r`, whatever it waited for (R86). -/
theorem halt_ends {s : State} {c x : Nat} (hrun : (s.ctx c x).run.isSome = true) (hst : (s.ctx c x).st = .ready)
    (rep : Reportable s (s.ctx c x)) (r : Nat) : EndsCommand (s.setLastReason c x r) (s.halt c x r) c x r .halted := by
  have told : (s.setLastReason c x r).ctx c x = { s.ctx c x with lastReason := BitVec.ofNat 16 r } := State.updCtx_ctx_same ..
  have halted : s.halt c x r = (s.setLastReason c x r).endCommand c x r .halted := by
    unfold State.halt
    dsimp only
    rw [told, if_neg (by simp [hst])]
  rw [halted]
  refine endCommand_ends ?_ ?_ r .halted
  · rw [told]
    exact hrun
  · rw [told]
    exact fun q hq hq0 => (accessReason_updCtx s c x _ _ _).trans (rep q hq hq0)

/-- A word that the reference does not define halts its context (R83, R85). -/
theorem illegalInstruction_halts {s : State} {c : BitVec 7} {x : BitVec 2} {word : W64} (core : c.toNat < 96)
    (hrun : (s.ctx c.toNat x.toNat).run.isSome = true) (hst : (s.ctx c.toNat x.toNat).st = .ready)
    (serves : s.coreServes c.toNat = true) (within : s.overran (s.ctx c.toNat x.toNat) = false)
    (noReplay : s.underReplay c.toNat = false) (turn : s.turn c.toNat x.toNat = true)
    (fetched : s.fetchReason c.toNat (s.ctx c.toNat x.toNat).pc.toNat = 0) (undefined : decodeStaex c x word = none)
    (rep : Reportable s (s.ctx c.toNat x.toNat)) :
    HaltsWith { core := c, ctx := x } s (exec (.illegalInstruction c x word) s) rsILLEGAL := by
  have ends := halt_ends hrun hst rep rsILLEGAL
  obtain ⟨left, cycle⟩ := ends.leaves
  have told : (s.setLastReason c.toNat x.toNat rsILLEGAL).ctx c.toNat x.toNat =
      { s.ctx c.toNat x.toNat with lastReason := BitVec.ofNat 16 rsILLEGAL } := State.updCtx_ctx_same ..
  have notPassed : (s.ctx c.toNat x.toNat).passed ≠ some s.cycle := by
    unfold State.turn at turn
    simp only [Bool.and_eq_true, bne_iff_ne] at turn
    exact turn.1.2
  have issued := noteIssue_ctxChange (s := s.halt c.toNat x.toNat rsILLEGAL) (c := c.toNat) (x := x.toNat) (by rw [left]; rfl)
    (by rw [left, cycle, told]; exact notPassed)
  have may : s.mayIssue c.toNat x.toNat = true := by simp [State.mayIssue, Ctx.canIssue, hrun, hst, serves, within, noReplay]
  refine ⟨s.halt c.toNat x.toNat rsILLEGAL, (s.halt c.toNat x.toNat rsILLEGAL).noteIssue c.toNat x.toNat, ?_, ends, ?_⟩
  · rw [exec_illegalInstruction, execIllegalInstruction, issueStop]
    simp [coreOk, core, undefined, may, turn, hst, fetched, Ctx.guarded, Ctx.pred]
  · rw [← issuedAt_congr (s := s) (cycle.trans rfl)]
    exact issued

end Sys2Proof.Machine

open Sys2Proof Sys2Proof.Machine

/-- Settles O53: every instruction is issued through `issueStop`, whose guard comes before its other checks and its body. -/
theorem predicatesGuard : Obligations.PredicatesGuard := by
  unfold Obligations.PredicatesGuard
  refine ⟨fun s c x => rfl, fun i s cond sa b run hc => ?_, fun i s c staex run => ⟨staex_passes staex run, unguarded_pred run⟩,
    fun s c x word core hrun hst serves within noReplay turn fetched undefined rep =>
      illegalInstruction_halts core hrun hst serves within noReplay turn fetched undefined rep⟩
  obtain ⟨t, next, -, -, preds⟩ := cmp_writes run 0 hc sa b
  refine ⟨t, next, fun n => (preds n).trans ?_⟩
  by_cases hn : n = 0
  · rw [if_pos hn, hn] <;> rfl
  · rw [if_neg hn, if_neg hn]
end

section
/-! SQ_ENGINE_MAP, SQ_SLOT_INIT and TASTE_N (R93, R217, R218, R255): what an accepted write of each does after its word is stored. -/

namespace Sys2Proof.Machine

/-! ### One accepted word of a core's SQ block -/

theorem ctlWrite_word {s : State} {w : Writer} {b i o v : Nat} (hb : b < 256) (hi : i < 4096) (ho : o < 65536) (h0 : b ≠ 0)
    (hv : v < 2 ^ 32) (accepted : s.ctlRefusal w (ctlAddr b i o) 4 v = 0) :
    s.ctlWrite w (ctlAddr b i o) 4 v = s.applyWord w (b, i, o, v) := by
  rw [State.ctlWrite_accepted accepted, State.ctlApply_single s w (ctlWords_ctlAddr _ hb hi ho) (s.csOf_ctlAddr _ hb hi ho h0),
    Nat.mod_eq_of_lt hv]

/-- Bit 31 of TASTER_CFG resets the core's counters (R57); no other word of SQ_CFG does, and none of these words is a command. -/
theorem applyWord_settings (s : State) (w : Writer) (c v : Nat) {o : Nat} (ho : o = 0x10 ∨ o = 0x400 ∨ o = 0x408)
    (noReset : o = 0x400 → bitAt v 31 = false) :
    (s.applyWord w (0x10, c, o, v)).2 = (s.storeWord 0x10 c o v).wordEffect 0x10 c o (s.word 0x10 c o).toNat v := by
  have keeps : ∀ t : State, (if bitAt v 31 = true then t.resetCounters 0x10 c o else t) = t := by
    intro t
    rcases ho with rfl | rfl | rfl
    · exact ite_self t
    · rw [noReset rfl, if_neg Bool.false_ne_true]
    · exact ite_self t
  have noCommand : cmdFn 0x10 c o = none := by rcases ho with rfl | rfl | rfl <;> rfl
  unfold State.applyWord
  simp [keeps, noCommand]

theorem settings_write {s : State} {w : Writer} {c o v : Nat} (hc : c < 4096) (hv : v < 2 ^ 32) (ho : o = 0x10 ∨ o = 0x400 ∨ o = 0x408)
    (noReset : o = 0x400 → bitAt v 31 = false) (accepted : s.ctlRefusal w (ctlAddr 0x10 c o) 4 v = 0) :
    (s.ctlWrite w (ctlAddr 0x10 c o) 4 v).2 = (s.storeWord 0x10 c o v).wordEffect 0x10 c o (s.word 0x10 c o).toNat v := by
  rw [ctlWrite_word (by decide) hc (by omega) (by decide) hv accepted, applyWord_settings s w c v ho noReset]

/-! ### Attachments of an engine's former owner (R93) -/

section
variable (s : State) (c m x : Nat)

theorem disown_frame : s.disown c m x = { s with cores := (s.disown c m x).cores, ctxs := (s.disown c m x).ctxs } := by
  unfold State.disown
  split <;> rfl

theorem mem_attach_disown (a : Attach) :
    a ∈ ((s.disown c m x).core c).attach ↔ a ∈ (s.core c).attach ∧ ¬ (a.eng = m ∧ a.x = x) := by
  unfold State.disown
  split
  · show a ∈ ((s.dropAttach c x m).core c).attach ↔ _
    rw [State.dropAttach, State.updCore_core_same]
    simp only [List.mem_filter, Bool.not_eq_true', Bool.and_eq_false_iff, beq_eq_false_iff_ne]
    tauto
  · rename_i none
    simp only [List.any_eq_true, Bool.and_eq_true, beq_iff_eq, not_exists, not_and] at none
    exact ⟨fun ha => ⟨ha, fun ⟨he, hx⟩ => none a ha he hx⟩, fun ⟨ha, _⟩ => ha⟩

/-- A context that has been told NOT_OWNER stays told so. -/
theorem lastReason_disown {y : Nat} (told : (s.ctx c y).lastReason = BitVec.ofNat 16 rsNOT_OWNER) :
    ((s.disown c m x).ctx c y).lastReason = BitVec.ofNat 16 rsNOT_OWNER := by
  unfold State.disown
  split
  · by_cases hy : y = x
    · subst hy
      rw [State.setLastReason, State.updCtx_ctx_same]
    · rw [State.setLastReason, State.ctx, State.updCtx_get_ne _ _ _ _ (by omega)]
      exact told
  · exact told

/-- The owner of a dropped attachment is told NOT_OWNER. -/
theorem lastReason_of_dropped {a : Attach} (ha : a ∈ (s.core c).attach) (gone : a ∉ ((s.disown c m x).core c).attach) :
    ((s.disown c m x).ctx c a.x).lastReason = BitVec.ofNat 16 rsNOT_OWNER := by
  have owned : a.eng = m ∧ a.x = x := by
    by_contra h
    exact gone ((mem_attach_disown s c m x a).mpr ⟨ha, h⟩)
  obtain ⟨he, hx⟩ := owned
  unfold State.disown
  rw [if_pos (List.any_eq_true.mpr ⟨a, ha, by simp [he, hx]⟩), hx, State.setLastReason, State.updCtx_ctx_same]

end

/-- The owner of engine `m` in an engine map. -/
def mapOwner (v m : Nat) : Nat := bitsOf v (2 * m + 1) (2 * m)

/-- What a change of the engine map does at one engine. -/
def State.mapEngine (c old new : Nat) (s : State) (m : Nat) : State :=
  if mapOwner new m = mapOwner old m then s else s.disown c m (mapOwner old m)

theorem mapEngines_eq (s : State) (c old new : Nat) : s.mapEngines c old new = (List.range 4).foldl (State.mapEngine c old new) s := rfl

section
variable (c old new : Nat)

theorem mapEngine_frame (s : State) (m : Nat) :
    s.mapEngine c old new m = { s with cores := (s.mapEngine c old new m).cores, ctxs := (s.mapEngine c old new m).ctxs } := by
  unfold State.mapEngine
  split
  · rfl
  · exact disown_frame s c m _

theorem mem_attach_mapEngine (s : State) (m : Nat) (a : Attach) :
    a ∈ ((s.mapEngine c old new m).core c).attach ↔
      a ∈ (s.core c).attach ∧ ¬ (a.eng = m ∧ mapOwner old m = a.x ∧ mapOwner new m ≠ a.x) := by
  unfold State.mapEngine
  split
  · rename_i h
    exact ⟨fun ha => ⟨ha, fun ⟨_, ho, hn⟩ => hn (h.trans ho)⟩, fun ⟨ha, _⟩ => ha⟩
  · rename_i h
    rw [mem_attach_disown]
    exact and_congr_right fun _ => not_congr ⟨fun ⟨he, hx⟩ => ⟨he, hx.symm, hx ▸ h⟩, fun ⟨he, hx, _⟩ => ⟨he, hx.symm⟩⟩

theorem lastReason_mapEngine (s : State) (m : Nat) {y : Nat} (told : (s.ctx c y).lastReason = BitVec.ofNat 16 rsNOT_OWNER) :
    ((s.mapEngine c old new m).ctx c y).lastReason = BitVec.ofNat 16 rsNOT_OWNER := by
  unfold State.mapEngine
  split
  · exact told
  · exact lastReason_disown s c m _ told

theorem foldl_mapEngine_frame (ms : List Nat) (s : State) : ms.foldl (State.mapEngine c old new) s =
    { s with cores := (ms.foldl (State.mapEngine c old new) s).cores, ctxs := (ms.foldl (State.mapEngine c old new) s).ctxs } := by
  induction ms generalizing s with
  | nil => rfl
  | cons m ms ih =>
    rw [List.foldl_cons, ih, mapEngine_frame]

theorem mem_attach_foldl_mapEngine (ms : List Nat) (s : State) (a : Attach) :
    a ∈ ((ms.foldl (State.mapEngine c old new) s).core c).attach ↔
      a ∈ (s.core c).attach ∧ ¬ (a.eng ∈ ms ∧ mapOwner old a.eng = a.x ∧ mapOwner new a.eng ≠ a.x) := by
  induction ms generalizing s with
  | nil => simp
  | cons m ms ih =>
    rw [List.foldl_cons, ih, mem_attach_mapEngine]
    by_cases he : a.eng = m
    · subst he
      simp only [true_and, List.mem_cons, true_or]
      tauto
    · simp only [he, false_and, not_false_eq_true, and_true, List.mem_cons, false_or]

theorem lastReason_foldl_mapEngine (ms : List Nat) (s : State) {y : Nat} (told : (s.ctx c y).lastReason = BitVec.ofNat 16 rsNOT_OWNER) :
    ((ms.foldl (State.mapEngine c old new) s).ctx c y).lastReason = BitVec.ofNat 16 rsNOT_OWNER := by
  induction ms generalizing s with
  | nil => exact told
  | cons m ms ih => exact ih _ (lastReason_mapEngine c old new s m told)

theorem dropped_foldl_mapEngine (ms : List Nat) (s : State) {a : Attach} (ha : a ∈ (s.core c).attach)
    (gone : a ∉ ((ms.foldl (State.mapEngine c old new) s).core c).attach) :
    ((ms.foldl (State.mapEngine c old new) s).ctx c a.x).lastReason = BitVec.ofNat 16 rsNOT_OWNER := by
  induction ms generalizing s with
  | nil => exact absurd ha gone
  | cons m ms ih =>
    by_cases kept : a ∈ ((s.mapEngine c old new m).core c).attach
    · exact ih _ kept gone
    · refine lastReason_foldl_mapEngine c old new ms _ ?_
      unfold State.mapEngine at kept ⊢
      split at kept
      · exact absurd ha kept
      · rename_i h
        rw [if_neg h]
        exact lastReason_of_dropped s c m _ ha kept

end

/-! ### Taster windows (R255) -/

/-- One engine of the core starts a new taster window. -/
def State.newWindow (c : Nat) (s : State) (m : Nat) : State := s.updEng c m (fun e => { e with tasteWin := none, tasteCnt := 0 })

theorem newWindows_eq (s : State) (c : Nat) : s.newWindows c = (List.range 4).foldl (State.newWindow c) s := rfl

theorem foldl_newWindow_frame (c : Nat) (ms : List Nat) (s : State) :
    ms.foldl (State.newWindow c) s = { s with engines := (ms.foldl (State.newWindow c) s).engines } := by
  induction ms generalizing s with
  | nil => rfl
  | cons m ms ih =>
    rw [List.foldl_cons, ih]
    rfl

theorem foldl_newWindow_eng (c m : Nat) (ms : List Nat) (s : State) :
    (ms.foldl (State.newWindow c) s).eng c m = if m ∈ ms then { s.eng c m with tasteWin := none, tasteCnt := 0 } else s.eng c m := by
  induction ms generalizing s with
  | nil => rfl
  | cons n ms ih =>
    rw [List.foldl_cons, ih]
    by_cases hm : m = n
    · subst hm
      rw [State.newWindow, State.updEng_eng_same, if_pos List.mem_cons_self]
      split <;> rfl
    · have other : (s.newWindow c n).eng c m = s.eng c m := State.updEng_get_ne _ _ _ _ (by omega)
      simp only [other, List.mem_cons, hm, false_or]

theorem newWindows_frame (s : State) (c : Nat) : s.newWindows c = { s with engines := (s.newWindows c).engines } := by
  rw [newWindows_eq]
  exact foldl_newWindow_frame ..

theorem newWindows_eng (s : State) (c : Nat) {m : Nat} (hm : m < 4) :
    (s.newWindows c).eng c m = { s.eng c m with tasteWin := none, tasteCnt := 0 } := by
  rw [newWindows_eq, foldl_newWindow_eng, if_pos (List.mem_range.mpr hm)]

theorem bitAt_31_setBits {v hi lo x : Nat} (hv : v < 2 ^ 31) (hh : hi < 31) (hl : lo ≤ hi) : bitAt (setBits v hi lo x) 31 = false := by
  have top : bitsOf (setBits v hi lo x) 31 31 = bitsOf v 31 31 := bitsOf_setBits_apart _ _ hl (.inl hh)
  have read : ∀ n, bitAt n 31 = (bitsOf n 31 31 == 1) := fun _ => rfl
  rw [read, top, bitsOf, Nat.div_eq_of_lt hv]
  rfl

theorem firstNonzero_ne_zero {rs : List Nat} (h : ∃ r ∈ rs, r ≠ 0) : firstNonzero rs ≠ 0 := by
  induction rs with
  | nil =>
    obtain ⟨r, hr, -⟩ := h
    cases hr
  | cons q rs ih =>
    unfold firstNonzero
    split
    · assumption
    · rename_i hq
      obtain ⟨r, hr, hr0⟩ := h
      rcases List.mem_cons.mp hr with rfl | hr
      · exact absurd hr0 hq
      · exact ih ⟨r, hr, hr0⟩

/-- A value that its register does not take is refused (R53). -/
theorem ctlRefusal_of_value (s : State) (w : Writer) {b i o v : Nat} (hb : b < 256) (hi : i < 4096) (ho : o < 65536)
    (bad : s.valueReason (b, i, o, v % 2 ^ 32) ≠ 0) : s.ctlRefusal w (ctlAddr b i o) 4 v ≠ 0 := by
  unfold State.ctlRefusal
  split
  · assumption
  · dsimp only
    rw [ctlWords_ctlAddr _ hb hi ho]
    exact firstNonzero_ne_zero ⟨_, by simp, firstNonzero_ne_zero ⟨_, List.mem_singleton_self _, bad⟩⟩

/-- TASTE_N takes 0 and 4 to 16 (R255). -/
theorem valueReason_badTaste (s : State) (c v : Nat) {n : BitVec 5} (bad : 1 ≤ n.toNat ∧ n.toNat ≤ 3 ∨ 17 ≤ n.toNat) :
    s.valueReason (0x10, c, 0x400, setBits v 20 16 n.toNat) ≠ 0 := by
  have taste : bitsOf (setBits v 20 16 n.toNat) 20 16 = n.toNat := (bitsOf_setBits_same _ _ (by decide)).trans (Nat.mod_eq_of_lt n.isLt)
  have isBad : badTaste n.toNat = true := by simpa [badTaste] using bad
  simp [State.valueReason, taste, isBad, chk, rsBAD_SETTING]

/-! ### The three words -/

/-- The engine map: its owners, and the attachments that the new map drops (R93). -/
theorem storeWord_mapEngines (s : State) (c v : Nat) :
    let t := (s.storeWord 0x10 c 0x10 v).mapEngines c (s.word 0x10 c 0x10).toNat v
    t = { s with ctl := t.ctl, rsv := t.rsv, cores := t.cores, ctxs := t.ctxs } ∧
    (∀ m < 4, t.fld 0x10 c 0x10 (2 * m + 1) (2 * m) = v / 2 ^ (2 * m) % 4) ∧
    OnlyWords s t [ctlKey 0x10 c 0x10] ∧
    (∀ a, a ∈ (t.core c).attach ↔ a ∈ (s.core c).attach ∧
      ¬ (a.eng < 4 ∧ s.fld 0x10 c 0x10 (2 * a.eng + 1) (2 * a.eng) = a.x ∧ v / 2 ^ (2 * a.eng) % 4 ≠ a.x)) ∧
    ∀ a ∈ (s.core c).attach, a ∉ (t.core c).attach → (t.ctx c a.x).lastReason = BitVec.ofNat 16 rsNOT_OWNER := by
  intro t
  have stored := s.storeWord_frame 0x10 c 0x10 v
  have mapped := foldl_mapEngine_frame c (s.word 0x10 c 0x10).toNat v (List.range 4) (s.storeWord 0x10 c 0x10 v)
  have cores : (s.storeWord 0x10 c 0x10 v).cores = s.cores := by rw [stored]
  have core : (s.storeWord 0x10 c 0x10 v).core c = s.core c := by rw [State.core, cores]; rfl
  have ctl : t.ctl = (s.storeWord 0x10 c 0x10 v).ctl := by rw [show t = _ from mapped]
  have owner : ∀ m, mapOwner v m = v / 2 ^ (2 * m) % 4 := fun m => by
    rw [mapOwner, bitsOf, show 2 * m + 1 + 1 - 2 * m = 2 by omega]
    rfl
  refine ⟨?_, fun m hm => ?_, fun b i o h => ?_, fun a => ?_, fun a ha gone => ?_⟩
  · rw [show t = _ from mapped, stored]
  · have field := s.storeWord_fld (b := 0x10) (i := c) (o := 0x10) v rfl (f := { acc := .rwl, hi := 2 * m + 1, lo := 2 * m })
      (by obtain rfl | rfl | rfl | rfl : m = 0 ∨ m = 1 ∨ m = 2 ∨ m = 3 := by omega
          all_goals simp)
    rw [State.fld, word_ctl _ _ ctl, ← owner]
    exact field
  · rw [word_ctl _ _ ctl]
    exact s.storeWord_onlyWords _ _ _ _ b i o h
  · have h := mem_attach_foldl_mapEngine c (s.word 0x10 c 0x10).toNat v (List.range 4) (s.storeWord 0x10 c 0x10 v) a
    rw [core, List.mem_range, owner] at h
    exact h
  · exact dropped_foldl_mapEngine c _ v (List.range 4) _ (core ▸ ha) gone

theorem storeWord_resetSlot (s : State) (c v : Nat) :
    let t := (s.storeWord 0x10 c 0x408 v).resetSlot c (bitsOf v 11 0) (bitsOf v 28 27) (bitsOf v 26 25) (bitsOf v 24 21)
    t = { s with rsv := t.rsv, mem := t.mem, ue := t.ue, sce := t.sce } ∧
      Stored s t (s.slotAddr c (v % 2 ^ 12)) (slotRecord (v / 2 ^ 27 % 4) (v / 2 ^ 25 % 4) (v / 2 ^ 21 % 16)) := by
  intro t
  have stored := s.storeWord_frame 0x10 c 0x408 v
  have ctl : (s.storeWord 0x10 c 0x408 v).ctl = s.ctl := by
    rw [State.storeWord_ctl, State.restored]
    exact congrArg State.ctl (if_pos rfl)
  rw [ctl] at stored
  have written := writeMem_frame (s.storeWord 0x10 c 0x408 v) ((s.storeWord 0x10 c 0x408 v).slotAddr c (bitsOf v 11 0))
    (slotRecord (bitsOf v 28 27) (bitsOf v 26 25) (bitsOf v 24 21))
  have addr : (s.storeWord 0x10 c 0x408 v).slotAddr c (bitsOf v 11 0) = s.slotAddr c (v % 2 ^ 12) := by
    rw [stored, bitsOf, pow_zero, Nat.div_one]
    rfl
  refine ⟨?_, fun j => ?_⟩
  · rw [show t = _ from written, stored]
  · have bytes : (s.storeWord 0x10 c 0x408 v).byte j = s.byte j := by
      rw [stored]
      rfl
    show ((s.storeWord 0x10 c 0x408 v).writeMem _ _).byte j = _
    rw [byte_writeMem, addr, bytes]
    rfl

/-- The fields of TASTER_CFG. -/
def tasterFlds : List Fld :=
  [wo31, { acc := .rwl, hi := 24, lo := 21, rst := 11 }, { acc := .rwl, hi := 20, lo := 16 }, { acc := .rw, hi := 11, lo := 0 }]

/-- TASTER_CFG: its fields, and the new taster windows (R255). -/
theorem storeWord_newWindows {s t : State} {c v : Nat} (ht : t = (s.storeWord 0x10 c 0x400 v).newWindows c) :
    t = { s with ctl := t.ctl, rsv := t.rsv, engines := t.engines } ∧
      t.fld 0x10 c 0x400 20 16 = bitsOf v 20 16 ∧ t.fld 0x10 c 0x400 24 21 = bitsOf v 24 21 ∧ t.fld 0x10 c 0x400 11 0 = bitsOf v 11 0 ∧
      OnlyWords s t [ctlKey 0x10 c 0x400] ∧ ∀ m < 4, t.eng c m = { s.eng c m with tasteWin := none, tasteCnt := 0 } := by
  have stored := s.storeWord_frame 0x10 c 0x400 v
  have windows : t = { s.storeWord 0x10 c 0x400 v with engines := t.engines } := by
    rw [ht]
    exact newWindows_frame (s.storeWord 0x10 c 0x400 v) c
  have ctl : t.ctl = (s.storeWord 0x10 c 0x400 v).ctl := by rw [windows]
  have engines : (s.storeWord 0x10 c 0x400 v).engines = s.engines := by rw [stored]
  have field : ∀ f ∈ tasterFlds, t.fld 0x10 c 0x400 f.hi f.lo = fieldAfter f (s.fld 0x10 c 0x400 f.hi f.lo) (bitsOf v f.hi f.lo) :=
    fun f hf => by
      rw [State.fld, word_ctl _ _ ctl]
      exact s.storeWord_fld _ rfl hf
  refine ⟨?_, field { acc := .rwl, hi := 20, lo := 16 } (by simp [tasterFlds]),
    field { acc := .rwl, hi := 24, lo := 21, rst := 11 } (by simp [tasterFlds]), field { acc := .rw, hi := 11, lo := 0 } (by simp [tasterFlds]),
    fun b i o h => ?_, fun m hm => ?_⟩
  · rw [stored] at windows
    rw [windows]
  · rw [word_ctl _ _ ctl]
    exact s.storeWord_onlyWords _ _ _ _ b i o h
  · rw [show s.eng c m = (s.storeWord 0x10 c 0x400 v).eng c m by rw [State.eng, State.eng, engines], ht]
    exact newWindows_eng _ c hm

end Sys2Proof.Machine

open Sys2Proof Sys2Proof.Machine

/-- Settles O26: an accepted write stores its word, and the effect of each of the three words is then the one stated. -/
theorem coreSettings : Obligations.CoreSettings := by
  unfold Obligations.CoreSettings
  intro s w c hc
  have hi : c.toNat < 4096 := by omega
  refine ⟨fun v => ⟨fun accepted => ?_, fun refused => ?_⟩, fun v => ⟨fun accepted hv => ?_, fun refused => ?_⟩,
    fun n hw => ⟨fun accepted => ?_, fun refused => ?_, fun bad => ?_⟩⟩
  · have next : exec (.engineMapWrite w c v) s =
        .next ((s.storeWord 0x10 c.toNat 0x10 v.toNat).mapEngines c.toNat (s.word 0x10 c.toNat 0x10).toNat v.toNat) := by
      rw [exec_engineMapWrite, execEngineMapWrite, coreOk_of_lt hc, settings_write hi v.isLt (.inl rfl) (by simp) accepted]
      rfl
    obtain ⟨frame, owners, only, attach, told⟩ := storeWord_mapEngines s c.toNat v.toNat
    exact ⟨_, next, frame, owners, only, attach, told⟩
  · rw [exec_engineMapWrite, execEngineMapWrite, State.ctlWrite_refused refused, coreOk_of_lt hc]
    rfl
  · have noReset : (0x408 : Nat) = 0x400 → bitAt v.toNat 31 = false := by simp
    rw [exec_sqSlotInit, execSqSlotInit, coreOk_of_lt hc, settings_write hi v.isLt (.inr (.inr rfl)) noReset accepted]
    obtain ⟨frame, stored⟩ := storeWord_resetSlot s c.toNat v.toNat
    exact ⟨_, rfl, frame, stored⟩
  · rw [exec_sqSlotInit, execSqSlotInit, State.ctlWrite_refused refused, coreOk_of_lt hc]
    rfl
  · obtain ⟨frame, taste, limit, slots, only, windows⟩ := storeWord_newWindows (s := s) (c := c.toNat)
      (v := setBits (s.word 0x10 c.toNat 0x400).toNat 20 16 n.toNat) rfl
    have next : exec (.tasteNWrite w c n) s =
        .next ((s.storeWord 0x10 c.toNat 0x400 (setBits (s.word 0x10 c.toNat 0x400).toNat 20 16 n.toNat)).newWindows c.toNat) := by
      rw [exec_tasteNWrite, execTasteNWrite, coreOk_of_lt hc, settings_write hi (setBits_lt (BitVec.isLt _) (by decide) (by decide))
        (.inr (.inl rfl)) (fun _ => bitAt_31_setBits hw (by decide) (by decide)) accepted]
      rfl
    exact ⟨_, next, frame, taste.trans ((bitsOf_setBits_same _ _ (by decide)).trans (Nat.mod_eq_of_lt n.isLt)),
      limit.trans (bitsOf_setBits_apart _ _ (by decide) (.inl (by decide))),
      slots.trans (bitsOf_setBits_apart _ _ (by decide) (.inr (by decide))), only, windows⟩
  · rw [exec_tasteNWrite, execTasteNWrite, State.ctlWrite_refused refused, coreOk_of_lt hc]
    rfl
  · exact ctlRefusal_of_value s w (by decide) hi (by decide) (by
      rw [Nat.mod_eq_of_lt (setBits_lt (BitVec.isLt _) (by decide) (by decide))]
      exact valueReason_badTaste s c.toNat _ bad)
end

section
/-! The work on scale slots that instructions do at issue and engines at start (R219, R223, R271): it writes memory in the slot table alone and
registers only where a read meets an error. -/

namespace Sys2Proof.Machine

/-! ### Reads that meet errors -/

theorem correct_frame (s : State) (ws : List Nat) : s.correct ws = { s with ctl := (s.correct ws).ctl, sce := (s.correct ws).sce } := by
  unfold State.correct
  split
  · rfl
  · have h : OnlyCtl _ s := OnlyCtl.trans (setFlagN_onlyCtl (s.count64 0x20 0 0x58 ws.length) ws.length 0x20 0 0x18 3)
      (count64_onlyCtl s 0x20 0 0x58 ws.length)
    unfold OnlyCtl at h
    rw [h]

theorem ueEvents_onlyCtl (s : State) (gs : List Nat) : OnlyCtl (gs.foldl (fun s g => s.ueEvent g 0) s) s := by
  induction gs generalizing s with
  | nil => exact .refl s
  | cons g gs ih => exact OnlyCtl.trans (ih _) (ueEvent_onlyCtl s g 0)

/-- The errors that a read meets are noted in MS's registers, and corrected words leave the list of those in error. -/
theorem noteErrors_frame (s : State) (gs ws : List Nat) : (gs.foldl (fun s g => s.ueEvent g 0) s).correct ws =
    { s with ctl := ((gs.foldl (fun s g => s.ueEvent g 0) s).correct ws).ctl,
             sce := ((gs.foldl (fun s g => s.ueEvent g 0) s).correct ws).sce } := by
  have h := ueEvents_onlyCtl s gs
  unfold OnlyCtl at h
  rw [correct_frame]
  generalize gs.foldl (fun s g => s.ueEvent g 0) s = u at *
  rw [h]

theorem noteErrors_onlyWords (s : State) (gs ws : List Nat) :
    OnlyWords s ((gs.foldl (fun s g => s.ueEvent g 0) s).correct ws) errorKeys :=
  (foldl_onlyWords (fun s g => ueEvent_onlyWords s g 0) gs s).trans (correct_onlyWords _ ws)

theorem errHits_nil (rs : List (TDesc × Rect)) : errHits [] rs = [] := by
  unfold errHits
  rfl

/-! ### What slot work leaves -/

/-- `t` comes from `s` by work on the scale slots of core `c`: memory changes in the slot table alone, and registers only where a read met an
error. -/
structure SlotWork (c : Nat) (s t : State) : Prop where
  frame : t = { s with mem := t.mem, ue := t.ue, sce := t.sce, ctl := t.ctl }
  words : OnlyWords s t errorKeys
  bytes : OutsideSlots s t c
  quiet : s.ue = [] → s.sce = [] → t.ue = [] ∧ t.sce = [] ∧ t.ctl = s.ctl

/-- A word of a core's SQ block is no word that an error changes. -/
theorem sqKey_notError {c o : Nat} (hc : c < 4096) : ctlKey 0x10 c o ∉ errorKeys ∨ 65536 ≤ o := by
  by_cases ho : o < 65536
  · refine .inl fun h => ?_
    simp only [errorKeys, ctlKey, List.map_cons, List.map_nil, List.mem_cons, List.not_mem_nil, or_false] at h
    omega
  · exact .inr (by omega)

namespace SlotWork

variable {c : Nat} {s t u : State}

theorem refl (c : Nat) (s : State) : SlotWork c s s := ⟨rfl, .refl s _, fun _ _ => rfl, fun hu hs => ⟨hu, hs, rfl⟩⟩

theorem sqFld (h : SlotWork c s t) {d o : Nat} (hd : d < 4096) (ho : o < 65536) (hi lo : Nat) : t.fld 0x10 d o hi lo = s.fld 0x10 d o hi lo :=
  h.words.fld ((sqKey_notError hd).resolve_right (by omega)) hi lo

theorem slotAddr (h : SlotWork c s t) (hc : c < 4096) (i : Nat) : t.slotAddr c i = s.slotAddr c i := by
  unfold State.slotAddr State.slotOff
  rw [h.sqFld hc (by decide)]

theorem slotCount (h : SlotWork c s t) (hc : c < 4096) : t.slotCount c = s.slotCount c := h.sqFld hc (by decide) 11 0

theorem inSlots (h : SlotWork c s t) (hc : c < 4096) (j : Nat) : InSlots t c j ↔ InSlots s c j := by
  unfold InSlots
  rw [h.sqFld hc (by decide), h.sqFld hc (by decide)]

theorem trans (h : SlotWork c s t) (hc : c < 4096) (k : SlotWork c t u) : SlotWork c s u where
  frame := by
    have h1 := k.frame
    rw [h.frame] at h1
    exact h1
  words := h.words.trans k.words
  bytes := fun j hj => (k.bytes j (fun hj' => hj ((h.inSlots hc j).mp hj'))).trans (h.bytes j hj)
  quiet := fun hu hs => by
    obtain ⟨tu, ts, tc⟩ := h.quiet hu hs
    obtain ⟨uu, us, uc⟩ := k.quiet tu ts
    exact ⟨uu, us, uc.trans tc⟩

theorem numOnly (h : SlotWork c s t) : NumOnly t s := by
  unfold NumOnly
  rw [h.frame]

end SlotWork

theorem noteErrors_slotWork (c : Nat) (s : State) (rs : List (TDesc × Rect)) : SlotWork c s (s.noteRects rs) where
  frame := by
    unfold State.noteRects
    rw [noteErrors_frame]
  words := noteErrors_onlyWords s _ _
  bytes := fun j _ => by
    unfold State.noteRects
    rw [noteErrors_frame]
    rfl
  quiet := fun hu hs => by
    have same : s.noteRects rs = s := by
      unfold State.noteRects
      rw [hu, hs, errHits_nil]
      rfl
    rw [same]
    exact ⟨hu, hs, rfl⟩

theorem noteUe_slotWork (c : Nat) (s : State) (a n : Nat) : SlotWork c s (s.noteUe a n) where
  frame := by
    unfold State.noteUe
    rw [noteErrors_frame]
  words := noteErrors_onlyWords s _ _
  bytes := fun j _ => by
    unfold State.noteUe
    rw [noteErrors_frame]
    rfl
  quiet := fun hu hs => by
    rw [noteUe_clean (by simp [State.clean, State.ueIn, hu, hs])]
    exact ⟨hu, hs, rfl⟩

theorem readSlot_slotWork (c : Nat) (s : State) (i : Nat) : SlotWork c s (s.readSlot c i) := noteUe_slotWork c s _ _

/-- What is written again is in error no longer (R290). -/
theorem errors_writeMem (s : State) (a : Nat) (bs : List Byte) : (s.writeMem a bs).ue = s.ue.filter (fun g => !errMeets a bs.length g) ∧
    (s.writeMem a bs).sce = s.sce.filter (fun g => !errMeets a bs.length g) := by
  unfold State.writeMem State.clearUe
  rw [writeBytes_frame]
  exact ⟨rfl, rfl⟩

/-- A write of part of a slot's record stays in the table. -/
theorem writeNat_slotWork {c : Nat} {s : State} {i : Nat} (hi : i < s.slotCount c) {o n : Nat} (ho : o + n ≤ 64) (v : Nat) :
    SlotWork c s (s.writeNat (s.slotAddr c i + o) n v) where
  frame := by rw [State.writeNat, writeMem_frame]
  words := fun b i' o' _ => word_ctl _ _ (by rw [State.writeNat, writeMem_frame]) b i' o'
  bytes := fun j hj => by
    rw [State.writeNat, byte_writeMem, leBytes_length, if_neg]
    unfold State.slotAddr State.slotOff coreAddr
    unfold State.slotCount at hi
    unfold InSlots coreAddr at hj
    generalize s.fld 0x10 c 0x404 24 6 * 64 = base at *
    generalize s.fld 0x10 c 0x400 11 0 = count at *
    dsimp only at hj
    omega
  quiet := fun hu hs => by
    obtain ⟨ue, sce⟩ := errors_writeMem s (s.slotAddr c i + o) (leBytes n v)
    refine ⟨?_, ?_, by rw [State.writeNat, writeMem_frame]⟩
    · rw [State.writeNat, ue, hu, List.filter_nil]
    · rw [State.writeNat, sce, hs, List.filter_nil]

theorem setSlotFld_slotWork {c : Nat} {s : State} {i : Nat} (hi : i < s.slotCount c) (h l v : Nat) : SlotWork c s (s.setSlotFld c i h l v) :=
  writeNat_slotWork hi (by decide) _

theorem slot_of_slotOk {s : State} {c : Nat} {d : TDesc} (h : ¬ (d.slot = 0xFFF || !s.slotOk c d) = true) : d.slot.toNat < s.slotCount c := by
  simp only [State.slotOk, Bool.or_eq_true, Bool.not_eq_true', Bool.or_eq_false_iff, not_or, not_and, beq_eq_false_iff_ne,
    decide_eq_true_eq, decide_eq_false_iff_not, not_not] at h
  exact h.2 h.1

theorem chooseScale_slotWork {c : Nat} (hc : c < 4096) (s : State) (d : TDesc) : SlotWork c s (s.chooseScale c d).2 := by
  unfold State.chooseScale
  split
  · exact .refl c s
  · rename_i ok
    have read := readSlot_slotWork c s d.slot.toNat
    dsimp only
    split
    · exact read
    · exact read.trans hc (setSlotFld_slotWork (by rw [read.slotCount hc]; exact slot_of_slotOk ok) _ _ _)

theorem choosePrepass_slotWork {c : Nat} (hc : c < 4096) (s : State) (d : TDesc) (a : Nat × Int) : SlotWork c s (s.choosePrepass c d a).2 := by
  have read := readSlot_slotWork c s d.slot.toNat
  unfold State.choosePrepass
  split
  · rename_i none
    dsimp only
    rw [if_pos none]
    exact .refl c s
  · dsimp only
    split
    · exact read
    · rename_i ok
      exact read.trans hc (setSlotFld_slotWork (slot_of_slotOk ok) _ _ _)

theorem markSource_slotWork {c : Nat} (hc : c < 4096) (s : State) (t : TReg) : SlotWork c s (s.markSource c t) := by
  have read := readSlot_slotWork c s t.d.slot.toNat
  unfold State.markSource
  dsimp only
  split
  · rename_i named
    simp only [Bool.and_eq_true, decide_eq_true_eq] at named
    obtain ⟨⟨-, inTable⟩, -⟩ := named
    split
    · exact read.trans hc (setSlotFld_slotWork (by rw [read.slotCount hc]; exact inTable) _ _ _)
    · exact read
  · exact .refl c s

theorem markSources_slotWork {c : Nat} (hc : c < 4096) (s : State) (ts : List TReg) : SlotWork c s (s.markSources c ts) := by
  unfold State.markSources
  induction ts generalizing s with
  | nil => exact .refl c s
  | cons t ts ih => exact (markSource_slotWork hc s t).trans hc (ih _)

end Sys2Proof.Machine
end

section
/-! COLL at issue (R91, R357 to R359, R364): the hold, what a COLL that joins its group leaves, and the release of a held one. -/

namespace Sys2Proof.Machine

/-! ### Changes of the cores alone -/

/-- `t` is `s` but for its cores. -/
def OnlyCores (t s : State) : Prop := t = { s with cores := t.cores }

theorem OnlyCores.refl (s : State) : OnlyCores s s := rfl

theorem OnlyCores.trans {a b c : State} (h : OnlyCores a b) (k : OnlyCores b c) : OnlyCores a c := by
  unfold OnlyCores at *
  rw [k] at h
  rw [h]

theorem updCore_onlyCores (s : State) (c : Nat) (f : Core → Core) : OnlyCores (s.updCore c f) s := rfl

theorem claimArr_onlyCores (s : State) (c id : Nat) (a : Option Nat) : OnlyCores (s.claimArr c id a) s := by
  unfold State.claimArr
  split
  · exact updCore_onlyCores ..
  · exact .refl s

theorem endPieces_onlyCores (s : State) (g : Nat) : OnlyCores (s.endPieces g) s := by
  unfold State.endPieces
  generalize (s.group g).ended = ks
  induction ks generalizing s with
  | nil => exact .refl s
  | cons k ks ih => exact (ih _).trans (updCore_onlyCores ..)

theorem byte_of_mem {s t : State} (h : t.mem = s.mem) (j : Nat) : t.byte j = s.byte j := by
  unfold State.byte
  rw [h]

/-! ### A COLL joins its group -/

/-- TA is read and marked, and the COLL has taken its number. -/
def State.collRead (s : State) (k : Coll) : State := (s.noteRead k.ta.t.d).markSource k.c k.ta.t

theorem collRead_slotWork {k : Coll} (hc : k.c < 4096) (s : State) : SlotWork k.c s (s.collRead k) :=
  (noteErrors_slotWork k.c s _).trans hc (markSource_slotWork hc _ _)

/-- TD is busy, and the COLL outstanding. -/
def State.collBusy (s : State) (k : Coll) : State := (s.collRead k).newId.2.updCtx k.c k.x (fun q => q.begin k.id [k.td.r] [])

/-- The arrival bits of the whole and of its pieces are cleared and pending. -/
def State.collBits (s : State) (g : Nat) (k : Coll) : State :=
  let s := (s.endPieces g).claimArr k.c k.id k.arr
  match collPieces k.ck k.td.t.d with
  | some (a, b) => s.updCore k.c (fun q => q.claimArr a b k.id)
  | none => s

theorem collBits_onlyCores (s : State) (g : Nat) (k : Coll) : OnlyCores (s.collBits g k) s := by
  have h := (claimArr_onlyCores (s.endPieces g) k.c k.id k.arr).trans (endPieces_onlyCores s g)
  unfold State.collBits
  dsimp only
  split
  · exact (updCore_onlyCores ..).trans h
  · exact h

/-- The COLL is outstanding under the next CSEQ, and its group counts it. -/
def State.collQueued (s : State) (g : Nat) (k : Coll) : State :=
  (s.updGroup g (fun q => { q with cseq := q.cseq + 1, outst := q.outst ++ [k] })).countOutst g

theorem joinColl_eq (s : State) (g : Nat) (k : Coll) :
    s.joinColl g k = (((s.collBusy k).collBits g k).collQueued g k).advance k.c k.x := rfl

section
variable (s : State) (g : Nat) (k : Coll)

theorem collQueued_frame : s.collQueued g k = { s with ctl := (s.collQueued g k).ctl, groups := (s.collQueued g k).groups } := rfl

theorem collQueued_group : (s.collQueued g k).group g = { s.group g with cseq := (s.group g).cseq + 1, outst := (s.group g).outst ++ [k] } := by
  unfold State.collQueued State.countOutst
  rw [State.setFld_group, State.updGroup_group_same]

theorem collQueued_group_ne {n : Nat} (h : n ≠ g) : (s.collQueued g k).group n = s.group n := by
  unfold State.collQueued State.countOutst
  rw [State.setFld_group, State.updGroup_group_ne s g _ h]

/-- OUTSTANDING counts it (R382). -/
theorem collQueued_outstanding (c x : Nat) :
    ((s.collQueued g k).advance c x).fld 0x23 g 0x30 31 28 = ((s.group g).outst.length + 1) % 16 := by
  unfold State.collQueued State.countOutst
  rw [State.advance_fld, fld_setFld_same _ _ _ _ _ (by decide) (by decide), State.updGroup_group_same, List.length_append]
  rfl

end

theorem collBits_collBusy_frame (s : State) (g : Nat) (k : Coll) : (s.collBusy k).collBits g k =
    { s.collRead k with nextId := (s.collRead k).nextId + 1, ctxs := (s.collBusy k).ctxs, cores := ((s.collBusy k).collBits g k).cores } :=
  collBits_onlyCores (s.collBusy k) g k

/-- What the last two steps leave of a state in which the COLL is begun. -/
theorem collQueued_joins {i : Iss} {s u : State} {g : Nat} {k : Coll} (core : k.c = i.core.toNat) (ctx : k.x = i.ctx.toNat)
    (id : k.id = s.nextId) (cseq : k.cseq = (s.group g).cseq) (groups : u.groups = s.groups)
    (begun : u.ctx k.c k.x = (s.ctx k.c k.x).begin k.id [k.td.r] [])
    (others : ∀ n, n ≠ k.c * 4 + k.x → Tbl.get {} u.ctxs n = Tbl.get {} s.ctxs n) (bytes : OutsideSlots s u k.c) (ports : u.ports = s.ports)
    (sfOut : u.sfOut = s.sfOut) : CollJoins i s ((u.collQueued g k).advance k.c k.x) g k := by
  have group : ∀ n, u.group n = s.group n := fun n => by rw [State.group, groups]; rfl
  have queued : (u.collQueued g k).ctxs = u.ctxs := by rw [collQueued_frame]
  refine ⟨?_, ?_, fun n hn => ?_, cseq, ?_, fun n hn => ?_, ?_, fun j hj => ?_, ?_, ?_⟩
  · rw [State.advance_group, collQueued_group, group]
  · rw [State.advance_group, collQueued_group, group]
  · rw [State.advance_group, collQueued_group_ne u g k hn, group]
  · rw [ctxAt, ← core, ← ctx, State.advance, State.updCtx_ctx_same, State.ctx, queued, ← id, ctxAt, ← core, ← ctx]
    exact congrArg pastInstr begun
  · rw [← core, ← ctx] at hn
    rw [State.advance, State.updCtx_get_ne _ _ _ _ hn, queued]
    exact others n hn
  · rw [collQueued_outstanding, group]
  · have mem : (u.collQueued g k).mem = u.mem := by rw [collQueued_frame]
    rw [State.advance_byte, byte_of_mem mem]
    exact bytes j (core ▸ hj)
  · rw [State.advance_ports, collQueued_frame, ports]
  · rw [State.advance_sfOut, collQueued_frame, sfOut]

theorem joinColl_joins {i : Iss} {s : State} {g : Nat} {k : Coll} (hc : i.core.toNat < 4096) (core : k.c = i.core.toNat)
    (ctx : k.x = i.ctx.toNat) (id : k.id = s.nextId) (cseq : k.cseq = (s.group g).cseq) : CollJoins i s (s.joinColl g k) g k := by
  have read := collRead_slotWork (core ▸ hc) s
  have before := collBits_collBusy_frame s g k
  have ctxs : ((s.collBusy k).collBits g k).ctxs = (s.collBusy k).ctxs := by rw [before]
  rw [joinColl_eq]
  refine collQueued_joins core ctx id cseq ?_ ?_ (fun n hn => ?_) (fun j hj => ?_) ?_ ?_
  · rw [before, read.frame]
  · rw [State.ctx, ctxs, ← read.numOnly.ctx k.c k.x]
    exact State.updCtx_ctx_same ..
  · rw [ctxs, ← read.numOnly.ctxs]
    exact State.updCtx_get_ne _ _ _ _ hn
  · rw [← read.bytes j hj, before]
    rfl
  · rw [before, read.frame]
  · rw [before, read.frame]

theorem CanRun.ready {i : Iss} {s : State} (h : CanRun i s) : (ctxAt s i).st = .ready := by
  obtain ⟨-, -, ready, -⟩ := h
  exact ready

/-- A context that holds a COLL has not issued it. -/
theorem noteIssue_held {s : State} {c x : Nat} {w : Wait} (held : w.isHeld = true) (ready : (s.ctx c x).st = .ready) :
    CtxChange s ((s.waitOn c x w).noteIssue c x) c x { s.ctx c x with wait := w, st := .waiting } := by
  have waits := updCtx_ctxChange s c x (fun k => { k with wait := w, st := if k.st == .isolated then .isolated else .waiting })
  have st : (if (s.ctx c x).st == .isolated then CtxSt.isolated else .waiting) = .waiting := by rw [ready]; rfl
  rw [st] at waits
  have noted := updCtx_ctxChange (s.waitOn c x w) c x
    (fun k => if k.wait.isHeld || k.passed == some (s.waitOn c x w).cycle then k else { k with issued := some (s.waitOn c x w).cycle })
  have kept : (s.waitOn c x w).ctx c x = { s.ctx c x with wait := w, st := .waiting } := waits.2.1
  rw [kept, if_pos (by rw [held]; rfl)] at noted
  exact waits.trans noted

/-- An instruction of a core that exists is a step without a fault. -/
theorem issueStop_next {i : Iss} (hc : i.core.toNat < 96) (illegal : Bool) (s : State) (stop : Nat → Nat → Ctx → Bool)
    (body : Nat → Nat → Ctx → State) : ∃ t, issueStop i illegal s stop body = .next t := by
  unfold issueStop
  rw [if_neg (by rw [coreOk_of_lt hc]; exact Bool.false_ne_true)]
  dsimp only
  split
  · exact ⟨_, rfl⟩
  · split <;> exact ⟨_, rfl⟩

/-- COLL_HOLD_RELEASE asks only whether the collective that was the oldest is still outstanding (R358). -/
theorem collHoldRelease_held {i : Iss} {s : State} {f : CollF} {oldest : W32} (hc : i.core.toNat < 96)
    (held : (ctxAt s i).wait = .coll (.coll i f) oldest) : exec (.collHoldRelease i.core i.ctx) s =
      if (s.group ((ctxAt s i).treg f.ta.toNat).tag.group.toNat).outst.any (fun q => q.cseq == oldest) then .next s
      else exec (.coll i f) (s.wake i.core.toNat i.ctx.toNat) := by
  unfold ctxAt at *
  rw [exec_collHoldRelease, execCollHoldRelease, if_neg (by rw [coreOk_of_lt hc]; exact Bool.false_ne_true)]
  dsimp only
  rw [held]
  rfl

end Sys2Proof.Machine

open Sys2Proof Sys2Proof.Machine

/-- Settles O12: a COLL is held, joins its group, or is issued again from its hold, as `execColl` and `execCollHoldRelease` decide. -/
theorem collsIssue : Obligations.CollsIssue := by
  unfold Obligations.CollsIssue
  intro i s f hc c k ta td g q
  refine ⟨fun o rest run free outst full => ?_, fun run free room ok => ?_, fun oldest held => ⟨fun done => ?_, fun waits => ?_⟩⟩
  · have many : 8 ≤ (s.group g).outst.length := by rw [outst, List.length_cons]; omega
    rw [exec_coll, execColl, issueStop_of_canRun run, if_neg Bool.false_ne_true]
    dsimp only
    rw [if_neg (by rw [free]; exact Bool.false_ne_true), if_pos many, outst]
    exact ⟨_, rfl, noteIssue_held rfl (CanRun.ready run)⟩
  · refine ⟨s.joinColl g q, joinColl_joins (by omega) rfl rfl rfl rfl, ?_⟩
    rw [exec_coll, execColl, issueStop_of_canRun run, if_neg Bool.false_ne_true]
    dsimp only
    rw [if_neg (by rw [free]; exact Bool.false_ne_true), if_neg (Nat.not_le.mpr room), if_neg (not_not.mpr ok)]
    rfl
  · have gone : (s.group g).outst.any (fun q => q.cseq == oldest) = false := by simpa using done
    have again : exec (.collHoldRelease i.core i.ctx) s = exec (.coll i f) (s.wake c i.ctx.toNat) := by
      rw [collHoldRelease_held hc held]
      exact if_neg (fun any => Bool.false_ne_true (gone.symm.trans any))
    refine ⟨again, ?_⟩
    rw [again, exec_coll, execColl]
    exact issueStop_next hc ..
  · have there : (s.group g).outst.any (fun q => q.cseq == oldest) = true := by simpa using waits
    rw [collHoldRelease_held hc held]
    exact if_pos there
end

section
/-! WAIT.MSG, WAIT_MSG_ARRIVAL, SIGNAL and SIGNAL_DECISION (R111, R114, R115, R274). -/

namespace Sys2Proof.Machine

/-! ### A context takes a message -/

/-- The bytes of its block that a context has once it has taken message `b` too. -/
def rxGot (k : Ctx) (b : RxBlk) : Nat :=
  (match k.taking with
    | some t => t.got
    | none => 0) + b.blk.payload.length

/-- A message is written to its place and leaves the receive area of its core. -/
def State.msgStored (s : State) (c a : Nat) (b : RxBlk) : State :=
  (s.writeMem a b.blk.payload).updCore c (fun k => { k with rx := k.rx.erase b })

/-- The context has the whole of its block. -/
def State.msgWhole (s : State) (c x : Nat) (td : BitVec 5) (b : RxBlk) : State :=
  (((s.updTag c x td.toNat (fun _ => b.blk.tag)).updCtx c x (fun k => { k with taking := none })).wake c x).advance c x

/-- What a context notes of the block that it is taking. -/
def rxNote (b : RxBlk) (got : Nat) : RxTake :=
  { src := b.blk.desc.srcModule.toNat, site := b.blk.desc.srcSite.toNat, shard := b.blk.desc.shard.toNat, tag := b.blk.tag, got := got }

/-- The context waits for the rest of its block. -/
def State.msgPart (s : State) (c x : Nat) (td : BitVec 5) (r : RxTake) : State :=
  (s.updCtx c x (fun k => { k with taking := some r })).waitOn c x (.msg td)

section
variable {s : State} {c x : Nat} {td : BitVec 5} {b : RxBlk}

theorem msgStored_frame (a : Nat) : s.msgStored c a b = { s with
    mem := (s.msgStored c a b).mem, ue := (s.msgStored c a b).ue, sce := (s.msgStored c a b).sce,
    cores := (s.msgStored c a b).cores } := by
  have h := writeMem_frame s a b.blk.payload
  unfold State.msgStored
  generalize s.writeMem a b.blk.payload = t at *
  rw [h]
  rfl

theorem msgStored_cores (a : Nat) : (s.msgStored c a b).cores = (s.updCore c (fun k => { k with rx := k.rx.erase b })).cores := by
  have h : (s.writeMem a b.blk.payload).cores = s.cores := by rw [writeMem_frame]
  show Tbl.set {} (s.writeMem a b.blk.payload).cores c _ = Tbl.set {} s.cores c _
  unfold State.core
  rw [h]

theorem blockBytesOf_msgStored (a : Nat) (d : TDesc) : (s.msgStored c a b).blockBytesOf d b.blk = s.blockBytesOf d b.blk := by
  have site : (s.msgStored c a b).siteId = s.siteId := by
    unfold State.siteId
    rw [msgStored_frame]
  unfold State.blockBytesOf State.fragBytes
  rw [site]

/-- The place of message `b` for a context that takes it into `td`. -/
def msgAddr (i : Iss) (s : State) (td : BitVec 5) (b : RxBlk) : Nat := msgPlace s ((ctxAt s i).treg td.toNat).d.base.toNat b.blk

theorem takeMsg_served {i : Iss} (served : s.accessReason (msgAddr i s td b) b.blk.payload.length = 0) :
    s.takeMsg i.core.toNat i.ctx.toNat td b =
      if s.blockBytesOf ((ctxAt s i).treg td.toNat).d b.blk ≤ rxGot (ctxAt s i) b then
        (s.msgStored i.core.toNat (msgAddr i s td b) b).msgWhole i.core.toNat i.ctx.toNat td b
      else (s.msgStored i.core.toNat (msgAddr i s td b) b).msgPart i.core.toNat i.ctx.toNat td (rxNote b (rxGot (ctxAt s i) b)) := by
  have place : msgAddr i s td b = ((s.ctx i.core.toNat i.ctx.toNat).treg td.toNat).d.base.toNat + b.blk.desc.frag.toNat * s.fragBytes b.blk := rfl
  rw [← blockBytesOf_msgStored (c := i.core.toNat) (msgAddr i s td b)]
  simp only [place] at served ⊢
  unfold State.takeMsg
  dsimp only
  rw [if_neg (not_not.mpr served)]
  rfl

end

/-- A further change of the same context. -/
theorem CtxChange.updCtx {s t : State} {c x : Nat} {k : Ctx} (h : CtxChange s t c x k) (f : Ctx → Ctx) :
    CtxChange s (t.updCtx c x f) c x (f k) := by
  have further := h.trans (updCtx_ctxChange t c x f)
  obtain ⟨-, ctx, -⟩ := h
  rwa [ctx] at further

section
variable {s : State} {c x : Nat} {td : BitVec 5} {b : RxBlk} (hst : (s.ctx c x).st ≠ .isolated)
include hst

theorem msgWhole_ctxChange : CtxChange s (s.msgWhole c x td b) c x
    (pastInstr { (s.ctx c x).setTreg td.toNat { (s.ctx c x).treg td.toNat with tag := b.blk.tag } with
      taking := none, wait := .none, st := .ready }) := by
  have ready : (if (s.ctx c x).st == .isolated then CtxSt.isolated else .ready) = .ready := if_neg (by simpa using hst)
  have tagged := updCtx_ctxChange s c x (fun k => k.setTreg td.toNat { k.treg td.toNat with tag := b.blk.tag })
  have woken := (tagged.updCtx (fun k => { k with taking := none })).updCtx
    (fun k => { k with wait := .none, st := if k.st == .isolated then .isolated else .ready })
  unfold State.msgWhole State.updTag
  rw [if_pos td.isLt, ← ready]
  exact woken.updCtx pastInstr

theorem msgPart_ctxChange (r : RxTake) : CtxChange s (s.msgPart c x td r) c x
    { s.ctx c x with taking := some r, wait := .msg td, st := .waiting } := by
  have waiting : (if (s.ctx c x).st == .isolated then CtxSt.isolated else .waiting) = .waiting := if_neg (by simpa using hst)
  rw [← waiting]
  exact (updCtx_ctxChange s c x (fun k => { k with taking := some r })).updCtx
    (fun k => { k with wait := .msg td, st := if k.st == .isolated then .isolated else .waiting })

end

theorem setTreg_treg (k : Ctx) (r n : BitVec 5) (v : TReg) : (k.setTreg r.toNat v).treg n.toNat = if n = r then v else k.treg n.toNat := by
  unfold Ctx.setTreg Ctx.treg
  by_cases h : n = r
  · rw [if_pos h, h]
    exact Tbl.get_set_same ..
  · rw [if_neg h]
    exact Tbl.get_set_ne _ _ _ _ (fun e => h (BitVec.eq_of_toNat_eq e))

/-- The state of a context that has taken a message. -/
def Ctx.took (k : Ctx) (td : BitVec 5) (b : RxBlk) (bytes : Nat) : Ctx :=
  if bytes ≤ rxGot k b then
    pastInstr { k.setTreg td.toNat { k.treg td.toNat with tag := b.blk.tag } with taking := none, wait := .none, st := .ready }
  else { k with taking := some (rxNote b (rxGot k b)), wait := .msg td, st := .waiting }

theorem took_whole {k : Ctx} (td : BitVec 5) {b : RxBlk} {bytes : Nat} (h : bytes ≤ rxGot k b) : k.took td b bytes =
    pastInstr { k.setTreg td.toNat { k.treg td.toNat with tag := b.blk.tag } with taking := none, wait := .none, st := .ready } := if_pos h

theorem took_part {k : Ctx} (td : BitVec 5) {b : RxBlk} {bytes : Nat} (h : ¬ bytes ≤ rxGot k b) : k.took td b bytes =
    { k with taking := some (rxNote b (rxGot k b)), wait := .msg td, st := .waiting } := if_neg h

theorem takeMsg_ctxChange {i : Iss} {s : State} {td : BitVec 5} {b : RxBlk} (hst : (ctxAt s i).st ≠ .isolated)
    (served : s.accessReason (msgAddr i s td b) b.blk.payload.length = 0) :
    CtxChange (s.msgStored i.core.toNat (msgAddr i s td b) b) (s.takeMsg i.core.toNat i.ctx.toNat td b) i.core.toNat i.ctx.toNat
      ((ctxAt s i).took td b (s.blockBytesOf ((ctxAt s i).treg td.toNat).d b.blk)) := by
  have kept : (s.msgStored i.core.toNat (msgAddr i s td b) b).ctx i.core.toNat i.ctx.toNat = ctxAt s i := by
    rw [State.ctx, msgStored_frame]
    rfl
  rw [takeMsg_served served]
  split
  · rename_i all
    rw [took_whole td all]
    have change := msgWhole_ctxChange (s := s.msgStored i.core.toNat (msgAddr i s td b) b) (td := td) (b := b) (by rw [kept]; exact hst)
    rwa [kept] at change
  · rename_i more
    rw [took_part td more]
    have change := msgPart_ctxChange (s := s.msgStored i.core.toNat (msgAddr i s td b) b) (td := td) (by rw [kept]; exact hst)
      (rxNote b (rxGot (ctxAt s i) b))
    rw [kept] at change
    exact change

/-- A context that has taken a message, with the cc of its last issue. -/
theorem takesMsg_of_took {i : Iss} {s t : State} {td : BitVec 5} {b : RxBlk} {iss : Option W64}
    (change : CtxChange (s.msgStored i.core.toNat (msgAddr i s td b) b) t i.core.toNat i.ctx.toNat
      { (ctxAt s i).took td b (s.blockBytesOf ((ctxAt s i).treg td.toNat).d b.blk) with issued := iss }) : TakesMsg i s t td b iss := by
  have stored := msgStored_frame (s := s) (c := i.core.toNat) (b := b) (msgAddr i s td b)
  have cores := msgStored_cores (s := s) (c := i.core.toNat) (b := b) (msgAddr i s td b)
  obtain ⟨frame, ctx, others⟩ := change
  have same : t.cores = (s.updCore i.core.toNat (fun k => { k with rx := k.rx.erase b })).cores := by rw [frame, cores]
  have mem : t.mem = (s.writeMem (msgAddr i s td b) b.blk.payload).mem := by rw [frame]; rfl
  have ctx : ctxAt t i = _ := ctx
  refine ⟨?_, fun j => ?_, ?_, fun n hn => ?_, fun all => ?_, fun more => ?_, fun n hn => ?_⟩
  · rw [frame, stored]
  · rw [byte_of_mem mem, byte_writeMem]
    rfl
  · rw [State.core, same]
    exact State.updCore_core_same ..
  · rw [State.core, same]
    exact State.updCore_core_ne _ _ _ hn
  · rw [took_whole td (show _ ≤ rxGot (ctxAt s i) b from all)] at ctx
    rw [ctx]
    exact ⟨rfl, fun n => setTreg_treg _ _ _ _⟩
  · rw [took_part td (show ¬ _ ≤ rxGot (ctxAt s i) b from Nat.not_le.mpr more)] at ctx
    exact ⟨rxNote b (rxGot (ctxAt s i) b), rfl, by simp [RxTake.has, rxNote], ctx⟩
  · rw [others n hn, stored]

/-- Taking a message, before an issue of the cc is noted. -/
theorem takeMsg_takes {i : Iss} {s : State} {td : BitVec 5} {b : RxBlk} (hst : (ctxAt s i).st ≠ .isolated)
    (served : s.accessReason (msgAddr i s td b) b.blk.payload.length = 0) :
    TakesMsg i s (s.takeMsg i.core.toNat i.ctx.toNat td b) td b (ctxAt s i).issued := by
  refine takesMsg_of_took ?_
  have issued : ((ctxAt s i).took td b (s.blockBytesOf ((ctxAt s i).treg td.toNat).d b.blk)).issued = (ctxAt s i).issued := by
    unfold Ctx.took
    split <;> rfl
  rw [← issued]
  exact takeMsg_ctxChange hst served

/-- The same for a WAIT.MSG that has the issue slot of this cc. -/
theorem takeMsg_noteIssue_takes {i : Iss} {s : State} {td : BitVec 5} {b : RxBlk} (run : CanRun i s)
    (served : s.accessReason (msgAddr i s td b) b.blk.payload.length = 0) :
    TakesMsg i s ((s.takeMsg i.core.toNat i.ctx.toNat td b).noteIssue i.core.toNat i.ctx.toNat) td b (some s.cycle) := by
  have cycle : (s.msgStored i.core.toNat (msgAddr i s td b) b).cycle = s.cycle := by rw [msgStored_frame]
  have change := takeMsg_ctxChange (td := td) (b := b) (by rw [run.ready]; decide) served
  refine takesMsg_of_took ?_
  have slot := change.issues (by unfold Ctx.took; split <;> rfl) (by
    rw [cycle]
    unfold Ctx.took
    split <;> exact run.notPassed)
  rwa [issuedAt_congr cycle] at slot

/-! ### WAIT.MSG and WAIT_MSG_ARRIVAL -/

theorem rxFor_none {q : Core} {x : Nat} {r : Option RxTake} (h : ∀ b ∈ q.rx, ¬ (b.x = x ∧ RxTake.has r b.blk = true)) :
    q.rxFor x r = none := by
  unfold Core.rxFor
  rw [List.find?_eq_none]
  simpa using h

/-- The oldest message for a context is the first of the receive area that is its own. -/
theorem rxFor_first {q : Core} {x : Nat} {r : Option RxTake} {pre post : List RxBlk} {b : RxBlk} (split : q.rx = pre ++ b :: post)
    (mine : b.x = x ∧ RxTake.has r b.blk = true) (others : ∀ e ∈ pre, ¬ (e.x = x ∧ RxTake.has r e.blk = true)) : q.rxFor x r = some b := by
  unfold Core.rxFor
  rw [List.find?_eq_some_iff_append]
  exact ⟨by simpa using mine, pre, post, split, by simpa [← imp_iff_not_or] using others⟩

theorem holds_dst {k : Ctx} {t : Nat} (free : ∀ b ∈ k.busy, b.t ≠ t) : k.holds [t] [] = false := by
  simpa [Ctx.holds, Ctx.busyAny] using free

/-- A WAIT.MSG that its register and its checks let pass. -/
theorem waitMsg_runs {i : Iss} {s : State} {td : BitVec 5} (run : CanRun i s) (free : ∀ b ∈ (ctxAt s i).busy, b.t ≠ td.toNat)
    (fit : inControl ((ctxAt s i).treg td.toNat).d = false ∧ fmtReason [((ctxAt s i).treg td.toNat).d] = 0) {r : Option RxBlk}
    (rx : (s.core i.core.toNat).rxFor i.ctx.toNat (ctxAt s i).taking = r) : exec (.waitMsg i td) s =
      .next ((r.elim (s.waitOn i.core.toNat i.ctx.toNat (.msg td)) (s.takeMsg i.core.toNat i.ctx.toNat td)).noteIssue
        i.core.toNat i.ctx.toNat) := by
  obtain ⟨space, fmt⟩ := fit
  rw [exec_waitMsg, execWaitMsg, issueStop_of_canRun run, if_neg Bool.false_ne_true]
  dsimp only
  rw [holds_dst free, space, fmt, if_neg Bool.false_ne_true, if_neg (by decide), rx]
  cases r <;> rfl

/-- A context that waits from now on has taken the issue slot for the instruction that waits. -/
theorem waitOn_issues {i : Iss} {s : State} (run : CanRun i s) {w : Wait} (notHeld : w.isHeld = false) :
    CtxChange s ((s.waitOn i.core.toNat i.ctx.toNat w).noteIssue i.core.toNat i.ctx.toNat) i.core.toNat i.ctx.toNat
      (issuedAt s { ctxAt s i with wait := w, st := .waiting }) := by
  have waits := updCtx_ctxChange s i.core.toNat i.ctx.toNat
    (fun k => { k with wait := w, st := if k.st == .isolated then .isolated else .waiting })
  have st : (if (ctxAt s i).st == .isolated then CtxSt.isolated else .waiting) = .waiting := by rw [run.ready]; rfl
  unfold ctxAt at st
  rw [st] at waits
  exact waits.issues notHeld run.notPassed

theorem waitMsg_halts {i : Iss} {s : State} {td : BitVec 5} (run : CanRun i s) (free : ∀ b ∈ (ctxAt s i).busy, b.t ≠ td.toNat)
    (space : inControl ((ctxAt s i).treg td.toNat).d = true) (rep : Reportable s (ctxAt s i)) :
    HaltsWith i s (exec (.waitMsg i td) s) rsOPERAND_SPACE := by
  rw [exec_waitMsg, execWaitMsg, issueStop_of_canRun run, if_neg Bool.false_ne_true]
  dsimp only
  rw [holds_dst free, space, if_neg Bool.false_ne_true]
  exact haltsWith_halt run rep _

theorem waitMsgArrival_takes {i : Iss} {s : State} {td : BitVec 5} {b : RxBlk} (hc : i.core.toNat < 96)
    (waits : (ctxAt s i).wait = .msg td) (rx : (s.core i.core.toNat).rxFor i.ctx.toNat (ctxAt s i).taking = some b) :
    exec (.waitMsgArrival i.core i.ctx) s = .next (s.takeMsg i.core.toNat i.ctx.toNat td b) := by
  unfold ctxAt at waits rx
  rw [exec_waitMsgArrival, execWaitMsgArrival, if_neg (by rw [coreOk_of_lt hc]; exact Bool.false_ne_true), waits, rx]

/-! ### SIGNAL and SIGNAL_DECISION (R114, R115) -/

/-- Every context after a change of one. -/
theorem get_updCtx (s : State) (c x : Nat) (f : Ctx → Ctx) (n : Nat) :
    Tbl.get {} (s.updCtx c x f).ctxs n = if n = c * 4 + x then f (s.ctx c x) else Tbl.get {} s.ctxs n := by
  by_cases h : n = c * 4 + x
  · rw [if_pos h, h]
    exact State.updCtx_ctx_same ..
  · rw [if_neg h]
    exact State.updCtx_get_ne _ _ _ _ h

/-- The context of a SIGNAL waits for the decision; its instruction has taken the issue slot of this cc. -/
def signalWaits (i : Iss) (s : State) (pd : BitVec 3) : State :=
  s.setCtx i.core.toNat i.ctx.toNat { ctxAt s i with wait := .signal pd, st := .waiting, issued := some s.cycle }

/-- A SIGNAL that its checks let pass, and whose command is read without an error. -/
theorem signal_offers {i : Iss} {s : State} {f : SignalF} (run : CanRun i s)
    (served : s.accessReason ((ctxAt s i).sreg f.sa.toNat).toNat 64 = 0) (clean : s.clean ((ctxAt s i).sreg f.sa.toNat).toNat 64 = true)
    (core : f.core.toNat < 96) : exec (.signal i f) s =
      .next (((s.waitOn i.core.toNat i.ctx.toNat (.signal f.pd)).offer f.core.toNat f.ctx.toNat
        (.signal i.core.toNat i.ctx.toNat (ctxAt s i).cmdNo) (cmdOfBytes (s.readMem ((ctxAt s i).sreg f.sa.toNat).toNat 64))).noteIssue
          i.core.toNat i.ctx.toNat) := by
  rw [exec_signal, execSignal, issueStop_of_canRun run, if_neg Bool.false_ne_true]
  dsimp only
  rw [served, noteUe_clean clean, if_neg (by simp [firstNonzero, chk, core])]

theorem signal_halts {i : Iss} {s : State} {f : SignalF} (run : CanRun i s)
    (served : s.accessReason ((ctxAt s i).sreg f.sa.toNat).toNat 64 = 0) (core : 96 ≤ f.core.toNat) (rep : Reportable s (ctxAt s i)) :
    HaltsWith i s (exec (.signal i f) s) rsBAD_OPERAND := by
  have reason : firstNonzero [0, chk (decide (96 ≤ f.core.toNat)) rsBAD_OPERAND] = rsBAD_OPERAND := by
    rw [decide_eq_true core]
    rfl
  rw [exec_signal, execSignal, issueStop_of_canRun run, if_neg Bool.false_ne_true]
  dsimp only
  rw [served, reason, if_pos (by decide)]
  exact haltsWith_halt run rep _

/-- The context has taken the issue slot of cc `v`, unless it holds its instruction or was passed over. -/
def Ctx.slotTaken (v : W64) (k : Ctx) : Ctx := if k.wait.isHeld || k.passed == some v then k else { k with issued := some v }

theorem noteIssue_eq (s : State) (c x : Nat) : s.noteIssue c x = s.updCtx c x (Ctx.slotTaken s.cycle) := rfl

theorem slotTaken_of {v : W64} {k : Ctx} (hw : k.wait.isHeld = false) (hp : k.passed ≠ some v) : k.slotTaken v = { k with issued := some v } :=
  if_neg (by simp [hw, hp])

/-- A context to whose queue a command is offered. -/
def Ctx.offeredTo (k : Ctx) (o : Offer) : Ctx := { k with offers := k.offers ++ [o] }

/-- The offer of a SIGNAL, whether it goes to another context or to its own. -/
theorem signal_ctxChange {i : Iss} {s : State} (run : CanRun i s) (pd : BitVec 3) (c x : Nat) (src : OfferSrc) (cmd : Cmd) :
    CtxChange (signalWaits i s pd)
      (((s.waitOn i.core.toNat i.ctx.toNat (.signal pd)).offer c x src cmd).noteIssue i.core.toNat i.ctx.toNat) c x
      (((signalWaits i s pd).ctx c x).offeredTo { src := src, cmd := cmd, cc := s.cycle }) := by
  have waiting : (if (ctxAt s i).st == .isolated then CtxSt.isolated else .waiting) = .waiting := by rw [run.ready]; rfl
  have slot : ∀ l, ({ ctxAt s i with wait := .signal pd, st := .waiting, offers := l } : Ctx).slotTaken s.cycle =
      { ctxAt s i with wait := .signal pd, st := .waiting, offers := l, issued := some s.cycle } := fun l => slotTaken_of rfl run.notPassed
  generalize hO : ({ src := src, cmd := cmd, cc := s.cycle } : Offer) = o
  generalize hA : s.waitOn i.core.toNat i.ctx.toNat (.signal pd) = A
  have getA : ∀ n, Tbl.get {} A.ctxs n = if n = i.core.toNat * 4 + i.ctx.toNat then { ctxAt s i with wait := .signal pd, st := .waiting }
      else Tbl.get {} s.ctxs n := fun n => by
    rw [← hA, ← waiting]
    exact get_updCtx ..
  generalize hB : A.offer c x src cmd = B
  have getB : ∀ n, Tbl.get {} B.ctxs n = if n = c * 4 + x then (A.ctx c x).offeredTo o else Tbl.get {} A.ctxs n := fun n => by
    rw [← hB, State.offer, get_updCtx, ← hO, ← hA]
    rfl
  have getT : ∀ n, Tbl.get {} (B.noteIssue i.core.toNat i.ctx.toNat).ctxs n =
      if n = i.core.toNat * 4 + i.ctx.toNat then (B.ctx i.core.toNat i.ctx.toNat).slotTaken s.cycle else Tbl.get {} B.ctxs n := fun n => by
    rw [noteIssue_eq, get_updCtx, ← hB, ← hA]
    rfl
  have getW : ∀ n, Tbl.get {} (signalWaits i s pd).ctxs n = if n = i.core.toNat * 4 + i.ctx.toNat then
      { ctxAt s i with wait := .signal pd, st := .waiting, issued := some s.cycle } else Tbl.get {} s.ctxs n :=
    get_updCtx s i.core.toNat i.ctx.toNat (fun _ => { ctxAt s i with wait := .signal pd, st := .waiting, issued := some s.cycle })
  have frame : B.noteIssue i.core.toNat i.ctx.toNat = { signalWaits i s pd with ctxs := (B.noteIssue i.core.toNat i.ctx.toNat).ctxs } := by
    rw [← hB, ← hA]
    rfl
  refine ⟨frame, ?_, fun n hn => ?_⟩
  · show Tbl.get {} _ (c * 4 + x) = (Tbl.get {} (signalWaits i s pd).ctxs (c * 4 + x)).offeredTo o
    have atC : Tbl.get {} B.ctxs (c * 4 + x) = (Tbl.get {} A.ctxs (c * 4 + x)).offeredTo o := (getB _).trans (if_pos rfl)
    rw [getT, getW]
    by_cases own : c * 4 + x = i.core.toNat * 4 + i.ctx.toNat
    · rw [if_pos own, if_pos own, State.ctx, ← own, atC, getA, if_pos own]
      exact slot _
    · rw [if_neg own, if_neg own, atC, getA, if_neg own]
  · rw [getT, getW]
    by_cases own : n = i.core.toNat * 4 + i.ctx.toNat
    · rw [if_pos own, if_pos own, State.ctx, ← own, getB, if_neg hn, getA, if_pos own]
      exact slot _
    · rw [if_neg own, if_neg own, getB, if_neg hn, getA, if_neg own]

/-- What the decision `r` on its SIGNAL does to a context: PD, and a refusal's reason. -/
def Ctx.decidedBy (pd r : Nat) (k : Ctx) : Ctx :=
  let k := { k.setPred pd (r == 0) with decision := none }
  if r = 0 then k else { k with lastReason := BitVec.ofNat 16 r }

theorem decidedBy_eq (pd r : Nat) (k : Ctx) : k.decidedBy pd r = { k with
    preds := (k.setPred pd (r == 0)).preds, decision := none, lastReason := if r = 0 then k.lastReason else BitVec.ofNat 16 r } := by
  unfold Ctx.decidedBy Ctx.setPred
  by_cases hp : pd = 0 <;> by_cases hr : r = 0 <;> simp [hp, hr]

/-- SIGNAL_DECISION at a context whose SIGNAL is decided. -/
theorem signalDecision_leaves {i : Iss} {s : State} {pd : BitVec 3} {r : Nat} (hc : i.core.toNat < 96)
    (waits : (ctxAt s i).wait = .signal pd) (st : (ctxAt s i).st = .waiting) (decided : (ctxAt s i).decision = some r) :
    LeavesCtx i s (exec (.signalDecision i.core i.ctx) s) { pastInstr (ctxAt s i) with
      wait := .none, st := .ready, decision := none, preds := ((ctxAt s i).setPred pd.toNat (r == 0)).preds,
      lastReason := if r = 0 then (ctxAt s i).lastReason else BitVec.ofNat 16 r } := by
  unfold ctxAt at *
  have ready : (if (s.ctx i.core.toNat i.ctx.toNat).st == .isolated then CtxSt.isolated else .ready) = .ready := by rw [st]; rfl
  have past := ((updCtx_ctxChange s i.core.toNat i.ctx.toNat (Ctx.decidedBy pd.toNat r)).updCtx
    (fun k => { k with wait := .none, st := if k.st == .isolated then .isolated else .ready })).updCtx pastInstr
  rw [decidedBy_eq] at past
  refine ⟨(((s.updCtx i.core.toNat i.ctx.toNat (Ctx.decidedBy pd.toNat r)).wake i.core.toNat i.ctx.toNat).advance i.core.toNat i.ctx.toNat),
    ?_, ?_⟩
  · rw [exec_signalDecision, execSignalDecision, if_neg (by rw [coreOk_of_lt hc]; exact Bool.false_ne_true)]
    dsimp only
    rw [waits, decided]
    rfl
  · rw [← ready]
    exact past

end Sys2Proof.Machine

open Sys2Proof Sys2Proof.Machine

/-- Settles O7: WAIT.MSG and WAIT_MSG_ARRIVAL take the message that `rxFor` finds, and a SIGNAL is one offer and one decision. -/
theorem messagesAndSignals : Obligations.MessagesAndSignals := by
  unfold Obligations.MessagesAndSignals
  refine ⟨fun i s td hc => ⟨fun run free fit none => ?_, fun pre b post split mine others served => ⟨fun run free fit => ?_,
    fun waits st => ?_⟩, fun run free space rep => waitMsg_halts run free space rep⟩,
    fun i s f hc => ⟨fun run served clean core => ?_, fun run served core rep => signal_halts run served core rep,
      fun r waits st decided => ?_⟩⟩
  · rw [waitMsg_runs run free fit (rxFor_none none)]
    exact ⟨_, rfl, waitOn_issues run rfl⟩
  · rw [waitMsg_runs run free fit (rxFor_first split mine others)]
    exact ⟨_, rfl, takeMsg_noteIssue_takes run served⟩
  · exact ⟨_, waitMsgArrival_takes hc waits (rxFor_first split mine others), takeMsg_takes (by rw [st]; decide) served⟩
  · exact ⟨_, signal_offers run served clean core, signal_ctxChange run f.pd f.core.toNat f.ctx.toNat _ _⟩
  · obtain ⟨t, next, change⟩ := signalDecision_leaves hc waits st decided
    obtain ⟨frame, ctx, others⟩ := change
    have ctx : ctxAt t i = _ := ctx
    refine ⟨t, next, ?_⟩
    rw [ctx]
    refine ⟨⟨frame, ctx, others⟩, rfl, fun n => ?_, rfl⟩
    exact (setPred_pred (ctxAt s i) f.pd n (r == 0)).trans (by rw [beq_eq_decide])
end

section
/-! MOVE, STASH, FETCH and VOP at issue (R90, R91, R97, R108, R110, R219, R223, R256): the registers are copied, the scale slots worked on, and the
operation stands before its unit. -/

namespace Sys2Proof.Machine

/-! ### Reasons -/

theorem firstNonzero_eq_zero {rs : List Nat} (h : ∀ r ∈ rs, r = 0) : firstNonzero rs = 0 := by
  induction rs with
  | nil => rfl
  | cons r rs ih =>
    rw [firstNonzero, if_neg (not_not.mpr (h r List.mem_cons_self))]
    exact ih (fun q hq => h q (List.mem_cons_of_mem _ hq))

theorem firstNonzero_append {zs : List Nat} (h : ∀ r ∈ zs, r = 0) (rs : List Nat) : firstNonzero (zs ++ rs) = firstNonzero rs := by
  induction zs with
  | nil => rfl
  | cons z zs ih =>
    rw [List.cons_append, firstNonzero, if_neg (not_not.mpr (h z List.mem_cons_self))]
    exact ih (fun q hq => h q (List.mem_cons_of_mem _ hq))

/-! ### Arrival bits (R97) -/

/-- An instruction that will set bit `b` clears it and makes it pending. -/
theorem claimArr_arrBit (k : Core) {b : Nat} (hb : b < 4096) (id n : Nat) : (k.claimArr b b id).arrBit n = if n = b then false else k.arrBit n := by
  have one : b + (b + 1 - b) - 1 = b := by omega
  have bit : (k.claimArr b b id).arrBit n = (decide (n < 4096) && (setBits k.arr.toNat b b 0).testBit n) := by
    unfold Core.claimArr Core.clearArr Core.arrBit
    dsimp only
    rw [one, BitVec.getLsbD_ofNat]
  rw [bit, testBit_setBits _ _ _ (Nat.le_refl b), BitVec.testBit_toNat]
  by_cases h : n = b
  · simp [h]
  · rw [if_neg (by omega), if_neg h]
    by_cases hn : n < 4096
    · simp [hn, Core.arrBit]
    · simp [hn, Core.arrBit, BitVec.getLsbD_of_ge _ _ (Nat.not_lt.mp hn)]

theorem claimArr_arrPend (k : Core) (b id n : Nat) :
    Tbl.get 0 (k.claimArr b b id).arrPend n = if n = b then id else Tbl.get 0 k.arrPend n := by
  have one : (k.claimArr b b id).arrPend = Tbl.set 0 k.arrPend b id := by
    unfold Core.claimArr
    rw [show b + 1 - b = 1 by omega]
    rfl
  rw [one]
  by_cases h : n = b
  · rw [if_pos h, h]
    exact Tbl.get_set_same ..
  · rw [if_neg h]
    exact Tbl.get_set_ne _ _ _ _ h

theorem core_of_cores {s t : State} (h : t.cores = s.cores) (n : Nat) : t.core n = s.core n := by
  unfold State.core
  rw [h]

/-! ### An instruction that has become outstanding -/

theorem SlotWork.newId {c : Nat} {s t : State} (h : SlotWork c s t) : SlotWork c s.newId.2 t.newId.2 where
  frame := by
    have f := h.frame
    unfold State.newId
    rw [f]
  words := h.words
  bytes := h.bytes
  quiet := h.quiet

/-- Before an instruction that is outstanding from now on, slot work has been done and the next number taken, and besides only the own
context and the own core have changed. -/
structure Begun (i : Iss) (s t : State) (dsts srcs : List Nat) (core : Core) : Prop where
  work : ∃ u, SlotWork i.core.toNat s.newId.2 u ∧ t = { u with ctxs := t.ctxs, cores := t.cores }
  own : ctxAt t i = (ctxAt s i).begin s.nextId dsts srcs
  others : ∀ n, n ≠ i.core.toNat * 4 + i.ctx.toNat → Tbl.get {} t.ctxs n = Tbl.get {} s.ctxs n
  core : t.core i.core.toNat = core
  cores : ∀ n, n ≠ i.core.toNat → t.core n = s.core n

/-- What such an instruction leaves, once its context has passed it and taken the issue slot. -/
theorem Begun.issued {i : Iss} {s t : State} {dsts srcs : List Nat} {core : Core} (run : CanRun i s) (h : Begun i s t dsts srcs core) :
    ∃ u, u = (t.advance i.core.toNat i.ctx.toNat).noteIssue i.core.toNat i.ctx.toNat ∧
      Outstanding i s u (issuedAt s (pastInstr (ctxAt s i))) dsts srcs ∧ OutsideSlots s u i.core.toNat ∧
      u = { s with ctl := u.ctl, mem := u.mem, ue := u.ue, sce := u.sce, ctxs := u.ctxs, cores := u.cores, nextId := s.nextId + 1 } ∧
      (s.ue = [] → s.sce = [] → u.ctl = s.ctl) ∧ u.core i.core.toNat = core := by
  obtain ⟨v, work, frame⟩ := h.work
  have worked := work.frame
  have cycle : t.cycle = s.cycle := by
    rw [frame, worked]
    rfl
  have noted := advance_noteIssue_ctxChange (s := t) (c := i.core.toNat) (x := i.ctx.toNat) (by
    show (ctxAt t i).wait.isHeld = false
    rw [h.own]
    exact run.notHeld) (by
    show (ctxAt t i).passed ≠ _
    rw [h.own, cycle]
    exact run.notPassed)
  obtain ⟨only, own, others⟩ := noted
  have cores : ((t.advance i.core.toNat i.ctx.toNat).noteIssue i.core.toNat i.ctx.toNat).cores = t.cores := by rw [only]
  have mem : ((t.advance i.core.toNat i.ctx.toNat).noteIssue i.core.toNat i.ctx.toNat).mem = v.mem := by rw [only, frame]
  have ctl : ((t.advance i.core.toNat i.ctx.toNat).noteIssue i.core.toNat i.ctx.toNat).ctl = v.ctl := by rw [only, frame]
  refine ⟨_, rfl, ⟨?_, fun n hn => (others n hn).trans (h.others n hn), fun n hn => (core_of_cores cores n).trans (h.cores n hn)⟩,
    fun j hj => (byte_of_mem mem j).trans (work.bytes j hj), ?_, fun hu hs => ?_, (core_of_cores cores _).trans h.core⟩
  · show State.ctx _ _ _ = _
    rw [own]
    show issuedAt t (pastInstr (ctxAt t i)) = _
    rw [h.own, issuedAt_congr cycle]
    rfl
  · rw [only, frame, worked]
    rfl
  · obtain ⟨-, -, quiet⟩ := work.quiet hu hs
    exact ctl.trans quiet

/-- After the slot work the context begins the instruction, and then only cores change. -/
theorem begun_of_work {i : Iss} {s u t : State} {dsts srcs : List Nat} {core : Core} (work : SlotWork i.core.toNat s.newId.2 u)
    (frame : t = { u.updCtx i.core.toNat i.ctx.toNat (fun k => k.begin s.nextId dsts srcs) with cores := t.cores })
    (own : t.core i.core.toNat = core) (others : ∀ n, n ≠ i.core.toNat → t.core n = u.core n) : Begun i s t dsts srcs core where
  work := ⟨u, work, by rw [frame]; rfl⟩
  own := by
    have ctxs : t.ctxs = (u.updCtx i.core.toNat i.ctx.toNat (fun k => k.begin s.nextId dsts srcs)).ctxs := by rw [frame]
    rw [ctxAt, State.ctx, ctxs]
    refine (State.updCtx_ctx_same u _ _ _).trans ?_
    rw [work.numOnly.ctx]
    rfl
  others := fun n hn => by
    have ctxs : t.ctxs = (u.updCtx i.core.toNat i.ctx.toNat (fun k => k.begin s.nextId dsts srcs)).ctxs := by rw [frame]
    rw [ctxs, State.updCtx_get_ne _ _ _ _ hn, work.numOnly.ctxs]
    rfl
  core := own
  cores := fun n hn => (others n hn).trans (work.numOnly.core n)

/-! ### MOVE, STASH and FETCH -/

/-- The operation that a MOVE, STASH or FETCH puts before the mover; scale and pre-pass are settled at issue, the header at that of a FETCH. -/
def mvOp (i : Iss) (s : State) (kind : MvKind) (f : MoveF) (scale : Nat) (prepass : Bool) : MvOp :=
  { kind := kind, id := s.nextId, x := i.ctx.toNat, no := (ctxAt s i).cmdNo, td := (ctxAt s i).opd f.td.toNat,
    ta := (ctxAt s i).opd f.ta.toNat, rnd := f.rnd.toNat, ovf := f.ovf, arr := arrOpt f.setarr f.arr, scale := scale, prepass := prepass,
    poisoned := poisoned ((ctxAt s i).treg f.ta.toNat).tag, hdr := [], hdrBad := false }

/-- The core after the issue: the arrival bit is claimed, and the operation stands before the mover. -/
def Core.takesMove (q : Core) (id : Nat) (arr : Option Nat) (op : MvOp) : Core :=
  let q := match arr with
    | some b => q.claimArr b b id
    | none => q
  { q with mv := q.mv ++ [op] }

theorem claimArr_takesMove (s : State) (c id : Nat) (arr : Option Nat) (op : MvOp) :
    let t := (s.claimArr c id arr).updCore c (fun q => { q with mv := q.mv ++ [op] })
    t = { s with cores := t.cores } ∧ t.core c = (s.core c).takesMove id arr op ∧ ∀ n, n ≠ c → t.core n = s.core n := by
  cases arr with
  | none => exact ⟨rfl, State.updCore_core_same .., fun n hn => State.updCore_core_ne _ _ _ hn⟩
  | some b =>
    refine ⟨rfl, ?_, fun n hn => (State.updCore_core_ne _ _ _ hn).trans (State.updCore_core_ne _ _ _ hn)⟩
    rw [State.updCore_core_same, State.claimArr, State.updCore_core_same]
    rfl

/-- The scale of a MOVE is chosen and its source, or that of a FETCH, read-marked. -/
theorem moveGo_begun {i : Iss} {s : State} {kind : MvKind} {f : MoveF} {held : Instr} {checks : Opd → Opd → List Nat}
    (hc : i.core.toNat < 96) (free : (ctxAt s i).holds [f.td.toNat] [f.ta.toNat] = false)
    (ok : ∀ r ∈ checks ((ctxAt s i).opd f.ta.toNat) ((ctxAt s i).opd f.td.toNat), r = 0) :
    ∃ t op, s.moveGo i.core.toNat i.ctx.toNat kind f held checks = t.advance i.core.toNat i.ctx.toNat ∧
      op = { mvOp i s kind f op.scale op.prepass with hdr := op.hdr, hdrBad := op.hdrBad } ∧
      Begun i s t [f.td.toNat] [f.ta.toNat] ((s.core i.core.toNat).takesMove s.nextId (arrOpt f.setarr f.arr) op) := by
  have hc : i.core.toNat < 4096 := by omega
  unfold State.moveGo
  dsimp only
  unfold ctxAt at free ok
  rw [if_neg (by rw [free]; exact Bool.false_ne_true), if_neg (not_not.mpr (firstNonzero_eq_zero ok))]
  generalize (decide (kind = .move) && !poisoned ((s.ctx i.core.toNat i.ctx.toNat).opd f.ta.toNat).t.tag &&
    s.wantsPrepass i.core.toNat ((s.ctx i.core.toNat i.ctx.toNat).opd f.td.toNat).t.d) = pre
  generalize chosen : (if (decide (kind = .move) && !poisoned ((s.ctx i.core.toNat i.ctx.toNat).opd f.ta.toNat).t.tag && !pre) = true then
    s.chooseScale i.core.toNat ((s.ctx i.core.toNat i.ctx.toNat).opd f.td.toNat).t.d
    else (((s.ctx i.core.toNat i.ctx.toNat).opd f.ta.toNat).t.tag.scale.toNat, s)) = p
  have scaled : SlotWork i.core.toNat s p.2 := by
    rw [← chosen]
    split
    · exact chooseScale_slotWork hc s _
    · exact .refl _ s
  obtain ⟨sc, s1⟩ := p
  dsimp only at scaled ⊢
  generalize marks : (if (poisoned ((s.ctx i.core.toNat i.ctx.toNat).opd f.ta.toNat).t.tag || decide (kind = .stash)) = true then s1
    else s1.markSources i.core.toNat [((s.ctx i.core.toNat i.ctx.toNat).opd f.ta.toNat).t]) = s2
  have marked : SlotWork i.core.toNat s s2 := by
    rw [← marks]
    split
    · exact scaled
    · exact scaled.trans hc (markSources_slotWork hc s1 _)
  have id : s2.newId.1 = s.nextId := by
    show s2.nextId = _
    rw [marked.frame]
  generalize notes : (if kind = .fetch then s2.newId.2.noteUe (headerAddr ((s.ctx i.core.toNat i.ctx.toNat).opd f.ta.toNat).t.d) 64
    else s2.newId.2) = u
  have work : SlotWork i.core.toNat s.newId.2 u := by
    rw [← notes]
    split
    · exact marked.newId.trans hc (noteUe_slotWork _ _ _ _)
    · exact marked.newId
  rw [id]
  obtain ⟨frame, own, others⟩ := claimArr_takesMove (u.updCtx i.core.toNat i.ctx.toNat (fun k => k.begin s.nextId [f.td.toNat] [f.ta.toNat]))
    i.core.toNat s.nextId (arrOpt f.setarr f.arr) { mvOp i s kind f sc pre with
      hdr := if kind = .fetch then s2.newId.2.header ((s.ctx i.core.toNat i.ctx.toNat).opd f.ta.toNat).t.d else []
      hdrBad := kind == .fetch && s2.newId.2.ueIn (headerAddr ((s.ctx i.core.toNat i.ctx.toNat).opd f.ta.toNat).t.d) 64 }
  exact ⟨_, _, rfl, rfl, begun_of_work work frame (own.trans (congrArg (Core.takesMove · _ _ _) (work.numOnly.core _))) others⟩

theorem takesMove_mv (q : Core) (id : Nat) (arr : Option Nat) (op : MvOp) : (q.takesMove id arr op).mv = q.mv ++ [op] := by
  cases arr <;> rfl

/-- Beside the mover only the arrival bits of the core change. -/
theorem takesMove_frame (q : Core) (id : Nat) (arr : Option Nat) (op : MvOp) : q.takesMove id arr op =
    { q with mv := (q.takesMove id arr op).mv, arr := (q.takesMove id arr op).arr, arrPend := (q.takesMove id arr op).arrPend } := by
  cases arr <;> rfl

theorem Begun.moverTakes {i : Iss} {s t : State} {kind : MvKind} {f : MoveF} {op : MvOp} (run : CanRun i s)
    (is : op = { mvOp i s kind f op.scale op.prepass with hdr := op.hdr, hdrBad := op.hdrBad })
    (h : Begun i s t [f.td.toNat] [f.ta.toNat] ((s.core i.core.toNat).takesMove s.nextId (arrOpt f.setarr f.arr) op)) :
    MoverTakes i s ((t.advance i.core.toNat i.ctx.toNat).noteIssue i.core.toNat i.ctx.toNat) kind f := by
  obtain ⟨u, hu, outstanding, slots, frame, quiet, core⟩ := h.issued run
  rw [← hu]
  refine ⟨outstanding, slots, frame, quiet, ⟨op, ?_, ?_⟩, ?_, fun none => ?_, fun some b => ?_⟩
  · rw [core, takesMove_mv]
  · rw [is]
    exact ⟨rfl, rfl, rfl, rfl, rfl, rfl, rfl, rfl, rfl, rfl⟩
  · rw [core]
    exact takesMove_frame ..
  · rw [core, arrOpt, none]
    exact ⟨rfl, rfl⟩
  · rw [core, arrOpt, some, if_pos rfl]
    exact ⟨claimArr_arrBit _ f.arr.isLt s.nextId _, claimArr_arrPend _ _ _ _⟩

/-- An instruction of the mover that the interlock and its checks let pass. -/
theorem moveGo_takes {i : Iss} {s : State} {kind : MvKind} {f : MoveF} {held : Instr} {checks : Opd → Opd → List Nat} (run : CanRun i s)
    (legal : f.rnd ≠ 3) (free : (ctxAt s i).holds [f.td.toNat] [f.ta.toNat] = false)
    (ok : ∀ r ∈ checks ((ctxAt s i).opd f.ta.toNat) ((ctxAt s i).opd f.td.toNat), r = 0) (stop : Nat → Nat → Ctx → Bool) :
    ∃ t, issueStop i (decide (f.rnd = 3)) s stop (fun c x _ => s.moveGo c x kind f held checks) = .next t ∧ MoverTakes i s t kind f := by
  have core : i.core.toNat < 96 := by
    obtain ⟨core, -⟩ := run
    exact core
  obtain ⟨t, op, go, is, begun⟩ := moveGo_begun (kind := kind) (held := held) core free ok
  rw [issueStop_of_canRun run, if_neg (by simpa using legal), go]
  exact ⟨_, rfl, begun.moverTakes run is⟩

theorem move_halts {i : Iss} {s : State} {f : MoveF} (run : CanRun i s) (illegal : f.rnd = 3) (rep : Reportable s (ctxAt s i)) :
    HaltsWith i s (exec (.move i f) s) rsILLEGAL := by
  rw [exec_move, execMove, issueStop_of_canRun run, if_pos (by simpa using illegal)]
  exact haltsWith_halt run rep _

/-! ### VOP -/

/-- A standalone VOP whose scales are chosen read-marks its sources and stands before the vector unit. -/
def State.vopQueued (s : State) (c x : Nat) (o : VuOp) (bad : Bool) (sc ss : Nat) (pre : Bool) : State :=
  let s := if bad then s else s.markSources c (o.sources.map (fun q => q.t))
  (s.newId.2.updCtx c x (fun k => k.begin s.newId.1 o.dsts o.srcs)).updCore c
    (fun q => { q with vu := q.vu ++ [{ o with id := s.newId.1, scale := sc, prepass := pre, statScale := ss }] })

theorem vopQueued_begun {i : Iss} {s u : State} (hc : i.core.toNat < 4096) (scaled : SlotWork i.core.toNat s u) (o : VuOp) (bad : Bool)
    (sc ss : Nat) (pre : Bool) : Begun i s (u.vopQueued i.core.toNat i.ctx.toNat o bad sc ss pre) o.dsts o.srcs
      { s.core i.core.toNat with
        vu := (s.core i.core.toNat).vu ++ [{ o with id := s.nextId, scale := sc, prepass := pre, statScale := ss }] } := by
  unfold State.vopQueued
  generalize marks : (if bad = true then u else u.markSources i.core.toNat (o.sources.map (fun q => q.t))) = v
  have marked : SlotWork i.core.toNat s v := by
    rw [← marks]
    split
    · exact scaled
    · exact scaled.trans hc (markSources_slotWork hc u _)
  have id : v.newId.1 = s.nextId := by
    show v.nextId = _
    rw [marked.frame]
  dsimp only
  rw [id]
  refine begun_of_work marked.newId rfl ?_ (fun n hn => State.updCore_core_ne _ _ _ hn)
  rw [State.updCore_core_same, State.updCtx_core, marked.newId.numOnly.core]
  rfl

/-- A standalone VOP reaches the vector unit. -/
theorem startVop_begun {i : Iss} {s : State} {f : VopF} (hc : i.core.toNat < 96)
    (free : (ctxAt s i).holds (vopOp i.ctx.toNat f (ctxAt s i)).dsts (vopOp i.ctx.toNat f (ctxAt s i)).srcs = false)
    (ok : ∀ r ∈ s.vopReasons i.core.toNat (vopOp i.ctx.toNat f (ctxAt s i)), r = 0) :
    ∃ t op, s.startVop i.core.toNat i.ctx.toNat f = t.advance i.core.toNat i.ctx.toNat ∧
      op = { vopOp i.ctx.toNat f (ctxAt s i) with id := s.nextId, scale := op.scale, prepass := op.prepass, statScale := op.statScale } ∧
      Begun i s t (vopOp i.ctx.toNat f (ctxAt s i)).dsts (vopOp i.ctx.toNat f (ctxAt s i)).srcs
        { s.core i.core.toNat with vu := (s.core i.core.toNat).vu ++ [op] } := by
  have hc : i.core.toNat < 4096 := by omega
  unfold ctxAt at *
  unfold State.startVop
  dsimp only
  rw [if_neg (by rw [free]; exact Bool.false_ne_true), if_neg (not_not.mpr (firstNonzero_eq_zero ok))]
  generalize vopOp i.ctx.toNat f (s.ctx i.core.toNat i.ctx.toNat) = o
  generalize (o.sources.any fun q => poisoned q.t.tag) = bad
  generalize (!bad && s.wantsPrepass i.core.toNat o.td.t.d) = pre
  generalize chosen : (if (bad || pre) = true then (127, s) else s.chooseScale i.core.toNat o.td.t.d) = p
  have scaled : SlotWork i.core.toNat s p.2 := by
    rw [← chosen]
    split
    · exact .refl _ s
    · exact chooseScale_slotWork hc s _
  obtain ⟨sc, u⟩ := p
  generalize (if bad = true then none else o.stats) = stats
  cases stats with
  | none => exact ⟨_, _, rfl, rfl, vopQueued_begun hc scaled o bad sc 127 pre⟩
  | some t => exact ⟨_, _, rfl, rfl, vopQueued_begun hc (scaled.trans hc (chooseScale_slotWork hc u t.t.d)) o bad sc _ pre⟩

/-- A VOP that attaches takes a number and leaves its attachment at the core. -/
theorem attachVop_eq {i : Iss} {s : State} {f : VopF}
    (ok : ∀ r ∈ s.attachReasons i.core.toNat (vopAttach i.ctx.toNat f (ctxAt s i)), r = 0) :
    s.attachVop i.core.toNat i.ctx.toNat f = (s.newId.2.updCore i.core.toNat (fun q => { q with
      attach := q.attach ++ [{ vopAttach i.ctx.toNat f (ctxAt s i) with id := s.nextId }] })).advance i.core.toNat i.ctx.toNat := by
  unfold State.attachVop
  dsimp only
  exact if_neg (not_not.mpr (firstNonzero_eq_zero ok))

theorem attachVop_attaches {i : Iss} {s t : State} {f : VopF} (run : CanRun i s)
    (ok : ∀ r ∈ s.attachReasons i.core.toNat (vopAttach i.ctx.toNat f (ctxAt s i)), r = 0)
    (ht : t = (s.attachVop i.core.toNat i.ctx.toNat f).noteIssue i.core.toNat i.ctx.toNat) :
    t = { s with ctxs := t.ctxs, cores := t.cores, nextId := s.nextId + 1 } ∧ ctxAt t i = issuedAt s (pastInstr (ctxAt s i)) ∧
      (∀ n, n ≠ i.core.toNat * 4 + i.ctx.toNat → Tbl.get {} t.ctxs n = Tbl.get {} s.ctxs n) ∧
      t.core i.core.toNat = { s.core i.core.toNat with
        attach := (s.core i.core.toNat).attach ++ [{ vopAttach i.ctx.toNat f (ctxAt s i) with id := s.nextId }] } ∧
      ∀ n, n ≠ i.core.toNat → t.core n = s.core n := by
  rw [attachVop_eq ok] at ht
  generalize hg : (fun q : Core => { q with
    attach := q.attach ++ [{ vopAttach i.ctx.toNat f (ctxAt s i) with id := s.nextId }] }) = g at ht
  obtain ⟨frame, own, others⟩ := advance_noteIssue_ctxChange (s := s.newId.2.updCore i.core.toNat g) (c := i.core.toNat) (x := i.ctx.toNat)
    run.notHeld run.notPassed
  rw [← ht] at frame own others
  have cores : t.cores = (s.newId.2.updCore i.core.toNat g).cores := by rw [frame]
  refine ⟨?_, own, others, ?_, fun n hn => ?_⟩
  · rw [frame]
    rfl
  · rw [core_of_cores cores, State.updCore_core_same, ← hg]
    rfl
  · rw [core_of_cores cores, State.updCore_core_ne _ _ _ hn]
    rfl

/-- An engine takes one attachment of a kind from a context (R108). -/
theorem attachVop_again {i : Iss} {s : State} {f : VopF}
    (ok : ∀ r ∈ (s.attachReasons i.core.toNat (vopAttach i.ctx.toNat f (ctxAt s i))).take 5, r = 0)
    (there : ∃ b ∈ (s.core i.core.toNat).attach, b.x = i.ctx.toNat ∧ b.eng = f.eng.toNat ∧
      b.epi = (vopAttach i.ctx.toNat f (ctxAt s i)).epi) :
    s.attachVop i.core.toNat i.ctx.toNat f = s.halt i.core.toNat i.ctx.toNat rsBAD_OPERAND := by
  have taken : ((s.core i.core.toNat).attachOf i.ctx.toNat f.eng.toNat (vopAttach i.ctx.toNat f (ctxAt s i)).epi).isSome = true := by
    obtain ⟨b, hb, hx, heng, hepi⟩ := there
    unfold Core.attachOf
    rw [List.find?_isSome]
    exact ⟨b, hb, by simp [hx, heng, hepi]⟩
  have last : ∀ p q : Bool, firstNonzero [chk p rsBAD_OPERAND, chk q rsBAD_OPERAND, chk true rsBAD_OPERAND] = rsBAD_OPERAND := by decide
  have reason : firstNonzero (s.attachReasons i.core.toNat (vopAttach i.ctx.toNat f (ctxAt s i))) = rsBAD_OPERAND := by
    rw [← List.take_append_drop 5 (s.attachReasons _ _), firstNonzero_append ok, ← last, ← taken]
    rfl
  unfold State.attachVop
  dsimp only
  unfold ctxAt at reason
  rw [reason, if_pos (by decide)]

theorem vop_runs {i : Iss} {s : State} {f : VopF} (run : CanRun i s) (fn : f.fn.toNat ≤ 20) (rnd : f.rnd ≠ 3) (att : f.att ≠ 3) :
    exec (.vop i f) s = .next ((if f.att = 0 then s.startVop i.core.toNat i.ctx.toNat f
      else s.attachVop i.core.toNat i.ctx.toNat f).noteIssue i.core.toNat i.ctx.toNat) := by
  rw [exec_vop, execVop, issueStop_of_canRun run, if_neg (by simpa [Nat.not_lt.mpr fn] using ⟨rnd, att⟩)]

end Sys2Proof.Machine

open Sys2Proof Sys2Proof.Machine

/-- Settles O10: `moveGo`, `startVop` and `attachVop` behind their checks, and the reasons of a second attachment. -/
theorem moverAndVectorQueue : Obligations.MoverAndVectorQueue := by
  unfold Obligations.MoverAndVectorQueue
  refine ⟨fun i s f run free => ⟨fun legal ok => ?_, fun legal ok => ?_, fun legal ok => ?_, fun illegal rep => move_halts run illegal rep⟩,
    fun i s f run fn legal => ?_⟩
  · rw [exec_move, execMove]
    exact moveGo_takes run legal free ok _
  · rw [exec_stash, execStash]
    exact moveGo_takes run legal free ok _
  · rw [exec_fetch, execFetch]
    exact moveGo_takes run legal free ok _
  · refine ⟨fun alone free ok => ?_, fun attaches ok => ?_, fun attaches ok there rep => ?_⟩
    · have core : i.core.toNat < 96 := by
        obtain ⟨core, -⟩ := run
        exact core
      obtain ⟨t, op, go, is, begun⟩ := startVop_begun core free ok
      obtain ⟨u, hu, outstanding, slots, frame, quiet, own⟩ := begun.issued run
      rw [vop_runs run fn legal (by rw [alone]; decide), if_pos alone, go, ← hu]
      exact ⟨u, op, rfl, outstanding, slots, frame, quiet, own, is⟩
    · have att : f.att ≠ 3 ∧ f.att ≠ 0 := by rcases attaches with h | h <;> rw [h] <;> decide
      rw [vop_runs run fn legal att.1, if_neg att.2]
      exact ⟨_, rfl, attachVop_attaches run ok rfl⟩
    · have att : f.att ≠ 3 ∧ f.att ≠ 0 := by rcases attaches with h | h <;> rw [h] <;> decide
      rw [vop_runs run fn legal att.1, if_neg att.2, attachVop_again ok there]
      exact haltsWith_halt run rep _
end

section
/-! Tensor instructions at issue (R91, R93, R95, R101, R108, R117, R141): what stands at the end of an engine's queue once the interlock, the
queue and the checks have let the instruction pass. -/

namespace Sys2Proof.Machine

/-! ### The common form -/

theorem EngineAdmits.run {i : Iss} {s : State} {m need : Nat} {dsts srcs checks : List Nat} (h : EngineAdmits i s m need dsts srcs checks) :
    CanRun i s := by
  obtain ⟨run, -⟩ := h
  exact run

/-- An instruction that its engine admits is queued. -/
theorem tensorGo_go {i : Iss} {s : State} {m need : Nat} {dsts srcs checks : List Nat} (adm : EngineAdmits i s m need dsts srcs checks)
    (held : Instr) (faulted go : State) : s.tensorGo i.core.toNat i.ctx.toNat m need held dsts srcs checks faulted go = go := by
  obtain ⟨-, free, room, named, ok⟩ := adm
  have none : ∀ r ∈ s.engNameReason i.core.toNat i.ctx.toNat m :: checks, r = 0 := List.forall_mem_cons.mpr ⟨named, ok⟩
  unfold ctxAt at free
  unfold State.tensorGo
  dsimp only
  rw [if_neg (by rw [free]; exact Bool.false_ne_true), if_neg (Nat.not_lt.mpr room), if_neg (not_not.mpr (firstNonzero_eq_zero none))]

/-- Before a full queue the context is passed over. -/
theorem tensorGo_stall {i : Iss} {s : State} {m need : Nat} {dsts srcs : List Nat} (free : (ctxAt s i).holds dsts srcs = false)
    (full : 8 < (s.eng i.core.toNat m).q.length + need) (held : Instr) (checks : List Nat) (faulted go : State) :
    s.tensorGo i.core.toNat i.ctx.toNat m need held dsts srcs checks faulted go = s.engStall i.core.toNat i.ctx.toNat := by
  unfold ctxAt at free
  unfold State.tensorGo
  dsimp only
  rw [if_neg (by rw [free]; exact Bool.false_ne_true), if_pos full]

/-- An engine that may not be named halts the context, whatever the checks say. -/
theorem tensorGo_unnamed {i : Iss} {s : State} {m need : Nat} {dsts srcs : List Nat} (free : (ctxAt s i).holds dsts srcs = false)
    (room : (s.eng i.core.toNat m).q.length + need ≤ 8) {r : Nat} (name : s.engNameReason i.core.toNat i.ctx.toNat m = r) (hr : r ≠ 0)
    (held : Instr) (checks : List Nat) (faulted go : State) :
    s.tensorGo i.core.toNat i.ctx.toNat m need held dsts srcs checks faulted go = faulted.halt i.core.toNat i.ctx.toNat r := by
  have first : firstNonzero (s.engNameReason i.core.toNat i.ctx.toNat m :: checks) = r := by rw [firstNonzero, name, if_pos hr]
  unfold ctxAt at free
  unfold State.tensorGo
  dsimp only
  rw [if_neg (by rw [free]; exact Bool.false_ne_true), if_neg (Nat.not_lt.mpr room), first, if_pos hr]

/-- The context of a full queue stays on its instruction, and the stall is counted. -/
theorem engStall_noteIssue (s : State) (c x : Nat) : CtxChange (s.count32 0x10 c 0x18 1) ((s.engStall c x).noteIssue c x) c x
    { s.ctx c x with passed := some s.cycle } := by
  have counted := count32_sameCtxs s 0x10 c 0x18 1
  have cycle : (s.count32 0x10 c 0x18 1).cycle = s.cycle := counted.2
  have passed := updCtx_ctxChange (s.count32 0x10 c 0x18 1) c x (fun k => { k with passed := some (s.count32 0x10 c 0x18 1).cycle })
  rw [counted.ctx c x, cycle] at passed
  have noted := passed.updCtx (Ctx.slotTaken s.cycle)
  have still : ({ s.ctx c x with passed := some s.cycle } : Ctx).slotTaken s.cycle = { s.ctx c x with passed := some s.cycle } :=
    if_pos (by simp)
  rw [still] at noted
  unfold State.engStall State.passOver
  rw [noteIssue_eq, State.updCtx_cycle, cycle]
  exact noted

/-! ### The queue -/

/-- The entries that an instruction takes when it becomes outstanding under its number and those that follow. -/
def QueuedBy (i : Iss) (s : State) (kinds : List EngKind) (ops : List EngOp) : Prop :=
  ops.map (fun o => o.kind) = kinds ∧ (∀ o ∈ ops, o.x = i.ctx.toNat ∧ o.no = (ctxAt s i).cmdNo ∧ o.cc = s.cycle ∧ o.started = false) ∧
    ops.map (fun o => o.id) = (List.range kinds.length).map (fun n => s.nextId + n)

/-- Engine `m` has taken `ops`, and is otherwise `e`; the context has begun them with `busy` more registers busy, and is still on the
instruction; beside these, only cores have changed. -/
structure Queued (i : Iss) (s t : State) (m : Nat) (kinds : List EngKind) (ops : List EngOp) (busy : List BusyT) (e : Engine) : Prop where
  queued : QueuedBy i s kinds ops
  eng : t.eng i.core.toNat m = { e with q := (s.eng i.core.toNat m).q ++ ops }
  engines : ∀ n, n ≠ i.core.toNat * 4 + m → Tbl.get {} t.engines n = Tbl.get {} s.engines n
  own : ctxAt t i = { ctxAt s i with
    outst := (ctxAt s i).outst ++ ops.map (fun o => { id := o.id, no := (ctxAt s i).cmdNo }), busy := (ctxAt s i).busy ++ busy }
  others : ∀ n, n ≠ i.core.toNat * 4 + i.ctx.toNat → Tbl.get {} t.ctxs n = Tbl.get {} s.ctxs n
  frame : t = { s with ctxs := t.ctxs, engines := t.engines, cores := t.cores, nextId := s.nextId + kinds.length }

/-- The registers that an instruction makes busy. -/
def busyUnder (id : Nat) (dsts srcs : List Nat) : List BusyT :=
  dsts.map (fun r => { t := r, wr := true, id := id }) ++ srcs.map (fun r => { t := r, wr := false, id := id })

theorem engQueue_queued {i : Iss} (s : State) (m : Nat) (kind : EngKind) (dsts srcs : List Nat) (tile : Bool) {issue : Engine → Engine}
    {e : Engine} (he : ∀ q, issue { s.eng i.core.toNat m with q := q } = { e with q := q }) :
    ∃ op, Queued i s (s.engQueue i.core.toNat i.ctx.toNat m kind dsts srcs tile issue) m [kind] [op] (busyUnder s.nextId dsts srcs) e := by
  refine ⟨{ id := s.nextId, x := i.ctx.toNat, no := (ctxAt s i).cmdNo, kind := kind, tile := tile, cc := s.cycle,
            seed := (s.eng i.core.toNat m).issueSeed }, ⟨rfl, ?_, rfl⟩, ?_, fun n hn => State.setEng_get_ne _ _ _ _ hn, ?_, fun n hn => ?_, rfl⟩
  · intro o ho
    rw [List.mem_singleton.mp ho]
    exact ⟨rfl, rfl, rfl, rfl⟩
  · unfold State.engQueue
    dsimp only
    rw [State.setEng_eng_same]
    exact he _
  · refine (updCtx_ctxChange s.newId.2 i.core.toNat i.ctx.toNat (fun k => k.begin s.nextId dsts srcs)).2.1.trans ?_
    unfold Ctx.begin busyUnder
    rw [List.append_assoc]
    rfl
  · exact State.updCtx_get_ne s.newId.2 i.core.toNat i.ctx.toNat (fun k => k.begin s.nextId dsts srcs) hn

theorem engQueue_cores (s : State) (c x m : Nat) (kind : EngKind) (dsts srcs : List Nat) (tile : Bool) (issue : Engine → Engine) :
    (s.engQueue c x m kind dsts srcs tile issue).cores = s.cores := rfl

/-- Two instructions that follow one another. -/
theorem Queued.trans {i : Iss} {s t u : State} {m : Nat} {kinds kinds' : List EngKind} {ops ops' : List EngOp} {busy busy' : List BusyT}
    {e e' : Engine} (h : Queued i s t m kinds ops busy e) (k : Queued i t u m kinds' ops' busy' e') :
    Queued i s u m (kinds ++ kinds') (ops ++ ops') (busy ++ busy') e' := by
  have cycle : t.cycle = s.cycle := by rw [h.frame]
  have next : t.nextId = s.nextId + kinds.length := by rw [h.frame]
  have no : (ctxAt t i).cmdNo = (ctxAt s i).cmdNo := by rw [h.own]; rfl
  obtain ⟨kind, each, ids⟩ := h.queued
  obtain ⟨kind', each', ids'⟩ := k.queued
  refine ⟨⟨?_, fun o ho => ?_, ?_⟩, ?_, fun n hn => (k.engines n hn).trans (h.engines n hn), ?_,
    fun n hn => (k.others n hn).trans (h.others n hn), ?_⟩
  · rw [List.map_append, kind, kind']
  · rcases List.mem_append.mp ho with ho | ho
    · exact each o ho
    · rw [← no, ← cycle]
      exact each' o ho
  · rw [List.map_append, ids, ids', next, List.length_append, List.range_add, List.map_append, List.map_map]
    congr 2
    funext n
    exact Nat.add_assoc ..
  · rw [k.eng, h.eng, List.append_assoc]
  · rw [k.own, no, h.own, List.map_append, List.append_assoc, List.append_assoc]
  · have frame := k.frame
    rw [h.frame] at frame
    rw [List.length_append, ← Nat.add_assoc]
    exact frame

/-- What an instruction leaves that is queued, once its context has passed it and taken the issue slot. -/
theorem Queued.takes {i : Iss} {s t : State} {m : Nat} {kinds : List EngKind} {ops : List EngOp} {dsts srcs : List Nat} {e : Engine}
    (run : CanRun i s) (h : Queued i s t m kinds ops (busyUnder s.nextId dsts srcs) e) {u : State}
    (hu : u = (t.advance i.core.toNat i.ctx.toNat).noteIssue i.core.toNat i.ctx.toNat) :
    u.cores = t.cores ∧ EngineTakes i s u m kinds dsts srcs e := by
  have cycle : t.cycle = s.cycle := by rw [h.frame]
  have passed := advance_noteIssue_ctxChange (s := t) (c := i.core.toNat) (x := i.ctx.toNat)
    (by show (ctxAt t i).wait.isHeld = false; rw [h.own]; exact run.notHeld)
    (by show (ctxAt t i).passed ≠ _; rw [h.own, cycle]; exact run.notPassed)
  rw [← hu] at passed
  obtain ⟨frame, own, others⟩ := passed
  have engines : u.engines = t.engines := by rw [frame]
  obtain ⟨kind, each, ids⟩ := h.queued
  refine ⟨by rw [frame], ops, kind, each, ids, ?_, fun n hn => ?_, ?_, fun n hn => (others n hn).trans (h.others n hn), ?_⟩
  · rw [← h.eng, State.eng, engines]
    rfl
  · rw [engines]
    exact h.engines n hn
  · refine own.trans ?_
    show issuedAt t (pastInstr (ctxAt t i)) = _
    rw [h.own, issuedAt_congr cycle, List.append_assoc]
    rfl
  · rw [frame]
    have before := h.frame
    generalize u.ctxs = ctxs
    rw [before]

/-- An instruction of one entry that leaves its engine otherwise as `e`. -/
theorem tensor_takes {i : Iss} {s : State} (run : CanRun i s) (m : Nat) (kind : EngKind) (dsts srcs : List Nat) {issue : Engine → Engine}
    {e : Engine} (he : ∀ q, issue { s.eng i.core.toNat m with q := q } = { e with q := q }) {u : State}
    (hu : u = ((s.engQueue i.core.toNat i.ctx.toNat m kind dsts srcs false issue).advance i.core.toNat i.ctx.toNat).noteIssue
      i.core.toNat i.ctx.toNat) : u.cores = s.cores ∧ EngineTakes i s u m [kind] dsts srcs e := by
  obtain ⟨op, queued⟩ := engQueue_queued (i := i) s m kind dsts srcs false he
  exact queued.takes run hu

/-! ### The instructions -/

theorem setIb_eq (e : Engine) (n : Nat) (b : BufIss) :
    e.setIb n b = { e with ib0 := if n = 0 then b else e.ib0, ib1 := if n = 0 then e.ib1 else b } := by
  unfold Engine.setIb
  by_cases h : n = 0
  · simp [h]
  · simp [h]

theorem setIb_bit (e : Engine) (n : BitVec 1) (b : BufIss) :
    e.setIb n.toNat b = { e with ib0 := if n = 0 then b else e.ib0, ib1 := if n = 0 then e.ib1 else b } := by
  rw [setIb_eq]
  by_cases h : n = 0
  · rw [if_pos h, if_pos h, h]
    rfl
  · have set : n.toNat ≠ 0 := fun z => h (BitVec.eq_of_toNat_eq z)
    rw [if_neg h, if_neg h, if_neg set, if_neg set]

/-- The LOADS of a tile form, then its STREAM. -/
theorem tileForm_takes {i : Iss} {s : State} {f : TileF} {n : Nat}
    (adm : EngineAdmits i s f.eng.toNat 2 [] [] (s.tileReasons f (tileLoads f n (ctxAt s i)) (tileStream f n (ctxAt s i)))) (held : Instr) :
    ∃ t, tileForm i f n held s = .next t ∧ t.cores = s.cores ∧
      EngineTakes i s t f.eng.toNat [.loads (tileLoads f n (ctxAt s i)), .stream (tileStream f n (ctxAt s i))] [] []
        { s.eng i.core.toNat f.eng.toNat with ib1 := { (s.eng i.core.toNat f.eng.toNat).ib1 with loaded := false } } := by
  have run := adm.run
  rw [tileForm, issueStop_of_canRun run, if_neg Bool.false_ne_true, tensorGo_go adm]
  obtain ⟨op, first⟩ := engQueue_queued (i := i) s f.eng.toNat (.loads (tileLoads f n (ctxAt s i))) [] [] true
    (issue := fun e => e.setIb 1 { e.ib1 with loaded := false })
    (e := { s.eng i.core.toNat f.eng.toNat with ib1 := { (s.eng i.core.toNat f.eng.toNat).ib1 with loaded := false } }) (fun q => rfl)
  generalize ht : s.engQueue i.core.toNat i.ctx.toNat f.eng.toNat (.loads (tileLoads f n (ctxAt s i))) [] [] true
    (fun e => e.setIb 1 { e.ib1 with loaded := false }) = t at first ⊢
  obtain ⟨op', second⟩ := engQueue_queued (i := i) t f.eng.toNat (.stream (tileStream f n (ctxAt s i))) [] [] true
    (issue := id) (e := t.eng i.core.toNat f.eng.toNat) (fun _ => rfl)
  have both := first.trans second
  obtain ⟨cores, takes⟩ := Queued.takes (dsts := []) (srcs := []) run both rfl
  refine ⟨_, rfl, cores.trans ?_, ?_⟩
  · rw [engQueue_cores, ← ht, engQueue_cores]
  · rw [first.eng] at takes
    exact takes

theorem loads_takes {i : Iss} {s : State} {f : LoadsF}
    (adm : EngineAdmits i s f.eng.toNat 1 [] [f.tb.toNat] (s.loadsReasons i.core.toNat (loadsOp f (ctxAt s i)) f.eng.toNat)) :
    ∃ t, exec (.loads i f) s = .next t ∧ t.cores = s.cores ∧
      EngineTakes i s t f.eng.toNat [.loads (loadsOp f (ctxAt s i))] [] [f.tb.toNat]
        ((s.eng i.core.toNat f.eng.toNat).setIb f.buf.toNat
          { loaded := true, sh := f.sh, kn := f.kn.toNat, nn := f.nn.toNat, fmt := ((ctxAt s i).treg f.tb.toNat).d.fmt.toNat }) := by
  have run := adm.run
  rw [exec_loads, execLoads, issue, issueStop_of_canRun run, if_neg Bool.false_ne_true, tensorGo_go adm]
  refine ⟨_, rfl, tensor_takes run _ _ _ _ (fun q => ?_) rfl⟩
  rw [setIb_eq, setIb_eq]
  rfl

/-- A LOADS whose engine's queue is full (R95). -/
theorem loads_stalls {i : Iss} {s : State} {f : LoadsF} (run : CanRun i s) (free : (ctxAt s i).holds [] [f.tb.toNat] = false)
    (full : 8 ≤ (s.eng i.core.toNat f.eng.toNat).q.length) :
    ∃ t, exec (.loads i f) s = .next t ∧ t = { s with ctl := t.ctl, ctxs := t.ctxs } ∧
      ctxAt t i = { ctxAt s i with passed := some s.cycle } ∧
      (∀ n, n ≠ i.core.toNat * 4 + i.ctx.toNat → Tbl.get {} t.ctxs n = Tbl.get {} s.ctxs n) ∧
      (t.word 0x10 i.core.toNat 0x18).toNat = min ((s.word 0x10 i.core.toNat 0x18).toNat + 1) (2 ^ 32 - 1) ∧
      ∀ b o j, ctlKey b o j ≠ ctlKey 0x10 i.core.toNat 0x18 → t.word b o j = s.word b o j := by
  obtain ⟨frame, own, others⟩ := engStall_noteIssue s i.core.toNat i.ctx.toNat
  have counted := count32_onlyCtl s 0x10 i.core.toNat 0x18 1
  have next : exec (.loads i f) s = .next ((s.engStall i.core.toNat i.ctx.toNat).noteIssue i.core.toNat i.ctx.toNat) := by
    rw [exec_loads, execLoads, issue, issueStop_of_canRun run, if_neg Bool.false_ne_true, tensorGo_stall free (by omega)]
  generalize (s.engStall i.core.toNat i.ctx.toNat).noteIssue i.core.toNat i.ctx.toNat = t at *
  refine ⟨t, next, ?_, own, fun m hm => (others m hm).trans (congrArg (Tbl.get {} · m) counted.numOnly.ctxs), ?_, fun b o j key => ?_⟩
  · have ctl : t.ctl = (s.count32 0x10 i.core.toNat 0x18 1).ctl := by rw [frame]
    unfold OnlyCtl at counted
    rw [ctl]
    rw [counted] at frame
    exact frame
  · rw [word_ctl (s.count32 0x10 i.core.toNat 0x18 1) t (by rw [frame]), word_count32_same]
  · rw [word_ctl (s.count32 0x10 i.core.toNat 0x18 1) t (by rw [frame]), word_count32_key _ _ key]

theorem drain_takes {i : Iss} {s : State} {f : DrainF} (legal : f.rnd ≠ 3)
    (adm : EngineAdmits i s f.eng.toNat 1 [f.tc.toNat] [] (s.drainReasons i.core.toNat (drainOp f (ctxAt s i))
      (if f.ab = 0 then (s.eng i.core.toNat f.eng.toNat).bankForm0 else (s.eng i.core.toNat f.eng.toNat).bankForm1))) :
    ∃ t, exec (.drain i f) s = .next t ∧ t.cores = s.cores ∧
      EngineTakes i s t f.eng.toNat [.drain (drainOp f (ctxAt s i))] [f.tc.toNat] [] (s.eng i.core.toNat f.eng.toNat) := by
  have run := adm.run
  rw [exec_drain, execDrain, issueStop_of_canRun run, if_neg (by simpa using legal), tensorGo_go adm]
  exact ⟨_, rfl, tensor_takes run _ _ _ _ (fun _ => rfl) rfl⟩

theorem engSeed_takes {i : Iss} {s : State} {sreg : BitVec 6} {eng : BitVec 2} (adm : EngineAdmits i s eng.toNat 1 [] [] []) :
    ∃ t, exec (.engSeed i sreg eng) s = .next t ∧ t.cores = s.cores ∧
      EngineTakes i s t eng.toNat [.seed (if (ctxAt s i).sreg sreg.toNat = 0 then 1 else (ctxAt s i).sreg sreg.toNat)] [] []
        (s.eng i.core.toNat eng.toNat) := by
  have run := adm.run
  rw [exec_engSeed, execEngSeed, issue, issueStop_of_canRun run, if_neg Bool.false_ne_true, tensorGo_go adm]
  exact ⟨_, rfl, tensor_takes run _ _ _ _ (fun _ => rfl) rfl⟩

/-! ### STREAM -/

/-- The engine after the issue of a STREAM from buffer entry `ib`: REL empties it, and DSTB gives the bank its form. -/
def streamIssued (f : StreamF) (ib : BufIss) (e : Engine) : Engine :=
  { e with
    ib0 := if f.buf = 0 then { ib with loaded := if f.rel then false else ib.loaded } else e.ib0
    ib1 := if f.buf = 0 then e.ib1 else { ib with loaded := if f.rel then false else ib.loaded }
    bankForm0 := if f.dstb = true ∧ f.ab = 0 then ib.sh else e.bankForm0
    bankForm1 := if f.dstb = true ∧ f.ab ≠ 0 then ib.sh else e.bankForm1 }

/-- An engine whose buffer entry is written with what it holds is as it was. -/
theorem setIb_ib (e : Engine) (n : Nat) : e.setIb n (e.ib n) = e := by
  unfold Engine.setIb Engine.ib
  split <;> rfl

/-- With DSTB the bank that AB names takes the buffer's form. -/
theorem bankForm_eq (e : Engine) (dstb : Bool) (p : Prop) [Decidable p] (sh : Bool) :
    (if dstb then (if p then { e with bankForm0 := sh } else { e with bankForm1 := sh }) else e) =
      { e with bankForm0 := if dstb = true ∧ p then sh else e.bankForm0, bankForm1 := if dstb = true ∧ ¬ p then sh else e.bankForm1 } := by
  cases dstb
  · simp
  · by_cases h : p <;> simp [h]

/-- The change of the engine that the issue makes. -/
def streamIssue (f : StreamF) (ib : BufIss) (e : Engine) : Engine :=
  let e := if f.rel then e.setIb f.buf.toNat { ib with loaded := false } else e
  if f.dstb then (if f.ab = 0 then { e with bankForm0 := ib.sh } else { e with bankForm1 := ib.sh }) else e

theorem streamIssue_eq (f : StreamF) (e : Engine) (q : List EngOp) (ib : BufIss) (hib : ib = e.ib f.buf.toNat) :
    streamIssue f ib { e with q := q } = { streamIssued f ib e with q := q } := by
  have buffer : (if f.rel then ({ e with q := q } : Engine).setIb f.buf.toNat { ib with loaded := false } else { e with q := q }) =
      ({ e with q := q } : Engine).setIb f.buf.toNat { ib with loaded := if f.rel then false else ib.loaded } := by
    cases f.rel
    · exact ((congrArg _ hib).trans (setIb_ib { e with q := q } f.buf.toNat)).symm
    · rfl
  unfold streamIssue
  dsimp only
  rw [buffer, bankForm_eq, setIb_bit]
  rfl

theorem stream_takes {i : Iss} {s : State} {f : StreamF} {o : StreamOp} {ib : BufIss} (legal : f.acc ≠ 3 ∧ f.rnd ≠ 3 ∧ f.red.toNat < 4)
    (ho : o = s.streamOp i.core.toNat i.ctx.toNat f (ctxAt s i)) (hib : ib = (s.eng i.core.toNat f.eng.toNat).ib f.buf.toNat)
    (adm : EngineAdmits i s f.eng.toNat 1 o.dsts o.srcs (s.streamReasons i.core.toNat f o ib)) :
    ∃ t, exec (.stream i f) s = .next t ∧ t.cores = (s.dropAttach i.core.toNat i.ctx.toNat f.eng.toNat).cores ∧
      EngineTakes i s t f.eng.toNat [.stream o] o.dsts o.srcs (streamIssued f ib (s.eng i.core.toNat f.eng.toNat)) := by
  have run := adm.run
  obtain ⟨acc, rnd, red⟩ := legal
  rw [ho, hib] at adm
  rw [exec_stream, execStream, issueStop_of_canRun run, if_neg (by simpa [Nat.not_le.mpr red] using ⟨acc, rnd⟩)]
  dsimp only
  rw [tensorGo_go adm, ← ho, ← hib]
  refine ⟨_, rfl, ?_⟩
  obtain ⟨op, queued, eng, engines, own, others, frame⟩ :=
    engQueue_queued (i := i) (s.dropAttach i.core.toNat i.ctx.toNat f.eng.toNat) f.eng.toNat
    (.stream o) o.dsts o.srcs false (issue := streamIssue f ib) (fun q => streamIssue_eq f (s.eng i.core.toNat f.eng.toNat) q ib hib)
  exact Queued.takes run ⟨queued, eng, engines, own, others, frame⟩ rfl

end Sys2Proof.Machine

open Sys2Proof Sys2Proof.Machine

/-- Settles O9: `tensorGo` behind the interlock, the queue and the checks, and `engQueue` for each instruction. -/
theorem tensorInstructionsQueue : Obligations.TensorInstructionsQueue := by
  unfold Obligations.TensorInstructionsQueue
  refine ⟨fun i s => ⟨fun f adm => ?_, fun f legal adm => drain_takes legal adm, fun sreg eng adm => engSeed_takes adm,
    fun f => ⟨fun adm => ?_, fun adm => ?_⟩⟩, fun i s f run free => ⟨fun full => loads_stalls run free full, fun room rep =>
      ⟨fun follower => ?_, fun leader owner => ?_⟩⟩,
    fun i s f acc rnd red adm => ?_⟩
  · have takes := loads_takes adm
    rw [setIb_bit] at takes
    exact takes
  · rw [exec_tile16Mma, execTile16Mma]
    exact tileForm_takes adm _
  · rw [exec_tile32Mma, execTile32Mma]
    exact tileForm_takes adm _
  · have name : s.engNameReason i.core.toNat i.ctx.toNat f.eng.toNat = 0x9301 := if_pos follower
    rw [exec_loads, execLoads, issue, issueStop_of_canRun run, if_neg Bool.false_ne_true, tensorGo_unnamed free (by omega) name (by decide)]
    exact haltsWith_halt run rep _
  · have name : s.engNameReason i.core.toNat i.ctx.toNat f.eng.toNat = rsNOT_OWNER := by
      unfold State.engNameReason State.engOwner
      rw [leader, if_neg Bool.false_ne_true, if_pos (by simp [owner])]
    rw [exec_loads, execLoads, issue, issueStop_of_canRun run, if_neg Bool.false_ne_true, tensorGo_unnamed free (by omega) name (by decide)]
    exact haltsWith_halt run rep _
  · have ib : (if f.buf = 0 then (s.eng i.core.toNat f.eng.toNat).ib0 else (s.eng i.core.toNat f.eng.toNat).ib1) =
        (s.eng i.core.toNat f.eng.toNat).ib f.buf.toNat := by
      unfold Engine.ib
      by_cases h : f.buf = 0
      · rw [if_pos h, h]
        rfl
      · have set : f.buf.toNat ≠ 0 := fun z => h (BitVec.eq_of_toNat_eq z)
        rw [if_neg h, if_neg set]
    obtain ⟨t, next, cores, takes⟩ := stream_takes ⟨acc, rnd, red⟩ rfl ib adm
    refine ⟨t, next, takes, ?_, fun n hn => ?_⟩
    · rw [core_of_cores cores, State.dropAttach, State.updCore_core_same]
    · rw [core_of_cores cores, State.dropAttach, State.updCore_core_ne _ _ _ hn]
end

section
/-! An engine at work (R147, R164, R222, R231, R234, R505): what the steps of its instructions change, and that the settings which say where the
scale slots and the layer watch table stand, and whether a pair works as twins, stay. -/

namespace Sys2Proof.Machine

/-! ### The settings -/

/-- The register words that say where core `c`'s scale slots and the layer watch table stand, and whether engine `m` leads a twin pair. -/
def engSettings (c m : Nat) : List Nat :=
  [ctlKey 0x10 c 0x400, ctlKey 0x10 c 0x404, ctlKey 0x13 (c * 4 + m / 2 * 2) 0, ctlKey 0x20 0 0, ctlKey 0x20 0 0x200, ctlKey 0x20 0 0x204,
   ctlKey 0x20 0 0x208]

/-- These words are in `t` what they are in `s`. -/
def KeepsSettings (c m : Nat) (s t : State) : Prop := ∀ b i o, ctlKey b i o ∈ engSettings c m → t.word b i o = s.word b i o

theorem errorKeys_notMem_engSettings {c : Nat} (_ : c < 96) (m : Nat) : ∀ k ∈ errorKeys, k ∉ engSettings c m := by
  intro k hk hs
  simp only [errorKeys, List.map_cons, List.map_nil, List.mem_cons, List.not_mem_nil, or_false, ctlKey] at hk
  simp only [engSettings, List.mem_cons, List.not_mem_nil, or_false, ctlKey] at hs
  omega

/-- SQ's words from 0x408 on are none of them. -/
theorem sqKey_notMem_engSettings {c o : Nat} (_ : c < 96) (m : Nat) (lo : 0x408 ≤ o) (hi : o < 65536) : ctlKey 0x10 c o ∉ engSettings c m := by
  simp only [engSettings, List.mem_cons, List.not_mem_nil, or_false, ctlKey]
  omega

/-- The words of an engine's EN block and of a core's VU block are none of them. -/
theorem engKey_notMem_engSettings {c b i o : Nat} (hc : c < 96) (m : Nat) (hb : b = 0x11 ∨ b = 0x12) (hi : i < 4096) (ho : o < 65536) :
    ctlKey b i o ∉ engSettings c m := by
  simp only [engSettings, List.mem_cons, List.not_mem_nil, or_false, ctlKey]
  omega

/-- ED's words but the first of an engine are none of them. -/
theorem edKey_notMem_engSettings {c i o : Nat} (hc : c < 96) (m : Nat) (hi : i < 4096) (lo : 0 < o) (ho : o < 65536) :
    ctlKey 0x13 i o ∉ engSettings c m := by
  simp only [engSettings, List.mem_cons, List.not_mem_nil, or_false, ctlKey]
  omega

namespace KeepsSettings

variable {c m : Nat} {s t u : State}

theorem refl (c m : Nat) (s : State) : KeepsSettings c m s s := fun _ _ _ _ => rfl

theorem trans (h : KeepsSettings c m s t) (k : KeepsSettings c m t u) : KeepsSettings c m s u :=
  fun b i o hk => (k b i o hk).trans (h b i o hk)

theorem of_onlyWords {ks : List Nat} (h : OnlyWords s t ks) (free : ∀ k ∈ ks, k ∉ engSettings c m) : KeepsSettings c m s t :=
  fun b i o hk => h b i o (fun hm => free _ hm hk)

theorem of_ctl (h : t.ctl = s.ctl) : KeepsSettings c m s t := fun b i o _ => word_ctl s t h b i o

theorem fld (h : KeepsSettings c m s t) {b i o : Nat} (hk : ctlKey b i o ∈ engSettings c m) (hi lo : Nat) :
    t.fld b i o hi lo = s.fld b i o hi lo := by
  unfold State.fld
  rw [h b i o hk]

theorem inSlots (h : KeepsSettings c m s t) (j : Nat) : InSlots t c j ↔ InSlots s c j := by
  unfold InSlots
  rw [h.fld (by simp [engSettings]), h.fld (by simp [engSettings])]

theorem layerCount (h : KeepsSettings c m s t) : t.layerCount = s.layerCount := by
  have running : t.fnRunning .ms = s.fnRunning .ms := by
    unfold State.fnRunning
    exact congrArg (· == 2) (h.fld (b := 0x20) (i := 0) (o := 0) (by simp [engSettings]) 2 0)
  unfold State.layerCount
  rw [running, h.fld (by simp [engSettings]), h.fld (by simp [engSettings])]

theorem layerAddr (h : KeepsSettings c m s t) (l : Nat) : t.layerAddr l = s.layerAddr l := by
  unfold State.layerAddr
  rw [h.layerCount, h.fld (by simp [engSettings])]

theorem inLayers (h : KeepsSettings c m s t) (j : Nat) : InLayers t j ↔ InLayers s j := by
  unfold InLayers
  rw [h.layerCount, h.fld (by simp [engSettings])]

theorem twinOn (h : KeepsSettings c m s t) : t.twinOn c m = s.twinOn c m := by
  unfold State.twinOn
  rw [h.fld (by simp [engSettings])]

theorem pairOf (h : KeepsSettings c m s t) : t.pairOf c m = s.pairOf c m := by
  unfold State.pairOf
  rw [h.twinOn]

end KeepsSettings

/-! ### What the steps change -/

/-- Byte `j` lies in one of the rectangles, in the core's scale slots or in the layer watch table. -/
def EngWrites (s : State) (c : Nat) (rs : List (TDesc × Rect)) (j : Nat) : Prop :=
  (∃ r ∈ rs, InRect r.1 r.2 j) ∨ InSlots s c j ∨ InLayers s j

theorem KeepsSettings.engWrites {c m : Nat} {s t : State} (h : KeepsSettings c m s t) (rs : List (TDesc × Rect)) (j : Nat) :
    EngWrites t c rs j ↔ EngWrites s c rs j := by
  unfold EngWrites
  rw [h.inSlots, h.inLayers]

/-- The engines differ in their banks and their tasters alone. -/
def SameWork (e' e : Engine) : Prop := e' = { e with
  bank0 := e'.bank0, bank1 := e'.bank1, samples := e'.samples, tasteWin := e'.tasteWin, tasteCnt := e'.tasteCnt, tasteDraws := e'.tasteDraws }

/-- The engines differ in their tasters alone. -/
def Tasted (e' e : Engine) : Prop := e' = { e with
  samples := e'.samples, tasteWin := e'.tasteWin, tasteCnt := e'.tasteCnt, tasteDraws := e'.tasteDraws }

theorem SameWork.refl (e : Engine) : SameWork e e := rfl

theorem SameWork.trans {e e' e'' : Engine} (h : SameWork e'' e') (k : SameWork e' e) : SameWork e'' e := by
  unfold SameWork at *
  rw [k] at h
  exact h

theorem Tasted.sameWork {e e' : Engine} (h : Tasted e' e) : SameWork e' e := by
  unfold SameWork Tasted at *
  rw [h]

theorem Tasted.trans {e e' e'' : Engine} (h : Tasted e'' e') (k : Tasted e' e) : Tasted e'' e := by
  unfold Tasted at *
  rw [k] at h
  exact h

theorem SameWork.q {e e' : Engine} (h : SameWork e' e) : e'.q = e.q := by rw [h]
theorem SameWork.last {e e' : Engine} (h : SameWork e' e) : e'.last = e.last := by rw [h]
theorem SameWork.holds {e e' : Engine} (h : SameWork e' e) : e'.holds = e.holds := by rw [h]
theorem SameWork.retiring {e e' : Engine} (h : SameWork e' e) : e'.retiring = e.retiring := by rw [h]
theorem SameWork.bufN {e e' : Engine} (h : SameWork e' e) (b : Nat) : e'.bufN b = e.bufN b := by rw [h]; rfl

/-- `t` comes from `s` by work of engine `m` of core `c`: but for its banks and taster the engine is now `e`; of the other engines only the
taster of its twin has changed; and memory has changed within `rs`, the scale slots and the layer watch table alone. -/
structure EngWork (c m : Nat) (rs : List (TDesc × Rect)) (s t : State) (e : Engine) : Prop where
  frame : t = { s with engines := t.engines, ctl := t.ctl, mem := t.mem, ue := t.ue, sce := t.sce, freeCtr := t.freeCtr }
  settings : KeepsSettings c m s t
  bytes : ∀ j, ¬ EngWrites s c rs j → t.byte j = s.byte j
  engines : ∀ n, n ≠ c * 4 + m → (s.twinOn c m = true → n ≠ c * 4 + m + 1) → Tbl.get {} t.engines n = Tbl.get {} s.engines n
  twin : Tasted (t.eng c (m + 1)) (s.eng c (m + 1))
  own : SameWork (t.eng c m) e

namespace EngWork

variable {c m : Nat} {rs : List (TDesc × Rect)} {s t u : State} {e e' : Engine}

theorem refl (c m : Nat) (rs : List (TDesc × Rect)) (s : State) : EngWork c m rs s s (s.eng c m) :=
  ⟨rfl, .refl c m s, fun _ _ => rfl, fun _ _ _ => rfl, rfl, .refl _⟩

theorem pairOnly (h : EngWork c m rs s t e) : PairOnly s t c m := ⟨h.engines, h.twin⟩

theorem onlyWrites (h : EngWork c m rs s t e) : OnlyWrites s t c rs := fun j hr hs hl =>
  h.bytes j (fun w => by
    rcases w with ⟨r, hm, hj⟩ | hj | hj
    · exact hr r hm hj
    · exact hs hj
    · exact hl hj)

/-- A step that works on memory and registers. -/
theorem num (h : EngWork c m rs s t e) (only : NumOnly u t) (settings : KeepsSettings c m t u)
    (bytes : ∀ j, ¬ EngWrites t c rs j → u.byte j = t.byte j) : EngWork c m rs s u e where
  frame := by
    have frame := h.frame
    rw [only.engines]
    unfold NumOnly at only
    rw [frame] at only
    exact only
  settings := h.settings.trans settings
  bytes := fun j hj => (bytes j (fun hj' => hj ((h.settings.engWrites rs j).mp hj'))).trans (h.bytes j hj)
  engines := fun n hn ht => by
    rw [only.engines]
    exact h.engines n hn ht
  twin := by
    rw [only.eng]
    exact h.twin
  own := by
    rw [only.eng]
    exact h.own

theorem slotWork (h : EngWork c m rs s t e) (hc : c < 96) (work : SlotWork c t u) : EngWork c m rs s u e :=
  h.num work.numOnly (.of_onlyWords work.words (errorKeys_notMem_engSettings hc m)) (fun j hj => work.bytes j (fun w => hj (.inr (.inl w))))

/-- A step that counts or flags in other words. -/
theorem onlyCtl (h : EngWork c m rs s t e) (only : OnlyCtl u t) {ks : List Nat} (words : OnlyWords t u ks)
    (free : ∀ k ∈ ks, k ∉ engSettings c m) : EngWork c m rs s u e :=
  h.num only.numOnly (.of_onlyWords words free) (fun j _ => byte_of_mem (by rw [only]) j)

theorem count64 (h : EngWork c m rs s t e) {b i o : Nat} (n : Nat) (free : ctlKey b i o ∉ engSettings c m)
    (free' : ctlKey b i (o + 4) ∉ engSettings c m) : EngWork c m rs s (t.count64 b i o n) e :=
  h.onlyCtl (count64_onlyCtl ..) (ks := [ctlKey b i o, ctlKey b i (o + 4)]) (count64_onlyWords _ _ _ _ _ (by simp) (by simp))
    (by simpa using ⟨free, free'⟩)

/-- A counter of SQ's counts. -/
theorem sqCount (h : EngWork c m rs s t e) (hc : c < 96) {o : Nat} (lo : 0x408 ≤ o) (hi : o < 0x2000) (n : Nat) :
    EngWork c m rs s (t.count64 0x10 c o n) e :=
  h.count64 n (sqKey_notMem_engSettings hc m lo (by omega)) (sqKey_notMem_engSettings hc m (by omega) (by omega))

/-- A flag of SQ's is set. -/
theorem setFlagIf (h : EngWork c m rs s t e) (hc : c < 96) (p : Bool) {n : Nat} (hn : n < 32) :
    EngWork c m rs s (t.setFlagIf p 0x10 c 0x40C n) e := by
  unfold State.setFlagIf
  split
  · refine h.onlyCtl (setFlag_onlyCtl ..) (ks := [ctlKey 0x10 c 0x40C, ctlKey 0x10 c (0x40C + 0x100 + 4 * n)])
      (setFlag_onlyWords _ _ _ _ _ (by simp) (by simp)) (fun k hk => ?_)
    simp only [List.mem_cons, List.not_mem_nil, or_false] at hk
    rcases hk with rfl | rfl
    · exact sqKey_notMem_engSettings hc m (by decide) (by decide)
    · exact sqKey_notMem_engSettings hc m (by omega) (by omega)
  · exact h

theorem drew (h : EngWork c m rs s t e) (n : Nat) : EngWork c m rs s (t.drew n) e :=
  h.num (drew_numOnly t n) (.of_ctl rfl) (fun _ _ => rfl)

/-- A write within what the engine may write. -/
theorem writeMem (h : EngWork c m rs s t e) {a : Nat} {bs : List Byte} (within : ∀ j, a ≤ j → j < a + bs.length → EngWrites s c rs j) :
    EngWork c m rs s (t.writeMem a bs) e :=
  h.num (writeMem_numOnly t a bs) (.of_ctl (by rw [writeMem_frame])) (fun j hj => by
    rw [byte_writeMem, if_neg]
    exact fun w => hj ((h.settings.engWrites rs j).mpr (within j w.1 w.2)))

theorem writeNat (h : EngWork c m rs s t e) {a n : Nat} (v : Nat) (within : ∀ j, a ≤ j → j < a + n → EngWrites s c rs j) :
    EngWork c m rs s (t.writeNat a n v) e :=
  h.writeMem (by rw [leBytes_length]; exact within)

theorem engFrame_updEng
    (frame : t = { s with engines := t.engines, ctl := t.ctl, mem := t.mem, ue := t.ue, sce := t.sce, freeCtr := t.freeCtr }) (n : Nat)
    (f : Engine → Engine) : t.updEng c n f = { s with
      engines := (t.updEng c n f).engines, ctl := (t.updEng c n f).ctl, mem := (t.updEng c n f).mem, ue := (t.updEng c n f).ue,
      sce := (t.updEng c n f).sce, freeCtr := (t.updEng c n f).freeCtr } := by
  unfold State.updEng State.setEng
  generalize Tbl.set ({} : Engine) t.engines (c * 4 + n) (f (t.eng c n)) = es
  rw [frame]

/-- A change of the engine itself. -/
theorem updEng (h : EngWork c m rs s t e) {f : Engine → Engine} (hf : SameWork (f (t.eng c m)) e') :
    EngWork c m rs s (t.updEng c m f) e' where
  frame := engFrame_updEng h.frame m f
  settings := h.settings
  bytes := h.bytes
  engines := fun n hn ht => (State.updEng_get_ne _ _ _ _ hn).trans (h.engines n hn ht)
  twin := by
    have other : (t.updEng c m f).eng c (m + 1) = t.eng c (m + 1) := State.updEng_get_ne _ _ _ _ (by omega)
    rw [other]
    exact h.twin
  own := by
    rw [State.updEng_eng_same]
    exact hf

/-- A change of the taster of an engine of the pair. -/
theorem taste (h : EngWork c m rs s t e) {n : Nat} (hn : n ∈ s.pairOf c m) {f : Engine → Engine} (hf : ∀ k, Tasted (f k) k) :
    EngWork c m rs s (t.updEng c n f) e := by
  by_cases own : n = m
  · rw [own]
    exact h.updEng ((hf _).sameWork.trans h.own)
  · have follower : s.twinOn c m = true ∧ n = m + 1 := by
      unfold State.pairOf at hn
      split at hn
      · rename_i twin
        exact ⟨twin, by simpa [own] using hn⟩
      · exact absurd (List.mem_singleton.mp hn) own
    obtain ⟨twin, rfl⟩ := follower
    refine ⟨engFrame_updEng h.frame (m + 1) f, h.settings, h.bytes, fun n hn ht => ?_, ?_, ?_⟩
    · exact (State.updEng_get_ne _ _ _ _ (by have := ht twin; omega)).trans (h.engines n hn ht)
    · rw [State.updEng_eng_same]
      exact (hf _).trans h.twin
    · have other : (t.updEng c (m + 1) f).eng c m = t.eng c m := State.updEng_get_ne _ _ _ _ (by omega)
      rw [other]
      exact h.own

/-! ### The layer watch table (R231, R233) -/

/-- An address of the record of a layer lies in the table. -/
theorem layer_within (hl : s.layerCount ≠ 0) {l o n : Nat} (ho : o + n ≤ 128) (rs : List (TDesc × Rect)) (c : Nat) {j : Nat}
    (lo : s.layerAddr l + o ≤ j) (hi : j < s.layerAddr l + o + n) : EngWrites s c rs j := by
  have table : InLayers s j := by
    have low : min l (s.layerCount - 1) + 1 ≤ s.layerCount := by omega
    rw [State.layerAddr, modAddr] at lo hi
    rw [InLayers, modAddr]
    omega
  exact .inr (.inr table)

theorem layerCount64 (h : EngWork c m rs s t e) (hc : c < 96) (hl : s.layerCount ≠ 0) (l : Nat) {o : Nat} (ho : o + 8 ≤ 128) (n : Nat) :
    EngWork c m rs s (t.memCount64 (s.layerAddr l + o) n) e := by
  unfold State.memCount64
  split
  · exact h
  · exact (h.slotWork hc (noteUe_slotWork c t _ 8)).writeNat _ (fun j => layer_within hl ho rs c)

theorem layerAdd (h : EngWork c m rs s t e) (hc : c < 96) (l : Nat) (st : ConvStat) (pre : Bool) : EngWork c m rs s (t.layerAdd l st pre) e := by
  unfold State.layerAdd
  rw [h.settings.layerCount, h.settings.layerAddr]
  split
  · exact h
  · rename_i hl
    have first := h.layerCount64 hc hl l (o := 0) (by decide) st.nOvf
    exact ((first.layerCount64 hc hl l (by decide) _).layerCount64 hc hl l (by decide) _).layerCount64 hc hl l (by decide) _

/-! ### Conversions are counted (R222, R227) -/

theorem convCounts (h : EngWork c m rs s t e) (hc : c < 96) {off : Nat} (lo : 0x408 ≤ off) (hi : off < 0x1000) (l : Option Nat) (st : ConvStat)
    (pre : Bool) : EngWork c m rs s (t.convCounts c off l st pre) e := by
  have counted := ((h.sqCount hc lo (by omega) st.nOvf).sqCount hc (o := off + 8) (by omega) (by omega) st.nUnf).sqCount hc
    (o := off + 16) (by omega) (by omega) st.nNonfinite
  have layers : EngWork c m rs s (match l with
      | some l => (((t.count64 0x10 c off st.nOvf).count64 0x10 c (off + 8) st.nUnf).count64 0x10 c (off + 16) st.nNonfinite).layerCountFor
          c l st pre
      | none => ((t.count64 0x10 c off st.nOvf).count64 0x10 c (off + 8) st.nUnf).count64 0x10 c (off + 16) st.nNonfinite) e := by
    cases l with
    | none => exact counted
    | some l => exact (counted.layerAdd hc l st pre).setFlagIf hc _ (by decide)
  exact (((layers.setFlagIf hc _ (by decide)).setFlagIf hc _ (by decide)).setFlagIf hc _ (by decide)).setFlagIf hc _ (by decide)

/-! ### The taster (R234, R237) -/

theorem tasteSkip (h : EngWork c m rs s t e) (hc : c < 96) {n : Nat} (hn : n ≤ 4) (l : Nat) : EngWork c m rs s (t.tasteSkip c n l) e := by
  have counted := h.sqCount hc (o := 0x460 + 0x30 * n) (by omega) (by omega) 1
  unfold State.tasteSkip
  dsimp only
  rw [counted.settings.layerCount, counted.settings.layerAddr]
  split
  · exact counted
  · rename_i hl
    exact (counted.layerCount64 hc hl l (by decide) 1).setFlagIf hc _ (by decide)

theorem pair_le (hm : m < 4) {n : Nat} (hn : n ∈ s.pairOf c m) : n ≤ 4 := by
  unfold State.pairOf at hn
  split at hn
  · simp only [List.mem_cons, List.not_mem_nil, or_false] at hn
    omega
  · have := List.mem_singleton.mp hn
    omega

theorem foldl {α : Type} {g : State → α → State} {l : List α} (step : ∀ t a, a ∈ l → EngWork c m rs s t e → EngWork c m rs s (g t a) e)
    (h : EngWork c m rs s t e) : EngWork c m rs s (l.foldl g t) e := by
  induction l generalizing t with
  | nil => exact h
  | cons a l ih => exact ih (fun t b hb => step t b (List.mem_cons_of_mem _ hb)) (step t a List.mem_cons_self h)

theorem tasteAbandon (h : EngWork c m rs s t e) (hc : c < 96) (hm : m < 4) {n : Nat} (hn : n ∈ s.pairOf c m) :
    EngWork c m rs s (t.tasteAbandon c n) e := by
  unfold State.tasteAbandon
  split
  · exact h
  · exact foldl (fun t x _ ht => ht.tasteSkip hc (pair_le hm hn) x.layer) (h.taste hn (fun _ => rfl))

/-- The samples of the pair are abandoned. -/
theorem tastePair (h : EngWork c m rs s t e) (hc : c < 96) (hm : m < 4) {ns : List Nat} (hns : ns = s.pairOf c m) :
    EngWork c m rs s (ns.foldl (fun s n => s.tasteAbandon c n) t) e := by
  subst hns
  exact foldl (fun t n hn ht => ht.tasteAbandon hc hm hn) h

/-! ### Feeding (R107, R164, R221) -/

theorem feed (h : EngWork c m rs s t e) : EngWork c m rs s (t.feed c m) ((t.feed c m).eng c m) := by
  unfold State.feed
  split
  · exact { h with own := .refl _ }
  · split
    · exact { h with own := .refl _ }
    · rw [State.updEng_eng_same]
      exact h.updEng (.refl _)

end EngWork

end Sys2Proof.Machine
end

section
/-! ENGINE_INSTR_START (R141, R147, R181, R219 to R221): which instruction starts, and what each kind of instruction leaves as it starts. -/

namespace Sys2Proof.Machine

/-! ### What a slot reads as -/

section
variable {s t : State} {c i : Nat}

theorem readNat_of_mem (h : t.mem = s.mem) (a n : Nat) : t.readNat a n = s.readNat a n := by
  unfold State.readNat
  rw [readMem_congr (fun j _ _ => byte_of_mem h j)]

theorem slotFld_congr (mem : t.mem = s.mem) (addr : t.slotAddr c i = s.slotAddr c i) (hi lo : Nat) :
    t.slotFld c i hi lo = s.slotFld c i hi lo := by
  unfold State.slotFld State.slotWord
  rw [addr, readNat_of_mem mem]

theorem slotAmax_congr (mem : t.mem = s.mem) (addr : t.slotAddr c i = s.slotAddr c i) : t.slotAmax c i = s.slotAmax c i := by
  unfold State.slotAmax State.slotHist
  simp only [slotFld_congr mem addr, addr, readNat_of_mem mem]

theorem readSlot_mem (s : State) (c i : Nat) : (s.readSlot c i).mem = s.mem := by
  unfold State.readSlot State.noteUe
  rw [noteErrors_frame]

end

/-- The scale that a slot's history calls for (R219). -/
def State.historyScale (s : State) (c : Nat) (d : TDesc) : Nat :=
  if d.slot = 0xFFF || !s.slotOk c d then d.scale.toNat
  else if s.slotFld c d.slot.toNat 14 13 = slEMPTY then 0x7F
  else scaleFor d.fmt.toNat (s.slotAmax c d.slot.toNat) (s.slotFld c d.slot.toNat 10 9)

theorem chooseScale_fst {c : Nat} (hc : c < 4096) (s : State) (d : TDesc) : (s.chooseScale c d).1 = s.historyScale c d := by
  have mem := readSlot_mem s c d.slot.toNat
  have addr := (readSlot_slotWork c s d.slot.toNat).slotAddr hc d.slot.toNat
  unfold State.chooseScale State.historyScale
  split
  · rfl
  · dsimp only
    rw [slotFld_congr mem addr, slotFld_congr mem addr, slotAmax_congr mem addr]
    split
    · rfl
    · rfl

/-! ### Feeding -/

/-- The state beside its engines is what it was. -/
theorem feed_frame (s : State) (c m : Nat) : s.feed c m = { s with engines := (s.feed c m).engines } := by
  unfold State.feed
  split
  · rfl
  · split <;> rfl

theorem feed_engines (s : State) (c m : Nat) {n : Nat} (hn : n ≠ c * 4 + m) :
    Tbl.get {} (s.feed c m).engines n = Tbl.get {} s.engines n := by
  unfold State.feed
  split
  · rfl
  · split
    · rfl
    · exact State.updEng_get_ne _ _ _ _ hn

theorem feed_fld (s : State) (c m b i o hi lo : Nat) : (s.feed c m).fld b i o hi lo = s.fld b i o hi lo :=
  fld_ctl s _ (by rw [feed_frame]) b i o hi lo

theorem feed_historyScale (s : State) (c m d : Nat) (r : TDesc) : (s.feed c m).historyScale d r = s.historyScale d r := by
  rw [feed_frame]
  rfl

theorem feed_wantsPrepass (s : State) (c m d : Nat) (r : TDesc) : (s.feed c m).wantsPrepass d r = s.wantsPrepass d r := by
  rw [feed_frame]
  rfl

/-! ### Which instruction starts -/

theorem splitStart_first {before after : List EngOp} {op : EngOp} (started : ∀ o ∈ before, o.started = true) (waits : op.started = false)
    (pre : List EngOp) : splitStart pre (before ++ op :: after) = some (pre ++ before, op, after) := by
  induction before generalizing pre with
  | nil => simp [splitStart, waits]
  | cons o os ih =>
    obtain ⟨first, rest⟩ := List.forall_mem_cons.mp started
    rw [List.cons_append, splitStart, if_pos first, ih rest, List.append_assoc]
    rfl

/-- The queue with the instruction that starts in its place. -/
def Engine.withStarted (pre post : List EngOp) (op : EngOp) (e : Engine) : Engine := { e with q := pre ++ [op] ++ post }

/-- What an instruction that starts leaves of the state in which the STREAM before it has been fed. -/
def State.starts (s : State) (c m : Nat) (pre post : List EngOp) (op : EngOp) : State :=
  match op.kind with
  | .loads o => (s.startLoads c m op o).2.updEng c m (Engine.withStarted pre post (s.startLoads c m op o).1)
  | .stream o =>
    ((s.startStream c m op o).2.pairOf c m).foldl (fun s e => s.tasteAbandon c e)
      (((s.startStream c m op o).2.updEng c m (Engine.withStarted pre post (s.startStream c m op o).1)).feed c m)
  | .drain o => (s.startDrain c op o).2.updEng c m (Engine.withStarted pre post (s.startDrain c op o).1)
  | .seed v => (s.updEng c m (fun e => { e with q := pre ++ post, seed := v })).opDone c op.x op.id

/-- Of the queue `before ++ op :: after` the instruction `op` starts, unless it is a STREAM that a replay holds back. -/
theorem engineInstrStart_eq {s : State} {c : BitVec 7} {m : BitVec 2} {before after : List EngOp} {op : EngOp} (hc : c.toNat < 96)
    (queue : ((s.feed c.toNat m.toNat).eng c.toNat m.toNat).q = before ++ op :: after) (started : ∀ o ∈ before, o.started = true)
    (waits : op.started = false) (works : 2 ≤ s.fld 0x11 (c.toNat * 4 + m.toNat) 0 2 0)
    (stays : ((s.feed c.toNat m.toNat).eng c.toNat m.toNat).retiring = false)
    (may : ((s.feed c.toNat m.toNat).eng c.toNat m.toNat).mayStart before op.kind = true) :
    exec (.engineInstrStart c m) s = .next (if isStream op.kind && (s.feed c.toNat m.toNat).replayDue c.toNat m.toNat then
        (if op.waited then s else s.noteWaited c.toNat m.toNat op)
      else (s.feed c.toNat m.toNat).starts c.toNat m.toNat before after op) := by
  have at_work : (s.feed c.toNat m.toNat).engWorks c.toNat m.toNat = true := by
    unfold State.engWorks
    rw [feed_fld]
    exact decide_eq_true works
  have split := splitStart_first (after := after) started waits []
  rw [List.nil_append] at split
  rw [exec_engineInstrStart, execEngineInstrStart, if_neg (by rw [coreOk_of_lt hc]; exact Bool.false_ne_true)]
  dsimp only
  rw [queue, split]
  dsimp only
  rw [at_work, stays, may, if_neg (by decide)]
  split
  · rfl
  · unfold State.starts
    cases op.kind <;> rfl

/-! ### LOADS, DRAIN and ENG.SEED -/

theorem opDone_ends (s : State) (c x id : Nat) : OpEnds s (s.opDone c x id) c x id [] := by
  have own := State.updCtx_ctx_same s c x (fun k => k.done id)
  refine ⟨fun n hn => State.updCtx_get_ne _ _ _ _ hn, ?_, fun n _ => ?_, fun n => ?_⟩
  · rw [State.opDone, own]
    rfl
  · rw [State.opDone, own]
    rfl
  · rw [State.opDone, own]
    rfl

/-- The engine's own part of a start, after work on the scale slots. -/
theorem starts_frame {s u t : State} {c m : Nat}
    (work : u = { s.feed c m with ctl := u.ctl, mem := u.mem, ue := u.ue, sce := u.sce }) (slots : OutsideSlots (s.feed c m) u c)
    (moved : t = { u with engines := t.engines }) (others : ∀ n, n ≠ c * 4 + m → Tbl.get {} t.engines n = Tbl.get {} u.engines n) :
    t = { s with engines := t.engines, ctl := t.ctl, mem := t.mem, ue := t.ue, sce := t.sce } ∧ EngineOnly s t c m ∧ OutsideSlots s t c := by
  have fed := feed_frame s c m
  have engines : u.engines = (s.feed c m).engines := by rw [work]
  have mem : t.mem = u.mem := by rw [moved]
  refine ⟨?_, fun n hn => ?_, fun j hj => ?_⟩
  · rw [fed] at work
    rw [work] at moved
    rw [moved]
  · rw [others n hn, engines, feed_engines s c m hn]
  · have there : InSlots (s.feed c m) c j ↔ InSlots s c j := by
      unfold InSlots
      rw [feed_fld, feed_fld]
    have byte := byte_of_mem (s := s) (t := s.feed c m) (by rw [fed]) j
    rw [byte_of_mem mem, slots j (fun w => hj (there.mp w)), byte]

theorem loads_starts {s : State} {c m : Nat} (hc : c < 96) (hm : m < 4) {op : EngOp} {o : LoadsOp} (kind : op.kind = .loads o)
    (before after : List EngOp) {t : State} (ht : t = (s.feed c m).starts c m before after op) :
    t = { s with engines := t.engines, ctl := t.ctl, mem := t.mem, ue := t.ue, sce := t.sce } ∧ EngineOnly s t c m ∧ OutsideSlots s t c ∧
      t.eng c m = { ((s.feed c m).eng c m).setBuf o.buf { ((s.feed c m).eng c m).bufN o.buf with loaded := false, sh := o.sh } with
        q := before ++ { op with started := true, cc := s.cycle } :: after } := by
  unfold State.starts at ht
  rw [kind] at ht
  unfold State.startLoads at ht
  dsimp only at ht
  generalize marks : (if op.tile then s.feed c m else ((s.feed c m).countTres c m [o.tb.t.tag]).markSource c o.tb.t) = u at ht
  have work : u = { s.feed c m with ctl := u.ctl, mem := u.mem, ue := u.ue, sce := u.sce } ∧ OutsideSlots (s.feed c m) u c := by
    rw [← marks]
    split
    · exact ⟨rfl, fun _ _ => rfl⟩
    · have counted := count64_onlyCtl (s.feed c m) 0x13 (c * 4 + m) 0x80 ([o.tb.t.tag].filter (fun t => !tagOk t)).length
      have words := count64_onlyWords (s.feed c m) 0x13 (c * 4 + m) 0x80 ([o.tb.t.tag].filter (fun t => !tagOk t)).length
        (ks := [ctlKey 0x13 (c * 4 + m) 0x80, ctlKey 0x13 (c * 4 + m) 0x84]) (by simp) (by simp)
      have marked := markSource_slotWork (c := c) (by omega) ((s.feed c m).countTres c m [o.tb.t.tag]) o.tb.t
      have settings : KeepsSettings c m (s.feed c m) ((s.feed c m).countTres c m [o.tb.t.tag]) := .of_onlyWords words (by
        simp only [List.mem_cons, List.not_mem_nil, or_false, forall_eq_or_imp, forall_eq]
        exact ⟨edKey_notMem_engSettings hc m (by omega) (by decide) (by decide),
          edKey_notMem_engSettings hc m (by omega) (by decide) (by decide)⟩)
      refine ⟨?_, fun j hj => ?_⟩
      · have frame := marked.frame
        unfold OnlyCtl at counted
        unfold State.countTres at frame ⊢
        rw [counted] at frame ⊢
        exact frame
      · have byte := byte_of_mem (s := s.feed c m) (t := (s.feed c m).countTres c m [o.tb.t.tag])
          (by unfold State.countTres; rw [counted]) j
        rw [marked.bytes j (fun w => hj ((settings.inSlots j).mp w)), byte]
  obtain ⟨frame, slots⟩ := work
  have cycle : u.cycle = s.cycle := by
    rw [frame, feed_frame]
  have own : u.eng c m = (s.feed c m).eng c m := by
    rw [frame]
    rfl
  obtain ⟨frame, only, outside⟩ := starts_frame (t := t) frame slots (by rw [ht]; rfl) (fun n hn => by
    rw [ht, State.updEng_get_ne _ _ _ _ hn, State.updEng_get_ne _ _ _ _ hn])
  refine ⟨frame, only, outside, ?_⟩
  rw [ht, State.updEng_eng_same, State.updEng_eng_same, own, cycle, Engine.withStarted, List.append_assoc]
  rfl

theorem drain_starts {s : State} {c m : Nat} (hc : c < 96) {op : EngOp} {o : DrainOp} (kind : op.kind = .drain o)
    (before after : List EngOp) {t : State} (ht : t = (s.feed c m).starts c m before after op) :
    ∃ op', t = { s with engines := t.engines, ctl := t.ctl, mem := t.mem, ue := t.ue, sce := t.sce } ∧
      (s.ue = [] → s.sce = [] → t.ctl = s.ctl) ∧ EngineOnly s t c m ∧ OutsideSlots s t c ∧
      t.eng c m = { (s.feed c m).eng c m with q := before ++ op' :: after } ∧
      op' = { op with started := true, cc := s.cycle, scale := op'.scale, prepass := op'.prepass } ∧
      (s.wantsPrepass c o.tc.t.d = true → op'.prepass = true ∧ op'.scale = op.scale) ∧
      (s.wantsPrepass c o.tc.t.d = false → op'.prepass = op.prepass ∧ op'.scale = (s.chooseScale c o.tc.t.d).1) := by
  have fed := feed_frame s c m
  have cycle : (s.feed c m).cycle = s.cycle := by rw [fed]
  have choice : ∃ op' u, (s.feed c m).startDrain c op o = (op', u) ∧ SlotWork c (s.feed c m) u ∧
      op' = { op with started := true, cc := s.cycle, scale := op'.scale, prepass := op'.prepass } ∧
      (s.wantsPrepass c o.tc.t.d = true → op'.prepass = true ∧ op'.scale = op.scale) ∧
      (s.wantsPrepass c o.tc.t.d = false → op'.prepass = op.prepass ∧ op'.scale = (s.chooseScale c o.tc.t.d).1) := by
    unfold State.startDrain
    dsimp only
    rw [feed_wantsPrepass, cycle]
    split
    · rename_i wants
      exact ⟨_, _, rfl, .refl _ _, rfl, fun _ => ⟨rfl, rfl⟩, fun no => absurd (wants.symm.trans no) (by decide)⟩
    · rename_i wants
      refine ⟨_, _, rfl, chooseScale_slotWork (by omega) _ _, rfl, fun yes => absurd yes wants, fun _ => ⟨rfl, ?_⟩⟩
      show ((s.feed c m).chooseScale c o.tc.t.d).1 = _
      rw [chooseScale_fst (by omega), chooseScale_fst (by omega), feed_historyScale]
  obtain ⟨op', u, is, work, shape, pre, direct⟩ := choice
  unfold State.starts at ht
  rw [kind] at ht
  dsimp only at ht
  rw [is] at ht
  dsimp only at ht
  have own : u.eng c m = (s.feed c m).eng c m := work.numOnly.eng c m
  obtain ⟨frame, only, outside⟩ := starts_frame (t := t) work.frame work.bytes (by rw [ht]; rfl) (fun n hn => by
    rw [ht, State.updEng_get_ne _ _ _ _ hn])
  refine ⟨op', frame, fun ue sce => ?_, only, outside, ?_, shape, pre, direct⟩
  · have ctl : t.ctl = u.ctl := by
      rw [ht]
      rfl
    obtain ⟨-, -, quiet⟩ := work.quiet (by rw [fed]; exact ue) (by rw [fed]; exact sce)
    rw [ctl, quiet, fed]
  · rw [ht, State.updEng_eng_same, own, Engine.withStarted, List.append_assoc]
    rfl

theorem seed_starts {s : State} {c m : Nat} {op : EngOp} {v : W64} (kind : op.kind = .seed v) (before after : List EngOp) {t : State}
    (ht : t = (s.feed c m).starts c m before after op) :
    t = { s with engines := t.engines, ctxs := t.ctxs } ∧ EngineOnly s t c m ∧
      t.eng c m = { (s.feed c m).eng c m with q := before ++ after, seed := v } ∧ OpEnds s t c op.x op.id [] := by
  have fed := feed_frame s c m
  unfold State.starts at ht
  rw [kind] at ht
  dsimp only at ht
  generalize hg : (fun e : Engine => { e with q := before ++ after, seed := v }) = g at ht
  have ctxs : ((s.feed c m).updEng c m g).ctxs = s.ctxs := by
    rw [State.updEng_ctxs, fed]
  have engines : t.engines = ((s.feed c m).updEng c m g).engines := by
    rw [ht]
    rfl
  have ends := opDone_ends ((s.feed c m).updEng c m g) c op.x op.id
  rw [← ht] at ends
  refine ⟨?_, fun n hn => ?_, ?_, ?_⟩
  · have frame : t = { s.feed c m with engines := t.engines, ctxs := t.ctxs } := by
      rw [ht]
      rfl
    rw [fed] at frame
    exact frame
  · rw [engines, State.updEng_get_ne _ _ _ _ hn, feed_engines s c m hn]
  · rw [State.eng, engines]
    exact (State.updEng_eng_same ..).trans (by rw [← hg])
  · obtain ⟨others, own, tregs, descs⟩ := ends
    have ctx : ((s.feed c m).updEng c m g).ctx c op.x = s.ctx c op.x := by
      unfold State.ctx
      rw [ctxs]
    rw [ctx] at own tregs descs
    rw [ctxs] at others
    exact ⟨others, own, tregs, descs⟩

/-! ### STREAM -/

theorem attScale_slotWork {c : Nat} (hc : c < 4096) (s : State) (a : Option Attach) : SlotWork c s (s.attScale c a).2.2 := by
  unfold State.attScale
  split
  · exact .refl c s
  · split
    · exact .refl c s
    · split
      · exact .refl c s
      · exact chooseScale_slotWork hc s _

/-- A STREAM that has started: its buffer is read, and the scales of its destinations are chosen or await a pre-pass. -/
def EngOp.startedAs (op : EngOp) (cc : W64) (b : Buf) (op' : EngOp) : Prop := op' = { op with
  started := true, cc := cc, buf := b, scale := op'.scale, prepass := op'.prepass, proScale := op'.proScale, proPrepass := op'.proPrepass,
  epiScale := op'.epiScale, epiPrepass := op'.epiPrepass }

theorem startStream_works {c m : Nat} {rs : List (TDesc × Rect)} {s t : State} {e : Engine} (h : EngWork c m rs s t e) (hc : c < 96) (hm : m < 4)
    (op : EngOp) (o : StreamOp) :
    EngWork c m rs s (t.startStream c m op o).2 { e with last := some (op.id, o.sh) } ∧
      op.startedAs t.cycle ((t.eng c m).bufN o.buf) (t.startStream c m op o).1 := by
  have hc' : c < 4096 := by omega
  have last : EngWork c m rs s (t.updEng c m (fun e => { e with last := some (op.id, o.sh) })) { e with last := some (op.id, o.sh) } :=
    h.updEng (by
      have own := h.own
      unfold SameWork at *
      rw [own])
  have cycle : (t.updEng c m (fun e => { e with last := some (op.id, o.sh) })).cycle = t.cycle := rfl
  unfold State.startStream EngOp.startedAs
  dsimp only
  generalize t.updEng c m (fun e => { e with last := some (op.id, o.sh) }) = u at last cycle ⊢
  rw [cycle]
  split
  · exact ⟨last, rfl⟩
  generalize tags : (if op.tile then u else u.countTres c m (o.tags ((t.eng c m).bufN o.buf))) = v
  have counted : EngWork c m rs s v { e with last := some (op.id, o.sh) } := by
    rw [← tags]
    split
    · exact last
    · exact last.count64 _ (edKey_notMem_engSettings hc m (by omega) (by decide) (by decide))
        (edKey_notMem_engSettings hc m (by omega) (by decide) (by decide))
  split
  · exact ⟨counted, rfl⟩
  have pro := counted.slotWork hc (attScale_slotWork hc' v o.pro)
  generalize v.attScale c o.pro = p at pro ⊢
  obtain ⟨ps, pp, v1⟩ := p
  dsimp only at pro ⊢
  have epi := pro.slotWork hc (attScale_slotWork hc' v1 o.epi)
  generalize v1.attScale c o.epi = q at epi ⊢
  obtain ⟨es, ep, v2⟩ := q
  dsimp only at epi ⊢
  split
  · exact ⟨epi.slotWork hc (markSources_slotWork hc' _ _), rfl⟩
  · split
    · exact ⟨epi.slotWork hc (markSources_slotWork hc' _ _), rfl⟩
    · exact ⟨(epi.slotWork hc (chooseScale_slotWork hc' v2 _)).slotWork hc (markSources_slotWork hc' _ _), rfl⟩

/-! ### The STREAM before steering -/

/-- A STREAM that has started and is not yet fed. -/
def EngOp.unfedStream (p : EngOp) : Option (EngOp × StreamOp) :=
  match p.kind with
  | .stream o => if p.started && !p.fed then some (p, o) else none
  | _ => none

theorem unfed_eq (e : Engine) : e.unfed = e.q.findSome? EngOp.unfedStream := rfl

theorem unfedStream_stream {p : EngOp} {o : StreamOp} (kind : p.kind = .stream o) :
    p.unfedStream = if p.started && !p.fed then some (p, o) else none := by
  unfold EngOp.unfedStream
  rw [kind]

theorem unfedStream_waiting {p : EngOp} (waits : p.started = false) : p.unfedStream = none := by
  unfold EngOp.unfedStream
  rw [waits]
  cases p.kind <;> rfl

theorem unfedStream_fed {p : EngOp} (fed : isStream p.kind = true → p.fed = true) : p.unfedStream = none := by
  unfold EngOp.unfedStream
  cases kind : p.kind with
  | stream o =>
    rw [fed (by rw [kind]; rfl)]
    simp
  | _ => rfl

/-- Of a queue in which one STREAM may stand before steering, that one. -/
theorem unfed_single {e : Engine} {before after : List EngOp} {p : EngOp} {o : StreamOp} (queue : e.q = before ++ p :: after)
    (kind : p.kind = .stream o) (started : p.started = true) (fed : ∀ q ∈ before, isStream q.kind = true → q.fed = true)
    (waits : ∀ q ∈ after, q.started = false) : e.unfed = if p.fed then none else some (p, o) := by
  have front : before.findSome? EngOp.unfedStream = none := List.findSome?_eq_none_iff.mpr (fun q hq => unfedStream_fed (fed q hq))
  have back : after.findSome? EngOp.unfedStream = none := List.findSome?_eq_none_iff.mpr (fun q hq => unfedStream_waiting (waits q hq))
  rw [unfed_eq, queue, List.findSome?_append, front, Option.none_or, List.findSome?_cons, unfedStream_stream kind, started, back]
  cases p.fed <;> rfl

/-- The engine once the STREAM `id` is fed. -/
def Engine.fedBy (id : Nat) (o : StreamOp) (e : Engine) : Engine :=
  let e := { e with q := e.q.map (fun p => if p.id == id then { p with fed := true } else p) }
  if o.rel then e.setBuf o.buf { e.bufN o.buf with loaded := false } else e

theorem feed_none {s : State} {c m : Nat} (h : (s.eng c m).unfed = none) : s.feed c m = s := by
  unfold State.feed
  rw [h]

theorem feed_some {s : State} {c m : Nat} {p : EngOp} {o : StreamOp} (h : (s.eng c m).unfed = some (p, o)) :
    s.feed c m = if s.canFeed c p o then s.updEng c m (Engine.fedBy p.id o) else s := by
  unfold State.feed
  rw [h]
  dsimp only
  cases s.canFeed c p o <;> rfl

theorem fedBy_q (id : Nat) (o : StreamOp) (e : Engine) :
    (e.fedBy id o).q = e.q.map (fun p => if p.id == id then { p with fed := true } else p) := by
  unfold Engine.fedBy Engine.setBuf
  dsimp only
  split
  · split <;> rfl
  · rfl

theorem fedBy_last (id : Nat) (o : StreamOp) (e : Engine) : (e.fedBy id o).last = e.last := by
  unfold Engine.fedBy Engine.setBuf
  dsimp only
  split
  · split <;> rfl
  · rfl

/-- REL releases the buffer. -/
theorem fedBy_released {id : Nat} {o : StreamOp} (rel : o.rel = true) (e : Engine) : ((e.fedBy id o).bufN o.buf).loaded = false := by
  unfold Engine.fedBy Engine.setBuf Engine.bufN
  dsimp only
  rw [if_pos rel]
  split
  · rfl
  · rfl

theorem SameWork.fedBy {e e' : Engine} (h : SameWork e' e) (id : Nat) (o : StreamOp) : SameWork (e'.fedBy id o) (e.fedBy id o) := by
  unfold SameWork at *
  rw [h]
  unfold Engine.fedBy Engine.setBuf
  dsimp only
  split
  · split <;> rfl
  · rfl

theorem map_fed {before after : List EngOp} {p : EngOp} (alone : ∀ q ∈ before ++ after, q.id ≠ p.id) :
    (before ++ p :: after).map (fun q => if q.id == p.id then { q with fed := true } else q) = before ++ { p with fed := true } :: after := by
  have keep : ∀ l : List EngOp, (∀ q ∈ l, q.id ≠ p.id) → l.map (fun q => if q.id == p.id then { q with fed := true } else q) = l := by
    intro l hl
    refine (List.map_congr_left (fun q hq => ?_)).trans (List.map_id l)
    rw [if_neg (by simpa using hl q hq)]
    rfl
  rw [List.map_append, List.map_cons, keep before (fun q hq => alone q (List.mem_append_left _ hq)),
    keep after (fun q hq => alone q (List.mem_append_right _ hq)), if_pos (beq_self_eq_true _)]

/-- Before a STREAM that may start, every STREAM is fed (R147). -/
theorem mayStart_fed {e : Engine} {before : List EngOp} {o : StreamOp} (may : e.mayStart before (.stream o) = true) :
    ∀ p ∈ before, isStream p.kind = true → p.fed = true := by
  intro p hp stream
  unfold Engine.mayStart Engine.readyBut at may
  simp only [Bool.and_eq_true, Bool.not_eq_true', List.any_eq_false, Bool.or_eq_true, not_or, not_and, Bool.not_eq_false] at may
  obtain ⟨ready, -⟩ := may
  exact (ready p hp).2 stream

/-- What stands in the queue once the STREAM has started and, when nothing holds it back, is fed. -/
theorem startedStream_feed {c m : Nat} {rs : List (TDesc × Rect)} {s u : State} {e : Engine} {before after : List EngOp} {op' : EngOp}
    {o : StreamOp} (h : EngWork c m rs s u e) (kind : op'.kind = .stream o) (started : op'.started = true)
    (queue : e.q = before ++ op' :: after) (fed : ∀ q ∈ before, isStream q.kind = true → q.fed = true)
    (waits : ∀ q ∈ after, q.started = false) (alone : ∀ q ∈ before ++ after, q.id ≠ op'.id) :
    ∃ e' op'', EngWork c m rs s (u.feed c m) e' ∧ e'.q = before ++ op'' :: after ∧ e'.last = e.last ∧ op'' = { op' with fed := op''.fed } ∧
      (op'.fed = false → op''.fed = true → o.rel = true → (e'.bufN o.buf).loaded = false) := by
  have first := unfed_single (e := u.eng c m) (h.own.q.trans queue) kind started fed waits
  by_cases done : op'.fed = true
  · rw [if_pos done] at first
    rw [feed_none first]
    exact ⟨e, op', h, queue, rfl, rfl, fun no => absurd (done.symm.trans no) (by decide)⟩
  · rw [if_neg done] at first
    rw [feed_some first]
    split
    · refine ⟨e.fedBy op'.id o, { op' with fed := true }, h.updEng (h.own.fedBy _ _), ?_, fedBy_last _ _ _, rfl,
        fun _ _ rel => fedBy_released rel e⟩
      rw [fedBy_q, queue]
      exact map_fed alone
    · exact ⟨e, op', h, queue, rfl, rfl, fun _ yes => absurd yes done⟩

theorem stream_starts {s : State} {c m : Nat} (hc : c < 96) (hm : m < 4) {op : EngOp} {o : StreamOp} (kind : op.kind = .stream o)
    {before after : List EngOp} (fed : ∀ q ∈ before, isStream q.kind = true → q.fed = true) (waits : ∀ q ∈ after, q.started = false)
    (alone : ∀ q ∈ before ++ after, q.id ≠ op.id) {t : State} (ht : t = (s.feed c m).starts c m before after op) :
    ∃ op', (t.eng c m).q = before ++ op' :: after ∧ PairOnly s t c m ∧ op'.started = true ∧ op'.kind = op.kind ∧ op'.id = op.id ∧
      op'.cc = s.cycle ∧ op'.buf = ((s.feed c m).eng c m).bufN o.buf ∧ (t.eng c m).last = some (op.id, o.sh) ∧ t.ctxs = s.ctxs ∧
      t.cores = s.cores ∧ OnlyWrites s t c [] ∧
      (op.fed = false → o.rel = true → op'.fed = true → ((t.eng c m).bufN o.buf).loaded = false) := by
  have cycle : (s.feed c m).cycle = s.cycle := by rw [feed_frame]
  obtain ⟨works, is⟩ := startStream_works (EngWork.refl c m [] s).feed hc hm op o
  rw [cycle] at is
  unfold State.starts at ht
  rw [kind] at ht
  dsimp only at ht
  generalize (s.feed c m).startStream c m op o = p at works is ht
  obtain ⟨op', u⟩ := p
  dsimp only at works is ht
  unfold EngOp.startedAs at is
  have kind' : op'.kind = .stream o := by rw [is]; exact kind
  have id : op'.id = op.id := by rw [is]
  have put : EngWork c m [] s (u.updEng c m (Engine.withStarted before after op'))
      { (s.feed c m).eng c m with last := some (op.id, o.sh), q := before ++ op' :: after } := works.updEng (by
    have own := works.own
    unfold SameWork Engine.withStarted at *
    rw [own, List.append_assoc]
    rfl)
  obtain ⟨e', op'', moved, queue, last, same, released⟩ := startedStream_feed put kind' (by rw [is]) rfl fed waits (fun q hq => by
    rw [id]
    exact alone q hq)
  have final := moved.tastePair hc hm (ns := u.pairOf c m) works.settings.pairOf
  rw [← ht] at final
  refine ⟨op'', final.own.q.trans queue, final.pairOnly, by rw [same, is], by rw [same, is], by rw [same, is], by rw [same, is],
    by rw [same, is], final.own.last.trans last, by rw [final.frame], by rw [final.frame], final.onlyWrites, fun unfed rel now => ?_⟩
  rw [final.own.bufN]
  exact released (by rw [is]; exact unfed) now rel

end Sys2Proof.Machine

open Sys2Proof Sys2Proof.Machine

/-- Settles O13: the instruction that `splitStart` finds starts, each kind as its `start` function says. -/
theorem engineStartsInstruction : Obligations.EngineStartsInstruction := by
  unfold Obligations.EngineStartsInstruction
  intro s c m before after op hc f e queue started waits works stays may
  have start := engineInstrStart_eq hc queue started waits works stays may
  refine ⟨fun o kind => ?_, fun v kind => ?_, fun o kind => ?_, fun o kind due => ?_, fun o kind free alone rest => ?_⟩
  · have other : isStream op.kind = false := by rw [kind]; rfl
    rw [other, Bool.false_and, if_neg Bool.false_ne_true] at start
    exact ⟨_, start, loads_starts hc m.isLt kind before after rfl⟩
  · have other : isStream op.kind = false := by rw [kind]; rfl
    rw [other, Bool.false_and, if_neg Bool.false_ne_true] at start
    exact ⟨_, start, seed_starts kind before after rfl⟩
  · have other : isStream op.kind = false := by rw [kind]; rfl
    rw [other, Bool.false_and, if_neg Bool.false_ne_true] at start
    obtain ⟨op', left⟩ := drain_starts hc kind before after (s := s) (m := m.toNat) rfl
    exact ⟨_, op', start, left⟩
  · have stream : isStream op.kind = true := by rw [kind]; rfl
    rw [stream, Bool.true_and, if_pos due] at start
    exact start
  · have stream : isStream op.kind = true := by rw [kind]; rfl
    rw [stream, Bool.true_and, if_neg (ne_true_of_eq_false free)] at start
    rw [kind] at may
    obtain ⟨op', left⟩ := stream_starts hc m.isLt kind (mayStart_fed may) rest alone (s := s) rfl
    exact ⟨_, op', start, left⟩
end

section
/-! What a completing STREAM writes (R90, R164, R172, R222, R234): elements, block scales and row tails within its rows, the slot's record, and
the taster's samples. -/

namespace Sys2Proof.Machine

/-! ### The slot's record (R222) -/

namespace SlotWork

variable {c i : Nat} {s t : State}

theorem put (h : SlotWork c s t) (hc : c < 4096) (hi : i < s.slotCount c) {o n : Nat} (ho : o + n ≤ 64) (v : Nat) :
    SlotWork c s (t.writeNat (s.slotAddr c i + o) n v) := by
  have write := writeNat_slotWork (s := t) (by rw [h.slotCount hc]; exact hi) ho v
  rw [h.slotAddr hc] at write
  exact h.trans hc write

theorem setFld (h : SlotWork c s t) (hc : c < 4096) (hi : i < s.slotCount c) (a b v : Nat) : SlotWork c s (t.setSlotFld c i a b v) :=
  h.trans hc (setSlotFld_slotWork (by rw [h.slotCount hc]; exact hi) a b v)

theorem count (h : SlotWork c s t) (hc : c < 4096) (hi : i < s.slotCount c) {o : Nat} (ho : o + 4 ≤ 64) (n : Nat) :
    SlotWork c s (t.memCount (s.slotAddr c i + o) n) := by
  unfold State.memCount
  split
  · exact h
  · exact (h.trans hc (noteUe_slotWork c t _ 4)).put hc hi ho _

end SlotWork

theorem slotComplete_slotWork {c : Nat} (hc : c < 4096) (s : State) (d : TDesc) (a : Nat × Int) (st : ConvStat) (pre : Bool) :
    SlotWork c s (s.slotComplete c d a st pre) := by
  unfold State.slotComplete
  split
  · exact .refl c s
  · rename_i named
    have hi : d.slot.toNat < s.slotCount c := by
      simp only [Bool.or_eq_true, Bool.not_eq_true', decide_eq_false_iff_not, not_or, not_not] at named
      exact named.2
    extract_lets i ad s0 h v s1 s2 s3 s4 s5 s6 s7 s8 s9
    have low : 2 * h + 2 ≤ 64 := by
      have : h < 16 := Nat.mod_lt _ (by decide)
      omega
    have k1 : SlotWork c s s1 := (readSlot_slotWork c s i).put hc hi low v
    have k5 : SlotWork c s s5 := (((k1.setFld hc hi _ _ _).setFld hc hi _ _ _).setFld hc hi _ _ _).setFld hc hi _ _ _
    have k9 : SlotWork c s s9 := (((k5.count hc hi (by decide) _).count hc hi (by decide) _).count hc hi (by decide) _).count hc hi (by decide) _
    clear_value s9
    split
    · split
      · exact k9.setFld hc hi _ _ _
      · exact k9
    · split
      · exact k9.setFld hc hi _ _ _
      · split
        · exact k9.setFld hc hi _ _ _
        · exact k9

/-! ### Elements (R123, R127, R128) -/

/-- The element in row `i` and column `k` lies in the rectangle. -/
def Rect.covers (q : Rect) (i k : Nat) : Prop := (q.i0 ≤ i ∧ i < q.i0 + q.ni) ∧ q.j0 ≤ k ∧ k < q.j0 + q.nj

theorem inRect_element {d : TDesc} {q : Rect} {i k j : Nat} (h : q.covers i k)
    (hj : elemBit d i k / 8 ≤ j ∧ 8 * j < elemBit d i k + fmtBits d.fmt.toNat) : InRect d q j := by
  obtain ⟨⟨i0, i1⟩, k0, k1⟩ := h
  refine ⟨i - q.i0, k - q.j0, by omega, by omega, .inl ?_⟩
  rw [Nat.add_sub_cancel' i0, Nat.add_sub_cancel' k0]
  exact hj

theorem inRect_scale {d : TDesc} {q : Rect} {i k : Nat} (h : q.covers i k) (block : d.bscale = true) : InRect d q (scaleAddr d i k) := by
  obtain ⟨⟨i0, i1⟩, k0, k1⟩ := h
  refine ⟨i - q.i0, k - q.j0, by omega, by omega, .inr ⟨block, ?_⟩⟩
  rw [Nat.add_sub_cancel' i0, Nat.add_sub_cancel' k0]

theorem convElems_length (fmt : Nat) (bsc : Bool) (rnd : Nat) (ovf : Bool) (dr : Nat → Nat) (i : Nat) (vs : List Num) :
    (convElems fmt bsc rnd ovf dr i vs).1.length = vs.length := by
  induction vs generalizing i with
  | nil => rfl
  | cons v vs ih => exact congrArg (· + 1) (ih (i + 1))

theorem convertBlock_length (fmt sc : Nat) (bsc : Bool) (rnd : Nat) (ovf : Bool) (dr : Nat → Nat) (vs : List Num) :
    (convertBlock fmt sc bsc rnd ovf dr vs).codes.length = vs.length := by
  have scaled : (if sc = 255 then vs.map (fun _ => Num.nan) else vs.map (Num.scale (127 - sc))).length = vs.length := by
    split <;> exact List.length_map ..
  unfold convertBlock
  dsimp only
  generalize (if sc = 255 then vs.map (fun _ => Num.nan) else vs.map (Num.scale (127 - sc))) = ws at scaled ⊢
  split
  · exact (convElems_length ..).trans scaled
  · have either : ∀ (p : Prop) [Decidable p] (a b : ConvOut), a.codes.length = vs.length → b.codes.length = vs.length →
        (if p then a else b).codes.length = vs.length := fun p _ a b ha hb => by
      split
      · exact ha
      · exact hb
    exact either _ _ _ List.length_replicate ((convElems_length ..).trans ((List.length_map ..).trans scaled))

/-- The blocks of a row follow one another within it, and none is empty. -/
theorem cutBlocks_within {fuel j : Nat} {vs : List Num} {b : Nat × List Num} (h : b ∈ cutBlocks fuel j vs) :
    j ≤ b.1 ∧ b.1 + b.2.length ≤ j + vs.length ∧ 0 < b.2.length := by
  induction fuel generalizing j vs with
  | zero => simp [cutBlocks] at h
  | succ fuel ih =>
    cases vs with
    | nil => simp [cutBlocks] at h
    | cons v vs =>
      have room : j % 32 < 32 := Nat.mod_lt _ (by decide)
      rw [cutBlocks] at h
      rcases List.mem_cons.mp h with rfl | h
      · dsimp only
        rw [List.length_take, List.length_cons]
        omega
      · obtain ⟨lo, hi, some⟩ := ih h
        rw [List.length_drop, List.length_cons] at hi
        rw [List.length_cons]
        omega

namespace EngWork

variable {c m : Nat} {rs : List (TDesc × Rect)} {s t : State} {e : Engine} {d : TDesc} {q : Rect}

theorem putElem (h : EngWork c m rs s t e) (hr : (d, q) ∈ rs) {i k : Nat} (hq : q.covers i k) (v : Nat) :
    EngWork c m rs s (t.putElem d i k v) e := by
  unfold State.putElem cdiv
  refine h.writeNat _ (fun j lo hi => .inl ⟨_, hr, inRect_element (d := d) hq ⟨lo, ?_⟩⟩)
  omega

theorem putRow (h : EngWork c m rs s t e) (hr : (d, q) ∈ rs) {i k : Nat} (vs : List Nat) (hq : ∀ n, n < vs.length → q.covers i (k + n)) :
    EngWork c m rs s (t.putRow d i k vs) e := by
  induction vs generalizing t k with
  | nil => exact h
  | cons v vs ih =>
    refine ih (h.putElem hr (hq 0 (Nat.zero_lt_succ _)) v) (fun n hn => ?_)
    rw [Nat.add_assoc, Nat.add_comm 1]
    exact hq (n + 1) (Nat.succ_lt_succ hn)

/-- A row converted within the rectangle, with its block scales. -/
theorem convRow (h : EngWork c m rs s t e) (hr : (d, q) ∈ rs) {i : Nat} (hi : q.i0 ≤ i ∧ i < q.i0 + q.ni) (sc rnd : Nat) (ovf : Bool)
    (dr : Nat → Nat) {vs : List Num} (fits : vs.length ≤ q.nj) : EngWork c m rs s (t.convRow d sc rnd ovf dr i q.j0 vs).1 e := by
  unfold State.convRow
  split
  · rename_i block
    have step : ∀ (l : List (Nat × List Num)), (∀ b ∈ l, q.j0 ≤ b.1 ∧ b.1 + b.2.length ≤ q.j0 + q.nj ∧ 0 < b.2.length) →
        ∀ (p : State × ConvStat), EngWork c m rs s p.1 e →
        EngWork c m rs s (l.foldl (fun (p : State × ConvStat) b =>
          let o := convertBlock d.fmt.toNat sc true rnd ovf (fun k => dr (b.1 - q.j0 + k)) b.2
          let s1 := p.1.putRow d i b.1 o.codes
          (s1.writeMem (scaleAddr d i b.1) [BitVec.ofNat 8 o.bscale], p.2.join o.stat)) p).1 e := by
      intro l
      induction l with
      | nil => exact fun _ p hp => hp
      | cons b l ih =>
        intro within p hp
        obtain ⟨⟨lo, hi', some⟩, rest⟩ := List.forall_mem_cons.mp within
        refine ih rest _ ((hp.putRow hr _ (fun n hn => ⟨hi, ?_⟩)).writeMem (fun j j0 j1 => .inl ⟨_, hr, ?_⟩))
        · rw [convertBlock_length] at hn
          omega
        · have scale := inRect_scale (d := d) (q := q) (i := i) (k := b.1) ⟨hi, by omega⟩ block
          rw [List.length_singleton] at j1
          rwa [show j = scaleAddr d i b.1 by omega]
    refine step _ (fun b hb => ?_) (t, {}) h
    obtain ⟨lo, hi', some⟩ := cutBlocks_within hb
    omega
  · refine h.putRow hr _ (fun n hn => ⟨hi, ?_⟩)
    rw [convertBlock_length] at hn
    omega

/-- The byte that a row's last element shares with what follows it. -/
theorem padRow (h : EngWork c m rs s t e) (hr : (d, q) ∈ rs) {i k : Nat} (hq : q.covers i k) (last : k + 1 = d.cols.toNat) :
    EngWork c m rs s (t.padRow d i) e := by
  unfold State.padRow
  dsimp only
  split
  · rename_i part
    refine h.writeMem (fun j lo hi => .inl ⟨_, hr, inRect_element (d := d) hq ?_⟩)
    simp only [Bool.and_eq_true, decide_eq_true_eq] at part
    have row : d.cols.toNat * fmtBits d.fmt.toNat = k * fmtBits d.fmt.toNat + fmtBits d.fmt.toNat := by
      rw [← last, Nat.succ_mul]
    rw [List.length_singleton] at hi
    unfold elemBit
    omega
  · exact h

/-! ### The taster (R234 to R237) -/

theorem tasteWindow (h : EngWork c m rs s t e) {n : Nat} (hn : n ∈ s.pairOf c m) (k : Nat) : EngWork c m rs s (t.tasteWindow c n k).2 e := by
  unfold State.tasteWindow
  split
  · exact h
  · dsimp only
    exact h.taste hn (fun _ => rfl)

theorem tasteTile (h : EngWork c m rs s t e) (hc : c < 96) (hm : m < 4) {n : Nat} (hn : n ∈ s.pairOf c m) (o : StreamOp)
    (vals : List (Num × Num)) (lost : Bool) : EngWork c m rs s (t.tasteTile c n o vals lost) e := by
  unfold State.tasteTile
  dsimp only
  split
  · exact h
  have window := h.tasteWindow hn (t.tasteN c)
  generalize t.tasteWindow c n (t.tasteN c) = p at window ⊢
  obtain ⟨w, u⟩ := p
  dsimp only at window ⊢
  have passed := window.taste (f := fun e => if (u.eng c n).tasteCnt + 1 = 2 ^ t.tasteN c then { e with tasteCnt := 0, tasteWin := none }
    else { e with tasteCnt := (u.eng c n).tasteCnt + 1 }) hn (fun k => by split <;> rfl)
  split
  · exact passed
  · split
    · exact passed.tasteSkip hc (pair_le hm hn) _
    · exact passed.taste hn (fun _ => rfl)

theorem tasteStream (h : EngWork c m rs s t e) (hc : c < 96) (hm : m < 4) (op : EngOp) (o : StreamOp) (rows : List RowOut)
    (chks : List TileFail) : EngWork c m rs s (t.tasteStream c m op o rows chks) e := by
  unfold State.tasteStream
  split
  · exact h
  · refine foldl (fun u r _ hu => ?_) h
    dsimp only
    rw [hu.settings.pairOf]
    exact foldl (fun v n hn hv => hv.tasteTile hc hm hn o _ _) hu

/-! ### Counts -/

theorem countPair (h : EngWork c m rs s t e) (hc : c < 96) (hm : m < 4) {b o : Nat} (hb : b = 0x11 ∨ b = 0x13) (lo : 0 < o) (hi : o < 0x1000)
    (n : Nat) : EngWork c m rs s (t.countPair b c m o n) e := by
  have free : ∀ i o, i < 4096 → 0 < o → o < 65536 → ctlKey b i o ∉ engSettings c m := fun i o hi lo ho => by
    rcases hb with rfl | rfl
    · exact engKey_notMem_engSettings hc m (.inl rfl) hi ho
    · exact edKey_notMem_engSettings hc m hi lo ho
  have own := h.count64 n (free (c * 4 + m) o (by omega) lo (by omega)) (free _ (o + 4) (by omega) (by omega) (by omega))
  unfold State.countPair
  dsimp only
  split
  · exact own.count64 n (free (c * 4 + m + 1) o (by omega) lo (by omega)) (free _ (o + 4) (by omega) (by omega) (by omega))
  · exact own

end EngWork

end Sys2Proof.Machine
end

section
/-! STREAM_COMPLETE and the second sweep of a pre-pass (R90, R104, R106, R161, R164, R172, R219, R220): the rows that a STREAM forms, their
writing, and what it leaves as it ends. -/

namespace Sys2Proof.Machine

/-! ### The rows (R161, R202) -/

theorem initRow_length (s : State) (e : Engine) (o : StreamOp) (r : Nat) : (s.initRow e o r).length = o.width := by
  unfold State.initRow
  split
  · simp
  · split
    · split <;> simp
    · simp

theorem tkWords_length (k : Nat) (es : List TkEntry) : (tkWords k es).length = 2 * k := by
  simp [tkWords, List.length_flatten, Function.comp_def, Nat.mul_comm]

/-- A row of a STREAM has its number and at most the STREAM's width. -/
theorem streamRow_fits (s : State) (e : Engine) (b : Buf) (fa : Nat) (o : StreamOp) (r : Nat) (xs : List Num) :
    (s.streamRow e b fa o r xs).row = r ∧ (s.streamRow e b fa o r xs).vals.length ≤ o.width := by
  have start := initRow_length s e o r
  have records : o.red = 3 → o.width = 2 * (o.topk + 1) := fun h => by
    unfold StreamOp.width
    rw [if_neg (by omega), if_pos h]
  unfold State.streamRow
  dsimp only
  split
  · refine ⟨rfl, ?_⟩
    dsimp only
    split
    · rename_i record
      rw [tkWords_length, records record]
    · exact start.le
  · split
    · refine ⟨rfl, ?_⟩
      dsimp only
      rw [List.length_map, List.length_zipWith, start]
      exact Nat.min_le_left ..
    · rename_i some
      split
      · rename_i record
        refine ⟨rfl, ?_⟩
        dsimp only
        rw [tkWords_length, records record]
      · rename_i single
        refine ⟨rfl, ?_⟩
        unfold StreamOp.width
        rw [if_neg some, if_neg single]
        exact Nat.le_refl 1

/-- A result row that a STREAM without an epilogue writes as it stands. -/
structure RowFits (o : StreamOp) (r : RowOut) : Prop where
  row : r.row < o.m
  width : r.vals.length ≤ o.width
  out : r.out = r.vals

theorem streamRows_fit {o : StreamOp} (alone : o.epi = none) (s : State) (e : Engine) (b : Buf) (xs : List (List Num)) :
    ∀ r ∈ s.streamRows e b o xs, RowFits o r := by
  intro r hr
  unfold State.streamRows at hr
  obtain ⟨n, hn, rfl⟩ := List.mem_map.mp hr
  obtain ⟨row, width⟩ := streamRow_fits s e b o.fa o n (xs.getD n [])
  dsimp only
  rw [alone]
  exact ⟨row.trans_lt (List.mem_range.mp hn), width, rfl⟩

/-- Where a STREAM writes its rows in TC. -/
def StreamOp.written (o : StreamOp) : List (TDesc × Rect) :=
  if o.dstb then [] else [(o.tc.t.d, { i0 := o.m0, j0 := o.col, ni := o.m, nj := o.width })]

/-! ### Writing -/

namespace EngWork

variable {c m : Nat} {s t : State} {e : Engine} {o : StreamOp}

theorem writeRow (h : EngWork c m o.written s t e) (record : o.red = 3 → o.tc.t.d.fmt = 0) (op : EngOp) (y : Tally) {r : RowOut}
    (fits : RowFits o r) (n : Nat) : EngWork c m o.written s (t.writeRow c m op o y r n).1 e := by
  unfold State.writeRow
  dsimp only
  split
  · dsimp only
    refine h.updEng ?_
    have own := h.own
    unfold SameWork at own ⊢
    rw [own]
    unfold Engine.setBank
    split <;> rfl
  rename_i tc
  have target : (o.tc.t.d, ({ i0 := o.m0, j0 := o.col, ni := o.m, nj := o.width } : Rect)) ∈ o.written := by
    unfold StreamOp.written
    rw [if_neg tc]
    exact List.mem_singleton.mpr rfl
  have row := fits.row
  have width := fits.width
  split
  · rename_i three
    have col : o.col = 0 := if_pos three
    have bits : fmtBits o.tc.t.d.fmt.toNat = 32 := by
      rw [record three]
      rfl
    refine h.writeMem (fun j lo hi => .inl ⟨_, target, inRect_element (d := o.tc.t.d) (i := o.m0 + r.row)
      (k := (j - (o.tc.t.d.base.toNat + (o.m0 + r.row) * o.tc.t.d.rstride.toNat)) / 4) ?_ ?_⟩)
    · have bytes : ((r.vals.map (fun w => leBytes 4 w.toNat)).flatten).length = r.vals.length * 4 := by
        simp [List.length_flatten, leBytes_length, Function.comp_def]
      rw [bytes] at hi
      unfold Rect.covers
      dsimp only
      omega
    · unfold elemBit
      rw [bits]
      omega
  · rename_i other
    have col : o.col = o.nc := if_neg other
    have length : (r.out.map ofF32).length = r.vals.length := by rw [List.length_map, fits.out]
    have conv := h.convRow target (i := o.m0 + r.row) ⟨Nat.le_add_right .., Nat.add_lt_add_left row _⟩ op.scale o.rnd o.ovf
      (fun k => (Config.draw op.seed (n + k)).toNat) (vs := r.out.map ofF32) (by rw [length]; exact width)
    dsimp only at conv
    rw [col] at conv target
    split
    · rename_i tail
      simp only [Bool.and_eq_true, decide_eq_true_eq] at tail
      obtain ⟨some, ends⟩ := tail
      refine conv.padRow target (k := o.nc + r.vals.length - 1) ?_ (by omega)
      unfold Rect.covers
      dsimp only
      omega
    · exact conv

theorem writeRows (h : EngWork c m o.written s t e) (record : o.red = 3 → o.tc.t.d.fmt = 0) (alone : o.epi = none) (op : EngOp)
    (keep : Nat → Bool) (y : Tally) (n : Nat) {rows : List RowOut} (fit : ∀ r ∈ rows, RowFits o r) :
    EngWork c m o.written s (t.writeRows c m op o keep y n rows).1 e := by
  have each : ∀ (l : List RowOut), (∀ r ∈ l, RowFits o r) → ∀ p : State × Tally, EngWork c m o.written s p.1 e →
      EngWork c m o.written s (l.foldl (fun p r => p.1.writeRow c m op o p.2 r (n + r.row * o.width)) p).1 e := by
    intro l
    induction l with
    | nil => exact fun _ _ hp => hp
    | cons r l ih =>
      intro fits p hp
      obtain ⟨first, rest⟩ := List.forall_mem_cons.mp fits
      exact ih rest _ (hp.writeRow record op p.2 first _)
  have written := each (rows.filter (fun r => keep r.row)) (fun r hr => fit r (List.mem_filter.mp hr).1) (t, y) h
  unfold State.writeRows State.writeEpi
  dsimp only
  rw [alone]
  exact written.drew _

/-! ### Completion -/

theorem countTiles (h : EngWork c m o.written s t e) (hc : c < 96) (hm : m < 4) (rows : Nat) (live : List TileFail) :
    EngWork c m o.written s (t.countTiles c m rows live) e := by
  unfold State.countTiles
  split
  · exact h
  · exact h.countPair hc hm (.inr rfl) (by decide) (by decide) _

end EngWork

/-- What a completing STREAM without attachments records before its tag is set: its slot, the conversion counts. -/
def State.streamRecorded (s : State) (c m : Nat) (op : EngOp) (o : StreamOp) (y : Tally) : State :=
  (if o.converts then
    ((if op.tile then s else s.slotComplete c o.tc.t.d y.own.amax y.own.st op.prepass).convCounts c (0x440 + 0x30 * m)
      (if op.tile then none else tagLayer o.tc.t.tag) y.own.st op.prepass)
  else s).count64 0x12 c 0x48 (o.pro.toList.length + o.epi.toList.length)

theorem EngWork.streamRecorded {c m : Nat} {rs : List (TDesc × Rect)} {s t : State} {e : Engine} (h : EngWork c m rs s t e) (hc : c < 96)
    (hm : m < 4) (op : EngOp) (o : StreamOp) (y : Tally) : EngWork c m rs s (t.streamRecorded c m op o y) e := by
  unfold State.streamRecorded
  refine EngWork.count64 ?_ _ (engKey_notMem_engSettings hc m (.inr rfl) (by omega) (by decide))
    (engKey_notMem_engSettings hc m (.inr rfl) (by omega) (by decide))
  split
  · refine EngWork.convCounts ?_ hc (by omega) (by omega) _ _ _
    split
    · exact h
    · exact h.slotWork hc (slotComplete_slotWork (by omega) _ _ _ _ _)
  · exact h

/-! ### What an instruction leaves of its context as it ends (R90, R106) -/

section
variable {s t : State} {c x r id : Nat} {g : Tag → Tag}

theorem updTag_frame (s : State) (c x r : Nat) (g : Tag → Tag) : s.updTag c x r g = { s with ctxs := (s.updTag c x r g).ctxs } := by
  unfold State.updTag
  split <;> rfl

theorem updTag_ctxs (h : t.ctxs = s.ctxs) : (t.updTag c x r g).ctxs = (s.updTag c x r g).ctxs := by
  unfold State.updTag State.updCtx State.setCtx State.ctx
  split
  · dsimp only
    rw [h]
  · exact h

theorem opDone_ctxs (h : t.ctxs = s.ctxs) : (t.opDone c x id).ctxs = (s.opDone c x id).ctxs := by
  unfold State.opDone State.updCtx State.setCtx State.ctx
  dsimp only
  rw [h]

/-- The instruction is done. -/
theorem opEnds_done (h : t.ctxs = (s.opDone c x id).ctxs) : OpEnds s t c x id [] := by
  obtain ⟨others, own, tregs, descs⟩ := opDone_ends s c x id
  have ctx : t.ctx c x = (s.opDone c x id).ctx c x := by
    unfold State.ctx
    rw [h]
  rw [← ctx] at own tregs descs
  rw [← h] at others
  exact ⟨others, own, tregs, descs⟩

/-- A tag has been updated, and the instruction is done. -/
theorem opEnds_updTag (h : t.ctxs = ((s.updTag c x r g).opDone c x id).ctxs) : OpEnds s t c x id [r] ∧
    (r < 32 → ((t.ctx c x).treg r).tag = g (readTag ((s.ctx c x).treg r).tag)) := by
  obtain ⟨others, own, tregs, -⟩ := opDone_ends (s.updTag c x r g) c x id
  have ctx : t.ctx c x = ((s.updTag c x r g).opDone c x id).ctx c x := by
    unfold State.ctx
    rw [h]
  have tag : (s.updTag c x r g).ctx c x = if r < 32 then
      (s.ctx c x).setTreg r { (s.ctx c x).treg r with tag := g (readTag ((s.ctx c x).treg r).tag) } else s.ctx c x := by
    unfold State.updTag
    split
    · exact State.updCtx_ctx_same ..
    · rfl
  have treg : ∀ n, (t.ctx c x).treg n = if n = r ∧ r < 32 then
      { (s.ctx c x).treg r with tag := g (readTag ((s.ctx c x).treg r).tag) } else (s.ctx c x).treg n := fun n => by
    rw [ctx, tregs n List.not_mem_nil, tag]
    by_cases low : r < 32
    · rw [if_pos low]
      by_cases same : n = r
      · rw [if_pos ⟨same, low⟩, same]
        exact Tbl.get_set_same ..
      · rw [if_neg (fun h => same h.1)]
        exact Tbl.get_set_ne _ _ _ _ same
    · rw [if_neg low, if_neg (fun h => low h.2)]
  refine ⟨⟨fun n hn => ?_, ?_, fun n hn => ?_, fun n => ?_⟩, fun low => ?_⟩
  · rw [h, others n hn]
    unfold State.updTag
    split
    · exact State.updCtx_get_ne _ _ _ _ hn
    · rfl
  · rw [ctx, own, tag]
    split <;> rfl
  · rw [treg n, if_neg (fun h => hn (List.mem_singleton.mpr h.1))]
  · rw [treg n]
    split
    · rename_i same
      rw [same.1]
    · rfl
  · rw [treg r, if_pos ⟨rfl, low⟩]

end

/-- An engine without the instruction `id`. -/
def Engine.without (id : Nat) (e : Engine) : Engine := { e with q := e.q.filter (fun o => o.id != id) }

theorem leaveQueue_eq (s : State) (c m : Nat) (op : EngOp) :
    s.leaveQueue c m op = (s.updEng c m (Engine.without op.id)).opDone c op.x op.id := rfl

/-- A tile form leaves bank 1 undefined (R117). -/
def State.bankLost (s : State) (c m : Nat) (tile : Bool) : State :=
  if !tile then s
  else (s.nextFree.2.drew (16384 - 1)).updEng c m (fun e => { e with bank1 := { free := some s.nextFree.1, vals := [] } })

theorem EngWork.bankLost {c m : Nat} {rs : List (TDesc × Rect)} {s t : State} {e : Engine} (h : EngWork c m rs s t e) (tile : Bool) :
    EngWork c m rs s (t.bankLost c m tile) e := by
  unfold State.bankLost
  split
  · exact h
  · refine ((h.drew 1).drew (16384 - 1)).updEng ?_
    have own := h.own
    unfold SameWork at own ⊢
    exact (congrArg (fun k : Engine => { k with bank1 := { free := some t.nextFree.1, vals := [] } }) own)

/-- The flags, and with DSTB = 0 the format and the scale, that a completing STREAM leaves in TC's tag; `twin` says that a pair did it. -/
def State.streamTagged (s : State) (c : Nat) (op : EngOp) (o : StreamOp) (y : Tally) (twin : Bool) : State :=
  let fl := y.carried ||| y.flags ||| y.own.st.flags ||| flagBit fPOISON y.bad
  if o.dstb then s.orDst c op.x o.tc.r fl
  else s.tagWritten c op.x o.tc.r (fl ||| flagBit fTWIN twin) o.tc.t.d.fmt.toNat (if o.red = 3 then 0x7F else op.scale)

theorem streamTagged_updTag (s : State) (c : Nat) (op : EngOp) (o : StreamOp) (y : Tally) (twin : Bool) :
    ∃ g : Tag → Tag, (o.dstb = false → ∀ tag, (g tag).fmt = o.tc.t.d.fmt) ∧ s.streamTagged c op o y twin = s.updTag c op.x o.tc.r g := by
  unfold State.streamTagged State.orDst State.tagWritten
  cases o.dstb with
  | true =>
    rw [if_pos rfl]
    refine ⟨_, ?_, rfl⟩
    exact fun no => absurd no (by decide)
  | false =>
    rw [if_neg Bool.false_ne_true]
    refine ⟨_, ?_, rfl⟩
    exact fun _ tag => BitVec.ofNat_toNat 3 o.tc.t.d.fmt

theorem completeOp_stream {o : StreamOp} {op : EngOp} (kind : op.kind = .stream o) (pro : o.pro = none) (epi : o.epi = none) (s : State)
    (c m : Nat) (y : Tally) : s.completeOp c m op y =
      (((s.streamRecorded c m op o y).streamTagged c op o y (s.twinOn c m)).bankLost c m op.tile).leaveQueue c m op := by
  have order : o.inOrder = [] := by
    unfold StreamOp.inOrder
    rw [pro, epi]
    rfl
  unfold State.completeOp
  rw [kind]
  dsimp only
  rw [order, List.foldl_nil]
  rfl

theorem bankLost_ctxs (s : State) (c m : Nat) (tile : Bool) : (s.bankLost c m tile).ctxs = s.ctxs := by
  cases tile <;> rfl

/-- Losing a bank leaves the contexts aside. -/
theorem bankLost_frame {s t : State} (h : t = { s with ctxs := t.ctxs }) (c m : Nat) (tile : Bool) :
    t.bankLost c m tile = { s.bankLost c m tile with ctxs := t.ctxs } := by
  generalize t.ctxs = ks at h ⊢
  rw [h]
  cases tile <;> rfl

theorem completeOp_leaves {c m : Nat} {rs : List (TDesc × Rect)} {s u t : State} {e : Engine} (h : EngWork c m rs s u e) (hc : c < 96)
    (hm : m < 4) {op : EngOp} {o : StreamOp} (kind : op.kind = .stream o) (pro : o.pro = none) (epi : o.epi = none) (y : Tally)
    (ht : t = u.completeOp c m op y) :
    t = { s with engines := t.engines, ctxs := t.ctxs, ctl := t.ctl, mem := t.mem, ue := t.ue, sce := t.sce, freeCtr := t.freeCtr } ∧
      PairOnly s t c m ∧ OpEnds s t c op.x op.id [o.tc.r] ∧ (t.eng c m).q = e.q.filter (fun p => p.id != op.id) ∧ OnlyWrites s t c rs ∧
      (o.dstb = false → o.tc.r < 32 → ((t.ctx c op.x).treg o.tc.r).tag.fmt = o.tc.t.d.fmt) := by
  have recorded := h.streamRecorded hc hm op o y
  obtain ⟨g, fmt, tagged⟩ := streamTagged_updTag (u.streamRecorded c m op o y) c op o y (u.twinOn c m)
  rw [completeOp_stream kind pro epi, tagged, leaveQueue_eq] at ht
  generalize u.streamRecorded c m op o y = v at recorded ht
  have left : EngWork c m rs s ((v.bankLost c m op.tile).updEng c m (Engine.without op.id)) (e.without op.id) :=
    (recorded.bankLost op.tile).updEng (by
      have own := (recorded.bankLost op.tile).own
      unfold SameWork Engine.without at *
      rw [own])
  have tag := bankLost_frame (updTag_frame v c op.x o.tc.r g) c m op.tile
  have ctxs : t.ctxs = ((s.updTag c op.x o.tc.r g).opDone c op.x op.id).ctxs := by
    rw [ht]
    refine opDone_ctxs ?_
    rw [State.updEng_ctxs, bankLost_ctxs]
    exact updTag_ctxs (by rw [recorded.frame])
  have only : t = { (v.bankLost c m op.tile).updEng c m (Engine.without op.id) with ctxs := t.ctxs } := by
    generalize (v.updTag c op.x o.tc.r g).bankLost c m op.tile = w at tag ht
    generalize (v.updTag c op.x o.tc.r g).ctxs = ks at tag
    rw [ht, tag]
    rfl
  obtain ⟨ends, tags⟩ := opEnds_updTag ctxs
  generalize (v.bankLost c m op.tile).updEng c m (Engine.without op.id) = w at left only
  have engines : t.engines = w.engines := by rw [only]
  have mem : t.mem = w.mem := by rw [only]
  have eng : ∀ n, t.eng c n = w.eng c n := fun n => by
    unfold State.eng
    rw [engines]
  obtain ⟨others, twin⟩ := left.pairOnly
  refine ⟨?_, ⟨fun n hn ht => by rw [engines]; exact others n hn ht, ?_⟩, ends, ?_, fun j hr hs hl => ?_, fun dst low => ?_⟩
  · have frame := left.frame
    generalize t.ctxs = ks at only
    rw [frame] at only
    rw [only]
  · rw [eng]
    exact twin
  · rw [eng]
    exact left.own.q
  · rw [byte_of_mem mem]
    exact left.onlyWrites j hr hs hl
  · rw [tags low]
    exact fmt dst _

/-! ### A STREAM that is not poisoned -/

theorem liveChecks_nil (s : State) (c m rows : Nat) : s.liveChecks c m rows [] = [] := by
  unfold State.liveChecks
  split <;> rfl

/-- Without a prologue the rows are formed from the state as it stands. -/
theorem formStream_alone {o : StreamOp} (pro : o.pro = none) (s : State) (c m : Nat) (op : EngOp) : ∃ xs,
    s.formStream c m op o = (s.streamRows (s.eng c m) op.buf o xs, s, {}, (0, 0)) := by
  unfold State.formStream State.operandRows
  rw [pro]
  exact ⟨_, rfl⟩

theorem epiScaled_alone {o : StreamOp} (epi : o.epi = none) (s : State) (c : Nat) (op : EngOp) (rows : List RowOut) :
    s.epiScaled c op o rows = (op, s) := by
  unfold State.epiScaled
  rw [epi]

theorem finishOrHold_free {s : State} {c m : Nat} {op : EngOp} (free : ∀ h ∈ (s.eng c m).holds, h.id ≠ op.id) (y : Tally) :
    s.finishOrHold c m op y = s.completeOp c m op y := by
  unfold State.finishOrHold
  rw [if_neg]
  simpa using free

/-- A STREAM of which no check failed, without attachments, in an engine that does not retire, has written its rows when it completes. -/
theorem streamDone_completes {c m : Nat} {s t : State} {e : Engine} {op : EngOp} {o : StreamOp} (h : EngWork c m o.written s t e) (hc : c < 96)
    (hm : m < 4) (pro : o.pro = none) (epi : o.epi = none) (stays : e.retiring = false) (free : ∀ h ∈ e.holds, h.id ≠ op.id)
    (record : o.red = 3 → o.tc.t.d.fmt = 0) :
    ∃ u y, EngWork c m o.written s u e ∧ t.streamDone c m op o [] = u.completeOp c m op y := by
  have noted := h.slotWork hc (noteErrors_slotWork c t o.rects)
  obtain ⟨xs, form⟩ := formStream_alone pro (t.noteRects o.rects) c m op
  have ret : (t.eng c m).retiring = false := h.own.retiring.trans stays
  unfold State.streamDone
  dsimp only
  rw [form, ret]
  dsimp only
  rw [epiScaled_alone epi]
  dsimp only
  generalize t.noteRects o.rects = v at noted
  have fit := streamRows_fit epi v (v.eng c m) op.buf xs
  generalize v.streamRows (v.eng c m) op.buf o xs = rows at fit
  have written := noted.writeRows record epi op (fun r => !false && !rowHeld [] r)
    { pro := { st := {}, amax := (0, 0), rows := o.m }, carried := o.carried op.buf ||| flagBit fPOISON (t.poisonRects o.rects),
      flags := flagBit fEMPTY_K (o.kn = 0), draw0 := v.freeCtr } v.freeCtr fit
  generalize v.writeRows c m op o (fun r => !false && !rowHeld [] r)
    { pro := { st := {}, amax := (0, 0), rows := o.m }, carried := o.carried op.buf ||| flagBit fPOISON (t.poisonRects o.rects),
      flags := flagBit fEMPTY_K (o.kn = 0), draw0 := v.freeCtr } v.freeCtr rows = w at written ⊢
  have tasted := (written.tastePair hc hm (ns := v.pairOf c m) noted.settings.pairOf).tasteStream hc hm op o rows []
  have counted := (tasted.countPair hc hm (b := 0x11) (o := 0x70) (.inl rfl) (by decide) (by decide) (if false = true then 0 else o.m)).countTiles
    hc hm o.m []
  rw [List.foldl_nil, if_neg Bool.false_ne_true, finishOrHold_free (by rw [counted.own.holds]; exact free)]
  exact ⟨_, _, counted, rfl⟩

/-! ### A STREAM that writes nothing -/

/-- A STREAM without attachments that ends without a write: of the engine only the queue has changed. -/
theorem leaves_unwritten {s f t : State} {c m id : Nat} (fed : f = s.feed c m) (engines : t.engines = (f.updEng c m (Engine.without id)).engines)
    (frame : t = { f with engines := t.engines, ctxs := t.ctxs, ctl := t.ctl }) :
    t = { s with engines := t.engines, ctxs := t.ctxs, ctl := t.ctl } ∧ EngineOnly s t c m ∧
      t.eng c m = { f.eng c m with q := (f.eng c m).q.filter (fun o => o.id != id) } := by
  refine ⟨?_, fun n hn => ?_, ?_⟩
  · rw [fed, feed_frame] at frame
    exact frame
  · rw [engines, State.updEng_get_ne _ _ _ _ hn, fed, feed_engines s c m hn]
  · rw [State.eng, engines]
    exact State.updEng_eng_same ..

theorem readTag_readTag (t : Tag) : readTag (readTag t) = readTag t := by
  have sealed : tagOk (sealTag { flags := flagBit fPOISON true }) = true := by decide
  unfold readTag
  by_cases ok : tagOk t = true
  · rw [if_pos ok, if_pos ok]
  · rw [if_neg ok, if_pos sealed]

theorem orFlags_readTag (t : Tag) (f : BitVec 12) : orFlags (readTag t) f = orFlags t f := by
  unfold orFlags
  rw [readTag_readTag]

/-- A STREAM without attachments whose inputs carry POISON sets POISON in TC's tag (R106). -/
theorem poisonStream_alone {o : StreamOp} (pro : o.pro = none) (epi : o.epi = none) (s : State) (c m : Nat) (op : EngOp) :
    s.poisonStream c m op o = ((s.orDst c op.x o.tc.r (flagBit fPOISON true)).countPair 0x11 c m 0x70 o.m).leaveQueue c m op := by
  unfold State.poisonStream
  rw [pro, epi]
  rfl

/-! ### The completion -/

/-- What the first started STREAM leaves that is fed and that nothing holds. -/
def State.streamEnds (s : State) (c m : Nat) (op : EngOp) (o : StreamOp) (chks : List TileFail) : State :=
  if o.m = 0 then (s.leaveQueue c m op).count64 0x12 c 0x48 (o.pro.toList.length + o.epi.toList.length)
  else if op.poisonIn o then (s.poisonStream c m op o).count64 0x12 c 0x48 (o.pro.toList.length + o.epi.toList.length)
  else s.streamDone c m op o (s.liveChecks c m o.m chks)

section
variable {s : State} {c : BitVec 7} {m : BitVec 2} {op : EngOp} {o : StreamOp}

theorem streamComplete_eq (hc : c.toNat < 96) (first : ((s.feed c.toNat m.toNat).eng c.toNat m.toNat).running isStream = some op)
    (kind : op.kind = .stream o) (chks : List TileFail) : exec (.streamComplete c m chks) s =
      .next (if !op.fed || (s.feed c.toNat m.toNat).frozen c.toNat m.toNat ||
        ((s.feed c.toNat m.toNat).eng c.toNat m.toNat).bankHeld op then s
        else (s.feed c.toNat m.toNat).streamEnds c.toNat m.toNat op o chks) := by
  rw [exec_streamComplete, execStreamComplete, if_neg (by rw [coreOk_of_lt hc]; exact Bool.false_ne_true)]
  dsimp only
  rw [first]
  dsimp only
  rw [kind]
  dsimp only
  split
  · rfl
  · unfold State.streamEnds
    split
    · rfl
    · split <;> rfl

/-- A STREAM of no rows changes nothing but that it ends (R104). -/
theorem streamEnds_empty (rows : o.m = 0) {t : State} {cn mn : Nat} (ht : t = (s.feed cn mn).streamEnds cn mn op o []) :
    t = { s with engines := t.engines, ctxs := t.ctxs, ctl := t.ctl } ∧ EngineOnly s t cn mn ∧ OpEnds s t cn op.x op.id [] ∧
      t.eng cn mn = { (s.feed cn mn).eng cn mn with q := ((s.feed cn mn).eng cn mn).q.filter (fun o => o.id != op.id) } := by
  have ctxs : (s.feed cn mn).ctxs = s.ctxs := by rw [feed_frame]
  unfold State.streamEnds at ht
  rw [if_pos rows, leaveQueue_eq] at ht
  generalize hf : s.feed cn mn = f at ht ctxs ⊢
  have counted := count64_onlyCtl ((f.updEng cn mn (Engine.without op.id)).opDone cn op.x op.id) 0x12 cn 0x48
    (o.pro.toList.length + o.epi.toList.length)
  rw [← ht] at counted
  have done : t.ctxs = (s.opDone cn op.x op.id).ctxs := by
    rw [counted.numOnly.ctxs]
    exact opDone_ctxs ctxs
  have frame : t = { f with engines := t.engines, ctxs := t.ctxs, ctl := t.ctl } := by
    rw [counted]
    rfl
  obtain ⟨frame, only, eng⟩ := leaves_unwritten (id := op.id) hf.symm (by rw [counted]; rfl) frame
  exact ⟨frame, only, opEnds_done done, eng⟩

/-- A poisoned STREAM without attachments writes nothing, and sets POISON in TC's tag (R106). -/
theorem streamEnds_poisoned (rows : o.m ≠ 0) (bad : op.poisonIn o = true) (pro : o.pro = none) (epi : o.epi = none) (low : o.tc.r < 32)
    {t : State} {cn mn : Nat} (ht : t = (s.feed cn mn).streamEnds cn mn op o []) :
    t = { s with engines := t.engines, ctxs := t.ctxs, ctl := t.ctl } ∧ EngineOnly s t cn mn ∧ OpEnds s t cn op.x op.id [o.tc.r] ∧
      t.eng cn mn = { (s.feed cn mn).eng cn mn with q := ((s.feed cn mn).eng cn mn).q.filter (fun o => o.id != op.id) } ∧
      ((t.ctx cn op.x).treg o.tc.r).tag = orFlags ((s.ctx cn op.x).treg o.tc.r).tag (flagBit fPOISON true) := by
  have ctxs : (s.feed cn mn).ctxs = s.ctxs := by rw [feed_frame]
  unfold State.streamEnds at ht
  rw [if_neg rows, if_pos bad, poisonStream_alone pro epi, leaveQueue_eq] at ht
  generalize hf : s.feed cn mn = f at ht ctxs ⊢
  have tag := updTag_frame f cn op.x o.tc.r (fun g => orFlags g (flagBit fPOISON true))
  have tagged : (f.orDst cn op.x o.tc.r (flagBit fPOISON true)).ctxs =
      (s.updTag cn op.x o.tc.r (fun g => orFlags g (flagBit fPOISON true))).ctxs := updTag_ctxs ctxs
  have marked : f.orDst cn op.x o.tc.r (flagBit fPOISON true) = { f with ctxs := (f.orDst cn op.x o.tc.r (flagBit fPOISON true)).ctxs } := tag
  generalize f.orDst cn op.x o.tc.r (flagBit fPOISON true) = u at ht tagged marked
  have first := countPair_onlyCtl u 0x11 cn mn 0x70 o.m
  generalize u.countPair 0x11 cn mn 0x70 o.m = v at ht first
  have counted := count64_onlyCtl ((v.updEng cn mn (Engine.without op.id)).opDone cn op.x op.id) 0x12 cn 0x48
    (o.pro.toList.length + o.epi.toList.length)
  rw [← ht] at counted
  have done : t.ctxs = ((s.updTag cn op.x o.tc.r (fun g => orFlags g (flagBit fPOISON true))).opDone cn op.x op.id).ctxs := by
    rw [counted.numOnly.ctxs]
    refine opDone_ctxs ?_
    rw [State.updEng_ctxs, first.numOnly.ctxs]
    exact tagged
  have own : v = { f with ctxs := u.ctxs, ctl := v.ctl } := by
    unfold OnlyCtl at first
    generalize u.ctxs = ks at marked ⊢
    rw [marked] at first
    exact first
  have frame : t = { f with engines := t.engines, ctxs := t.ctxs, ctl := t.ctl } := by
    rw [counted, own]
    rfl
  obtain ⟨frame, only, eng⟩ := leaves_unwritten (id := op.id) hf.symm (by rw [counted, own]; rfl) frame
  obtain ⟨ends, tags⟩ := opEnds_updTag done
  exact ⟨frame, only, ends, eng, (tags low).trans (orFlags_readTag _ _)⟩

/-- Any other STREAM without attachments, of which no check failed. -/
theorem streamEnds_written {cn mn : Nat} (hc : cn < 96) (hm : mn < 4) (kind : op.kind = .stream o) (rows : o.m ≠ 0)
    (good : op.poisonIn o = false) (pro : o.pro = none) (epi : o.epi = none) (stays : ((s.feed cn mn).eng cn mn).retiring = false)
    (free : ∀ h ∈ ((s.feed cn mn).eng cn mn).holds, h.id ≠ op.id) (record : o.red = 3 → o.tc.t.d.fmt = 0) {t : State}
    (ht : t = (s.feed cn mn).streamEnds cn mn op o []) :
    t = { s with engines := t.engines, ctxs := t.ctxs, ctl := t.ctl, mem := t.mem, ue := t.ue, sce := t.sce, freeCtr := t.freeCtr } ∧
      PairOnly s t cn mn ∧ OpEnds s t cn op.x op.id [o.tc.r] ∧
      (t.eng cn mn).q = ((s.feed cn mn).eng cn mn).q.filter (fun p => p.id != op.id) ∧ OnlyWrites s t cn o.written ∧
      (o.dstb = false → o.tc.r < 32 → ((t.ctx cn op.x).treg o.tc.r).tag.fmt = o.tc.t.d.fmt) := by
  unfold State.streamEnds at ht
  rw [if_neg rows, if_neg (ne_true_of_eq_false good), liveChecks_nil] at ht
  obtain ⟨u, y, work, is⟩ := streamDone_completes (op := op) (EngWork.refl cn mn o.written s).feed hc hm pro epi stays free record
  exact completeOp_leaves work hc hm kind pro epi y (ht.trans is)

/-! ### The second sweep of a DRAIN -/

/-- Work on the scale slots, and an operation put back in its place. -/
theorem putOp_leaves {s u t : State} {c : Nat} (work : SlotWork c s u) (m : Nat) (op : EngOp) (ht : t = u.putOp c m op) :
    t = { s with engines := t.engines, ctl := t.ctl, mem := t.mem, ue := t.ue, sce := t.sce } ∧ EngineOnly s t c m ∧ OutsideSlots s t c ∧
      t.eng c m = { s.eng c m with q := (s.eng c m).q.map (fun p => if p.id = op.id then op else p) } := by
  have engines : u.engines = s.engines := work.numOnly.engines
  have moved : t = { u with engines := t.engines } := by
    rw [ht]
    rfl
  have mem : t.mem = u.mem := by rw [moved]
  refine ⟨?_, fun n hn => ?_, fun j hj => (byte_of_mem mem j).trans (work.bytes j hj), ?_⟩
  · have frame := work.frame
    generalize t.engines = es at moved ⊢
    rw [frame] at moved
    rw [moved]
  · rw [ht, State.putOp, State.updEng_get_ne _ _ _ _ hn, engines]
  · rw [ht, State.putOp, State.updEng_eng_same, work.numOnly.eng]
    simp only [beq_iff_eq]

theorem secondSweep_drain {o : DrainOp} (hc : c.toNat < 96)
    (first : (s.eng c.toNat m.toNat).running (fun k => isStream k || isDrain k) = some op) (kind : op.kind = .drain o)
    (pre : op.prepass = true) (swept : op.swept = false) (thaw : s.frozen c.toNat m.toNat = false)
    (free : ∀ h ∈ (s.eng c.toNat m.toNat).holds, h.id ≠ op.id) :
    exec (.prepassSecondSweep c m []) s =
      .next ((s.choosePrepass c.toNat o.tc.t.d (amaxOf (s.drainValues c.toNat m.toNat o).flatten)).2.putOp c.toNat m.toNat
        { op with scale := (s.choosePrepass c.toNat o.tc.t.d (amaxOf (s.drainValues c.toNat m.toNat o).flatten)).1, swept := true }) := by
  have held : (s.eng c.toNat m.toNat).holds.any (fun h => h.id == op.id) = false := by simpa using free
  rw [exec_prepassSecondSweep, execPrepassSecondSweep, if_neg (by rw [coreOk_of_lt hc]; exact Bool.false_ne_true)]
  dsimp only
  rw [first]
  dsimp only
  rw [pre, swept, held, thaw, if_neg (by simp), kind]
  dsimp only
  rw [liveChecks_nil]
  rfl

end

end Sys2Proof.Machine

open Sys2Proof Sys2Proof.Machine

/-- Settles O15: `streamEnds` for a STREAM that is fed, by its rows and the POISON of its inputs, and the second sweep of a DRAIN. -/
theorem streamsComplete : Obligations.StreamsComplete := by
  unfold Obligations.StreamsComplete
  intro s c m op hc f e rest
  refine ⟨fun o first kind unfed => ?_, fun o first kind fed thaw room => ?_, fun o first kind pre swept thaw free => ?_⟩
  · rw [streamComplete_eq hc first kind, unfed]
    rfl
  · have ends : exec (.streamComplete c m []) s = .next (f.streamEnds c.toNat m.toNat op o []) := by
      rw [streamComplete_eq hc first kind, if_neg]
      rw [fed, thaw, room]
      decide
    refine ⟨fun rows => ?_, fun rows bad pro epi low => ?_, fun rows good pro epi stays free record => ?_⟩
    · exact ⟨_, ends, streamEnds_empty rows rfl⟩
    · exact ⟨_, ends, streamEnds_poisoned rows bad pro epi low rfl⟩
    · exact ⟨_, ends, streamEnds_written hc m.isLt kind rows good pro epi stays free record rfl⟩
  · have work := choosePrepass_slotWork (c := c.toNat) (by omega) s o.tc.t.d (amaxOf (s.drainValues c.toNat m.toNat o).flatten)
    exact ⟨_, secondSweep_drain hc first kind pre swept thaw free, putOp_leaves work m.toNat _ rfl⟩
end
